-- ==== Sys2Proof/Word.lean ====
section
/-! DEFINITION. The word types of the Trejor TJ8 and the names of its register numbers. -/

namespace Sys2Proof

/-- A byte of memory. -/
abbrev Byte := BitVec 8
/-- A scalar register, an address or a CSR (06 R126). -/
abbrev W64 := BitVec 64
/-- A lane of a vector register (09 R211). -/
abbrev W32 := BitVec 32
/-- A mask register of one bit per lane (09 R212). -/
abbrev W128 := BitVec 128
/-- A scalar register number, s0 to s63 (05 R113). -/
abbrev SR := BitVec 6
/-- A vector register number, v0 to v31 (05 R113). -/
abbrev VR := BitVec 5
/-- A mask register number, k0 to k7 (05 R113). -/
abbrev KR := BitVec 3
/-- A predicate number, p0 to p15 (05 R109). -/
abbrev PR := BitVec 4

end Sys2Proof
end

