-- ==== Sys2Proof/Syntax.lean ====
section
/-! DEFINITION. The operations and events of the TJ8: one constructor for every row of the
opcode table.

A slot op carries the fields of its 47-bit encoding (05 R114 to R118) but for its guard, which
belongs to the bundle (05 R109).  It acts on the core whose bundle is being issued.
An event carries its place (a core, a unit, an index into a list of the state) and what comes from
outside the machine.  A micro-op of the matrix engine carries the fields of 12 R294. -/

namespace Sys2Proof

/-- A host request as it arrives (21 R431): the connection, the four header words and the payload. -/
structure HostReq where
  conn : Nat
  w0 : W64
  addr : W64
  w2 : W64
  arg : W64
  payload : List Byte
  deriving DecidableEq, Repr, Inhabited

/-- What bring-up finds in stage 3 (21 R428): the chip's index and the domain's size less one
(19 R406), the face of each strait (01 R15), and each drawer's capacity in GiB and straits. -/
structure BringUpFind where
  chip : BitVec 4
  dsize : BitVec 4
  faces : BitVec 16
  gib : List (BitVec 16)
  straits : List (BitVec 16)
  deriving DecidableEq, Repr, Inhabited

/-- One piece of a peer's send as it arrives at this chip (19 R396, R397). -/
structure LinkPiece where
  /-- the chip that sends it -/
  chip : BitVec 4
  /-- the number of the sending op among those of that chip -/
  op : Nat
  /-- message mode: it lands in receive `recv` of core `core` -/
  msg : Bool
  core : BitVec 8
  recv : BitVec 3
  /-- the offset of the whole message, or the physical address of the whole write -/
  base : Nat
  /-- the bytes of the whole op -/
  total : Nat
  /-- the position of this piece in the op -/
  pos : Nat
  data : List Byte
  deriving DecidableEq, Repr, Inhabited

/-- The egress of a lockstep pair whose two copies are compared (08 R199): equal ones, or unequal copies of one. -/
inductive Egress where
  | same
  /-- outstanding access `id` of CP -/
  | cp (id : Nat)
  /-- post k of those on their way -/
  | post (k : Nat)
  /-- landing count k of those owed -/
  | count (k : Nat)
  /-- the flag posts with which the op of a copy channel (0 to 7) or a gather queue (8 to 11) completes -/
  | notice (unit : Nat)
  /-- the access that a copy channel or a gather queue makes next: of a piece, a commit, or the OWN word of a record -/
  | engine (unit : Nat)
  /-- the flit that a send queue sends next -/
  | send (chip : Nat)
  /-- the request of a home-decided op -/
  | home
  /-- what an op in this slot does outside its cluster as its bundle issues -/
  | issue (slot : Nat)
  deriving DecidableEq, Repr, Inhabited

/-- The operations and events of the opcode table. -/
inductive Instr where
  -- the device, its clock and bring-up (01, 21)
  | deviceReset
  | bringupStage2
  | bringupStage3 (ok : Bool) (find : BringUpFind)
  | bringupStage4
  | heartbeatTick
  -- the front end and its outstanding ops (06, 17)
  | bundleFetch (core : Nat)
  | queuedOpDepart (core queue : Nat)
  | loadReturn (core k : Nat)
  | storePerform (core k : Nat)
  | homeAnswer (core : Nat)
  | syncHoldRelease (core : Nat)
  | lockstepMismatch (core : Nat) (egress : Egress)
  -- slot S, scalar arithmetic (06 R112, R136)
  | nop
  | add (sd sa sb : SR)
  | sub (sd sa sb : SR)
  | mul (sd sa sb : SR)
  | mulh (sd sa sb : SR)
  | mulhu (sd sa sb : SR)
  | div (sd sa sb : SR)
  | divu (sd sa sb : SR)
  | rem (sd sa sb : SR)
  | remu (sd sa sb : SR)
  | and (sd sa sb : SR)
  | or (sd sa sb : SR)
  | xor (sd sa sb : SR)
  | shl (sd sa sb : SR)
  | shr (sd sa sb : SR)
  | sar (sd sa sb : SR)
  | min (sd sa sb : SR)
  | max (sd sa sb : SR)
  | minu (sd sa sb : SR)
  | maxu (sd sa sb : SR)
  | seq (sd sa sb : SR)
  | slt (sd sa sb : SR)
  | sltu (sd sa sb : SR)
  | sel (sd sa sb : SR) (inv : Bool) (pn : PR)
  | clz (sd sa : SR)
  | ctz (sd sa : SR)
  | popc (sd sa : SR)
  -- immediates (06 R138)
  | addi (sd sa : SR) (imm : BitVec 23)
  | andi (sd sa : SR) (imm : BitVec 23)
  | ori (sd sa : SR) (imm : BitVec 23)
  | xori (sd sa : SR) (imm : BitVec 23)
  | shli (sd sa : SR) (count : BitVec 6)
  | shri (sd sa : SR) (count : BitVec 6)
  | sari (sd sa : SR) (count : BitVec 6)
  | slti (sd sa : SR) (imm : BitVec 23)
  | sltui (sd sa : SR) (imm : BitVec 23)
  | li (sd : SR) (imm : BitVec 23)
  | lix (sd sa : SR) (imm : BitVec 23)
  -- predicates (06 R140)
  | pset (pd : PR) (sa sb : SR) (cond : BitVec 3)
  | pseti (pd : PR) (sa : SR) (cond : BitVec 3) (imm : BitVec 20)
  | plog (pd pa pb : PR) (op : BitVec 2)
  | pwr (sa : SR) (mask : BitVec 16)
  | prd (sd : SR)
  -- loads and stores (06 R141, R143)
  | ldB (sd sa : SR) (off : BitVec 23)
  | ldH (sd sa : SR) (off : BitVec 23)
  | ldW (sd sa : SR) (off : BitVec 23)
  | ldD (sd sa : SR) (off : BitVec 23)
  | ldBu (sd sa : SR) (off : BitVec 23)
  | ldHu (sd sa : SR) (off : BitVec 23)
  | ldWu (sd sa : SR) (off : BitVec 23)
  | ldQ (sd sa : SR) (off : BitVec 23)
  | stB (ss sa : SR) (off : BitVec 23)
  | stH (ss sa : SR) (off : BitVec 23)
  | stW (ss sa : SR) (off : BitVec 23)
  | stD (ss sa : SR) (off : BitVec 23)
  | stQ (ss sa : SR) (off : BitVec 23)
  | splLd (sd : SR) (slot : BitVec 10)
  | splSt (ss : SR) (slot : BitVec 10)
  -- atomics, tickets and sequences (17)
  | amo (sd sa sb : SR) (width : BitVec 2) (op : BitVec 4)
  | cas (sd sa sb : SR) (width : BitVec 2)
  | tkGet (sd sa : SR) (n : BitVec 8)
  | tkNext (sd sa : SR) (n : BitVec 8)
  | sqInit (sd sa : SR)
  | sqRes (sd sa sb : SR)
  | sqCmt (sd sa sb : SR)
  | sqRet (sd sa sb : SR)
  | sqLen (sd sa : SR)
  | sqLenCl (sd : SR) (n : BitVec 3)
  | sqFork (sd sa sb : SR)
  | sqDrop (sd sa : SR)
  | sqGrow (sd sa sb : SR)
  | sqBind (sa : SR) (n : BitVec 3)
  | sqBindClr (n : BitVec 3)
  | sqAddr (sd sa sb : SR)
  -- control (06 R144 to R153)
  | br (off : BitVec 35)
  | brLoop (cnt : SR) (stages : BitVec 4) (off : BitVec 25)
  | call (off : BitVec 35)
  | ret (sa : SR)
  | jr (sd sa : SR)
  | rep (cnt : SR) (b1 : BitVec 4) (off : BitVec 25)
  | lbPin (n1 : SR) (off : BitVec 25)
  | lbFree
  -- traps and CSRs (08)
  | trap (imm : BitVec 23)
  | rett
  | brk (imm : BitVec 23)
  | sysRd (sd : SR) (csr : BitVec 12)
  | sysWr (sa : SR) (csr : BitVec 12)
  | tlbInv (sa : SR)
  | halt
  | yield
  | cmpt (sa sb : SR)
  | cmptV (va vb : VR)
  -- task graph (07)
  | ndDone (sd sa : SR)
  | ndSpawn (sd sa : SR)
  | ndSel (sd sa : SR)
  -- slots V0 and V1 (09)
  | vaddF (vd va vb vc : VR) (k : KR) (rm : BitVec 3)
  | vsubF (vd va vb vc : VR) (k : KR) (rm : BitVec 3)
  | vmulF (vd va vb vc : VR) (k : KR) (rm : BitVec 3)
  | vfmaF (vd va vb vc : VR) (k : KR) (rm : BitVec 3)
  | vminF (vd va vb : VR) (k : KR)
  | vmaxF (vd va vb : VR) (k : KR)
  | vabsF (vd va : VR) (k : KR)
  | vaddI (vd va vb : VR) (k : KR) (ty : BitVec 4) (uns sat : Bool)
  | vsubI (vd va vb : VR) (k : KR) (ty : BitVec 4) (uns sat : Bool)
  | vmulI (vd va vb : VR) (k : KR) (ty : BitVec 4) (uns sat : Bool)
  | vminI (vd va vb : VR) (k : KR) (ty : BitVec 4) (uns : Bool)
  | vmaxI (vd va vb : VR) (k : KR) (ty : BitVec 4) (uns : Bool)
  | vand (vd va vb : VR) (k : KR)
  | vor (vd va vb : VR) (k : KR)
  | vxor (vd va vb : VR) (k : KR)
  | vshl (vd va vb : VR) (k : KR) (ty : BitVec 4) (imm : Bool) (count : BitVec 5)
  | vshr (vd va vb : VR) (k : KR) (ty : BitVec 4) (imm : Bool) (count : BitVec 5)
  | vsar (vd va vb : VR) (k : KR) (ty : BitVec 4) (imm : Bool) (count : BitVec 5)
  | vcmp (kd : KR) (va vb : VR) (k : KR) (kind : BitVec 2) (cond : BitVec 3)
  | vsel (vd va vb : VR) (k : KR)
  | kop (kd ka kb : KR) (op : BitVec 3)
  | kpop (sd : SR) (ka k : KR) (op : BitVec 2)
  | vexp2 (vd va : VR) (k : KR)
  | vlog2 (vd va : VR) (k : KR)
  | vrcp (vd va : VR) (k : KR)
  | vrsqrt (vd va : VR) (k : KR)
  | vtanh (vd va : VR) (k : KR)
  | vcvt (vd va vb : VR) (dpos spos : BitVec 2) (k : KR) (from_ to_ : BitVec 4) (rm : BitVec 3)
  | vpackMx (vd va vb : VR)
  | vunpk (vd va : VR) (k : KR) (to_ : BitVec 4) (h : Bool)
  | vscl (vd va vb : VR) (k : KR) (rm : BitVec 3)
  | vmov (vd va : VR) (k : KR)
  | vbcast (vd : VR) (sb : SR) (k : KR) (ty : BitVec 4) (iota : Bool)
  | vext (va : VR) (sb : SR) (sx : Bool) (lane : BitVec 7)
  | vperm (vd va vb : VR) (k : KR)
  | vxg (vd va vb : VR) (k : KR) (mode : BitVec 3) (c : BitVec 3)
  | vcmprs (vd va vc : VR) (k : KR)
  | vexpd (vd va : VR) (k : KR)
  | vred (vd va vc : VR) (k : KR) (rm : BitVec 2) (g : Bool) (kind : BitVec 2) (op : BitVec 3)
  | vpfx (vd va vc : VR) (k : KR) (w : Bool) (kind : BitVec 2)
  | vdesc (vd va vb vc : VR) (leaf : Bool)
  | vnoise (vd va : VR) (sb : SR) (k : KR) (mode : BitVec 2) (stream : BitVec 8)
  | vld (vd : VR) (sb : SR) (k : KR) (off : BitVec 12)
  | vst (vd : VR) (sb : SR) (k : KR) (off : BitVec 12)
  | vldx (vd va : VR) (sb : SR) (k : KR) (s : BitVec 2)
  | vstx (vd va : VR) (sb : SR) (k : KR) (s : BitVec 2)
  -- slot M (12)
  | mcall (routine : BitVec 6)
  | mpset (n : BitVec 3) (sa : SR) (imm : BitVec 25)
  | mpget (n : BitVec 3) (sd : SR)
  | dsetMem (n : BitVec 4) (sa : SR) (off : BitVec 20)
  | dsetField (n : BitVec 4) (sa : SR) (field : BitVec 4)
  | dget (n : BitVec 4) (sd : SR) (h : Bool)
  | dtag (n : BitVec 4) (v : Bool)
  | mzero (sa : SR) (anc kind : Bool) (m1 b : BitVec 8)
  | msca (sa : SR) (n1 : BitVec 7) (anc : Bool) (anchor : BitVec 11)
  | cvRd (cva : BitVec 2) (sd : SR) (q : BitVec 2)
  | cvWr (cvd : BitVec 2) (sa : SR) (q : BitVec 2)
  | cvAdd (cvd cva cvb : BitVec 2)
  | cvScl (cvd cva : BitVec 2) (sa : SR)
  | mucode (sa : SR) (count1 : BitVec 6) (n : BitVec 6)
  | mucodeClr (n : BitVec 6)
  -- micro-ops of the matrix engine (12 R295)
  | ldw (gr : Bool)
  | strm
  | acc (a : BitVec 3) (imm : BitVec 8)
  | grade
  | tail (a : BitVec 3)
  | bound
  | xmax
  | blk
  | seta (planes : Bool)
  | loop (pos : BitVec 6)
  | brz (pos : BitVec 6)
  | uend
  -- slots C0 and C1 (14)
  | cp (dst src len : SR) (ch : BitVec 3) (sync : BitVec 4) (st wt fp bc : Bool)
  | cp2d (dst src len : SR) (ch : BitVec 3) (sync : BitVec 4) (st wt fp bc : Bool)
  | cpMc (dst src len : SR) (ch : BitVec 3) (sync : BitVec 4) (st wt fp bc : Bool)
  | cpChain (sa : SR) (ch : BitVec 3)
  | cpStat (sd : SR) (q : BitVec 4)
  | agCfg (sa : SR) (n : BitVec 2)
  | cpAg (dst src len : SR) (ch : BitVec 3) (sync : BitVec 4) (st wt fp bc : Bool)
      (side : Bool) (gen : BitVec 2)
  | gqCfg (sa : SR) (q : BitVec 2)
  | gqPush (sa : SR) (q : BitVec 2) (imm : BitVec 25)
  | gqEnd (q : BitVec 2)
  | acpyOut (n : BitVec 4) (sr sn : SR) (upd : Bool) (cvc : BitVec 2) (flag : BitVec 4)
      (post raw wrap : Bool) (rm : BitVec 3)
  | acpyIn (n : BitVec 4) (sr : SR) (flag : BitVec 4) (accum post raw : Bool)
  | cbInit (sa : SR) (b : BitVec 3)
  | cbPush (sa : SR) (b : BitVec 3) (ch : BitVec 3) (core : BitVec 3)
  | cpSeq (dst src len : SR) (ch : BitVec 3) (sync : BitVec 4) (st wt fp : Bool)
  -- the copy channels, the gather unit and the buffers (14)
  | copyPiece (core unit : Nat)
  | copyComplete (core unit : Nat)
  | gatherRow (core queue : Nat)
  | landingCount (k : Nat)
  | slotFilled (core b : Nat)
  -- slot Y (06, 07, 08, 14, 17)
  | wait (l s c t : BitVec 4)
  | wtag (mask : BitVec 16)
  | wtagClr (mask : BitVec 16)
  | barInit (sa sb : SR) (imm : BitVec 17)
  | barArv (sd sa sb : SR) (na : Bool) (imm : BitVec 16)
  | barMark (sa sb : SR) (imm : BitVec 16)
  | barWait (sd sa sb : SR)
  | barPar (sa : SR) (par : Bool)
  | barRet (sa : SR)
  | flPost (sb : SR) (flag : BitVec 4) (imm : BitVec 12)
  | flPostR (sa sb : SR) (flag : BitVec 4) (imm : BitVec 12)
  | flagPostArrive (k : Nat)
  | flWait (sd : SR) (flag : BitVec 4) (n : BitVec 12)
  | fenceX (scope q p : BitVec 3)
  | fenceSc
  | drain
  | tkWait (sa sb : SR) (n : BitVec 8)
  | cbPop (sd : SR) (b : BitVec 3)
  | cbRel (sa : SR) (n : BitVec 14) (b : BitVec 3)
  | step
  | seg
  | segOff
  | rdv (j : BitVec 2)
  | gBar (j : BitVec 2)
  | gRed (sd sa sb : SR) (op : BitVec 3) (j : BitVec 2)
  | gInfo (sd : SR) (j : BitVec 2)
  -- slot X (06)
  | bnLd (sa : SR) (n : BitVec 3)
  | bnMap (sd sa sb : SR) (n : BitVec 3)
  | bnMapx (sd sa sb : SR) (n : BitVec 3)
  -- link ops of slots C0 and C1 (19)
  | lkSend (dst src len : SR) (sync : BitVec 4) (st wt fp : Bool) (cls : BitVec 2)
  | lkRecv (dst src len : SR) (sync : BitVec 4) (st wt fp bc : Bool) (r : BitVec 3)
  | lkStat (sd : SR) (q : BitVec 4) (kind : BitVec 2)
  | lkTide (sa : SR) (q : BitVec 4)
  | lkCirc (sa : SR)
  | lkPark (sa : SR) (q : BitVec 4)
  | lkRate (sa : SR) (c : BitVec 2)
  -- the straits (19)
  | frameBoundary
  | tideBoundary
  | circuitSlotBoundary
  | drawerRequest (k : Nat)
  | drawerResponse (k : Nat)
  | linkPieceArrive (p : LinkPiece)
  | linkAck (core ctx queue k piece : Nat) (fault : Option (Nat × Nat))
  | retrainStart (strait : BitVec 4)
  | retrainEnd (strait : BitVec 4)
  | groupLit (strait : BitVec 4) (rx : Bool) (group : BitVec 3)
  | linkStall (core : Nat) (strait : BitVec 4)
  -- the dispatcher and the context-save engine (07, 08)
  | dispatch
  | preemptTimeout
  | contextSave (ctx : Nat)
  | dispatcherRestore
  | restore (ctx : Nat)
  -- the home slices and the compaction engine (16)
  | clPush (k : Nat)
  | compactSubmit (w : W64)
  | compactPage
  | compactSwap
  | pageFree (k : Nat)
  -- writes of configuration space (07, 16, 19, 21)
  | groupEntryWrite (gid : BitVec 8) (w : W64)
  | ticketEntryWrite (n : BitVec 8) (word : Bool) (w : W64)
  | linkControlWrite (w : W64)
  | configWrite (off : BitVec 24) (w : W64)
  -- power (21)
  | controlPeriodEnd (pkgW : BitVec 16) (slope : Bool)
  | ballastStart (microjoules : Nat)
  | clusterGate (cluster : Nat)
  | clusterWake (cluster : Nat)
  -- the Gentar service (21 R431)
  | launch (r : HostReq)
  | read (r : HostReq)
  | write (r : HostReq)
  | status (r : HostReq)
  | release (r : HostReq)
  | open (r : HostReq)
  | close (r : HostReq)
  | preempt (r : HostReq)
  | resume (r : HostReq)
  | connectionSetUp (conn : Nat) (mode : BitVec 4) (sendOnly security : Bool)
  | peerLoadRequest (chip : BitVec 4) (pa : Nat)
  deriving DecidableEq, Repr, Inhabited

end Sys2Proof
end

