-- ==== Sys2Proof/WellFormed.lean ====
section
/-! DEFINITION. The checks that the decoder makes on the fields of an op (05 R111): the value of a
field lies in the range that the instruction's entry accepts.  An event carries no encoding, so
nothing is asked of it. -/

namespace Sys2Proof

/-- A register that must be the even one of a pair. -/
def evenReg (r : SR) : Bool := r.toNat % 2 == 0

/-- The element kinds of the integer vector ops (09 R221). -/
def intKind (ty : BitVec 4) : Bool := ty == 0 || ty == 6 || ty == 7 || ty == 8 || ty == 9

/-- The formats that vcvt accepts: codes 0 to 9 but e2m1 (09 R229). -/
def convFormat (f : BitVec 4) : Bool := f.toNat ≤ 9 && f != 5

/-- The width in bits of a format of 03 R52. -/
def formatWidth (f : BitVec 4) : Nat :=
  if f == 0 then 32 else if f == 1 || f == 2 || f == 6 || f == 7 then 16 else if f == 5 then 4 else 8

/-- sync is zero unless ST or WT is 1 (14 R310). -/
def syncOk (sync : BitVec 4) (st wt : Bool) : Bool := st || wt || sync == 0

/-- The CSR numbers that sys.rd and sys.wr accept (08 R186, 19 R406). -/
def csrListed (n : Nat) : Bool :=
  n ≤ 0x002 || (0x010 ≤ n && n ≤ 0x015) || n == 0x018 || (0x020 ≤ n && n ≤ 0x022) || n == 0x031
    || n == 0x038 || n == 0x039 || (0x040 ≤ n && n ≤ 0x053) || n == 0x058 || n == 0x059
    || n == 0x060 || n == 0x070 || n == 0x071 || (0x080 ≤ n && n ≤ 0x083)
    || (0x100 ≤ n && n ≤ 0x105) || n == 0x108 || (0x110 ≤ n && n ≤ 0x123)

/-- The fields of the instruction lie in the ranges of its entry. -/
def Instr.wellFormed : Instr → Bool
  | .deviceReset => true
  | .bringupStage2 => true
  | .bringupStage3 _ _ => true
  | .bringupStage4 => true
  | .heartbeatTick => true
  | .bundleFetch _ => true
  | .queuedOpDepart _ _ => true
  | .loadReturn _ _ => true
  | .storePerform _ _ => true
  | .homeAnswer _ => true
  | .syncHoldRelease _ => true
  | .lockstepMismatch _ _ => true
  | .nop => true
  | .add _ _ _ => true
  | .sub _ _ _ => true
  | .mul _ _ _ => true
  | .mulh _ _ _ => true
  | .mulhu _ _ _ => true
  | .div _ _ _ => true
  | .divu _ _ _ => true
  | .rem _ _ _ => true
  | .remu _ _ _ => true
  | .and _ _ _ => true
  | .or _ _ _ => true
  | .xor _ _ _ => true
  | .shl _ _ _ => true
  | .shr _ _ _ => true
  | .sar _ _ _ => true
  | .min _ _ _ => true
  | .max _ _ _ => true
  | .minu _ _ _ => true
  | .maxu _ _ _ => true
  | .seq _ _ _ => true
  | .slt _ _ _ => true
  | .sltu _ _ _ => true
  | .sel _ _ _ _ _ => true
  | .clz _ _ => true
  | .ctz _ _ => true
  | .popc _ _ => true
  | .addi _ _ _ => true
  | .andi _ _ _ => true
  | .ori _ _ _ => true
  | .xori _ _ _ => true
  | .shli _ _ _ => true
  | .shri _ _ _ => true
  | .sari _ _ _ => true
  | .slti _ _ _ => true
  | .sltui _ _ _ => true
  | .li _ _ => true
  | .lix _ _ _ => true
  | .pset pd _ _ _ => pd != 0
  | .pseti pd _ _ _ => pd != 0
  | .plog pd _ _ _ => pd != 0
  | .pwr _ _ => true
  | .prd _ => true
  | .ldB _ _ _ => true
  | .ldH _ _ _ => true
  | .ldW _ _ _ => true
  | .ldD _ _ _ => true
  | .ldBu _ _ _ => true
  | .ldHu _ _ _ => true
  | .ldWu _ _ _ => true
  | .ldQ sd _ _ => evenReg sd
  | .stB _ _ _ => true
  | .stH _ _ _ => true
  | .stW _ _ _ => true
  | .stD _ _ _ => true
  | .stQ ss _ _ => evenReg ss
  | .splLd _ _ => true
  | .splSt _ _ => true
  | .amo _ _ _ width op => width.toNat ≤ 1 && op.toNat ≤ 9 && !(op == 9 && width == 1)
  | .cas _ _ sb width => width.toNat ≤ 1 && evenReg sb
  | .tkGet _ _ _ => true
  | .tkNext _ _ _ => true
  | .sqInit _ _ => true
  | .sqRes _ _ _ => true
  | .sqCmt _ _ _ => true
  | .sqRet _ _ _ => true
  | .sqLen _ _ => true
  | .sqLenCl _ _ => true
  | .sqFork _ _ sb => evenReg sb
  | .sqDrop _ _ => true
  | .sqGrow _ _ _ => true
  | .sqBind _ _ => true
  | .sqBindClr _ => true
  | .sqAddr _ _ _ => true
  | .br _ => true
  | .brLoop _ _ _ => true
  | .call _ => true
  | .ret _ => true
  | .jr _ _ => true
  | .rep cnt _ off => cnt == 0 || off == 0
  | .lbPin _ _ => true
  | .lbFree => true
  | .trap _ => true
  | .rett => true
  | .brk _ => true
  | .sysRd _ csr => csrListed csr.toNat
  | .sysWr _ csr => csrListed csr.toNat && csr != 0x018
  | .tlbInv _ => true
  | .halt => true
  | .yield => true
  | .cmpt _ _ => true
  | .cmptV _ _ => true
  | .ndDone _ _ => true
  | .ndSpawn _ _ => true
  | .ndSel _ _ => true
  | .vaddF _ _ _ vc _ rm => rm.toNat ≤ 4 && (rm == 4 || vc == 0)
  | .vsubF _ _ _ vc _ rm => rm.toNat ≤ 4 && (rm == 4 || vc == 0)
  | .vmulF _ _ _ vc _ rm => rm.toNat ≤ 4 && (rm == 4 || vc == 0)
  | .vfmaF _ _ _ _ _ rm => rm.toNat ≤ 3
  | .vminF _ _ _ _ => true
  | .vmaxF _ _ _ _ => true
  | .vabsF _ _ _ => true
  | .vaddI _ _ _ _ ty uns _ => intKind ty && (!uns || ty == 0)
  | .vsubI _ _ _ _ ty uns _ => intKind ty && (!uns || ty == 0)
  | .vmulI _ _ _ _ ty uns _ => intKind ty && (!uns || ty == 0)
  | .vminI _ _ _ _ ty uns => intKind ty && (!uns || ty == 0)
  | .vmaxI _ _ _ _ ty uns => intKind ty && (!uns || ty == 0)
  | .vand _ _ _ _ => true
  | .vor _ _ _ _ => true
  | .vxor _ _ _ _ => true
  | .vshl _ _ vb _ ty imm count => intKind ty && (if imm then vb == 0 else count == 0)
  | .vshr _ _ vb _ ty imm count => intKind ty && (if imm then vb == 0 else count == 0)
  | .vsar _ _ vb _ ty imm count => intKind ty && (if imm then vb == 0 else count == 0)
  | .vcmp _ _ _ _ kind cond => cond != 7 && kind != 3 && (cond != 6 || kind == 0)
  | .vsel _ _ _ _ => true
  | .kop _ _ kb op => op.toNat ≤ 5 && (op.toNat ≤ 3 || kb == 0)
  | .kpop _ _ _ op => op != 3
  | .vexp2 _ _ _ => true
  | .vlog2 _ _ _ => true
  | .vrcp _ _ _ => true
  | .vrsqrt _ _ _ => true
  | .vtanh _ _ _ => true
  | .vcvt _ _ vb dpos spos _ from_ to_ rm => convFormat from_ && convFormat to_ && from_ != to_ && spos.toNat < 32 / formatWidth from_
      && dpos.toNat < 32 / formatWidth to_ && rm.toNat ≤ 4 && (rm == 4 || vb == 0)
  | .vpackMx _ _ _ => true
  | .vunpk _ _ _ to_ _ => to_ == 3 || to_ == 4
  | .vscl _ _ _ _ rm => rm.toNat ≤ 3
  | .vmov _ _ _ => true
  | .vbcast _ _ _ ty iota => intKind ty && (!iota || ty == 0)
  | .vext _ _ _ _ => true
  | .vperm _ _ _ _ => true
  | .vxg _ _ vb _ mode c => mode.toNat ≤ 3 && (if mode == 3 then c == 0 else vb == 0)
  | .vcmprs vd _ vc _ => vc != vd
  | .vexpd _ _ _ => true
  | .vred vd _ vc _ rm _ kind op => op.toNat ≤ 4 && kind != 3 && (rm == 0 || (kind == 0 && op == 0))
      && (if op.toNat < 3 then vc == 0 else vc != vd)
  | .vpfx vd _ vc _ w kind => kind != 3 && (!w || kind == 0) && vc != vd
  | .vdesc _ va _ vc leaf => if leaf then vc == 0 else va == 0
  | .vnoise _ _ sb _ mode _ => evenReg sb && mode != 3
  | .vld _ _ _ _ => true
  | .vst _ _ _ _ => true
  | .vldx _ _ _ _ _ => true
  | .vstx _ _ _ _ _ => true
  | .mcall _ => true
  | .mpset _ _ _ => true
  | .mpget _ _ => true
  | .dsetMem _ _ _ => true
  | .dsetField _ _ field => field.toNat ≤ 6
  | .dget _ _ _ => true
  | .dtag _ _ => true
  | .mzero sa anc kind m1 b => b.toNat + m1.toNat + 1 ≤ 256 && (if anc then kind else sa == 0)
  | .msca sa _ anc anchor => evenReg sa && (anc || anchor == 0)
  | .cvRd _ _ _ => true
  | .cvWr _ _ _ => true
  | .cvAdd _ _ _ => true
  | .cvScl _ _ _ => true
  | .mucode _ _ n => 32 ≤ n.toNat
  | .mucodeClr n => 32 ≤ n.toNat
  | .ldw _ => true
  | .strm => true
  | .acc _ _ => true
  | .grade => true
  | .tail _ => true
  | .bound => true
  | .xmax => true
  | .blk => true
  | .seta _ => true
  | .loop _ => true
  | .brz _ => true
  | .uend => true
  | .cp _ _ _ _ sync st wt _ _ => syncOk sync st wt
  | .cp2d _ _ len _ sync st wt _ _ => syncOk sync st wt && evenReg len
  | .cpMc _ _ _ _ sync st wt _ _ => syncOk sync st wt
  | .cpChain _ _ => true
  | .cpStat _ _ => true
  | .agCfg _ _ => true
  | .cpAg _ _ _ _ sync st wt _ _ _ _ => syncOk sync st wt
  | .gqCfg _ _ => true
  | .gqPush _ _ _ => true
  | .gqEnd _ => true
  | .acpyOut _ _ sn upd _ flag post raw wrap rm => rm.toNat ≤ 4 && (rm == 4 || sn == 0) && (!raw || (rm == 0 && !wrap && !upd && sn == 0))
      && (post || flag == 0)
  | .acpyIn _ _ flag accum post raw => (!accum || raw) && (post || flag == 0)
  | .cbInit _ _ => true
  | .cbPush _ _ _ _ => true
  | .cpSeq _ _ len _ sync st wt _ => syncOk sync st wt && evenReg len
  | .copyPiece _ _ => true
  | .copyComplete _ _ => true
  | .gatherRow _ _ => true
  | .landingCount _ => true
  | .slotFilled _ _ => true
  | .wait _ _ _ _ => true
  | .wtag _ => true
  | .wtagClr _ => true
  | .barInit _ _ _ => true
  | .barArv sd _ _ na _ => !na || sd != 0
  | .barMark _ _ _ => true
  | .barWait _ _ _ => true
  | .barPar _ _ => true
  | .barRet _ => true
  | .flPost _ _ _ => true
  | .flPostR _ _ _ _ => true
  | .flagPostArrive _ => true
  | .flWait _ _ _ => true
  | .fenceX scope q p => scope.toNat ≤ 4 && q.toNat ≤ 4 && p.toNat ≤ 4
  | .fenceSc => true
  | .drain => true
  | .tkWait _ _ _ => true
  | .cbPop _ _ => true
  | .cbRel _ _ _ => true
  | .step => true
  | .seg => true
  | .segOff => true
  | .rdv _ => true
  | .gBar _ => true
  | .gRed sd _ _ op _ => op != 7 && (op.toNat < 5 || evenReg sd)
  | .gInfo _ _ => true
  | .bnLd _ _ => true
  | .bnMap _ _ _ _ => true
  | .bnMapx _ _ _ _ => true
  | .lkSend _ _ _ _ _ _ _ _ => true
  | .lkRecv _ _ _ _ _ _ _ _ _ => true
  | .lkStat _ q kind => kind != 3 && (kind != 2 || q.toNat ≤ 7)
  | .lkTide _ _ => true
  | .lkCirc _ => true
  | .lkPark _ _ => true
  | .lkRate _ _ => true
  | .frameBoundary => true
  | .tideBoundary => true
  | .circuitSlotBoundary => true
  | .drawerRequest _ => true
  | .drawerResponse _ => true
  | .linkPieceArrive _ => true
  | .linkAck _ _ _ _ _ _ => true
  | .retrainStart _ => true
  | .retrainEnd _ => true
  | .groupLit _ _ _ => true
  | .linkStall _ _ => true
  | .dispatch => true
  | .preemptTimeout => true
  | .contextSave _ => true
  | .dispatcherRestore => true
  | .restore _ => true
  | .clPush _ => true
  | .compactSubmit _ => true
  | .compactPage => true
  | .compactSwap => true
  | .pageFree _ => true
  | .groupEntryWrite _ _ => true
  | .ticketEntryWrite _ _ _ => true
  | .linkControlWrite _ => true
  | .configWrite _ _ => true
  | .controlPeriodEnd _ _ => true
  | .ballastStart _ => true
  | .clusterGate _ => true
  | .clusterWake _ => true
  | .launch _ => true
  | .read _ => true
  | .write _ => true
  | .status _ => true
  | .release _ => true
  | .open _ => true
  | .close _ => true
  | .preempt _ => true
  | .resume _ => true
  | .connectionSetUp _ _ _ _ => true
  | .peerLoadRequest _ _ => true

end Sys2Proof
end

