-- ==== Sys2Proof/Decode.lean ====
section
/-! DEFINITION. Decoding of code words, bundles, slot ops and micro-ops (05, 12 R294), total on any
bits, and the encoder written from the same tables. -/

namespace Sys2Proof

/-- The six maps of the opcode table (05 R119 to R124): the slot alone chooses the map (R109). -/
inductive SlotClass where
  | s | v | m | c | y | x
  deriving DecidableEq, Repr, Inhabited

/-- The class of slot i, in the order S, V0, V1, M, C0, C1, Y, X (05 R106). -/
def slotClass (i : Nat) : SlotClass :=
  match i with
  | 0 => .s
  | 1 => .v
  | 2 => .v
  | 3 => .m
  | 4 => .c
  | 5 => .c
  | 6 => .y
  | _ => .x

/-- Why an op is a decode fault (05 R111). -/
inductive DecodeError where
  /-- the slot's map does not list the OP value -/
  | unlisted
  /-- PG = 0b10000 -/
  | guard
  /-- a bit of a field that must be zero is set -/
  | reserved
  /-- a field's value is outside the range of the entry -/
  | range
  deriving DecidableEq, Repr, Inhabited

/-- The values of the fields of widths `ws`, from the most significant down, in the low bits of `x`. -/
def unpack : List Nat → Nat → List Nat
  | [], _ => []
  | w :: ws, x => x / 2 ^ ws.sum % 2 ^ w :: unpack ws x

/-- The word of fields given as (width, value), from the most significant down. -/
def pack : List (Nat × Nat) → Nat
  | [] => 0
  | (_, v) :: r => v * 2 ^ (r.map Prod.fst).sum + pack r

/-- A row of an opcode map: the OP value, the widths of the operand fields from bit 34 down, and the
instruction of their values; none when a field marked zero is not. -/
structure Row where
  op : Nat
  lay : List Nat
  build : List Nat → Option Instr

/-- Rows of the opcode map of slot S (05 R119). -/
def rowsS0 : List Row := [
  ⟨0x00, [35], fun | [0] => some .nop | _ => none⟩,
  ⟨0x01, [6, 6, 6, 17], fun | [sd, sa, sb, 0] => some (.add (.ofNat _ sd) (.ofNat _ sa) (.ofNat _ sb)) | _ => none⟩,
  ⟨0x02, [6, 6, 6, 17], fun | [sd, sa, sb, 0] => some (.sub (.ofNat _ sd) (.ofNat _ sa) (.ofNat _ sb)) | _ => none⟩,
  ⟨0x03, [6, 6, 6, 17], fun | [sd, sa, sb, 0] => some (.mul (.ofNat _ sd) (.ofNat _ sa) (.ofNat _ sb)) | _ => none⟩,
  ⟨0x04, [6, 6, 6, 17], fun | [sd, sa, sb, 0] => some (.mulh (.ofNat _ sd) (.ofNat _ sa) (.ofNat _ sb)) | _ => none⟩,
  ⟨0x05, [6, 6, 6, 17], fun | [sd, sa, sb, 0] => some (.mulhu (.ofNat _ sd) (.ofNat _ sa) (.ofNat _ sb)) | _ => none⟩,
  ⟨0x06, [6, 6, 6, 17], fun | [sd, sa, sb, 0] => some (.div (.ofNat _ sd) (.ofNat _ sa) (.ofNat _ sb)) | _ => none⟩,
  ⟨0x07, [6, 6, 6, 17], fun | [sd, sa, sb, 0] => some (.divu (.ofNat _ sd) (.ofNat _ sa) (.ofNat _ sb)) | _ => none⟩,
  ⟨0x08, [6, 6, 6, 17], fun | [sd, sa, sb, 0] => some (.rem (.ofNat _ sd) (.ofNat _ sa) (.ofNat _ sb)) | _ => none⟩,
  ⟨0x09, [6, 6, 6, 17], fun | [sd, sa, sb, 0] => some (.remu (.ofNat _ sd) (.ofNat _ sa) (.ofNat _ sb)) | _ => none⟩,
  ⟨0x0A, [6, 6, 6, 17], fun | [sd, sa, sb, 0] => some (.and (.ofNat _ sd) (.ofNat _ sa) (.ofNat _ sb)) | _ => none⟩,
  ⟨0x0B, [6, 6, 6, 17], fun | [sd, sa, sb, 0] => some (.or (.ofNat _ sd) (.ofNat _ sa) (.ofNat _ sb)) | _ => none⟩,
  ⟨0x0C, [6, 6, 6, 17], fun | [sd, sa, sb, 0] => some (.xor (.ofNat _ sd) (.ofNat _ sa) (.ofNat _ sb)) | _ => none⟩,
  ⟨0x0D, [6, 6, 6, 17], fun | [sd, sa, sb, 0] => some (.shl (.ofNat _ sd) (.ofNat _ sa) (.ofNat _ sb)) | _ => none⟩,
  ⟨0x0E, [6, 6, 6, 17], fun | [sd, sa, sb, 0] => some (.shr (.ofNat _ sd) (.ofNat _ sa) (.ofNat _ sb)) | _ => none⟩,
  ⟨0x0F, [6, 6, 6, 17], fun | [sd, sa, sb, 0] => some (.sar (.ofNat _ sd) (.ofNat _ sa) (.ofNat _ sb)) | _ => none⟩,
  ⟨0x10, [6, 6, 6, 17], fun | [sd, sa, sb, 0] => some (.min (.ofNat _ sd) (.ofNat _ sa) (.ofNat _ sb)) | _ => none⟩,
  ⟨0x11, [6, 6, 6, 17], fun | [sd, sa, sb, 0] => some (.max (.ofNat _ sd) (.ofNat _ sa) (.ofNat _ sb)) | _ => none⟩,
  ⟨0x12, [6, 6, 6, 17], fun | [sd, sa, sb, 0] => some (.minu (.ofNat _ sd) (.ofNat _ sa) (.ofNat _ sb)) | _ => none⟩,
  ⟨0x13, [6, 6, 6, 17], fun | [sd, sa, sb, 0] => some (.maxu (.ofNat _ sd) (.ofNat _ sa) (.ofNat _ sb)) | _ => none⟩,
  ⟨0x14, [6, 6, 6, 17], fun | [sd, sa, sb, 0] => some (.seq (.ofNat _ sd) (.ofNat _ sa) (.ofNat _ sb)) | _ => none⟩,
  ⟨0x15, [6, 6, 6, 17], fun | [sd, sa, sb, 0] => some (.slt (.ofNat _ sd) (.ofNat _ sa) (.ofNat _ sb)) | _ => none⟩,
  ⟨0x16, [6, 6, 6, 17], fun | [sd, sa, sb, 0] => some (.sltu (.ofNat _ sd) (.ofNat _ sa) (.ofNat _ sb)) | _ => none⟩,
  ⟨0x17, [6, 6, 6, 12, 1, 4], fun | [sd, sa, sb, 0, inv, pn] => some (.sel (.ofNat _ sd) (.ofNat _ sa) (.ofNat _ sb) (inv != 0) (.ofNat _ pn)) | _ => none⟩]

/-- Rows of the opcode map of slot S (05 R119). -/
def rowsS1 : List Row := [
  ⟨0x18, [6, 6, 6, 17], fun | [sd, sa, 0, 0] => some (.clz (.ofNat _ sd) (.ofNat _ sa)) | _ => none⟩,
  ⟨0x19, [6, 6, 6, 17], fun | [sd, sa, 0, 0] => some (.ctz (.ofNat _ sd) (.ofNat _ sa)) | _ => none⟩,
  ⟨0x1A, [6, 6, 6, 17], fun | [sd, sa, 0, 0] => some (.popc (.ofNat _ sd) (.ofNat _ sa)) | _ => none⟩,
  ⟨0x20, [6, 6, 23], fun | [sd, sa, imm] => some (.addi (.ofNat _ sd) (.ofNat _ sa) (.ofNat _ imm)) | _ => none⟩,
  ⟨0x21, [6, 6, 23], fun | [sd, sa, imm] => some (.andi (.ofNat _ sd) (.ofNat _ sa) (.ofNat _ imm)) | _ => none⟩,
  ⟨0x22, [6, 6, 23], fun | [sd, sa, imm] => some (.ori (.ofNat _ sd) (.ofNat _ sa) (.ofNat _ imm)) | _ => none⟩,
  ⟨0x23, [6, 6, 23], fun | [sd, sa, imm] => some (.xori (.ofNat _ sd) (.ofNat _ sa) (.ofNat _ imm)) | _ => none⟩,
  ⟨0x24, [6, 6, 17, 6], fun | [sd, sa, 0, count] => some (.shli (.ofNat _ sd) (.ofNat _ sa) (.ofNat _ count)) | _ => none⟩,
  ⟨0x25, [6, 6, 17, 6], fun | [sd, sa, 0, count] => some (.shri (.ofNat _ sd) (.ofNat _ sa) (.ofNat _ count)) | _ => none⟩,
  ⟨0x26, [6, 6, 17, 6], fun | [sd, sa, 0, count] => some (.sari (.ofNat _ sd) (.ofNat _ sa) (.ofNat _ count)) | _ => none⟩,
  ⟨0x27, [6, 6, 23], fun | [sd, sa, imm] => some (.slti (.ofNat _ sd) (.ofNat _ sa) (.ofNat _ imm)) | _ => none⟩,
  ⟨0x28, [6, 6, 23], fun | [sd, sa, imm] => some (.sltui (.ofNat _ sd) (.ofNat _ sa) (.ofNat _ imm)) | _ => none⟩,
  ⟨0x29, [6, 6, 23], fun | [sd, 0, imm] => some (.li (.ofNat _ sd) (.ofNat _ imm)) | _ => none⟩,
  ⟨0x2A, [6, 6, 23], fun | [sd, sa, imm] => some (.lix (.ofNat _ sd) (.ofNat _ sa) (.ofNat _ imm)) | _ => none⟩,
  ⟨0x30, [2, 4, 6, 6, 14, 3], fun | [0, pd, sa, sb, 0, cond] => some (.pset (.ofNat _ pd) (.ofNat _ sa) (.ofNat _ sb) (.ofNat _ cond)) | _ => none⟩,
  ⟨0x31, [2, 4, 6, 3, 20], fun | [0, pd, sa, cond, imm] => some (.pseti (.ofNat _ pd) (.ofNat _ sa) (.ofNat _ cond) (.ofNat _ imm)) | _ => none⟩,
  ⟨0x32, [2, 4, 2, 4, 2, 4, 15, 2], fun | [0, pd, 0, pa, 0, pb, 0, op] => some (.plog (.ofNat _ pd) (.ofNat _ pa) (.ofNat _ pb) (.ofNat _ op)) | _ => none⟩,
  ⟨0x33, [6, 6, 6, 1, 16], fun | [0, sa, 0, 0, mask] => some (.pwr (.ofNat _ sa) (.ofNat _ mask)) | _ => none⟩,
  ⟨0x34, [6, 6, 6, 17], fun | [sd, 0, 0, 0] => some (.prd (.ofNat _ sd)) | _ => none⟩,
  ⟨0x40, [6, 6, 23], fun | [sd, sa, off] => some (.ldB (.ofNat _ sd) (.ofNat _ sa) (.ofNat _ off)) | _ => none⟩,
  ⟨0x41, [6, 6, 23], fun | [sd, sa, off] => some (.ldH (.ofNat _ sd) (.ofNat _ sa) (.ofNat _ off)) | _ => none⟩,
  ⟨0x42, [6, 6, 23], fun | [sd, sa, off] => some (.ldW (.ofNat _ sd) (.ofNat _ sa) (.ofNat _ off)) | _ => none⟩,
  ⟨0x43, [6, 6, 23], fun | [sd, sa, off] => some (.ldD (.ofNat _ sd) (.ofNat _ sa) (.ofNat _ off)) | _ => none⟩,
  ⟨0x44, [6, 6, 23], fun | [sd, sa, off] => some (.ldBu (.ofNat _ sd) (.ofNat _ sa) (.ofNat _ off)) | _ => none⟩]

/-- Rows of the opcode map of slot S (05 R119). -/
def rowsS2 : List Row := [
  ⟨0x45, [6, 6, 23], fun | [sd, sa, off] => some (.ldHu (.ofNat _ sd) (.ofNat _ sa) (.ofNat _ off)) | _ => none⟩,
  ⟨0x46, [6, 6, 23], fun | [sd, sa, off] => some (.ldWu (.ofNat _ sd) (.ofNat _ sa) (.ofNat _ off)) | _ => none⟩,
  ⟨0x47, [6, 6, 23], fun | [sd, sa, off] => some (.ldQ (.ofNat _ sd) (.ofNat _ sa) (.ofNat _ off)) | _ => none⟩,
  ⟨0x48, [6, 6, 23], fun | [ss, sa, off] => some (.stB (.ofNat _ ss) (.ofNat _ sa) (.ofNat _ off)) | _ => none⟩,
  ⟨0x49, [6, 6, 23], fun | [ss, sa, off] => some (.stH (.ofNat _ ss) (.ofNat _ sa) (.ofNat _ off)) | _ => none⟩,
  ⟨0x4A, [6, 6, 23], fun | [ss, sa, off] => some (.stW (.ofNat _ ss) (.ofNat _ sa) (.ofNat _ off)) | _ => none⟩,
  ⟨0x4B, [6, 6, 23], fun | [ss, sa, off] => some (.stD (.ofNat _ ss) (.ofNat _ sa) (.ofNat _ off)) | _ => none⟩,
  ⟨0x4C, [6, 6, 23], fun | [ss, sa, off] => some (.stQ (.ofNat _ ss) (.ofNat _ sa) (.ofNat _ off)) | _ => none⟩,
  ⟨0x4E, [6, 6, 13, 10], fun | [sd, 0, 0, slot] => some (.splLd (.ofNat _ sd) (.ofNat _ slot)) | _ => none⟩,
  ⟨0x4F, [6, 6, 13, 10], fun | [ss, 0, 0, slot] => some (.splSt (.ofNat _ ss) (.ofNat _ slot)) | _ => none⟩,
  ⟨0x50, [6, 6, 6, 11, 2, 4], fun | [sd, sa, sb, 0, width, op] => some (.amo (.ofNat _ sd) (.ofNat _ sa) (.ofNat _ sb) (.ofNat _ width) (.ofNat _ op)) | _ => none⟩,
  ⟨0x51, [6, 6, 6, 11, 2, 4], fun | [sd, sa, sb, 0, width, 0] => some (.cas (.ofNat _ sd) (.ofNat _ sa) (.ofNat _ sb) (.ofNat _ width)) | _ => none⟩,
  ⟨0x52, [6, 6, 6, 9, 8], fun | [sd, sa, 0, 0, n] => some (.tkGet (.ofNat _ sd) (.ofNat _ sa) (.ofNat _ n)) | _ => none⟩,
  ⟨0x53, [6, 6, 6, 9, 8], fun | [sd, sa, 0, 0, n] => some (.tkNext (.ofNat _ sd) (.ofNat _ sa) (.ofNat _ n)) | _ => none⟩,
  ⟨0x58, [6, 6, 6, 17], fun | [sd, sa, 0, 0] => some (.sqInit (.ofNat _ sd) (.ofNat _ sa)) | _ => none⟩,
  ⟨0x59, [6, 6, 6, 17], fun | [sd, sa, sb, 0] => some (.sqRes (.ofNat _ sd) (.ofNat _ sa) (.ofNat _ sb)) | _ => none⟩,
  ⟨0x5A, [6, 6, 6, 17], fun | [sd, sa, sb, 0] => some (.sqCmt (.ofNat _ sd) (.ofNat _ sa) (.ofNat _ sb)) | _ => none⟩,
  ⟨0x5B, [6, 6, 6, 17], fun | [sd, sa, sb, 0] => some (.sqRet (.ofNat _ sd) (.ofNat _ sa) (.ofNat _ sb)) | _ => none⟩,
  ⟨0x5C, [6, 6, 6, 13, 3, 1], fun
      | [sd, sa, 0, 0, 0, 0] => some (.sqLen (.ofNat _ sd) (.ofNat _ sa))
      | [sd, 0, 0, 0, n, 1] => some (.sqLenCl (.ofNat _ sd) (.ofNat _ n))
      | _ => none⟩,
  ⟨0x5D, [6, 6, 6, 17], fun | [sd, sa, sb, 0] => some (.sqFork (.ofNat _ sd) (.ofNat _ sa) (.ofNat _ sb)) | _ => none⟩,
  ⟨0x5E, [6, 6, 6, 17], fun | [sd, sa, 0, 0] => some (.sqDrop (.ofNat _ sd) (.ofNat _ sa)) | _ => none⟩,
  ⟨0x5F, [6, 6, 6, 17], fun | [sd, sa, sb, 0] => some (.sqGrow (.ofNat _ sd) (.ofNat _ sa) (.ofNat _ sb)) | _ => none⟩,
  ⟨0x60, [6, 6, 6, 13, 3, 1], fun
      | [0, sa, 0, 0, n, 0] => some (.sqBind (.ofNat _ sa) (.ofNat _ n))
      | [0, 0, 0, 0, n, 1] => some (.sqBindClr (.ofNat _ n))
      | _ => none⟩,
  ⟨0x61, [6, 6, 6, 17], fun | [sd, sa, sb, 0] => some (.sqAddr (.ofNat _ sd) (.ofNat _ sa) (.ofNat _ sb)) | _ => none⟩]

/-- Rows of the opcode map of slot S (05 R119). -/
def rowsS3 : List Row := [
  ⟨0x68, [35], fun | [off] => some (.br (.ofNat _ off)) | _ => none⟩,
  ⟨0x69, [6, 4, 25], fun | [cnt, stages, off] => some (.brLoop (.ofNat _ cnt) (.ofNat _ stages) (.ofNat _ off)) | _ => none⟩,
  ⟨0x6A, [35], fun | [off] => some (.call (.ofNat _ off)) | _ => none⟩,
  ⟨0x6B, [6, 6, 6, 17], fun | [0, sa, 0, 0] => some (.ret (.ofNat _ sa)) | _ => none⟩,
  ⟨0x6C, [6, 6, 6, 17], fun | [sd, sa, 0, 0] => some (.jr (.ofNat _ sd) (.ofNat _ sa)) | _ => none⟩,
  ⟨0x6D, [6, 4, 25], fun | [cnt, b1, off] => some (.rep (.ofNat _ cnt) (.ofNat _ b1) (.ofNat _ off)) | _ => none⟩,
  ⟨0x6E, [6, 4, 25], fun | [n1, 0, off] => some (.lbPin (.ofNat _ n1) (.ofNat _ off)) | _ => none⟩,
  ⟨0x6F, [35], fun | [0] => some .lbFree | _ => none⟩,
  ⟨0x70, [6, 6, 23], fun | [0, 0, imm] => some (.trap (.ofNat _ imm)) | _ => none⟩,
  ⟨0x71, [35], fun | [0] => some .rett | _ => none⟩,
  ⟨0x72, [6, 6, 23], fun | [0, 0, imm] => some (.brk (.ofNat _ imm)) | _ => none⟩,
  ⟨0x73, [6, 6, 11, 12], fun | [sd, 0, 0, csr] => some (.sysRd (.ofNat _ sd) (.ofNat _ csr)) | _ => none⟩,
  ⟨0x74, [6, 6, 11, 12], fun
      | [0, sa, 0, 24] => some (.tlbInv (.ofNat _ sa))
      | [0, sa, 0, csr] => some (.sysWr (.ofNat _ sa) (.ofNat _ csr))
      | _ => none⟩,
  ⟨0x75, [35], fun | [0] => some .halt | _ => none⟩,
  ⟨0x76, [35], fun | [0] => some .yield | _ => none⟩,
  ⟨0x77, [6, 1, 5, 1, 5, 15, 2], fun
      | [0, sa5, sa0, sb5, sb0, 0, 0] => some (.cmpt (.ofNat _ (sa5 * 32 + sa0)) (.ofNat _ (sb5 * 32 + sb0)))
      | [0, 0, va, 0, vb, 0, 1] => some (.cmptV (.ofNat _ va) (.ofNat _ vb))
      | _ => none⟩,
  ⟨0x78, [6, 6, 23], fun | [sd, sa, 0] => some (.ndDone (.ofNat _ sd) (.ofNat _ sa)) | _ => none⟩,
  ⟨0x79, [6, 6, 23], fun | [sd, sa, 0] => some (.ndSpawn (.ofNat _ sd) (.ofNat _ sa)) | _ => none⟩,
  ⟨0x7A, [6, 6, 23], fun | [sd, sa, 0] => some (.ndSel (.ofNat _ sd) (.ofNat _ sa)) | _ => none⟩]

/-- The opcode map of slot S (05 R119). -/
def rowsS : List Row := rowsS0 ++ rowsS1 ++ rowsS2 ++ rowsS3

/-- Rows of the opcode map of slot V (05 R120). -/
def rowsV0 : List Row := [
  ⟨0x01, [5, 5, 5, 5, 3, 4, 5, 3], fun | [vd, va, vb, vc, k, 0, 0, rm] => some (.vaddF (.ofNat _ vd) (.ofNat _ va) (.ofNat _ vb) (.ofNat _ vc) (.ofNat _ k) (.ofNat _ rm)) | _ => none⟩,
  ⟨0x02, [5, 5, 5, 5, 3, 4, 5, 3], fun | [vd, va, vb, vc, k, 0, 0, rm] => some (.vsubF (.ofNat _ vd) (.ofNat _ va) (.ofNat _ vb) (.ofNat _ vc) (.ofNat _ k) (.ofNat _ rm)) | _ => none⟩,
  ⟨0x03, [5, 5, 5, 5, 3, 4, 5, 3], fun | [vd, va, vb, vc, k, 0, 0, rm] => some (.vmulF (.ofNat _ vd) (.ofNat _ va) (.ofNat _ vb) (.ofNat _ vc) (.ofNat _ k) (.ofNat _ rm)) | _ => none⟩,
  ⟨0x04, [5, 5, 5, 5, 3, 4, 5, 3], fun | [vd, va, vb, vc, k, 0, 0, rm] => some (.vfmaF (.ofNat _ vd) (.ofNat _ va) (.ofNat _ vb) (.ofNat _ vc) (.ofNat _ k) (.ofNat _ rm)) | _ => none⟩,
  ⟨0x05, [5, 5, 5, 5, 3, 4, 8], fun | [vd, va, vb, 0, k, 0, 0] => some (.vminF (.ofNat _ vd) (.ofNat _ va) (.ofNat _ vb) (.ofNat _ k)) | _ => none⟩,
  ⟨0x06, [5, 5, 5, 5, 3, 4, 8], fun | [vd, va, vb, 0, k, 0, 0] => some (.vmaxF (.ofNat _ vd) (.ofNat _ va) (.ofNat _ vb) (.ofNat _ k)) | _ => none⟩,
  ⟨0x07, [5, 5, 5, 5, 3, 4, 8], fun | [vd, va, 0, 0, k, 0, 0] => some (.vabsF (.ofNat _ vd) (.ofNat _ va) (.ofNat _ k)) | _ => none⟩,
  ⟨0x08, [5, 5, 5, 5, 3, 4, 6, 1, 1], fun | [vd, va, vb, 0, k, ty, 0, uns, sat] => some (.vaddI (.ofNat _ vd) (.ofNat _ va) (.ofNat _ vb) (.ofNat _ k) (.ofNat _ ty) (uns != 0) (sat != 0)) | _ => none⟩,
  ⟨0x09, [5, 5, 5, 5, 3, 4, 6, 1, 1], fun | [vd, va, vb, 0, k, ty, 0, uns, sat] => some (.vsubI (.ofNat _ vd) (.ofNat _ va) (.ofNat _ vb) (.ofNat _ k) (.ofNat _ ty) (uns != 0) (sat != 0)) | _ => none⟩,
  ⟨0x0A, [5, 5, 5, 5, 3, 4, 6, 1, 1], fun | [vd, va, vb, 0, k, ty, 0, uns, sat] => some (.vmulI (.ofNat _ vd) (.ofNat _ va) (.ofNat _ vb) (.ofNat _ k) (.ofNat _ ty) (uns != 0) (sat != 0)) | _ => none⟩,
  ⟨0x0B, [5, 5, 5, 5, 3, 4, 6, 1, 1], fun | [vd, va, vb, 0, k, ty, 0, uns, 0] => some (.vminI (.ofNat _ vd) (.ofNat _ va) (.ofNat _ vb) (.ofNat _ k) (.ofNat _ ty) (uns != 0)) | _ => none⟩,
  ⟨0x0C, [5, 5, 5, 5, 3, 4, 6, 1, 1], fun | [vd, va, vb, 0, k, ty, 0, uns, 0] => some (.vmaxI (.ofNat _ vd) (.ofNat _ va) (.ofNat _ vb) (.ofNat _ k) (.ofNat _ ty) (uns != 0)) | _ => none⟩,
  ⟨0x0D, [5, 5, 5, 5, 3, 4, 8], fun | [vd, va, vb, 0, k, 0, 0] => some (.vand (.ofNat _ vd) (.ofNat _ va) (.ofNat _ vb) (.ofNat _ k)) | _ => none⟩,
  ⟨0x0E, [5, 5, 5, 5, 3, 4, 8], fun | [vd, va, vb, 0, k, 0, 0] => some (.vor (.ofNat _ vd) (.ofNat _ va) (.ofNat _ vb) (.ofNat _ k)) | _ => none⟩,
  ⟨0x0F, [5, 5, 5, 5, 3, 4, 8], fun | [vd, va, vb, 0, k, 0, 0] => some (.vxor (.ofNat _ vd) (.ofNat _ va) (.ofNat _ vb) (.ofNat _ k)) | _ => none⟩,
  ⟨0x10, [5, 5, 5, 5, 3, 4, 1, 1, 1, 5], fun | [vd, va, vb, 0, k, ty, 0, imm, 0, count] => some (.vshl (.ofNat _ vd) (.ofNat _ va) (.ofNat _ vb) (.ofNat _ k) (.ofNat _ ty) (imm != 0) (.ofNat _ count)) | _ => none⟩,
  ⟨0x11, [5, 5, 5, 5, 3, 4, 1, 1, 1, 5], fun | [vd, va, vb, 0, k, ty, 0, imm, 0, count] => some (.vshr (.ofNat _ vd) (.ofNat _ va) (.ofNat _ vb) (.ofNat _ k) (.ofNat _ ty) (imm != 0) (.ofNat _ count)) | _ => none⟩,
  ⟨0x12, [5, 5, 5, 5, 3, 4, 1, 1, 1, 5], fun | [vd, va, vb, 0, k, ty, 0, imm, 0, count] => some (.vsar (.ofNat _ vd) (.ofNat _ va) (.ofNat _ vb) (.ofNat _ k) (.ofNat _ ty) (imm != 0) (.ofNat _ count)) | _ => none⟩,
  ⟨0x18, [2, 3, 5, 5, 5, 3, 4, 3, 2, 3], fun | [0, kd, va, vb, 0, k, 0, 0, kind, cond] => some (.vcmp (.ofNat _ kd) (.ofNat _ va) (.ofNat _ vb) (.ofNat _ k) (.ofNat _ kind) (.ofNat _ cond)) | _ => none⟩,
  ⟨0x19, [5, 5, 5, 5, 3, 4, 8], fun | [vd, va, vb, 0, k, 0, 0] => some (.vsel (.ofNat _ vd) (.ofNat _ va) (.ofNat _ vb) (.ofNat _ k)) | _ => none⟩,
  ⟨0x1A, [2, 3, 2, 3, 2, 3, 5, 3, 4, 5, 3], fun | [0, kd, 0, ka, 0, kb, 0, 0, 0, 0, op] => some (.kop (.ofNat _ kd) (.ofNat _ ka) (.ofNat _ kb) (.ofNat _ op)) | _ => none⟩,
  ⟨0x1B, [5, 2, 3, 5, 5, 3, 4, 2, 6], fun | [0, 0, ka, 0, 0, k, 0, op, sd] => some (.kpop (.ofNat _ sd) (.ofNat _ ka) (.ofNat _ k) (.ofNat _ op)) | _ => none⟩,
  ⟨0x20, [5, 5, 5, 5, 3, 4, 8], fun | [vd, va, 0, 0, k, 0, 0] => some (.vexp2 (.ofNat _ vd) (.ofNat _ va) (.ofNat _ k)) | _ => none⟩,
  ⟨0x21, [5, 5, 5, 5, 3, 4, 8], fun | [vd, va, 0, 0, k, 0, 0] => some (.vlog2 (.ofNat _ vd) (.ofNat _ va) (.ofNat _ k)) | _ => none⟩]

/-- Rows of the opcode map of slot V (05 R120). -/
def rowsV1 : List Row := [
  ⟨0x22, [5, 5, 5, 5, 3, 4, 8], fun | [vd, va, 0, 0, k, 0, 0] => some (.vrcp (.ofNat _ vd) (.ofNat _ va) (.ofNat _ k)) | _ => none⟩,
  ⟨0x23, [5, 5, 5, 5, 3, 4, 8], fun | [vd, va, 0, 0, k, 0, 0] => some (.vrsqrt (.ofNat _ vd) (.ofNat _ va) (.ofNat _ k)) | _ => none⟩,
  ⟨0x24, [5, 5, 5, 5, 3, 4, 8], fun | [vd, va, 0, 0, k, 0, 0] => some (.vtanh (.ofNat _ vd) (.ofNat _ va) (.ofNat _ k)) | _ => none⟩,
  ⟨0x28, [5, 5, 5, 1, 2, 2, 3, 4, 4, 1, 3], fun | [vd, va, vb, 0, dpos, spos, k, from_, to_, 0, rm] => some (.vcvt (.ofNat _ vd) (.ofNat _ va) (.ofNat _ vb) (.ofNat _ dpos) (.ofNat _ spos) (.ofNat _ k) (.ofNat _ from_) (.ofNat _ to_) (.ofNat _ rm)) | _ => none⟩,
  ⟨0x29, [5, 5, 5, 5, 3, 4, 8], fun | [vd, va, vb, 0, 0, 0, 0] => some (.vpackMx (.ofNat _ vd) (.ofNat _ va) (.ofNat _ vb)) | _ => none⟩,
  ⟨0x2A, [5, 5, 5, 5, 3, 4, 7, 1], fun | [vd, va, 0, 0, k, to_, 0, h] => some (.vunpk (.ofNat _ vd) (.ofNat _ va) (.ofNat _ k) (.ofNat _ to_) (h != 0)) | _ => none⟩,
  ⟨0x2B, [5, 5, 5, 5, 3, 4, 5, 3], fun | [vd, va, vb, 0, k, 0, 0, rm] => some (.vscl (.ofNat _ vd) (.ofNat _ va) (.ofNat _ vb) (.ofNat _ k) (.ofNat _ rm)) | _ => none⟩,
  ⟨0x30, [5, 5, 5, 5, 3, 4, 8], fun | [vd, va, 0, 0, k, 0, 0] => some (.vmov (.ofNat _ vd) (.ofNat _ va) (.ofNat _ k)) | _ => none⟩,
  ⟨0x31, [5, 5, 6, 3, 4, 11, 1], fun | [vd, 0, sb, k, ty, 0, iota] => some (.vbcast (.ofNat _ vd) (.ofNat _ sb) (.ofNat _ k) (.ofNat _ ty) (iota != 0)) | _ => none⟩,
  ⟨0x32, [5, 5, 6, 3, 4, 4, 1, 7], fun | [0, va, sb, 0, 0, 0, sx, lane] => some (.vext (.ofNat _ va) (.ofNat _ sb) (sx != 0) (.ofNat _ lane)) | _ => none⟩,
  ⟨0x33, [5, 5, 5, 5, 3, 4, 8], fun | [vd, va, vb, 0, k, 0, 0] => some (.vperm (.ofNat _ vd) (.ofNat _ va) (.ofNat _ vb) (.ofNat _ k)) | _ => none⟩,
  ⟨0x34, [5, 5, 5, 5, 3, 4, 3, 2, 3], fun | [vd, va, vb, 0, k, 0, mode, 0, c] => some (.vxg (.ofNat _ vd) (.ofNat _ va) (.ofNat _ vb) (.ofNat _ k) (.ofNat _ mode) (.ofNat _ c)) | _ => none⟩,
  ⟨0x35, [5, 5, 5, 5, 3, 4, 8], fun | [vd, va, 0, vc, k, 0, 0] => some (.vcmprs (.ofNat _ vd) (.ofNat _ va) (.ofNat _ vc) (.ofNat _ k)) | _ => none⟩,
  ⟨0x36, [5, 5, 5, 5, 3, 4, 8], fun | [vd, va, 0, 0, k, 0, 0] => some (.vexpd (.ofNat _ vd) (.ofNat _ va) (.ofNat _ k)) | _ => none⟩,
  ⟨0x38, [5, 5, 5, 5, 3, 4, 2, 1, 2, 3], fun | [vd, va, 0, vc, k, 0, rm, g, kind, op] => some (.vred (.ofNat _ vd) (.ofNat _ va) (.ofNat _ vc) (.ofNat _ k) (.ofNat _ rm) (g != 0) (.ofNat _ kind) (.ofNat _ op)) | _ => none⟩,
  ⟨0x39, [5, 5, 5, 5, 3, 4, 2, 1, 2, 3], fun | [vd, va, 0, vc, k, 0, 0, w, kind, 0] => some (.vpfx (.ofNat _ vd) (.ofNat _ va) (.ofNat _ vc) (.ofNat _ k) (w != 0) (.ofNat _ kind)) | _ => none⟩,
  ⟨0x3A, [5, 5, 5, 5, 3, 4, 7, 1], fun | [vd, va, vb, vc, 0, 0, 0, leaf] => some (.vdesc (.ofNat _ vd) (.ofNat _ va) (.ofNat _ vb) (.ofNat _ vc) (leaf != 0)) | _ => none⟩,
  ⟨0x3B, [5, 5, 6, 3, 4, 2, 2, 8], fun | [vd, va, sb, k, 0, 0, mode, stream] => some (.vnoise (.ofNat _ vd) (.ofNat _ va) (.ofNat _ sb) (.ofNat _ k) (.ofNat _ mode) (.ofNat _ stream)) | _ => none⟩,
  ⟨0x40, [5, 5, 6, 3, 4, 12], fun | [vd, 0, sb, k, 0, off] => some (.vld (.ofNat _ vd) (.ofNat _ sb) (.ofNat _ k) (.ofNat _ off)) | _ => none⟩,
  ⟨0x41, [5, 5, 6, 3, 4, 12], fun | [vd, 0, sb, k, 0, off] => some (.vst (.ofNat _ vd) (.ofNat _ sb) (.ofNat _ k) (.ofNat _ off)) | _ => none⟩,
  ⟨0x42, [5, 5, 6, 3, 4, 10, 2], fun | [vd, va, sb, k, 0, 0, s] => some (.vldx (.ofNat _ vd) (.ofNat _ va) (.ofNat _ sb) (.ofNat _ k) (.ofNat _ s)) | _ => none⟩,
  ⟨0x43, [5, 5, 6, 3, 4, 10, 2], fun | [vd, va, sb, k, 0, 0, s] => some (.vstx (.ofNat _ vd) (.ofNat _ va) (.ofNat _ sb) (.ofNat _ k) (.ofNat _ s)) | _ => none⟩]

/-- The opcode map of slot V (05 R120). -/
def rowsV : List Row := rowsV0 ++ rowsV1

/-- Rows of the opcode map of slot M (05 R121). -/
def rowsM0 : List Row := [
  ⟨0x01, [6, 29], fun | [routine, 0] => some (.mcall (.ofNat _ routine)) | _ => none⟩,
  ⟨0x02, [1, 3, 6, 25], fun | [0, n, sa, imm] => some (.mpset (.ofNat _ n) (.ofNat _ sa) (.ofNat _ imm)) | _ => none⟩,
  ⟨0x03, [1, 3, 6, 25], fun | [0, n, sd, 0] => some (.mpget (.ofNat _ n) (.ofNat _ sd)) | _ => none⟩,
  ⟨0x04, [4, 6, 1, 20, 4], fun
      | [n, sa, 0, off, 0] => some (.dsetMem (.ofNat _ n) (.ofNat _ sa) (.ofNat _ off))
      | [n, sa, 1, 0, field] => some (.dsetField (.ofNat _ n) (.ofNat _ sa) (.ofNat _ field))
      | _ => none⟩,
  ⟨0x05, [4, 6, 24, 1], fun | [n, sd, 0, h] => some (.dget (.ofNat _ n) (.ofNat _ sd) (h != 0)) | _ => none⟩,
  ⟨0x06, [4, 6, 24, 1], fun | [n, 0, 0, v] => some (.dtag (.ofNat _ n) (v != 0)) | _ => none⟩,
  ⟨0x07, [4, 6, 7, 1, 1, 8, 8], fun | [0, sa, 0, anc, kind, m1, b] => some (.mzero (.ofNat _ sa) (anc != 0) (kind != 0) (.ofNat _ m1) (.ofNat _ b)) | _ => none⟩,
  ⟨0x08, [2, 2, 2, 6, 4, 7, 1, 11], fun | [0, 0, 0, sa, 0, n1, anc, anchor] => some (.msca (.ofNat _ sa) (.ofNat _ n1) (anc != 0) (.ofNat _ anchor)) | _ => none⟩,
  ⟨0x09, [2, 2, 2, 6, 21, 2], fun | [0, cva, 0, sd, 0, q] => some (.cvRd (.ofNat _ cva) (.ofNat _ sd) (.ofNat _ q)) | _ => none⟩,
  ⟨0x0A, [2, 2, 2, 6, 21, 2], fun | [cvd, 0, 0, sa, 0, q] => some (.cvWr (.ofNat _ cvd) (.ofNat _ sa) (.ofNat _ q)) | _ => none⟩,
  ⟨0x0B, [2, 2, 2, 6, 23], fun | [cvd, cva, cvb, 0, 0] => some (.cvAdd (.ofNat _ cvd) (.ofNat _ cva) (.ofNat _ cvb)) | _ => none⟩,
  ⟨0x0C, [2, 2, 2, 6, 23], fun | [cvd, cva, 0, sa, 0] => some (.cvScl (.ofNat _ cvd) (.ofNat _ cva) (.ofNat _ sa)) | _ => none⟩,
  ⟨0x0D, [4, 6, 12, 1, 6, 6], fun
      | [0, sa, 0, 0, count1, n] => some (.mucode (.ofNat _ sa) (.ofNat _ count1) (.ofNat _ n))
      | [0, 0, 0, 1, 0, n] => some (.mucodeClr (.ofNat _ n))
      | _ => none⟩]

/-- The opcode map of slot M (05 R121). -/
def rowsM : List Row := rowsM0

/-- Rows of the opcode map of slot C (05 R122). -/
def rowsC0 : List Row := [
  ⟨0x01, [6, 6, 6, 1, 3, 4, 1, 1, 1, 1, 5], fun | [dst, src, len, 0, ch, sync, st, wt, fp, bc, 0] => some (.cp (.ofNat _ dst) (.ofNat _ src) (.ofNat _ len) (.ofNat _ ch) (.ofNat _ sync) (st != 0) (wt != 0) (fp != 0) (bc != 0)) | _ => none⟩,
  ⟨0x02, [6, 6, 6, 1, 3, 4, 1, 1, 1, 1, 5], fun | [dst, src, len, 0, ch, sync, st, wt, fp, bc, 0] => some (.cp2d (.ofNat _ dst) (.ofNat _ src) (.ofNat _ len) (.ofNat _ ch) (.ofNat _ sync) (st != 0) (wt != 0) (fp != 0) (bc != 0)) | _ => none⟩,
  ⟨0x03, [6, 6, 6, 1, 3, 4, 1, 1, 1, 1, 5], fun | [dst, src, len, 0, ch, sync, st, wt, fp, bc, 0] => some (.cpMc (.ofNat _ dst) (.ofNat _ src) (.ofNat _ len) (.ofNat _ ch) (.ofNat _ sync) (st != 0) (wt != 0) (fp != 0) (bc != 0)) | _ => none⟩,
  ⟨0x04, [6, 1, 3, 25], fun | [sa, 0, ch, 0] => some (.cpChain (.ofNat _ sa) (.ofNat _ ch)) | _ => none⟩,
  ⟨0x05, [6, 4, 25], fun | [sd, q, 0] => some (.cpStat (.ofNat _ sd) (.ofNat _ q)) | _ => none⟩,
  ⟨0x06, [6, 2, 2, 25], fun | [sa, 0, n, 0] => some (.agCfg (.ofNat _ sa) (.ofNat _ n)) | _ => none⟩,
  ⟨0x07, [6, 6, 6, 1, 3, 4, 1, 1, 1, 1, 2, 1, 2], fun | [dst, src, len, 0, ch, sync, st, wt, fp, bc, 0, side, gen] => some (.cpAg (.ofNat _ dst) (.ofNat _ src) (.ofNat _ len) (.ofNat _ ch) (.ofNat _ sync) (st != 0) (wt != 0) (fp != 0) (bc != 0) (side != 0) (.ofNat _ gen)) | _ => none⟩,
  ⟨0x08, [6, 2, 2, 25], fun | [sa, 0, q, 0] => some (.gqCfg (.ofNat _ sa) (.ofNat _ q)) | _ => none⟩,
  ⟨0x09, [6, 2, 2, 25], fun | [sa, 0, q, imm] => some (.gqPush (.ofNat _ sa) (.ofNat _ q) (.ofNat _ imm)) | _ => none⟩,
  ⟨0x0A, [6, 2, 2, 25], fun | [0, 0, q, 0] => some (.gqEnd (.ofNat _ q)) | _ => none⟩,
  ⟨0x0B, [2, 4, 6, 6, 1, 1, 2, 4, 2, 1, 1, 1, 1, 3], fun | [0, n, sr, sn, 0, upd, cvc, flag, 0, 0, post, raw, wrap, rm] => some (.acpyOut (.ofNat _ n) (.ofNat _ sr) (.ofNat _ sn) (upd != 0) (.ofNat _ cvc) (.ofNat _ flag) (post != 0) (raw != 0) (wrap != 0) (.ofNat _ rm)) | _ => none⟩,
  ⟨0x0C, [2, 4, 6, 6, 1, 1, 2, 4, 2, 1, 1, 1, 1, 3], fun | [0, n, sr, 0, 0, 0, 0, flag, 0, accum, post, raw, 0, 0] => some (.acpyIn (.ofNat _ n) (.ofNat _ sr) (.ofNat _ flag) (accum != 0) (post != 0) (raw != 0)) | _ => none⟩,
  ⟨0x0D, [6, 1, 3, 25], fun | [sa, 0, b, 0] => some (.cbInit (.ofNat _ sa) (.ofNat _ b)) | _ => none⟩,
  ⟨0x0E, [6, 1, 3, 18, 3, 1, 3], fun | [sa, 0, b, 0, ch, 0, core] => some (.cbPush (.ofNat _ sa) (.ofNat _ b) (.ofNat _ ch) (.ofNat _ core)) | _ => none⟩,
  ⟨0x0F, [6, 6, 6, 1, 3, 4, 1, 1, 1, 1, 5], fun | [dst, src, len, 0, ch, sync, st, wt, fp, 0, 0] => some (.cpSeq (.ofNat _ dst) (.ofNat _ src) (.ofNat _ len) (.ofNat _ ch) (.ofNat _ sync) (st != 0) (wt != 0) (fp != 0)) | _ => none⟩,
  ⟨0x18, [6, 6, 6, 4, 4, 1, 1, 1, 1, 3, 2], fun | [dst, src, len, 0, sync, st, wt, fp, 0, 0, cls] => some (.lkSend (.ofNat _ dst) (.ofNat _ src) (.ofNat _ len) (.ofNat _ sync) (st != 0) (wt != 0) (fp != 0) (.ofNat _ cls)) | _ => none⟩,
  ⟨0x19, [6, 6, 6, 4, 4, 1, 1, 1, 1, 2, 3], fun | [dst, src, len, 0, sync, st, wt, fp, bc, 0, r] => some (.lkRecv (.ofNat _ dst) (.ofNat _ src) (.ofNat _ len) (.ofNat _ sync) (st != 0) (wt != 0) (fp != 0) (bc != 0) (.ofNat _ r)) | _ => none⟩,
  ⟨0x1A, [6, 4, 23, 2], fun | [sd, q, 0, kind] => some (.lkStat (.ofNat _ sd) (.ofNat _ q) (.ofNat _ kind)) | _ => none⟩,
  ⟨0x1B, [6, 4, 25], fun | [sa, q, 0] => some (.lkTide (.ofNat _ sa) (.ofNat _ q)) | _ => none⟩,
  ⟨0x1C, [6, 4, 25], fun | [sa, 0, 0] => some (.lkCirc (.ofNat _ sa)) | _ => none⟩,
  ⟨0x1D, [6, 4, 25], fun | [sa, q, 0] => some (.lkPark (.ofNat _ sa) (.ofNat _ q)) | _ => none⟩,
  ⟨0x1E, [6, 2, 2, 25], fun | [sa, 0, c, 0] => some (.lkRate (.ofNat _ sa) (.ofNat _ c)) | _ => none⟩]

/-- The opcode map of slot C (05 R122). -/
def rowsC : List Row := rowsC0

/-- Rows of the opcode map of slot Y (05 R123). -/
def rowsY0 : List Row := [
  ⟨0x01, [4, 4, 4, 4, 19], fun | [l, s, c, t, 0] => some (.wait (.ofNat _ l) (.ofNat _ s) (.ofNat _ c) (.ofNat _ t)) | _ => none⟩,
  ⟨0x02, [6, 6, 6, 1, 16], fun
      | [0, 0, 0, 0, mask] => some (.wtag (.ofNat _ mask))
      | [0, 0, 0, 1, mask] => some (.wtagClr (.ofNat _ mask))
      | _ => none⟩,
  ⟨0x03, [6, 6, 6, 17], fun | [0, sa, sb, imm] => some (.barInit (.ofNat _ sa) (.ofNat _ sb) (.ofNat _ imm)) | _ => none⟩,
  ⟨0x04, [6, 6, 6, 1, 16], fun
      | [0, sa, sb, 1, imm] => some (.barMark (.ofNat _ sa) (.ofNat _ sb) (.ofNat _ imm))
      | [sd, sa, sb, na, imm] => some (.barArv (.ofNat _ sd) (.ofNat _ sa) (.ofNat _ sb) (na != 0) (.ofNat _ imm))
      | _ => none⟩,
  ⟨0x05, [6, 6, 6, 17], fun | [sd, sa, sb, 0] => some (.barWait (.ofNat _ sd) (.ofNat _ sa) (.ofNat _ sb)) | _ => none⟩,
  ⟨0x06, [6, 6, 6, 16, 1], fun | [0, sa, 0, 0, par] => some (.barPar (.ofNat _ sa) (par != 0)) | _ => none⟩,
  ⟨0x07, [6, 6, 6, 17], fun | [0, sa, 0, 0] => some (.barRet (.ofNat _ sa)) | _ => none⟩,
  ⟨0x08, [6, 6, 6, 1, 4, 12], fun
      | [0, 0, sb, 0, flag, imm] => some (.flPost (.ofNat _ sb) (.ofNat _ flag) (.ofNat _ imm))
      | [0, sa, sb, 1, flag, imm] => some (.flPostR (.ofNat _ sa) (.ofNat _ sb) (.ofNat _ flag) (.ofNat _ imm))
      | _ => none⟩,
  ⟨0x09, [6, 6, 6, 1, 4, 12], fun | [sd, 0, 0, 0, flag, n] => some (.flWait (.ofNat _ sd) (.ofNat _ flag) (.ofNat _ n)) | _ => none⟩,
  ⟨0x0A, [18, 8, 3, 3, 3], fun | [0, 0, scope, q, p] => some (.fenceX (.ofNat _ scope) (.ofNat _ q) (.ofNat _ p)) | _ => none⟩,
  ⟨0x0B, [35], fun | [0] => some .fenceSc | _ => none⟩,
  ⟨0x0C, [35], fun | [0] => some .drain | _ => none⟩,
  ⟨0x0D, [6, 6, 6, 9, 8], fun | [0, sa, sb, 0, n] => some (.tkWait (.ofNat _ sa) (.ofNat _ sb) (.ofNat _ n)) | _ => none⟩,
  ⟨0x0E, [6, 6, 6, 14, 3], fun | [sd, 0, 0, 0, b] => some (.cbPop (.ofNat _ sd) (.ofNat _ b)) | _ => none⟩,
  ⟨0x0F, [6, 6, 6, 14, 3], fun | [0, sa, 0, n, b] => some (.cbRel (.ofNat _ sa) (.ofNat _ n) (.ofNat _ b)) | _ => none⟩,
  ⟨0x10, [35], fun | [0] => some .step | _ => none⟩,
  ⟨0x11, [34, 1], fun
      | [0, 0] => some .seg
      | [0, 1] => some .segOff
      | _ => none⟩,
  ⟨0x12, [6, 6, 6, 15, 2], fun | [0, 0, 0, 0, j] => some (.rdv (.ofNat _ j)) | _ => none⟩,
  ⟨0x18, [6, 6, 6, 12, 3, 2], fun | [0, 0, 0, 0, 0, j] => some (.gBar (.ofNat _ j)) | _ => none⟩,
  ⟨0x19, [6, 6, 6, 12, 3, 2], fun | [sd, sa, sb, 0, op, j] => some (.gRed (.ofNat _ sd) (.ofNat _ sa) (.ofNat _ sb) (.ofNat _ op) (.ofNat _ j)) | _ => none⟩,
  ⟨0x1A, [6, 6, 6, 12, 3, 2], fun | [sd, 0, 0, 0, 0, j] => some (.gInfo (.ofNat _ sd) (.ofNat _ j)) | _ => none⟩]

/-- The opcode map of slot Y (05 R123). -/
def rowsY : List Row := rowsY0

/-- Rows of the opcode map of slot X (05 R124). -/
def rowsX0 : List Row := [
  ⟨0x01, [6, 6, 6, 3, 14], fun | [0, sa, 0, n, 0] => some (.bnLd (.ofNat _ sa) (.ofNat _ n)) | _ => none⟩,
  ⟨0x02, [6, 6, 6, 3, 14], fun | [sd, sa, sb, n, 0] => some (.bnMap (.ofNat _ sd) (.ofNat _ sa) (.ofNat _ sb) (.ofNat _ n)) | _ => none⟩,
  ⟨0x03, [6, 6, 6, 3, 14], fun | [sd, sa, sb, n, 0] => some (.bnMapx (.ofNat _ sd) (.ofNat _ sa) (.ofNat _ sb) (.ofNat _ n)) | _ => none⟩]

/-- The opcode map of slot X (05 R124). -/
def rowsX : List Row := rowsX0

/-- The opcode map of a slot class. -/
def opcodeMap : SlotClass → List Row
  | .s => rowsS
  | .v => rowsV
  | .m => rowsM
  | .c => rowsC
  | .y => rowsY
  | .x => rowsX

/-- Decode a 47-bit op in the map of its slot: its guard and its instruction (05 R109, R111). -/
def decodeOp (cls : SlotClass) (w : Nat) : Except DecodeError (BitVec 5 × Instr) :=
  match (opcodeMap cls).find? (fun r => r.op == w / 2 ^ 40 % 128) with
  | none => .error .unlisted
  | some r =>
    if w / 2 ^ 35 % 32 = 16 then .error .guard
    else match r.build (unpack r.lay w) with
      | none => .error .reserved
      | some i => if i.wellFormed then .ok (.ofNat 5 (w / 2 ^ 35), i) else .error .range

/-- The number of ops that the mask byte m announces. -/
def maskCount (m : Nat) : Nat := ((List.range 8).filter (m.testBit ·)).length

/-- L of 05 R104: the code words of a literal with n slots. -/
def literalWords (n : Nat) : Nat := (8 + 47 * n + 15) / 16

/-- The slots of a bundle with their 47-bit ops, in slot order (05 R106). -/
def bundleOps (bits : Nat) : List (Nat × Nat) :=
  let slots := (List.range 8).filter (bits % 256).testBit
  slots.zipIdx.map fun p => (p.1, bits / 2 ^ (8 + 47 * p.2) % 2 ^ 47)

/-- The padding of a bundle image is zero (05 R108). -/
def paddingZero (bits : Nat) : Bool := bits / 2 ^ (8 + 47 * maskCount (bits % 256)) == 0

/-- What a code word stands for (05 R102, R103). -/
inductive CodeWord where
  /-- the empty bundle -/
  | empty (next : Nat)
  /-- a bundle image, and the address of the next bundle -/
  | image (bits next : Nat)
  /-- CODE_RANGE for the code word -/
  | badWord (w : Nat)
  /-- CODE_RANGE for a stream overrun -/
  | overrun
  deriving DecidableEq, Repr, Inhabited

/-- The code words ws as one number, the first in the low bits. -/
def joinWords : List Nat → Nat
  | [] => 0
  | w :: ws => w % 65536 + 65536 * joinWords ws

/-- Decode the code word at byte address pc of the stream, with the dictionary dict (05 R102 to R105). -/
def decodeCodeWord (stream : List Nat) (dict : List Nat) (pc : Nat) : CodeWord :=
  match stream.drop (pc / 2) with
  | [] => .overrun
  | w :: rest =>
    if w = 0xFFFF then
      match rest with
      | [] => .overrun
      | m :: _ =>
        let l := literalWords (maskCount (m % 256))
        if rest.length < l then .overrun else .image (joinWords (rest.take l)) (pc + 2 + 2 * l)
    else if w = 0xFFFE then .empty (pc + 2)
    else if w < 0x800 then
      match dict[w]? with
      | some bits => .image bits (pc + 2)
      | none => .badWord w
    else .badWord w

/-- A micro-op word of 64 bits (12 R294, R295); none is a run fault with cause ILLEGAL_OP. -/
def decodeMicro (w : Nat) : Option Instr :=
  match unpack [4, 3, 3, 6, 48] w with
  | [1, 0, 0, 0, g] => if g < 2 then some (.ldw (g != 0)) else none
  | [2, 0, 0, 0, 0] => some .strm
  | [3, a, 0, 0, i] => if i < 256 then some (.acc (.ofNat _ a) (.ofNat _ i)) else none
  | [4, 0, 0, 0, 0] => some .grade
  | [5, a, 0, 0, 0] => some (.tail (.ofNat _ a))
  | [6, 0, 0, 0, 0] => some .bound
  | [7, 0, 0, 0, 0] => some .xmax
  | [8, 0, 0, 0, 0] => some .blk
  | [9, 0, 0, 0, p] => if p < 2 then some (.seta (p != 0)) else none
  | [10, 0, 0, 0, i] => if i < 64 then some (.loop (.ofNat _ i)) else none
  | [11, 0, 0, 0, i] => if i < 64 then some (.brz (.ofNat _ i)) else none
  | [12, 0, 0, 0, 0] => some .uend
  | _ => none

/-- The slot class, OP value and operand fields (width, value) of a slot op; none for an instruction
that is no slot op. -/
def opFields : Instr → Option (SlotClass × Nat × List (Nat × Nat))
  | .deviceReset => none
  | .bringupStage2 => none
  | .bringupStage3 _ _ => none
  | .bringupStage4 => none
  | .heartbeatTick => none
  | .bundleFetch _ => none
  | .queuedOpDepart _ _ => none
  | .loadReturn _ _ => none
  | .storePerform _ _ => none
  | .homeAnswer _ => none
  | .syncHoldRelease _ => none
  | .lockstepMismatch _ _ => none
  | .nop => some (.s, 0x00, [(35, 0)])
  | .add sd sa sb => some (.s, 0x01, [(6, sd.toNat), (6, sa.toNat), (6, sb.toNat), (17, 0)])
  | .sub sd sa sb => some (.s, 0x02, [(6, sd.toNat), (6, sa.toNat), (6, sb.toNat), (17, 0)])
  | .mul sd sa sb => some (.s, 0x03, [(6, sd.toNat), (6, sa.toNat), (6, sb.toNat), (17, 0)])
  | .mulh sd sa sb => some (.s, 0x04, [(6, sd.toNat), (6, sa.toNat), (6, sb.toNat), (17, 0)])
  | .mulhu sd sa sb => some (.s, 0x05, [(6, sd.toNat), (6, sa.toNat), (6, sb.toNat), (17, 0)])
  | .div sd sa sb => some (.s, 0x06, [(6, sd.toNat), (6, sa.toNat), (6, sb.toNat), (17, 0)])
  | .divu sd sa sb => some (.s, 0x07, [(6, sd.toNat), (6, sa.toNat), (6, sb.toNat), (17, 0)])
  | .rem sd sa sb => some (.s, 0x08, [(6, sd.toNat), (6, sa.toNat), (6, sb.toNat), (17, 0)])
  | .remu sd sa sb => some (.s, 0x09, [(6, sd.toNat), (6, sa.toNat), (6, sb.toNat), (17, 0)])
  | .and sd sa sb => some (.s, 0x0A, [(6, sd.toNat), (6, sa.toNat), (6, sb.toNat), (17, 0)])
  | .or sd sa sb => some (.s, 0x0B, [(6, sd.toNat), (6, sa.toNat), (6, sb.toNat), (17, 0)])
  | .xor sd sa sb => some (.s, 0x0C, [(6, sd.toNat), (6, sa.toNat), (6, sb.toNat), (17, 0)])
  | .shl sd sa sb => some (.s, 0x0D, [(6, sd.toNat), (6, sa.toNat), (6, sb.toNat), (17, 0)])
  | .shr sd sa sb => some (.s, 0x0E, [(6, sd.toNat), (6, sa.toNat), (6, sb.toNat), (17, 0)])
  | .sar sd sa sb => some (.s, 0x0F, [(6, sd.toNat), (6, sa.toNat), (6, sb.toNat), (17, 0)])
  | .min sd sa sb => some (.s, 0x10, [(6, sd.toNat), (6, sa.toNat), (6, sb.toNat), (17, 0)])
  | .max sd sa sb => some (.s, 0x11, [(6, sd.toNat), (6, sa.toNat), (6, sb.toNat), (17, 0)])
  | .minu sd sa sb => some (.s, 0x12, [(6, sd.toNat), (6, sa.toNat), (6, sb.toNat), (17, 0)])
  | .maxu sd sa sb => some (.s, 0x13, [(6, sd.toNat), (6, sa.toNat), (6, sb.toNat), (17, 0)])
  | .seq sd sa sb => some (.s, 0x14, [(6, sd.toNat), (6, sa.toNat), (6, sb.toNat), (17, 0)])
  | .slt sd sa sb => some (.s, 0x15, [(6, sd.toNat), (6, sa.toNat), (6, sb.toNat), (17, 0)])
  | .sltu sd sa sb => some (.s, 0x16, [(6, sd.toNat), (6, sa.toNat), (6, sb.toNat), (17, 0)])
  | .sel sd sa sb inv pn => some (.s, 0x17, [(6, sd.toNat), (6, sa.toNat), (6, sb.toNat), (12, 0), (1, inv.toNat), (4, pn.toNat)])
  | .clz sd sa => some (.s, 0x18, [(6, sd.toNat), (6, sa.toNat), (6, 0), (17, 0)])
  | .ctz sd sa => some (.s, 0x19, [(6, sd.toNat), (6, sa.toNat), (6, 0), (17, 0)])
  | .popc sd sa => some (.s, 0x1A, [(6, sd.toNat), (6, sa.toNat), (6, 0), (17, 0)])
  | .addi sd sa imm => some (.s, 0x20, [(6, sd.toNat), (6, sa.toNat), (23, imm.toNat)])
  | .andi sd sa imm => some (.s, 0x21, [(6, sd.toNat), (6, sa.toNat), (23, imm.toNat)])
  | .ori sd sa imm => some (.s, 0x22, [(6, sd.toNat), (6, sa.toNat), (23, imm.toNat)])
  | .xori sd sa imm => some (.s, 0x23, [(6, sd.toNat), (6, sa.toNat), (23, imm.toNat)])
  | .shli sd sa count => some (.s, 0x24, [(6, sd.toNat), (6, sa.toNat), (17, 0), (6, count.toNat)])
  | .shri sd sa count => some (.s, 0x25, [(6, sd.toNat), (6, sa.toNat), (17, 0), (6, count.toNat)])
  | .sari sd sa count => some (.s, 0x26, [(6, sd.toNat), (6, sa.toNat), (17, 0), (6, count.toNat)])
  | .slti sd sa imm => some (.s, 0x27, [(6, sd.toNat), (6, sa.toNat), (23, imm.toNat)])
  | .sltui sd sa imm => some (.s, 0x28, [(6, sd.toNat), (6, sa.toNat), (23, imm.toNat)])
  | .li sd imm => some (.s, 0x29, [(6, sd.toNat), (6, 0), (23, imm.toNat)])
  | .lix sd sa imm => some (.s, 0x2A, [(6, sd.toNat), (6, sa.toNat), (23, imm.toNat)])
  | .pset pd sa sb cond => some (.s, 0x30, [(2, 0), (4, pd.toNat), (6, sa.toNat), (6, sb.toNat), (14, 0), (3, cond.toNat)])
  | .pseti pd sa cond imm => some (.s, 0x31, [(2, 0), (4, pd.toNat), (6, sa.toNat), (3, cond.toNat), (20, imm.toNat)])
  | .plog pd pa pb op => some (.s, 0x32, [(2, 0), (4, pd.toNat), (2, 0), (4, pa.toNat), (2, 0), (4, pb.toNat), (15, 0), (2, op.toNat)])
  | .pwr sa mask => some (.s, 0x33, [(6, 0), (6, sa.toNat), (6, 0), (1, 0), (16, mask.toNat)])
  | .prd sd => some (.s, 0x34, [(6, sd.toNat), (6, 0), (6, 0), (17, 0)])
  | .ldB sd sa off => some (.s, 0x40, [(6, sd.toNat), (6, sa.toNat), (23, off.toNat)])
  | .ldH sd sa off => some (.s, 0x41, [(6, sd.toNat), (6, sa.toNat), (23, off.toNat)])
  | .ldW sd sa off => some (.s, 0x42, [(6, sd.toNat), (6, sa.toNat), (23, off.toNat)])
  | .ldD sd sa off => some (.s, 0x43, [(6, sd.toNat), (6, sa.toNat), (23, off.toNat)])
  | .ldBu sd sa off => some (.s, 0x44, [(6, sd.toNat), (6, sa.toNat), (23, off.toNat)])
  | .ldHu sd sa off => some (.s, 0x45, [(6, sd.toNat), (6, sa.toNat), (23, off.toNat)])
  | .ldWu sd sa off => some (.s, 0x46, [(6, sd.toNat), (6, sa.toNat), (23, off.toNat)])
  | .ldQ sd sa off => some (.s, 0x47, [(6, sd.toNat), (6, sa.toNat), (23, off.toNat)])
  | .stB ss sa off => some (.s, 0x48, [(6, ss.toNat), (6, sa.toNat), (23, off.toNat)])
  | .stH ss sa off => some (.s, 0x49, [(6, ss.toNat), (6, sa.toNat), (23, off.toNat)])
  | .stW ss sa off => some (.s, 0x4A, [(6, ss.toNat), (6, sa.toNat), (23, off.toNat)])
  | .stD ss sa off => some (.s, 0x4B, [(6, ss.toNat), (6, sa.toNat), (23, off.toNat)])
  | .stQ ss sa off => some (.s, 0x4C, [(6, ss.toNat), (6, sa.toNat), (23, off.toNat)])
  | .splLd sd slot => some (.s, 0x4E, [(6, sd.toNat), (6, 0), (13, 0), (10, slot.toNat)])
  | .splSt ss slot => some (.s, 0x4F, [(6, ss.toNat), (6, 0), (13, 0), (10, slot.toNat)])
  | .amo sd sa sb width op => some (.s, 0x50, [(6, sd.toNat), (6, sa.toNat), (6, sb.toNat), (11, 0), (2, width.toNat), (4, op.toNat)])
  | .cas sd sa sb width => some (.s, 0x51, [(6, sd.toNat), (6, sa.toNat), (6, sb.toNat), (11, 0), (2, width.toNat), (4, 0)])
  | .tkGet sd sa n => some (.s, 0x52, [(6, sd.toNat), (6, sa.toNat), (6, 0), (9, 0), (8, n.toNat)])
  | .tkNext sd sa n => some (.s, 0x53, [(6, sd.toNat), (6, sa.toNat), (6, 0), (9, 0), (8, n.toNat)])
  | .sqInit sd sa => some (.s, 0x58, [(6, sd.toNat), (6, sa.toNat), (6, 0), (17, 0)])
  | .sqRes sd sa sb => some (.s, 0x59, [(6, sd.toNat), (6, sa.toNat), (6, sb.toNat), (17, 0)])
  | .sqCmt sd sa sb => some (.s, 0x5A, [(6, sd.toNat), (6, sa.toNat), (6, sb.toNat), (17, 0)])
  | .sqRet sd sa sb => some (.s, 0x5B, [(6, sd.toNat), (6, sa.toNat), (6, sb.toNat), (17, 0)])
  | .sqLen sd sa => some (.s, 0x5C, [(6, sd.toNat), (6, sa.toNat), (6, 0), (13, 0), (3, 0), (1, 0)])
  | .sqLenCl sd n => some (.s, 0x5C, [(6, sd.toNat), (6, 0), (6, 0), (13, 0), (3, n.toNat), (1, 1)])
  | .sqFork sd sa sb => some (.s, 0x5D, [(6, sd.toNat), (6, sa.toNat), (6, sb.toNat), (17, 0)])
  | .sqDrop sd sa => some (.s, 0x5E, [(6, sd.toNat), (6, sa.toNat), (6, 0), (17, 0)])
  | .sqGrow sd sa sb => some (.s, 0x5F, [(6, sd.toNat), (6, sa.toNat), (6, sb.toNat), (17, 0)])
  | .sqBind sa n => some (.s, 0x60, [(6, 0), (6, sa.toNat), (6, 0), (13, 0), (3, n.toNat), (1, 0)])
  | .sqBindClr n => some (.s, 0x60, [(6, 0), (6, 0), (6, 0), (13, 0), (3, n.toNat), (1, 1)])
  | .sqAddr sd sa sb => some (.s, 0x61, [(6, sd.toNat), (6, sa.toNat), (6, sb.toNat), (17, 0)])
  | .br off => some (.s, 0x68, [(35, off.toNat)])
  | .brLoop cnt stages off => some (.s, 0x69, [(6, cnt.toNat), (4, stages.toNat), (25, off.toNat)])
  | .call off => some (.s, 0x6A, [(35, off.toNat)])
  | .ret sa => some (.s, 0x6B, [(6, 0), (6, sa.toNat), (6, 0), (17, 0)])
  | .jr sd sa => some (.s, 0x6C, [(6, sd.toNat), (6, sa.toNat), (6, 0), (17, 0)])
  | .rep cnt b1 off => some (.s, 0x6D, [(6, cnt.toNat), (4, b1.toNat), (25, off.toNat)])
  | .lbPin n1 off => some (.s, 0x6E, [(6, n1.toNat), (4, 0), (25, off.toNat)])
  | .lbFree => some (.s, 0x6F, [(35, 0)])
  | .trap imm => some (.s, 0x70, [(6, 0), (6, 0), (23, imm.toNat)])
  | .rett => some (.s, 0x71, [(35, 0)])
  | .brk imm => some (.s, 0x72, [(6, 0), (6, 0), (23, imm.toNat)])
  | .sysRd sd csr => some (.s, 0x73, [(6, sd.toNat), (6, 0), (11, 0), (12, csr.toNat)])
  | .sysWr sa csr => some (.s, 0x74, [(6, 0), (6, sa.toNat), (11, 0), (12, csr.toNat)])
  | .tlbInv sa => some (.s, 0x74, [(6, 0), (6, sa.toNat), (11, 0), (12, 24)])
  | .halt => some (.s, 0x75, [(35, 0)])
  | .yield => some (.s, 0x76, [(35, 0)])
  | .cmpt sa sb => some (.s, 0x77, [(6, 0), (1, sa.toNat / 32 % 2), (5, sa.toNat / 1 % 32), (1, sb.toNat / 32 % 2), (5, sb.toNat / 1 % 32), (15, 0), (2, 0)])
  | .cmptV va vb => some (.s, 0x77, [(6, 0), (1, 0), (5, va.toNat), (1, 0), (5, vb.toNat), (15, 0), (2, 1)])
  | .ndDone sd sa => some (.s, 0x78, [(6, sd.toNat), (6, sa.toNat), (23, 0)])
  | .ndSpawn sd sa => some (.s, 0x79, [(6, sd.toNat), (6, sa.toNat), (23, 0)])
  | .ndSel sd sa => some (.s, 0x7A, [(6, sd.toNat), (6, sa.toNat), (23, 0)])
  | .vaddF vd va vb vc k rm => some (.v, 0x01, [(5, vd.toNat), (5, va.toNat), (5, vb.toNat), (5, vc.toNat), (3, k.toNat), (4, 0), (5, 0), (3, rm.toNat)])
  | .vsubF vd va vb vc k rm => some (.v, 0x02, [(5, vd.toNat), (5, va.toNat), (5, vb.toNat), (5, vc.toNat), (3, k.toNat), (4, 0), (5, 0), (3, rm.toNat)])
  | .vmulF vd va vb vc k rm => some (.v, 0x03, [(5, vd.toNat), (5, va.toNat), (5, vb.toNat), (5, vc.toNat), (3, k.toNat), (4, 0), (5, 0), (3, rm.toNat)])
  | .vfmaF vd va vb vc k rm => some (.v, 0x04, [(5, vd.toNat), (5, va.toNat), (5, vb.toNat), (5, vc.toNat), (3, k.toNat), (4, 0), (5, 0), (3, rm.toNat)])
  | .vminF vd va vb k => some (.v, 0x05, [(5, vd.toNat), (5, va.toNat), (5, vb.toNat), (5, 0), (3, k.toNat), (4, 0), (8, 0)])
  | .vmaxF vd va vb k => some (.v, 0x06, [(5, vd.toNat), (5, va.toNat), (5, vb.toNat), (5, 0), (3, k.toNat), (4, 0), (8, 0)])
  | .vabsF vd va k => some (.v, 0x07, [(5, vd.toNat), (5, va.toNat), (5, 0), (5, 0), (3, k.toNat), (4, 0), (8, 0)])
  | .vaddI vd va vb k ty uns sat => some (.v, 0x08, [(5, vd.toNat), (5, va.toNat), (5, vb.toNat), (5, 0), (3, k.toNat), (4, ty.toNat), (6, 0), (1, uns.toNat), (1, sat.toNat)])
  | .vsubI vd va vb k ty uns sat => some (.v, 0x09, [(5, vd.toNat), (5, va.toNat), (5, vb.toNat), (5, 0), (3, k.toNat), (4, ty.toNat), (6, 0), (1, uns.toNat), (1, sat.toNat)])
  | .vmulI vd va vb k ty uns sat => some (.v, 0x0A, [(5, vd.toNat), (5, va.toNat), (5, vb.toNat), (5, 0), (3, k.toNat), (4, ty.toNat), (6, 0), (1, uns.toNat), (1, sat.toNat)])
  | .vminI vd va vb k ty uns => some (.v, 0x0B, [(5, vd.toNat), (5, va.toNat), (5, vb.toNat), (5, 0), (3, k.toNat), (4, ty.toNat), (6, 0), (1, uns.toNat), (1, 0)])
  | .vmaxI vd va vb k ty uns => some (.v, 0x0C, [(5, vd.toNat), (5, va.toNat), (5, vb.toNat), (5, 0), (3, k.toNat), (4, ty.toNat), (6, 0), (1, uns.toNat), (1, 0)])
  | .vand vd va vb k => some (.v, 0x0D, [(5, vd.toNat), (5, va.toNat), (5, vb.toNat), (5, 0), (3, k.toNat), (4, 0), (8, 0)])
  | .vor vd va vb k => some (.v, 0x0E, [(5, vd.toNat), (5, va.toNat), (5, vb.toNat), (5, 0), (3, k.toNat), (4, 0), (8, 0)])
  | .vxor vd va vb k => some (.v, 0x0F, [(5, vd.toNat), (5, va.toNat), (5, vb.toNat), (5, 0), (3, k.toNat), (4, 0), (8, 0)])
  | .vshl vd va vb k ty imm count => some (.v, 0x10, [(5, vd.toNat), (5, va.toNat), (5, vb.toNat), (5, 0), (3, k.toNat), (4, ty.toNat), (1, 0), (1, imm.toNat), (1, 0), (5, count.toNat)])
  | .vshr vd va vb k ty imm count => some (.v, 0x11, [(5, vd.toNat), (5, va.toNat), (5, vb.toNat), (5, 0), (3, k.toNat), (4, ty.toNat), (1, 0), (1, imm.toNat), (1, 0), (5, count.toNat)])
  | .vsar vd va vb k ty imm count => some (.v, 0x12, [(5, vd.toNat), (5, va.toNat), (5, vb.toNat), (5, 0), (3, k.toNat), (4, ty.toNat), (1, 0), (1, imm.toNat), (1, 0), (5, count.toNat)])
  | .vcmp kd va vb k kind cond => some (.v, 0x18, [(2, 0), (3, kd.toNat), (5, va.toNat), (5, vb.toNat), (5, 0), (3, k.toNat), (4, 0), (3, 0), (2, kind.toNat), (3, cond.toNat)])
  | .vsel vd va vb k => some (.v, 0x19, [(5, vd.toNat), (5, va.toNat), (5, vb.toNat), (5, 0), (3, k.toNat), (4, 0), (8, 0)])
  | .kop kd ka kb op => some (.v, 0x1A, [(2, 0), (3, kd.toNat), (2, 0), (3, ka.toNat), (2, 0), (3, kb.toNat), (5, 0), (3, 0), (4, 0), (5, 0), (3, op.toNat)])
  | .kpop sd ka k op => some (.v, 0x1B, [(5, 0), (2, 0), (3, ka.toNat), (5, 0), (5, 0), (3, k.toNat), (4, 0), (2, op.toNat), (6, sd.toNat)])
  | .vexp2 vd va k => some (.v, 0x20, [(5, vd.toNat), (5, va.toNat), (5, 0), (5, 0), (3, k.toNat), (4, 0), (8, 0)])
  | .vlog2 vd va k => some (.v, 0x21, [(5, vd.toNat), (5, va.toNat), (5, 0), (5, 0), (3, k.toNat), (4, 0), (8, 0)])
  | .vrcp vd va k => some (.v, 0x22, [(5, vd.toNat), (5, va.toNat), (5, 0), (5, 0), (3, k.toNat), (4, 0), (8, 0)])
  | .vrsqrt vd va k => some (.v, 0x23, [(5, vd.toNat), (5, va.toNat), (5, 0), (5, 0), (3, k.toNat), (4, 0), (8, 0)])
  | .vtanh vd va k => some (.v, 0x24, [(5, vd.toNat), (5, va.toNat), (5, 0), (5, 0), (3, k.toNat), (4, 0), (8, 0)])
  | .vcvt vd va vb dpos spos k from_ to_ rm => some (.v, 0x28, [(5, vd.toNat), (5, va.toNat), (5, vb.toNat), (1, 0), (2, dpos.toNat), (2, spos.toNat), (3, k.toNat), (4, from_.toNat), (4, to_.toNat), (1, 0), (3, rm.toNat)])
  | .vpackMx vd va vb => some (.v, 0x29, [(5, vd.toNat), (5, va.toNat), (5, vb.toNat), (5, 0), (3, 0), (4, 0), (8, 0)])
  | .vunpk vd va k to_ h => some (.v, 0x2A, [(5, vd.toNat), (5, va.toNat), (5, 0), (5, 0), (3, k.toNat), (4, to_.toNat), (7, 0), (1, h.toNat)])
  | .vscl vd va vb k rm => some (.v, 0x2B, [(5, vd.toNat), (5, va.toNat), (5, vb.toNat), (5, 0), (3, k.toNat), (4, 0), (5, 0), (3, rm.toNat)])
  | .vmov vd va k => some (.v, 0x30, [(5, vd.toNat), (5, va.toNat), (5, 0), (5, 0), (3, k.toNat), (4, 0), (8, 0)])
  | .vbcast vd sb k ty iota => some (.v, 0x31, [(5, vd.toNat), (5, 0), (6, sb.toNat), (3, k.toNat), (4, ty.toNat), (11, 0), (1, iota.toNat)])
  | .vext va sb sx lane => some (.v, 0x32, [(5, 0), (5, va.toNat), (6, sb.toNat), (3, 0), (4, 0), (4, 0), (1, sx.toNat), (7, lane.toNat)])
  | .vperm vd va vb k => some (.v, 0x33, [(5, vd.toNat), (5, va.toNat), (5, vb.toNat), (5, 0), (3, k.toNat), (4, 0), (8, 0)])
  | .vxg vd va vb k mode c => some (.v, 0x34, [(5, vd.toNat), (5, va.toNat), (5, vb.toNat), (5, 0), (3, k.toNat), (4, 0), (3, mode.toNat), (2, 0), (3, c.toNat)])
  | .vcmprs vd va vc k => some (.v, 0x35, [(5, vd.toNat), (5, va.toNat), (5, 0), (5, vc.toNat), (3, k.toNat), (4, 0), (8, 0)])
  | .vexpd vd va k => some (.v, 0x36, [(5, vd.toNat), (5, va.toNat), (5, 0), (5, 0), (3, k.toNat), (4, 0), (8, 0)])
  | .vred vd va vc k rm g kind op => some (.v, 0x38, [(5, vd.toNat), (5, va.toNat), (5, 0), (5, vc.toNat), (3, k.toNat), (4, 0), (2, rm.toNat), (1, g.toNat), (2, kind.toNat), (3, op.toNat)])
  | .vpfx vd va vc k w kind => some (.v, 0x39, [(5, vd.toNat), (5, va.toNat), (5, 0), (5, vc.toNat), (3, k.toNat), (4, 0), (2, 0), (1, w.toNat), (2, kind.toNat), (3, 0)])
  | .vdesc vd va vb vc leaf => some (.v, 0x3A, [(5, vd.toNat), (5, va.toNat), (5, vb.toNat), (5, vc.toNat), (3, 0), (4, 0), (7, 0), (1, leaf.toNat)])
  | .vnoise vd va sb k mode stream => some (.v, 0x3B, [(5, vd.toNat), (5, va.toNat), (6, sb.toNat), (3, k.toNat), (4, 0), (2, 0), (2, mode.toNat), (8, stream.toNat)])
  | .vld vd sb k off => some (.v, 0x40, [(5, vd.toNat), (5, 0), (6, sb.toNat), (3, k.toNat), (4, 0), (12, off.toNat)])
  | .vst vd sb k off => some (.v, 0x41, [(5, vd.toNat), (5, 0), (6, sb.toNat), (3, k.toNat), (4, 0), (12, off.toNat)])
  | .vldx vd va sb k s => some (.v, 0x42, [(5, vd.toNat), (5, va.toNat), (6, sb.toNat), (3, k.toNat), (4, 0), (10, 0), (2, s.toNat)])
  | .vstx vd va sb k s => some (.v, 0x43, [(5, vd.toNat), (5, va.toNat), (6, sb.toNat), (3, k.toNat), (4, 0), (10, 0), (2, s.toNat)])
  | .mcall routine => some (.m, 0x01, [(6, routine.toNat), (29, 0)])
  | .mpset n sa imm => some (.m, 0x02, [(1, 0), (3, n.toNat), (6, sa.toNat), (25, imm.toNat)])
  | .mpget n sd => some (.m, 0x03, [(1, 0), (3, n.toNat), (6, sd.toNat), (25, 0)])
  | .dsetMem n sa off => some (.m, 0x04, [(4, n.toNat), (6, sa.toNat), (1, 0), (20, off.toNat), (4, 0)])
  | .dsetField n sa field => some (.m, 0x04, [(4, n.toNat), (6, sa.toNat), (1, 1), (20, 0), (4, field.toNat)])
  | .dget n sd h => some (.m, 0x05, [(4, n.toNat), (6, sd.toNat), (24, 0), (1, h.toNat)])
  | .dtag n v => some (.m, 0x06, [(4, n.toNat), (6, 0), (24, 0), (1, v.toNat)])
  | .mzero sa anc kind m1 b => some (.m, 0x07, [(4, 0), (6, sa.toNat), (7, 0), (1, anc.toNat), (1, kind.toNat), (8, m1.toNat), (8, b.toNat)])
  | .msca sa n1 anc anchor => some (.m, 0x08, [(2, 0), (2, 0), (2, 0), (6, sa.toNat), (4, 0), (7, n1.toNat), (1, anc.toNat), (11, anchor.toNat)])
  | .cvRd cva sd q => some (.m, 0x09, [(2, 0), (2, cva.toNat), (2, 0), (6, sd.toNat), (21, 0), (2, q.toNat)])
  | .cvWr cvd sa q => some (.m, 0x0A, [(2, cvd.toNat), (2, 0), (2, 0), (6, sa.toNat), (21, 0), (2, q.toNat)])
  | .cvAdd cvd cva cvb => some (.m, 0x0B, [(2, cvd.toNat), (2, cva.toNat), (2, cvb.toNat), (6, 0), (23, 0)])
  | .cvScl cvd cva sa => some (.m, 0x0C, [(2, cvd.toNat), (2, cva.toNat), (2, 0), (6, sa.toNat), (23, 0)])
  | .mucode sa count1 n => some (.m, 0x0D, [(4, 0), (6, sa.toNat), (12, 0), (1, 0), (6, count1.toNat), (6, n.toNat)])
  | .mucodeClr n => some (.m, 0x0D, [(4, 0), (6, 0), (12, 0), (1, 1), (6, 0), (6, n.toNat)])
  | .ldw _ => none
  | .strm => none
  | .acc _ _ => none
  | .grade => none
  | .tail _ => none
  | .bound => none
  | .xmax => none
  | .blk => none
  | .seta _ => none
  | .loop _ => none
  | .brz _ => none
  | .uend => none
  | .cp dst src len ch sync st wt fp bc => some (.c, 0x01, [(6, dst.toNat), (6, src.toNat), (6, len.toNat), (1, 0), (3, ch.toNat), (4, sync.toNat), (1, st.toNat), (1, wt.toNat), (1, fp.toNat), (1, bc.toNat), (5, 0)])
  | .cp2d dst src len ch sync st wt fp bc => some (.c, 0x02, [(6, dst.toNat), (6, src.toNat), (6, len.toNat), (1, 0), (3, ch.toNat), (4, sync.toNat), (1, st.toNat), (1, wt.toNat), (1, fp.toNat), (1, bc.toNat), (5, 0)])
  | .cpMc dst src len ch sync st wt fp bc => some (.c, 0x03, [(6, dst.toNat), (6, src.toNat), (6, len.toNat), (1, 0), (3, ch.toNat), (4, sync.toNat), (1, st.toNat), (1, wt.toNat), (1, fp.toNat), (1, bc.toNat), (5, 0)])
  | .cpChain sa ch => some (.c, 0x04, [(6, sa.toNat), (1, 0), (3, ch.toNat), (25, 0)])
  | .cpStat sd q => some (.c, 0x05, [(6, sd.toNat), (4, q.toNat), (25, 0)])
  | .agCfg sa n => some (.c, 0x06, [(6, sa.toNat), (2, 0), (2, n.toNat), (25, 0)])
  | .cpAg dst src len ch sync st wt fp bc side gen => some (.c, 0x07, [(6, dst.toNat), (6, src.toNat), (6, len.toNat), (1, 0), (3, ch.toNat), (4, sync.toNat), (1, st.toNat), (1, wt.toNat), (1, fp.toNat), (1, bc.toNat), (2, 0), (1, side.toNat), (2, gen.toNat)])
  | .gqCfg sa q => some (.c, 0x08, [(6, sa.toNat), (2, 0), (2, q.toNat), (25, 0)])
  | .gqPush sa q imm => some (.c, 0x09, [(6, sa.toNat), (2, 0), (2, q.toNat), (25, imm.toNat)])
  | .gqEnd q => some (.c, 0x0A, [(6, 0), (2, 0), (2, q.toNat), (25, 0)])
  | .acpyOut n sr sn upd cvc flag post raw wrap rm => some (.c, 0x0B, [(2, 0), (4, n.toNat), (6, sr.toNat), (6, sn.toNat), (1, 0), (1, upd.toNat), (2, cvc.toNat), (4, flag.toNat), (2, 0), (1, 0), (1, post.toNat), (1, raw.toNat), (1, wrap.toNat), (3, rm.toNat)])
  | .acpyIn n sr flag accum post raw => some (.c, 0x0C, [(2, 0), (4, n.toNat), (6, sr.toNat), (6, 0), (1, 0), (1, 0), (2, 0), (4, flag.toNat), (2, 0), (1, accum.toNat), (1, post.toNat), (1, raw.toNat), (1, 0), (3, 0)])
  | .cbInit sa b => some (.c, 0x0D, [(6, sa.toNat), (1, 0), (3, b.toNat), (25, 0)])
  | .cbPush sa b ch core => some (.c, 0x0E, [(6, sa.toNat), (1, 0), (3, b.toNat), (18, 0), (3, ch.toNat), (1, 0), (3, core.toNat)])
  | .cpSeq dst src len ch sync st wt fp => some (.c, 0x0F, [(6, dst.toNat), (6, src.toNat), (6, len.toNat), (1, 0), (3, ch.toNat), (4, sync.toNat), (1, st.toNat), (1, wt.toNat), (1, fp.toNat), (1, 0), (5, 0)])
  | .copyPiece _ _ => none
  | .copyComplete _ _ => none
  | .gatherRow _ _ => none
  | .landingCount _ => none
  | .slotFilled _ _ => none
  | .wait l s c t => some (.y, 0x01, [(4, l.toNat), (4, s.toNat), (4, c.toNat), (4, t.toNat), (19, 0)])
  | .wtag mask => some (.y, 0x02, [(6, 0), (6, 0), (6, 0), (1, 0), (16, mask.toNat)])
  | .wtagClr mask => some (.y, 0x02, [(6, 0), (6, 0), (6, 0), (1, 1), (16, mask.toNat)])
  | .barInit sa sb imm => some (.y, 0x03, [(6, 0), (6, sa.toNat), (6, sb.toNat), (17, imm.toNat)])
  | .barArv sd sa sb na imm => some (.y, 0x04, [(6, sd.toNat), (6, sa.toNat), (6, sb.toNat), (1, na.toNat), (16, imm.toNat)])
  | .barMark sa sb imm => some (.y, 0x04, [(6, 0), (6, sa.toNat), (6, sb.toNat), (1, 1), (16, imm.toNat)])
  | .barWait sd sa sb => some (.y, 0x05, [(6, sd.toNat), (6, sa.toNat), (6, sb.toNat), (17, 0)])
  | .barPar sa par => some (.y, 0x06, [(6, 0), (6, sa.toNat), (6, 0), (16, 0), (1, par.toNat)])
  | .barRet sa => some (.y, 0x07, [(6, 0), (6, sa.toNat), (6, 0), (17, 0)])
  | .flPost sb flag imm => some (.y, 0x08, [(6, 0), (6, 0), (6, sb.toNat), (1, 0), (4, flag.toNat), (12, imm.toNat)])
  | .flPostR sa sb flag imm => some (.y, 0x08, [(6, 0), (6, sa.toNat), (6, sb.toNat), (1, 1), (4, flag.toNat), (12, imm.toNat)])
  | .flagPostArrive _ => none
  | .flWait sd flag n => some (.y, 0x09, [(6, sd.toNat), (6, 0), (6, 0), (1, 0), (4, flag.toNat), (12, n.toNat)])
  | .fenceX scope q p => some (.y, 0x0A, [(18, 0), (8, 0), (3, scope.toNat), (3, q.toNat), (3, p.toNat)])
  | .fenceSc => some (.y, 0x0B, [(35, 0)])
  | .drain => some (.y, 0x0C, [(35, 0)])
  | .tkWait sa sb n => some (.y, 0x0D, [(6, 0), (6, sa.toNat), (6, sb.toNat), (9, 0), (8, n.toNat)])
  | .cbPop sd b => some (.y, 0x0E, [(6, sd.toNat), (6, 0), (6, 0), (14, 0), (3, b.toNat)])
  | .cbRel sa n b => some (.y, 0x0F, [(6, 0), (6, sa.toNat), (6, 0), (14, n.toNat), (3, b.toNat)])
  | .step => some (.y, 0x10, [(35, 0)])
  | .seg => some (.y, 0x11, [(34, 0), (1, 0)])
  | .segOff => some (.y, 0x11, [(34, 0), (1, 1)])
  | .rdv j => some (.y, 0x12, [(6, 0), (6, 0), (6, 0), (15, 0), (2, j.toNat)])
  | .gBar j => some (.y, 0x18, [(6, 0), (6, 0), (6, 0), (12, 0), (3, 0), (2, j.toNat)])
  | .gRed sd sa sb op j => some (.y, 0x19, [(6, sd.toNat), (6, sa.toNat), (6, sb.toNat), (12, 0), (3, op.toNat), (2, j.toNat)])
  | .gInfo sd j => some (.y, 0x1A, [(6, sd.toNat), (6, 0), (6, 0), (12, 0), (3, 0), (2, j.toNat)])
  | .bnLd sa n => some (.x, 0x01, [(6, 0), (6, sa.toNat), (6, 0), (3, n.toNat), (14, 0)])
  | .bnMap sd sa sb n => some (.x, 0x02, [(6, sd.toNat), (6, sa.toNat), (6, sb.toNat), (3, n.toNat), (14, 0)])
  | .bnMapx sd sa sb n => some (.x, 0x03, [(6, sd.toNat), (6, sa.toNat), (6, sb.toNat), (3, n.toNat), (14, 0)])
  | .lkSend dst src len sync st wt fp cls => some (.c, 0x18, [(6, dst.toNat), (6, src.toNat), (6, len.toNat), (4, 0), (4, sync.toNat), (1, st.toNat), (1, wt.toNat), (1, fp.toNat), (1, 0), (3, 0), (2, cls.toNat)])
  | .lkRecv dst src len sync st wt fp bc r => some (.c, 0x19, [(6, dst.toNat), (6, src.toNat), (6, len.toNat), (4, 0), (4, sync.toNat), (1, st.toNat), (1, wt.toNat), (1, fp.toNat), (1, bc.toNat), (2, 0), (3, r.toNat)])
  | .lkStat sd q kind => some (.c, 0x1A, [(6, sd.toNat), (4, q.toNat), (23, 0), (2, kind.toNat)])
  | .lkTide sa q => some (.c, 0x1B, [(6, sa.toNat), (4, q.toNat), (25, 0)])
  | .lkCirc sa => some (.c, 0x1C, [(6, sa.toNat), (4, 0), (25, 0)])
  | .lkPark sa q => some (.c, 0x1D, [(6, sa.toNat), (4, q.toNat), (25, 0)])
  | .lkRate sa c => some (.c, 0x1E, [(6, sa.toNat), (2, 0), (2, c.toNat), (25, 0)])
  | .frameBoundary => none
  | .tideBoundary => none
  | .circuitSlotBoundary => none
  | .drawerRequest _ => none
  | .drawerResponse _ => none
  | .linkPieceArrive _ => none
  | .linkAck _ _ _ _ _ _ => none
  | .retrainStart _ => none
  | .retrainEnd _ => none
  | .groupLit _ _ _ => none
  | .linkStall _ _ => none
  | .dispatch => none
  | .preemptTimeout => none
  | .contextSave _ => none
  | .dispatcherRestore => none
  | .restore _ => none
  | .clPush _ => none
  | .compactSubmit _ => none
  | .compactPage => none
  | .compactSwap => none
  | .pageFree _ => none
  | .groupEntryWrite _ _ => none
  | .ticketEntryWrite _ _ _ => none
  | .linkControlWrite _ => none
  | .configWrite _ _ => none
  | .controlPeriodEnd _ _ => none
  | .ballastStart _ => none
  | .clusterGate _ => none
  | .clusterWake _ => none
  | .launch _ => none
  | .read _ => none
  | .write _ => none
  | .status _ => none
  | .release _ => none
  | .open _ => none
  | .close _ => none
  | .preempt _ => none
  | .resume _ => none
  | .connectionSetUp _ _ _ _ => none
  | .peerLoadRequest _ _ => none

/-- The fields of a micro-op word: UOP, A, B, zero and IMM (12 R294). -/
def microFields : Instr → Option (List (Nat × Nat))
  | .deviceReset => none
  | .bringupStage2 => none
  | .bringupStage3 _ _ => none
  | .bringupStage4 => none
  | .heartbeatTick => none
  | .bundleFetch _ => none
  | .queuedOpDepart _ _ => none
  | .loadReturn _ _ => none
  | .storePerform _ _ => none
  | .homeAnswer _ => none
  | .syncHoldRelease _ => none
  | .lockstepMismatch _ _ => none
  | .nop => none
  | .add _ _ _ => none
  | .sub _ _ _ => none
  | .mul _ _ _ => none
  | .mulh _ _ _ => none
  | .mulhu _ _ _ => none
  | .div _ _ _ => none
  | .divu _ _ _ => none
  | .rem _ _ _ => none
  | .remu _ _ _ => none
  | .and _ _ _ => none
  | .or _ _ _ => none
  | .xor _ _ _ => none
  | .shl _ _ _ => none
  | .shr _ _ _ => none
  | .sar _ _ _ => none
  | .min _ _ _ => none
  | .max _ _ _ => none
  | .minu _ _ _ => none
  | .maxu _ _ _ => none
  | .seq _ _ _ => none
  | .slt _ _ _ => none
  | .sltu _ _ _ => none
  | .sel _ _ _ _ _ => none
  | .clz _ _ => none
  | .ctz _ _ => none
  | .popc _ _ => none
  | .addi _ _ _ => none
  | .andi _ _ _ => none
  | .ori _ _ _ => none
  | .xori _ _ _ => none
  | .shli _ _ _ => none
  | .shri _ _ _ => none
  | .sari _ _ _ => none
  | .slti _ _ _ => none
  | .sltui _ _ _ => none
  | .li _ _ => none
  | .lix _ _ _ => none
  | .pset _ _ _ _ => none
  | .pseti _ _ _ _ => none
  | .plog _ _ _ _ => none
  | .pwr _ _ => none
  | .prd _ => none
  | .ldB _ _ _ => none
  | .ldH _ _ _ => none
  | .ldW _ _ _ => none
  | .ldD _ _ _ => none
  | .ldBu _ _ _ => none
  | .ldHu _ _ _ => none
  | .ldWu _ _ _ => none
  | .ldQ _ _ _ => none
  | .stB _ _ _ => none
  | .stH _ _ _ => none
  | .stW _ _ _ => none
  | .stD _ _ _ => none
  | .stQ _ _ _ => none
  | .splLd _ _ => none
  | .splSt _ _ => none
  | .amo _ _ _ _ _ => none
  | .cas _ _ _ _ => none
  | .tkGet _ _ _ => none
  | .tkNext _ _ _ => none
  | .sqInit _ _ => none
  | .sqRes _ _ _ => none
  | .sqCmt _ _ _ => none
  | .sqRet _ _ _ => none
  | .sqLen _ _ => none
  | .sqLenCl _ _ => none
  | .sqFork _ _ _ => none
  | .sqDrop _ _ => none
  | .sqGrow _ _ _ => none
  | .sqBind _ _ => none
  | .sqBindClr _ => none
  | .sqAddr _ _ _ => none
  | .br _ => none
  | .brLoop _ _ _ => none
  | .call _ => none
  | .ret _ => none
  | .jr _ _ => none
  | .rep _ _ _ => none
  | .lbPin _ _ => none
  | .lbFree => none
  | .trap _ => none
  | .rett => none
  | .brk _ => none
  | .sysRd _ _ => none
  | .sysWr _ _ => none
  | .tlbInv _ => none
  | .halt => none
  | .yield => none
  | .cmpt _ _ => none
  | .cmptV _ _ => none
  | .ndDone _ _ => none
  | .ndSpawn _ _ => none
  | .ndSel _ _ => none
  | .vaddF _ _ _ _ _ _ => none
  | .vsubF _ _ _ _ _ _ => none
  | .vmulF _ _ _ _ _ _ => none
  | .vfmaF _ _ _ _ _ _ => none
  | .vminF _ _ _ _ => none
  | .vmaxF _ _ _ _ => none
  | .vabsF _ _ _ => none
  | .vaddI _ _ _ _ _ _ _ => none
  | .vsubI _ _ _ _ _ _ _ => none
  | .vmulI _ _ _ _ _ _ _ => none
  | .vminI _ _ _ _ _ _ => none
  | .vmaxI _ _ _ _ _ _ => none
  | .vand _ _ _ _ => none
  | .vor _ _ _ _ => none
  | .vxor _ _ _ _ => none
  | .vshl _ _ _ _ _ _ _ => none
  | .vshr _ _ _ _ _ _ _ => none
  | .vsar _ _ _ _ _ _ _ => none
  | .vcmp _ _ _ _ _ _ => none
  | .vsel _ _ _ _ => none
  | .kop _ _ _ _ => none
  | .kpop _ _ _ _ => none
  | .vexp2 _ _ _ => none
  | .vlog2 _ _ _ => none
  | .vrcp _ _ _ => none
  | .vrsqrt _ _ _ => none
  | .vtanh _ _ _ => none
  | .vcvt _ _ _ _ _ _ _ _ _ => none
  | .vpackMx _ _ _ => none
  | .vunpk _ _ _ _ _ => none
  | .vscl _ _ _ _ _ => none
  | .vmov _ _ _ => none
  | .vbcast _ _ _ _ _ => none
  | .vext _ _ _ _ => none
  | .vperm _ _ _ _ => none
  | .vxg _ _ _ _ _ _ => none
  | .vcmprs _ _ _ _ => none
  | .vexpd _ _ _ => none
  | .vred _ _ _ _ _ _ _ _ => none
  | .vpfx _ _ _ _ _ _ => none
  | .vdesc _ _ _ _ _ => none
  | .vnoise _ _ _ _ _ _ => none
  | .vld _ _ _ _ => none
  | .vst _ _ _ _ => none
  | .vldx _ _ _ _ _ => none
  | .vstx _ _ _ _ _ => none
  | .mcall _ => none
  | .mpset _ _ _ => none
  | .mpget _ _ => none
  | .dsetMem _ _ _ => none
  | .dsetField _ _ _ => none
  | .dget _ _ _ => none
  | .dtag _ _ => none
  | .mzero _ _ _ _ _ => none
  | .msca _ _ _ _ => none
  | .cvRd _ _ _ => none
  | .cvWr _ _ _ => none
  | .cvAdd _ _ _ => none
  | .cvScl _ _ _ => none
  | .mucode _ _ _ => none
  | .mucodeClr _ => none
  | .ldw gr => some [(4, 1), (3, 0), (3, 0), (6, 0), (48, gr.toNat)]
  | .strm => some [(4, 2), (3, 0), (3, 0), (6, 0), (48, 0)]
  | .acc a imm => some [(4, 3), (3, a.toNat), (3, 0), (6, 0), (48, imm.toNat)]
  | .grade => some [(4, 4), (3, 0), (3, 0), (6, 0), (48, 0)]
  | .tail a => some [(4, 5), (3, a.toNat), (3, 0), (6, 0), (48, 0)]
  | .bound => some [(4, 6), (3, 0), (3, 0), (6, 0), (48, 0)]
  | .xmax => some [(4, 7), (3, 0), (3, 0), (6, 0), (48, 0)]
  | .blk => some [(4, 8), (3, 0), (3, 0), (6, 0), (48, 0)]
  | .seta planes => some [(4, 9), (3, 0), (3, 0), (6, 0), (48, planes.toNat)]
  | .loop pos => some [(4, 10), (3, 0), (3, 0), (6, 0), (48, pos.toNat)]
  | .brz pos => some [(4, 11), (3, 0), (3, 0), (6, 0), (48, pos.toNat)]
  | .uend => some [(4, 12), (3, 0), (3, 0), (6, 0), (48, 0)]
  | .cp _ _ _ _ _ _ _ _ _ => none
  | .cp2d _ _ _ _ _ _ _ _ _ => none
  | .cpMc _ _ _ _ _ _ _ _ _ => none
  | .cpChain _ _ => none
  | .cpStat _ _ => none
  | .agCfg _ _ => none
  | .cpAg _ _ _ _ _ _ _ _ _ _ _ => none
  | .gqCfg _ _ => none
  | .gqPush _ _ _ => none
  | .gqEnd _ => none
  | .acpyOut _ _ _ _ _ _ _ _ _ _ => none
  | .acpyIn _ _ _ _ _ _ => none
  | .cbInit _ _ => none
  | .cbPush _ _ _ _ => none
  | .cpSeq _ _ _ _ _ _ _ _ => none
  | .copyPiece _ _ => none
  | .copyComplete _ _ => none
  | .gatherRow _ _ => none
  | .landingCount _ => none
  | .slotFilled _ _ => none
  | .wait _ _ _ _ => none
  | .wtag _ => none
  | .wtagClr _ => none
  | .barInit _ _ _ => none
  | .barArv _ _ _ _ _ => none
  | .barMark _ _ _ => none
  | .barWait _ _ _ => none
  | .barPar _ _ => none
  | .barRet _ => none
  | .flPost _ _ _ => none
  | .flPostR _ _ _ _ => none
  | .flagPostArrive _ => none
  | .flWait _ _ _ => none
  | .fenceX _ _ _ => none
  | .fenceSc => none
  | .drain => none
  | .tkWait _ _ _ => none
  | .cbPop _ _ => none
  | .cbRel _ _ _ => none
  | .step => none
  | .seg => none
  | .segOff => none
  | .rdv _ => none
  | .gBar _ => none
  | .gRed _ _ _ _ _ => none
  | .gInfo _ _ => none
  | .bnLd _ _ => none
  | .bnMap _ _ _ _ => none
  | .bnMapx _ _ _ _ => none
  | .lkSend _ _ _ _ _ _ _ _ => none
  | .lkRecv _ _ _ _ _ _ _ _ _ => none
  | .lkStat _ _ _ => none
  | .lkTide _ _ => none
  | .lkCirc _ => none
  | .lkPark _ _ => none
  | .lkRate _ _ => none
  | .frameBoundary => none
  | .tideBoundary => none
  | .circuitSlotBoundary => none
  | .drawerRequest _ => none
  | .drawerResponse _ => none
  | .linkPieceArrive _ => none
  | .linkAck _ _ _ _ _ _ => none
  | .retrainStart _ => none
  | .retrainEnd _ => none
  | .groupLit _ _ _ => none
  | .linkStall _ _ => none
  | .dispatch => none
  | .preemptTimeout => none
  | .contextSave _ => none
  | .dispatcherRestore => none
  | .restore _ => none
  | .clPush _ => none
  | .compactSubmit _ => none
  | .compactPage => none
  | .compactSwap => none
  | .pageFree _ => none
  | .groupEntryWrite _ _ => none
  | .ticketEntryWrite _ _ _ => none
  | .linkControlWrite _ => none
  | .configWrite _ _ => none
  | .controlPeriodEnd _ _ => none
  | .ballastStart _ => none
  | .clusterGate _ => none
  | .clusterWake _ => none
  | .launch _ => none
  | .read _ => none
  | .write _ => none
  | .status _ => none
  | .release _ => none
  | .open _ => none
  | .close _ => none
  | .preempt _ => none
  | .resume _ => none
  | .connectionSetUp _ _ _ _ => none
  | .peerLoadRequest _ _ => none

/-- The 47-bit word of a slot op under guard pg (05 R109); 0 for an instruction that is no slot op. -/
def encodeOp (pg : BitVec 5) (i : Instr) : Nat :=
  match opFields i with
  | some (_, op, r) => pack ((7, op) :: (5, pg.toNat) :: r)
  | none => 0

/-- The 64-bit word of a micro-op (12 R294); 0 for an instruction that is none. -/
def encodeMicro (i : Instr) : Nat := ((microFields i).map pack).getD 0

/-- The image of a bundle of slots with their 47-bit ops, in slot order (05 R106, R107). -/
def encodeBundle (ops : List (Nat × Nat)) : Nat :=
  (ops.map fun p => 2 ^ p.1).sum + 256 * (ops.reverse.foldl (fun a p => a * 2 ^ 47 + p.2) 0)

/-- The n low code words of a bundle image. -/
def splitWords : Nat → Nat → List Nat
  | 0, _ => []
  | n + 1, bits => bits % 65536 :: splitWords n (bits / 65536)

/-- The code words of a literal bundle (05 R98, R104). -/
def literalCode (ops : List (Nat × Nat)) : List Nat :=
  0xFFFF :: splitWords (literalWords ops.length) (encodeBundle ops)

/-- The code words of an instruction standing alone as a literal bundle in the first slot of its class,
with no guard (05 R104); the empty list for an instruction that is no slot op. -/
def encode (i : Instr) : List Nat :=
  match opFields i with
  | some (cls, _, _) =>
    let slot := match cls with
      | .s => 0
      | .v => 1
      | .m => 3
      | .c => 4
      | .y => 6
      | .x => 7
    literalCode [(slot, encodeOp 0 i)]
  | none => []

/-- The instruction of a bundle that holds one op. -/
def soleInstr (word : CodeWord) : Option Instr :=
  match word with
  | .image bits _ =>
    if paddingZero bits then
      match bundleOps bits with
      | [(slot, w)] => match decodeOp (slotClass slot) w with
        | .ok (_, i) => some i
        | .error _ => none
      | _ => none
    else none
  | _ => none

/-- The instruction that the decoder reads from code words whose bits are w, the first code word in
the low bits.  The opcode table gives its rows no bits of their own; an instruction is given here as
the literal bundle that holds it alone (05 R104), and an event has no code words. -/
def decodeTableWord (_nbits w : Nat) : Option Instr :=
  soleInstr (decodeCodeWord (splitWords 25 w) [] 0)

end Sys2Proof
end

