-- ==== Sys2Proof/Machine/Table.lean ====
section
/-! DEFINITION. Tables by number, in one canonical form: entries in rising order of their number, and
no entry equal to the value that an unlisted number reads as.  Memory, register files and the parts
of the device are all held so. -/

namespace Sys2Proof

/-- A table of values by number. -/
abbrev Tab (α : Type) := List (Nat × α)

namespace Tab

variable {α : Type}

/-- The value at k; d where k is not listed. -/
def get (d : α) : Tab α → Nat → α
  | [], _ => d
  | (i, a) :: t, k => if i = k then a else get d t k

/-- Insert or replace the value at k. -/
def insert : Tab α → Nat → α → Tab α
  | [], k, v => [(k, v)]
  | (i, a) :: t, k, v =>
    if i = k then (k, v) :: t
    else if k < i then (k, v) :: (i, a) :: t
    else (i, a) :: insert t k v

/-- Remove the value at k. -/
def erase (t : Tab α) (k : Nat) : Tab α := t.filter (·.1 != k)

/-- Set the value at k, keeping the canonical form for default d. -/
def put [DecidableEq α] (d : α) (t : Tab α) (k : Nat) (v : α) : Tab α :=
  if v = d then erase t k else insert t k v

/-- The canonical form: numbers rise strictly and no entry equals the default. -/
def wf [DecidableEq α] (d : α) (t : Tab α) : Bool :=
  decide (t.Pairwise (fun a b => a.1 < b.1)) && t.all (fun p => p.2 != d)

end Tab
end Sys2Proof
end

