-- ==== Sys2Proof/Machine/State.lean ====
section
/-! DEFINITION. The state of the TJ8: everything that the spec gives the machine, as plain data, and
the state right after device reset.

A register file, a set of parts or a memory is a table by number (Machine/Table.lean) whose unlisted
numbers read as the default that its accessor in Machine/Ops.lean names. -/

namespace Sys2Proof.Machine

open Sys2Proof

/-- A register that an op can name as a destination (06 R129, R130). -/
inductive Reg where
  | s (n : Nat)
  | v (n : Nat)
  | k (n : Nat)
  | bn (n : Nat)
  deriving DecidableEq, Repr, Inhabited

/-- Whether a core runs (07 R172, R174, 08 R184, R190, R199). -/
inductive Run where
  /-- no node -/
  | free
  /-- issuing bundles of a node -/
  | running
  /-- halted by a pre-emption request, waiting for the save -/
  | halted
  /-- the odd core of a lockstep pair, busy with its partner's node -/
  | partner
  deriving DecidableEq, Repr, Inhabited

/-- The access paths (01 R18). -/
inductive Path where
  | cp
  | cy
  | mx
  | ga
  | lk
  deriving DecidableEq, Repr, Inhabited

/-- A party that reads memory: the CP accesses of every core, for which R37 has one order, or an engine of a core on its
path (01 R18, 02 R31, R37). -/
inductive View where
  | cp
  | engine (core : Nat) (path : Path)
  deriving DecidableEq, Repr, Inhabited

/-- Who writes bytes: the core, the unit (those of 08 R182; 11 for CP), the number of its op, whether a fence.sc of the
core has drained since, and the descriptor whose ready tag has released the op's bytes (02 R41, R43, 11 R276).  Core 260
is none. -/
structure Writer where
  core : Nat
  unit : Nat
  op : Nat := 0
  fenced : Bool := false
  tagged : Option Nat := none
  deriving DecidableEq, Repr, Inhabited

/-- A byte that a view still reads as it was, and those who have written over it since (01 R18, log 125, DEDUCED). -/
structure Kept where
  view : View
  pa : Nat
  byte : Byte
  unseen : List Writer
  deriving DecidableEq, Repr, Inhabited

/-- An op of a bundle with its slot, its guard and its 47-bit word (05 R106, R109). -/
structure SlotOp where
  slot : Nat
  pg : BitVec 5
  instr : Instr
  raw : Nat
  deriving DecidableEq, Repr, Inhabited

/-- How the value of an outstanding producer comes about (06 R130, 02 R31). -/
inductive OutKind where
  /-- the register holds its value already; only the mark and the class count remain -/
  | done
  /-- a CP load of n bytes at physical address pa, sign-extended or not; a pair when n = 16 -/
  | load (va pa n : Nat) (signed : Bool)
  /-- an atomic at its home: op code of 17 R378, or cas (op 10), with its operands -/
  | atomic (pa n : Nat) (op : Nat) (a b : W64)
  deriving DecidableEq, Repr, Inhabited

/-- An outstanding producer: a load, an atomic or a long-latency op (06 R130, R132). -/
structure Out where
  id : Nat
  /-- bundle number -/
  seq : Nat
  kind : OutKind
  dst : List Reg
  /-- it counts in class L -/
  inL : Bool
  /-- the address of its bundle -/
  pc : Nat
  /-- the frame in which the request of a window load left (19 R398) -/
  asked : Option Nat
  /-- the cycle at which its bundle issued -/
  since : Nat := 0
  /-- the front-end cycle from which a bundle may read the result; none where no latency is given (06 R131, 09 R216) -/
  ready : Option Nat := none
  deriving DecidableEq, Repr, Inhabited

/-- A CP store that has issued and not left class S (06 R131, R132). -/
structure Sto where
  id : Nat
  seq : Nat
  va : Nat
  pa : Nat
  bytes : List Byte
  /-- it has performed and is about to leave class S -/
  performed : Bool
  /-- the address of its bundle -/
  pc : Nat
  /-- the lanes of vst and vstx: their addresses and values (09 R245, R246) -/
  lanes : List (Nat × W32) := []
  /-- the cycle of the front end from which it may perform (06 R131) -/
  ready : Option Nat := none
  deriving DecidableEq, Repr, Inhabited

/-- A queued op with the registers read at issue (01 R17). -/
structure QEntry where
  instr : Instr
  slot : Nat
  seq : Nat
  vals : List W64
  dst : List Reg
  /-- the address of its bundle -/
  pc : Nat := 0
  /-- it has left its slot queue for the matrix or the link engine and has not started: its turn has not come
  (11 R261), or its start fault has stopped the engine (08 R185, 12 R280) -/
  left : Bool := false
  /-- the parameter and descriptor registers that it read as it left its queue (12 R279) -/
  mps : List W64 := []
  ds : List (BitVec 128) := []
  deriving DecidableEq, Repr, Inhabited

/-- A blocking sync op that holds the front end, with the registers read at issue (06 R154). -/
structure Hold where
  instr : Instr
  slot : Nat
  seq : Nat
  a : W64
  b : W64
  dst : List Reg
  /-- 0: its drain is not complete; 1: it waits for its condition -/
  stage : Nat
  /-- what it waits to change: a phase, a parity, a count of heartbeat ticks or of bundles -/
  mark : Nat
  /-- the physical address it works on -/
  addr : Nat
  /-- it is ended without its condition (06 R154): trap code, TRAP_INFO, TRAP_ADDR -/
  ended : Option (Nat × W64 × W64)
  deriving DecidableEq, Repr, Inhabited

/-- The repeat state (06 R149, R151). -/
structure Rep where
  start : Nat
  len : Nat
  left : Nat
  pos : Nat
  deriving DecidableEq, Repr, Inhabited

/-- The loop buffer: the addresses of the pinned bundles, and of those captured (06 R152). -/
structure LoopBuf where
  pinned : List Nat
  captured : List Nat
  deriving DecidableEq, Repr, Inhabited

/-- A cached translation (08 R196). -/
structure TlbEntry where
  ctx : Nat
  base : Nat
  size : Nat
  pa : Nat
  r : Bool
  w : Bool
  deriving DecidableEq, Repr, Inhabited

/-- An engine fault that is pending in its core (08 R182, R185). -/
structure EFault where
  unit : Nat
  /-- of the link engine: 0 a send queue, 1 a receive, 2 what lk.tide, lk.circ, lk.park and lk.rate set -/
  kind : Nat := 0
  queue : Nat
  cause : Nat
  detail : Nat
  addr : W64
  /-- it has been reported by an ENGINE trap, and its engine waits for rett -/
  taken : Bool
  deriving DecidableEq, Repr, Inhabited

/-- The shadow of a segment (08 R200). -/
structure Shadow where
  s : Tab W64
  pwin : BitVec 16
  f : Tab (BitVec 16)
  k : Tab W128
  mp : Tab W64
  cv : Tab (BitVec 256)
  spill : Tab W64
  deriving DecidableEq, Repr, Inhabited

/-- Segment state (08 R200 to R202). -/
structure Segment where
  /-- segment mode is active -/
  mode : Bool
  entryPc : Nat
  /-- the repeat state at the entry -/
  rep : Option Rep
  /-- the number of the last bundle before the entry -/
  first : Nat
  shadow : Shadow
  buffer : List Sto
  rewinds : Nat
  /-- the group slots that are marked as rewinding (08 R202, R210) -/
  rewinding : BitVec 4
  /-- the bundle at the pc ends the segment and waits for its stores (08 R200) -/
  closing : Bool
  deriving DecidableEq, Repr, Inhabited

/-- The matrix call that runs (12 R293). -/
structure Call where
  entry : QEntry
  routine : Nat
  ma : List W64
  x : BitVec 128
  w : BitVec 128
  tr : Bool
  k : Nat
  n : Nat
  b : Nat
  m : Nat
  g : Nat
  fresh : Bool
  e : Nat
  gc : Nat
  ng : Nat
  z : Bool
  pl : Bool
  tgt : Nat
  pos : Nat
  /-- the first grade latched, and the element codes of every column of each latched grade -/
  first : Nat
  latch : List (List Nat)
  /-- the X rows that the strm in hand has run -/
  pass : Nat
  /-- the call started at a BUDGET_SCALE above 0x0100 (11 R267) -/
  throttled : Bool
  /-- a grade micro-op has run (12 R296) -/
  graded : Bool
  xmax : W32
  nan : Bool
  t0 : W32
  tg : W32
  /-- the anchor choice of ma3 for words of kind WIDE: none for auto -/
  anchor : Option Nat
  deriving DecidableEq, Repr, Inhabited

/-- The accumulator copy that runs (12 R290): its op, its descriptor, the raw images that it read at its
start, the tile rows done and the rounding term so far, 2^e or +∞. -/
structure AcpyRun where
  entry : QEntry
  d : BitVec 128
  images : List (List Byte)
  row : Nat
  rho : Option Int
  rhoInf : Bool
  deriving DecidableEq, Repr, Inhabited

/-- A row of the accumulator store: its header and its 128 words with their tags (03 R68). -/
structure AccRow where
  kind : Bool
  anchor : BitVec 11
  anchored : Bool
  words : Tab (BitVec 2 × BitVec 128)
  deriving DecidableEq, Repr, Inhabited

/-- An address generator (14 R314): the eight words of its block, when loaded. -/
abbrev AgBlock := List W64

/-- A source byte that is read ahead of its piece: its value, none for an uncorrectable error, or none yet where its
address does not resolve (14 R308, R309). -/
inductive Ahead where
  | byte (b : Byte)
  | bad
  | later
  deriving DecidableEq, Repr, Inhabited

/-- An op of a copy channel and how far it has run (14 R302, R307, R312, R320). -/
structure CopyRun where
  entry : QEntry
  started : Bool
  /-- the transfer record in hand: its address (14 R311) -/
  record : Nat
  /-- the words that the op has read once: its record, its generator block, or word 0x18 of its
  descriptor -/
  words : List W64
  /-- the table entry of the indirect dimension that the generator holds, by its index (14 R315) -/
  ind : Option (Nat × W64)
  /-- the element of the next piece, and the bytes of it that are written -/
  elem : Nat
  off : Nat
  /-- the pieces of the element run downwards, once that is decided (14 R307) -/
  down : Option Bool
  /-- the source bytes, when they had to be read before any byte was written: of the whole op or of the
  element in hand (14 R309) -/
  snap : Option (List Ahead)
  whole : Bool
  /-- all bytes are written and the landing counts have been formed -/
  landed : Bool
  /-- the reservation number in a circular buffer (14 R328) -/
  slotNo : Nat
  /-- the record's tag and post are done -/
  noticed : Bool
  /-- the 64-byte sectors written, as rising ranges of sector numbers (14 R306) -/
  spans : List (Nat × Nat)
  deriving DecidableEq, Repr, Inhabited

/-- A copy channel (14 R302, R313). -/
structure Channel where
  fifo : List CopyRun
  ended : Bool
  last : W64
  deriving DecidableEq, Repr, Inhabited

/-- An op waiting in a gather queue (14 R319). -/
inductive GItem where
  | idx (row seq pc : Nat)
  | done (e : QEntry)
  | cfg (e : QEntry)
  deriving DecidableEq, Repr, Inhabited

/-- A gather queue (14 R317 to R319). -/
structure GQueue where
  cfg : Option (List W64)
  items : List GItem
  /-- table rows of the open command popped so far, in push order, and how many of them are written;
  for a combining scatter, how many distinct rows are written -/
  rows : List Nat
  /-- the addresses of the bundles of their pushes -/
  pcs : List Nat
  done : Nat
  /-- the bytes of the row in hand that are written (14 R307) -/
  off : Nat
  /-- every row of the command so far lies in one scratchpad (14 R309), and which -/
  oneSp : Bool
  spad : Option Nat
  /-- the rows that are not written wait until that is decided -/
  waits : Bool
  /-- the bytes that the command has overwritten while it may lie in one scratchpad, or else the row in hand, as they
  were before (14 R309), and those of them that held an uncorrectable error -/
  pre : List Host.Cell
  preErrs : List Nat
  /-- the data rows that a combining scatter has read -/
  data : List (List Byte)
  /-- the command is closed -/
  closing : Bool
  /-- reservation numbers taken by the open command (14 R318) -/
  slots : List Nat
  /-- the sectors written, and whether the landing counts have been formed -/
  spans : List (Nat × Nat)
  landed : Bool
  deriving DecidableEq, Repr, Inhabited

/-- A circular buffer (14 R328): its geometry and how many slots have been reserved, filled, popped
and released since cb.init.  FREE, RESERVED, FILLED and POPPED are the differences of these counts. -/
structure CBuf where
  init : Bool
  base : Nat
  slot : Nat
  nslot : Nat
  reserved : Nat
  filled : Nat
  popped : Nat
  released : Nat
  /-- reserved slots whose bytes have performed and that are not yet FILLED -/
  landed : List Nat
  deriving DecidableEq, Repr, Inhabited

/-- An lk.send in its send queue (19 R395, R397): its flits that have left, those of them that leave again (R394, R408),
each with the frame after which it may, the frame in which the last flit of each piece left, and the numbers of the
pieces that are acknowledged. -/
structure SendOp where
  entry : QEntry
  sent : Nat
  again : List (Nat × Nat) := []
  leftIn : Tab Nat := []
  acked : List Nat
  deriving DecidableEq, Repr, Inhabited

/-- A receive (19 R396, R409). -/
structure Recv where
  posted : Bool
  base : Nat
  n : Nat
  chip : Nat
  bar : Nat
  flag : Nat
  bc : Bool
  fp : Bool
  landed : Nat
  /-- a number of the posting, which no other posting of the receive has -/
  gen : Nat
  deriving DecidableEq, Repr, Inhabited

/-- A message that is landing (19 R396, R409): the sending chip and its op, the receive, the posting that
it was accepted for, the bytes landed and the sectors counted. -/
structure Inbound where
  chip : Nat
  op : Nat
  recv : Nat
  post : Recv
  got : Nat
  spans : List (Nat × Nat)
  deriving DecidableEq, Repr, Inhabited

/-- A core: its sequencer, traps and CSRs, and the engines it feeds (01 R12). -/
structure Core where
  run : Run
  -- the sequencer (06 R126)
  s : Tab W64
  pwin : BitVec 16
  spill : Tab W64
  f : Tab (BitVec 16)
  bn : Tab (BitVec 512)
  pc : Nat
  outs : List Out
  stores : List Sto
  loopBuf : LoopBuf
  rep : Option Rep
  hold : Option Hold
  stallLoad : W64
  stallSkew : W64
  stallSync : W64
  bubbleBr : W64
  /-- the address of the last bundle that issued -/
  issPc : Nat
  /-- the cycle at which it issued -/
  issCycle : Nat
  /-- bundles issued since dispatch, and the bundle of the last executing mcall (11 R262) -/
  seq : Nat
  lastMcall : Option Nat
  /-- the next number of an outstanding op -/
  nextId : Nat
  /-- a request has been sent to a home and is not answered (17 R366) -/
  homeReq : Bool
  -- the running node (07 R168, R172)
  code : List Nat
  dict : List Nat
  node : W64
  launch : W64
  ctx : Nat
  ccb : Nat
  gvalid : BitVec 4
  gid : BitVec 32
  midx : BitVec 32
  service : Bool
  /-- a number of the dispatched node that no other node has had -/
  runId : Nat
  /-- the node has executed nd.done (07 R179, 08 R206) -/
  ndDone : Bool
  -- traps and CSRs (08 R186, R187)
  trapCode : BitVec 8
  trapPc : BitVec 32
  trapInfo : W64
  trapSlot : BitVec 4
  trapAddr : W64
  trapEntry : BitVec 32
  status : BitVec 7
  brkPc : BitVec 32
  brkMask : BitVec 9
  brkCount : BitVec 32
  rwCount : BitVec 32
  stallLimit : BitVec 16
  /-- hidden trap state (08 R183, R201) -/
  hidRep : Option Rep
  hidHold : Option Hold
  hidSeg : Bool
  /-- an asynchronous trap not yet taken: TRAP_INFO of LINK_STALL (19 R405) and of CMPT (08 R199) -/
  stallDue : Option W64
  cmptDue : Option W64
  /-- an uncorrectable error that an outstanding load or atomic has met: the address of the byte, and the number of its
  bundle (02 R29, 08 R202) -/
  uncorrDue : Option (Nat × Nat)
  efaults : List EFault
  segment : Segment
  epoch : Nat
  preReq : Bool
  tlb : List TlbEntry
  tlbMx : List TlbEntry
  tlbCy : List TlbEntry
  tlbGa : List TlbEntry
  tlbLk : List TlbEntry
  -- the vector engine (09 R211, R212)
  v : Tab (List W32)
  k : Tab W128
  -- the matrix engine (11, 12)
  mp : Tab W64
  d : Tab (BitVec 128)
  cv : Tab (BitVec 256)
  acc : Tab AccRow
  ucode : Tab (List W64)
  mq : List QEntry
  call : Option Call
  acpy : Option AcpyRun
  -- the copy engine (14)
  c0q : List QEntry
  c1q : List QEntry
  chans : Tab Channel
  ag : Tab (Option AgBlock)
  gq : Tab GQueue
  cb : Tab CBuf
  cl : Tab W64
  /-- the descriptor to which each cl register is bound: its virtual and physical address and a number
  of the binding -/
  clBind : Tab (Option (W64 × Nat × Nat))
  -- the link engine (19)
  sendq : Tab (List SendOp)
  recvs : Tab Recv
  inbound : List Inbound
  /-- messages refused at their first piece: the sending chip and its op (19 R396) -/
  refused : List (Nat × Nat)
  rate : Tab (BitVec 16)
  /-- rates accepted by lk.rate and not yet in force -/
  rateNext : Tab (Option (BitVec 16))
  rateSent : Tab Nat
  /-- straits whose present retraining has given this core a LINK_STALL (19 R404) -/
  stallTaken : List Nat
  /-- for each strait, the cycles in a row in which it has held the front end (19 R404) -/
  heldFor : Tab Nat
  /-- the cycle at which its last node left it (21 R421) -/
  idleFrom : Nat
  deriving DecidableEq, Repr, Inhabited

/-- The registers as they stood when the bundle issued (06 R129). -/
structure Snap where
  s : Tab W64
  pwin : BitVec 16
  v : Tab (List W32)
  k : Tab W128
  deriving DecidableEq, Repr, Inhabited

/-- The model's own record of the bundle that is being issued.  `core` also names the core of a
micro-op. -/
structure Issue where
  core : Nat
  active : Bool
  /-- the home has answered the bundle's home-decided op (17 R366) -/
  answered : Bool
  pcb : Nat
  npc : Nat
  seq : Nat
  slot : Nat
  ops : List SlotOp
  snap : Snap
  /-- the slot of an op whose two copies differ as it leaves the cluster (08 R199) -/
  lost : Option Nat := none
  /-- the front-end cycle of its core in which it issues (06 R131) -/
  at_ : Nat := 0
  deriving DecidableEq, Repr, Inhabited

/-- A wavelength group of one direction (19 R400). -/
inductive Group where
  | lit
  | parked
  /-- waking from frame boundary b on -/
  | waking (b : Nat)
  deriving DecidableEq, Repr, Inhabited

/-- A strait (19 R386 to R403). -/
structure Strait where
  /-- false: drawers; true: peers -/
  face : Bool
  table : Tab (BitVec 16)
  accepted : Option (List (BitVec 16))
  tx : Tab Group
  rx : Tab Group
  /-- lit masks that lk.park has accepted and that wait for a frame boundary or a retraining's end -/
  parkTx : Option (BitVec 8)
  parkRx : Option (BitVec 8)
  /-- the first and the last frame of the retraining under way -/
  retrain : Option (Nat × Nat)
  deriving DecidableEq, Repr, Inhabited

/-- A request to a drawer (19 R392): the core, the unit that reads (0 for CP, 1 to 8 for the copy channels, 9 to 12 for
the gather queues; the reads of walks have units of their own, walkUnit), the number of a CP load, the link cycle from
which it is ready, the strait, the frame in which it leaves (none until then), and whether its response has arrived.
Core 260 is none: an access that is no more; 261 stands for a walk of no core, or of the checks of a start. -/
structure DrawerReq where
  core : Nat
  unit : Nat
  id : Nat
  pa : Nat
  ready : Nat
  strait : Nat
  frame : Option Nat
  answered : Bool
  deriving DecidableEq, Repr, Inhabited

/-- What leaves on the straits for another chip: a piece of a send (19 R395) with its destination word
and its position, or the answer to a piece or to a window load (19 R397, R398). -/
inductive LinkOut where
  | piece (chip : Nat) (dst pos : Nat) (data : List Byte)
  | ack (chip : Nat) (fault : Option (Nat × Nat))
  | answer (chip : Nat) (data : List Byte)
  deriving DecidableEq, Repr, Inhabited

/-- A circuit schedule (19 R394, R412): its 16 slot words, NSLOT − 1 and the link cycle from which its
rotations run. -/
structure Schedule where
  slots : List W64
  nslot : Nat
  start : Nat
  deriving DecidableEq, Repr, Inhabited

/-- A node in the ready pool (07 R174), with the cycle of its entry. -/
structure PoolNode where
  ctx : Nat
  node : Nat
  launch : Nat
  service : Bool
  prio : Nat
  since : Nat
  /-- the model's number of its entry -/
  order : Nat
  deriving DecidableEq, Repr, Inhabited

/-- An entry of the group table (07 R177). -/
structure GroupEntry where
  rval : W64
  ridx : W64
  rop : BitVec 4
  ract : Bool
  arr : BitVec 9
  ph : Bool
  count : BitVec 8
  ctx : BitVec 4
  gang : Bool
  valid : Bool
  deriving DecidableEq, Repr, Inhabited

/-- A ticket dispenser (16 R362). -/
structure Ticket where
  valid : Bool
  ctx : BitVec 4
  serving : BitVec 32
  next : BitVec 32
  deriving DecidableEq, Repr, Inhabited

/-- An entry of a slab table (16 R351). -/
structure Slab where
  lost : BitVec 32
  count : BitVec 32
  head : W64
  deriving DecidableEq, Repr, Inhabited

/-- A page that waits for its step boundary (16 R359): the cores that held a node of its context, each
with its node's number and its step epoch then. -/
structure FreePage where
  ctx : Nat
  cls : Nat
  va : Nat
  waits : List (Nat × Nat)
  deriving DecidableEq, Repr, Inhabited

/-- The compaction job that runs (16 R357, R358). -/
structure Job where
  pa : Nat
  /-- the next page index, counted from FIRST, and pages moved -/
  pos : Nat
  moved : Nat
  /-- a copy has performed and its swap is due: the map entry, the old page and the new one -/
  swap : Option (Nat × Nat × Nat)
  /-- the descriptor and the page class of that copy, and whether its sequence was dropped since (16 R358) -/
  desc : Nat
  cls : Nat
  lost : Bool
  deriving DecidableEq, Repr, Inhabited

/-- A resident context (08 R188, R189, 21 R431). -/
structure Ctx where
  ccb : Nat
  /-- the connection on which it was OPENed; none when that has ended -/
  conn : Option Nat
  /-- the dispatcher pre-empted it (false: Gentar, or it is not pre-empted) -/
  byDispatcher : Bool
  /-- a stop is under way, and what it ends as: 1 pre-empted, 2 faulted, 3 closed, 4 released -/
  stopping : Option Nat
  /-- its saved nodes are taking their cores again (08 R192, R193) -/
  restoring : Bool
  deriving DecidableEq, Repr, Inhabited

/-- A landing count owed at a barrier (14 R306): the core and the unit whose op owes it, the landing
core, the slot's local offset and the counts left.  The units are those of 08 R182. -/
structure Owed where
  core : Nat
  unit : Nat
  queue : Nat
  land : Nat
  off : Nat
  left : Nat
  /-- the number of the op that owes it -/
  op : Nat := 0
  deriving DecidableEq, Repr, Inhabited

/-- A core as saved (08 R191).  Its scratchpad lies in the save area. -/
structure SavedCore where
  ctx : Nat
  core : Nat
  lock : Bool
  regs : Core
  arms : List Nat
  /-- the memory of its continuation records at the save -/
  record : List Host.Cell
  /-- the landing counts that its faulted ops owe (14 R306) -/
  owed : List Owed
  /-- the check of its continuation records fails (08 R191) -/
  broken : Bool
  deriving DecidableEq, Repr, Inhabited

/-- A post on its way to another core (06 R158). -/
structure Post where
  src : Nat
  dst : Nat
  ctx : Nat
  flag : Nat
  amt : Nat
  /-- the address of its bundle -/
  pc : Nat
  deriving DecidableEq, Repr, Inhabited

/-- A push of LC on its way to a cl register (16 R347). -/
structure Push where
  core : Nat
  reg : Nat
  gen : Nat
  lc : W64
  deriving DecidableEq, Repr, Inhabited

/-- A line of an isle's fabric cache (02 R27, R44). -/
structure FabricLine where
  isle : Nat
  line : Nat
  bytes : List Byte
  deriving DecidableEq, Repr, Inhabited

/-- What Gentar has sent to the host: a response or an event (21 R431, R433). -/
structure HostMsg where
  conn : Nat
  w0 : W64
  value : W64
  len : Nat
  payload : List Byte
  deriving DecidableEq, Repr, Inhabited

/-- The power block (21 R422). -/
structure Power where
  step : BitVec 16
  capW : BitVec 16
  pkgW : BitVec 16
  slope : Bool
  scale : BitVec 16
  gated : BitVec 32
  capExcess : W64
  ballast : W64
  ectr : Tab W64
  /-- clusters that have woken and whose scratchpads no node has taken since (21 R421) -/
  woken : BitVec 32
  /-- clusters that gate as they fall idle, since every context was stopped at once (21 R427) -/
  rampDown : BitVec 32
  /-- ballast ran in the present control period (21 R426) -/
  ballastRan : Bool
  /-- control periods that have ended (21 R424) -/
  periods : Nat
  deriving DecidableEq, Repr, Inhabited

/-- What moves next: an event of the table, a micro-op of core c's matrix engine, or a physical event
that no row of the table names. -/
inductive Turn where
  | event (i : Instr)
  /-- the matrix engine of core c runs the micro-op at its position (12 R293) -/
  | engine (c : Nat)
  /-- an uncorrectable error appears in the byte at pa (02 R29, 08 R202) -/
  | softError (pa : Nat)
  /-- the energy of work for a context is charged (21 R423) -/
  | energy (ctx microjoules : Nat)
  /-- a flit that the circuit switch has misrouted to this chip is discarded (19 R394) -/
  | misroute
  /-- a walk of no core, or of the checks of a start, reads an entry that lies in a drawer (19 R392) -/
  | walkRequest (pa : Nat)
  /-- the far chip sets the lit groups of the receive direction of a peer-facing strait (19 R400) -/
  | farPark (strait : Nat) (mask : BitVec 8)
  /-- the send queue of core c to a chip sends its unacknowledged pieces again (19 R408) -/
  | resend (c chip : Nat)
  /-- every context is stopped at once (21 R427) -/
  | stopAll
  /-- a connection of the host ends (21 R430, R433) -/
  | connectionEnd (conn : Nat)
  /-- a view goes on reading n bytes from pa as it reads them now, until an order lets it no longer (01 R18) -/
  | keepBytes (view : View) (pa n : Nat)
  /-- a view reads those bytes as they are (01 R18) -/
  | seeBytes (view : View) (pa n : Nat)
  /-- a continuation record of a saved core no longer passes its check (08 R191) -/
  | recordError (k : Nat)
  /-- line k of the fabric caches is no longer held (02 R44: a load may read its home again) -/
  | dropLine (k : Nat)
  /-- entry k of a TLB of core c makes room (08 R196): of the core's own (0), or of the micro-TLB of a path,
  1 to 4 for MX, CY, GA and LK -/
  | dropEntry (c tlb k : Nat)
  deriving DecidableEq, Repr, Inhabited

/-- In a trial of what a turn does: the flits of page-table entries in drawers that have been read, while every other entry
there is out of reach: the walk that needs one faults, or finds a page (19 R392; log 56, DESIGN CHOICE). -/
structure Veil where
  here : List Nat
  opens : Bool
  deriving DecidableEq, Repr, Inhabited

/-- The whole device. -/
structure State where
  /-- cores 0 to 255 compute, 256 to 259 serve (01 R11) -/
  cores : Tab Core
  mem : List Host.Cell
  /-- bytes with an uncorrectable error (02 R29) -/
  errs : List Nat
  /-- armed 16-byte slots, by physical address / 16 (14 R321) -/
  armed : List Nat
  /-- marked 8-byte words of descriptors and map entries, by physical address / 8 (16 R341) -/
  marks : List Nat
  fabric : List FabricLine
  /-- bytes that a view reads as they were before they were written on another path (01 R18, R40) -/
  kept : List Kept
  -- clocks and bring-up (01 R13, 21 R428)
  cycle : W64
  hbCount : W64
  stage : Nat
  service : BitVec 2
  /-- the contexts that stage 4 has pre-empted and restores (21 R428) -/
  clockStop : List Nat
  -- the dispatcher (07 R174 to R177)
  dispCtl : BitVec 12
  /-- the class pointers: the position of the core chosen last in each class (07 R176, log 22, DEDUCED) -/
  ptrCompute : Nat
  ptrService : Nat
  pool : List PoolNode
  groups : Tab GroupEntry
  nextRun : Nat
  -- contexts (08 R188 to R193)
  ctxs : Tab (Option Ctx)
  saved : List SavedCore
  -- the homes (16)
  tickets : Tab Ticket
  slabs : Tab Slab
  frees : List FreePage
  jobs : List Nat
  job : Option Job
  pushes : List Push
  posts : List Post
  owed : List Owed
  nextBind : Nat
  -- the straits (19)
  linkCtl : W64
  chip : BitVec 4
  dsize : BitVec 4
  straits : Tab Strait
  gib : Tab (BitVec 16)
  dstraits : Tab (BitVec 16)
  frame : Nat
  frameBase : W64
  framesOn : Bool
  /-- what comes at the end of the present frame has begun, and the next frame is due (19 R387, R401) -/
  turning : Bool
  misroute : BitVec 32
  retrains : BitVec 32
  sched : Option Schedule
  schedNext : Option (List W64 × Nat)
  /-- the link cycle of the next slot boundary that the schedule origin C0 gives (19 R394) -/
  slotDue : Nat
  /-- what has left on the straits to peers, oldest first, and what waits for a frame, with the link cycle
  from which it may leave -/
  linkOut : List LinkOut
  linkWait : List (Nat × LinkOut)
  drawerReqs : List DrawerReq
  /-- the cores and units of engines whose next read has reached its home slices (19 R392) -/
  readsAsked : List (Nat × Nat)
  -- power (21 R422)
  power : Power
  -- the host service (21 R430 to R433)
  conns : Tab (Option Bool)
  hostOut : List HostMsg
  owedAnswers : List (Nat × HostReq)
  -- the model's own fields
  iss : Issue
  agenda : List Turn
  turnNo : Nat
  freeNo : Nat
  /-- in a trial of what a turn does; none otherwise -/
  veil : Option Veil
  deriving DecidableEq, Repr, Inhabited

/-- Why a step of the model stops with a fault: nothing does.  The spec gives every fault of the TJ8 an
effect (a trap, an engine fault, a context fault, a failed launch, a response to the host), and each is a next
state here. -/
inductive Fault where
  deriving DecidableEq, Repr

/-- Why the model refuses an instruction. -/
inductive Refusal where
  /-- raised by exec for an instruction of the table that has no meaning in the model (safe) -/
  | notModelled (mnemonic : String)
  deriving DecidableEq, Repr

/-- The repeat, shadow and segment state of a core with no node. -/
def Shadow.reset : Shadow :=
  { s := [], pwin := 0x0001, f := [], k := [], mp := [], cv := [], spill := [] }

/-- No segment (08 R201). -/
def Segment.reset : Segment :=
  { mode := false, entryPc := 0, rep := none, first := 0, shadow := Shadow.reset, buffer := [], rewinds := 0
    rewinding := 0, closing := false }

/-- A core that has had no node since device reset.  Where the spec gives a register's value only at
dispatch, the register holds that value or zero here (log 3, DESIGN CHOICE). -/
def Core.reset : Core :=
  { run := .free
    s := [], pwin := 0x0001, spill := [], f := [], bn := [], pc := 0
    outs := [], stores := [], loopBuf := { pinned := [], captured := [] }
    rep := none, hold := none
    stallLoad := 0, stallSkew := 0, stallSync := 0, bubbleBr := 0
    issPc := 0, issCycle := 0, seq := 0, lastMcall := none, nextId := 0, homeReq := false
    code := [], dict := [], node := 0, launch := 0, ctx := 0, ccb := 0
    gvalid := 0, gid := 0, midx := 0, service := false, runId := 0, ndDone := false
    trapCode := 0, trapPc := 0, trapInfo := 0, trapSlot := 0, trapAddr := 0
    trapEntry := 0xFFFFFFFF, status := 0, brkPc := 0, brkMask := 0, brkCount := 0, rwCount := 0
    stallLimit := 0x05DC
    hidRep := none, hidHold := none, hidSeg := false, stallDue := none, cmptDue := none, uncorrDue := none, efaults := []
    segment := Segment.reset, epoch := 0, preReq := false
    tlb := [], tlbMx := [], tlbCy := [], tlbGa := [], tlbLk := []
    v := [], k := []
    mp := [], d := [], cv := [], acc := [], ucode := [], mq := [], call := none, acpy := none
    c0q := [], c1q := [], chans := [], ag := [], gq := [], cb := [], cl := [], clBind := []
    sendq := [], recvs := [], inbound := [], refused := [], rate := [], rateNext := [], rateSent := [], stallTaken := []
    heldFor := [], idleFrom := 0 }

/-- A strait at device reset: it faces drawers until bring-up says otherwise, entry 0 of its table is
housekeeping and the rest idle (19 R389), and only group 0 of each direction is lit (19 R406). -/
def Strait.reset : Strait :=
  { face := false, table := [(0, 0xC000)], accepted := none
    tx := [(0, .lit)], rx := [(0, .lit)], parkTx := none, parkRx := none, retrain := none }

/-- The power block at device reset (21 R422). -/
def Power.reset : Power :=
  { step := 0x0010, capW := 0x0C80, pkgW := 0, slope := false, scale := 0x0100, gated := 0
    capExcess := 0, ballast := 0, ectr := [], woken := 0, rampDown := 0, ballastRan := false
    periods := 0 }

/-- No bundle is being issued. -/
def Issue.none : Issue :=
  { core := 0, active := false, answered := false, pcb := 0, npc := 0, seq := 0, slot := 0, ops := []
    snap := { s := [], pwin := 0x0001, v := [], k := [] } }

/-- The device right after reset (21 R428, stage 1).  Values that the spec gives no register are those
of log 3, DESIGN CHOICE. -/
def State.reset : State :=
  { cores := [], mem := [], errs := [], armed := [], marks := [], fabric := [], kept := []
    cycle := 0, hbCount := 0, stage := 1, service := 0, clockStop := []
    dispCtl := 0x402, ptrCompute := 0, ptrService := 0, pool := [], groups := [], nextRun := 1
    ctxs := [], saved := []
    tickets := [], slabs := [], frees := [], jobs := [], job := none
    pushes := [], posts := [], owed := [], nextBind := 0
    linkCtl := 0, chip := 0, dsize := 0, straits := [], gib := [], dstraits := []
    frame := 0, frameBase := 0, framesOn := false, turning := false, misroute := 0, retrains := 0
    sched := none, schedNext := none, slotDue := 0, linkOut := [], linkWait := [], drawerReqs := [], readsAsked := []
    power := Power.reset, conns := [], hostOut := [], owedAnswers := []
    iss := Issue.none, agenda := [], turnNo := 0, freeNo := 0, veil := none }

end Sys2Proof.Machine
end

