-- ==== Sys2Proof/Config.lean ====
section
/-! DEFINITION. What the spec leaves open: free values, constants with no body, so that no proof can
rest on one value of them.  Each is named in a log entry. -/

namespace Sys2Proof

open Sys2Proof.Machine

/-- Which agent moves next, where State.agenda does not say: the n-th choice (log 1, DESIGN CHOICE). -/
opaque Config.turn : Nat → Turn

/-- The cycles that pass between two steps of the machine, at the n-th choice (log 5, DESIGN CHOICE). -/
opaque Config.elapse : Nat → Nat

/-- The byte that the home of a peer chip answers for an address of its memory, at the n-th request
(log 9, DESIGN CHOICE). -/
opaque Config.peerByte : Nat → Nat → Byte

/-- TEMP of a core at the n-th placement: an 8-bit sensor code (07 R176, log 9, DESIGN CHOICE). -/
opaque Config.temp : Nat → Nat → BitVec 8

/-- DROOP of a core at the n-th placement: a 6-bit sensor code (07 R176, log 9, DESIGN CHOICE). -/
opaque Config.droop : Nat → Nat → BitVec 6

/-- A drawer load misses the cache of its home slice, at the n-th load (log 9, DESIGN CHOICE). -/
opaque Config.miss : Nat → Bool

/-- The core with which the round-robin of a frame begins, at the n-th frame (19 R395, log 9, DESIGN CHOICE). -/
opaque Config.firstSender : Nat → Nat

/-- The far chip has a piece of a message that has not begun to land and that a retraining from the first frame on keeps:
by that frame and its chip (19 R403, R404, log 9, DESIGN CHOICE). -/
opaque Config.pieceHeld : Nat → Nat → Bool

/-- The circuit switch misroutes a flit of this chip, at the n-th flit (19 R394, log 9, DESIGN CHOICE). -/
opaque Config.misrouted : Nat → Bool

/-- The cycles for which access `id` of core c waits for its banks, where something shares them (15 R335, log 127, DESIGN
CHOICE). -/
opaque Config.bankWait : Nat → Nat → Nat

/-- The device serial number (21 R429, log 9, DESIGN CHOICE). -/
opaque Config.serial : W64

/-- What CORE_ID reads on service core k: the spec numbers only the compute cores (log 12, DESIGN CHOICE). -/
opaque Config.serviceCoreId : Nat → BitVec 8

/-- A value that the spec does not state, at its n-th use: TRAP_INFO of a rep body's ILLEGAL_OP
(06 R150, log 18, DESIGN CHOICE). -/
opaque Config.unstated : Nat → W64

/-- A word of the continuation records of a saved core, at the n-th save (08 R191, log 30, DEDUCED). -/
opaque Config.recordWord : Nat → Nat → W64

/-- A byte of the scratchpad of a gated cluster, at the n-th access and its address (21 R421, log 20, DESIGN CHOICE). -/
opaque Config.gatedByte : Nat → Nat → Byte

end Sys2Proof
end

