-- ==== Sys2Proof/Machine/Memory.lean ====
section
/-! DEFINITION. Bytes of memory by physical address, in the canonical form of Machine/Table.lean: an
address that is not listed reads as zero (log 4, DESIGN CHOICE).  Words are little-endian (03 R56). -/

namespace Sys2Proof.Machine

open Sys2Proof

/-- What a byte that nothing has written reads as (log 4, DESIGN CHOICE). -/
def unlistedByte : Byte := 0

/-- The number of little-endian bytes. -/
def leNat : List Byte → Nat
  | [] => 0
  | b :: bs => b.toNat + 256 * leNat bs

/-- The n little-endian bytes of a number. -/
def leBytes : Nat → Nat → List Byte
  | 0, _ => []
  | n + 1, x => BitVec.ofNat 8 x :: leBytes n (x / 256)

/-- Memory as State holds it. -/
abbrev Memory := List Host.Cell

/-- One byte. -/
def Memory.get (m : Memory) (a : Nat) : Byte := Tab.get unlistedByte m a

/-- The cells of a run of bytes from address a, without those that read as unlisted. -/
def Memory.run : Nat → List Byte → Memory
  | _, [] => []
  | a, b :: bs => if b = unlistedByte then Memory.run (a + 1) bs else (a, b) :: Memory.run (a + 1) bs

/-- The bytes from address a on replaced by bs. -/
def Memory.write (m : Memory) (a : Nat) (bs : List Byte) : Memory :=
  m.filter (fun c => c.1 < a) ++ (Memory.run a bs ++ m.filter (fun c => a + bs.length ≤ c.1))

/-- The n bytes from address a on. -/
def Memory.read (m : Memory) (a n : Nat) : List Byte :=
  let w : Memory := m.filter (fun c => a ≤ c.1 && c.1 < a + n)
  (List.range n).map fun i => Memory.get w (a + i)

/-- The canonical form: addresses rise strictly, and no cell reads as an unlisted one. -/
def Memory.wf (m : Memory) : Bool := Tab.wf unlistedByte m

/-- The bytes of n addresses from a on are poisoned or not (02 R29). -/
def poisoned (errs : List Nat) (a n : Nat) : Option Nat := errs.find? fun e => a ≤ e && e < a + n

/-- One byte of memory. -/
def State.byte (s : State) (pa : Nat) : Byte := Memory.get s.mem pa

/-- SpBase(c).  The scratchpads of the service cores have no physical address in R25; the model keeps
them above the 52-bit space (log 12, DESIGN CHOICE). -/
def spBase (c : Nat) : Nat :=
  if c < 256 then 0x4000000000 + c * 0x200000 else 2 ^ 52 + (c - 256) * 0x200000

/-- The core whose scratchpad holds pa. -/
def spCore (pa : Nat) : Option Nat :=
  if 0x4000000000 ≤ pa ∧ pa < 0x4000000000 + 256 * 0x200000 then some ((pa - 0x4000000000) / 0x200000)
  else if 2 ^ 52 ≤ pa ∧ pa < 2 ^ 52 + 4 * 0x200000 then some (256 + (pa - 2 ^ 52) / 0x200000)
  else none

/-- pa lies in the scratchpad of a gated cluster, which keeps no contents (21 R421). -/
def State.gatedAt (s : State) (pa : Nat) : Bool :=
  match spCore pa with
  | some c => c < 256 && s.power.gated.getLsbD (c / 8)
  | none => false

/-- The n bytes of memory from physical address pa on. -/
def State.readBytes (s : State) (pa n : Nat) : List Byte :=
  if s.gatedAt pa then (List.range n).map fun i => Config.gatedByte s.freeNo (pa + i)
  else Memory.read s.mem pa n

/-- An n-byte word of memory. -/
def State.readNat (s : State) (pa n : Nat) : Nat := leNat (s.readBytes pa n)

/-- An 8-byte word of memory. -/
def State.readW (s : State) (pa : Nat) : W64 := BitVec.ofNat 64 (s.readNat pa 8)

/-! ## What a path sees of another's writes (01 R18, 02 R37 to R43)

Memory holds what its homes and scratchpads hold.  A view may go on reading a byte as it was before another path wrote it
(State.kept), from a turn that says so until an order of 02 R40 to R43 or 11 R276 lets it no longer (log 125, DEDUCED). -/

/-- The view of core c on a path: CP accesses of all cores share one (02 R37). -/
def viewOf (c : Nat) (p : Path) : View :=
  match p with
  | .cp => .cp
  | p => .engine c p

/-- The path on which a unit writes: CP is unit 11 here. -/
def Writer.path (w : Writer) : Path :=
  if w.unit = 0 then .mx else if w.unit ≤ 8 then .cy else if w.unit = 9 then .ga else if w.unit = 10 then .lk else .cp

/-- The CP path of a core, and what writes for no core: a home, the dispatcher, a request of the host, a message from
another chip, whose bytes have performed once they are written (02 R37, 19 R396). -/
def Writer.cp (c : Nat) : Writer := { core := c, unit := 11 }
def Writer.home : Writer := .cp 260

/-- The view of a writer: it reads its own writes. -/
def Writer.view (w : Writer) : View := viewOf w.core w.path

/-- The byte that a view keeps at pa. -/
def State.keptAt (s : State) (v : View) (pa : Nat) : Option Kept := s.kept.find? fun x => x.view == v && x.pa == pa

/-- Laying the kept bytes of a view over those from pa on. -/
def layKept (k : List Kept) (v : View) (pa : Nat) (bs : List Byte) : List Byte :=
  bs.zipIdx.map fun b => match k.find? fun x => x.view == v && x.pa == pa + b.2 with
    | some x => x.byte
    | none => b.1

/-- The n bytes from pa on as a view reads them. -/
def State.readAs (s : State) (v : View) (pa n : Nat) : List Byte :=
  match s.kept with
  | [] => s.readBytes pa n
  | k => layKept k v pa (s.readBytes pa n)

/-- An n-byte word as a view reads it, and one byte. -/
def State.natAs (s : State) (v : View) (pa n : Nat) : Nat := leNat (s.readAs v pa n)
def State.byteAs (s : State) (v : View) (pa : Nat) : Byte := (s.readAs v pa 1).headD 0

/-- A kept byte once a writer has written n bytes from pa on: the writer's own view keeps none of them. -/
def Kept.written (w : Writer) (pa n : Nat) (x : Kept) : Option Kept :=
  if pa ≤ x.pa && x.pa < pa + n then (if x.view = w.view then none else some { x with unseen := w :: x.unseen }) else some x

/-- A writer writes bytes: a written byte holds no error any more. -/
def State.writeBy (s : State) (w : Writer) (pa : Nat) (bs : List Byte) : State :=
  { s with
    mem := Memory.write s.mem pa bs
    errs := s.errs.filter fun e => !(pa ≤ e && e < pa + bs.length)
    kept := s.kept.filterMap (Kept.written w pa bs.length) }

/-- A home writes bytes. -/
def State.writeBytes (s : State) (pa : Nat) (bs : List Byte) : State := s.writeBy .home pa bs

/-- A view keeps no byte of those from pa on. -/
def State.seeBytes (s : State) (v : View) (pa n : Nat) : State :=
  { s with kept := s.kept.filter fun x => !(x.view = v && pa ≤ x.pa && x.pa < pa + n) }

/-- Every view sees bytes that are placed as a whole: by a save, a restore or the wake of a cluster. -/
def State.seeAll (s : State) (pa n : Nat) : State :=
  { s with kept := s.kept.filter fun x => !(pa ≤ x.pa && x.pa < pa + n) }

/-- The engines of core c see memory as it is: a node starts or leaves (02 R41, 07 R179). -/
def State.freshViews (s : State) (c : Nat) : State :=
  { s with kept := s.kept.filter fun x => match x.view with
      | .cp => true
      | .engine d _ => d != c }

/-- A release point (02 R41): CP accesses see the bytes that writers of a kind have written at the addresses of a kind. -/
def State.release (s : State) (who : Writer → Bool) (at_ : Nat → Bool) : State :=
  { s with kept := s.kept.filter fun x => !(x.view == .cp && at_ x.pa && x.unseen.any who) }

/-- Every write of core c is released, at device scope (07 R179, R180). -/
def State.releaseAll (s : State) (c : Nat) : State := s.release (·.core == c) fun _ => true

/-- Change every writer that a kept byte names. -/
def State.mapWriters (s : State) (f : Writer → Writer) : State :=
  { s with kept := s.kept.map fun x => { x with unseen := x.unseen.map f } }

/-- The op of a writer is that of another writer. -/
def Writer.sameOp (w y : Writer) : Bool := y.core == w.core && y.unit == w.unit && y.op == w.op

/-- The ready tag of descriptor d of core c is set at the completion of an op of a unit, or means that no more (11 R276). -/
def State.tagBytes (s : State) (w : Writer) (d : Nat) : State :=
  s.mapWriters fun y => if w.sameOp y then { y with tagged := some d } else y
def State.untag (s : State) (c d : Nat) : State :=
  s.mapWriters fun y => if y.core = c ∧ y.tagged = some d then { y with tagged := none } else y

/-- An op of core c leaves its queue on the ready tags of descriptors: its MX reads see what they released (11 R276). -/
def State.seeTagged (s : State) (c : Nat) (ds : List Nat) : State :=
  { s with kept := s.kept.filter fun x => !(x.view == .engine c .mx
      && x.unseen.any fun y => y.core == c && ds.any fun d => y.tagged == some d) }

/-- An op is over: what its unit writes next under its number is the write of another (a record of a chain, a command of a
gather queue). -/
def State.overWriter (s : State) (w : Writer) : State :=
  s.mapWriters fun y => if w.sameOp y then { y with op := y.op + 1 } else y

/-- Two parties, the second a writer, and the address are within the scope of a fence of core c (02 R32, R40): a service
core is in no cluster. -/
def inScope (scope c pa : Nat) (w : Writer) : Bool :=
  let same := w.core == c || w.core == 260
  match scope with
  | 0 => same && spCore pa == some c
  | 1 => same || (c < 256 && w.core / 8 == c / 8)
  | 2 => same || (c < 256 && w.core / 64 == c / 64)
  | _ => true

/-- A kept byte of the path Q of core c once its fence.x P, Q at a scope completes (02 R40): what the accesses of the core
on P have performed is seen, and for P = CP what CP accesses see (R42). -/
def State.fenced (s : State) (c : Nat) (p q : Path) (scope : Nat) (x : Kept) : Option Kept :=
  let by_ := x.unseen.filter (inScope scope c x.pa)
  if x.view ≠ viewOf c q then some x
  else if p = .cp then
    (match s.keptAt .cp x.pa with
    | none => if by_.isEmpty then some x else none
    | some y => if by_.any (·.unit == 11) then some { x with byte := y.byte, unseen := y.unseen } else some x)
  else if by_.any fun w => w.core == c && w.path == p then none else some x
def State.fenceX (s : State) (c : Nat) (p q : Path) (scope : Nat) : State :=
  { s with kept := s.kept.filterMap (s.fenced c p q scope) }

/-- fence.sc of core c (02 R43): once its paths are drained its writes are seen by CP accesses, and by whoever fences
later; at its tick it sees those of the fences before it. -/
def State.scDrained (s : State) (c : Nat) : State :=
  let t := s.release (·.core == c) fun _ => true
  t.mapWriters fun w => if w.core = c then { w with fenced := true } else w
def State.scDone (s : State) (c : Nat) : State :=
  { s with kept := s.kept.filter fun x => match x.view with
      | .engine d _ => d != c || !x.unseen.any fun w => w.fenced
      | .cp => true }

/-- Write an n-byte word. -/
def State.writeNat (s : State) (pa n x : Nat) : State := s.writeBytes pa (leBytes n x)

/-- Write an 8-byte word. -/
def State.writeW (s : State) (pa : Nat) (x : W64) : State := s.writeNat pa 8 x.toNat

end Sys2Proof.Machine
end

