-- ==== Sys2Proof/Machine/Ops.lean ====
section
/-! DEFINITION. The named operations over the state: reading and writing registers, marks and counts,
the one operation that takes a trap (08 R183) and the return from it (08 R204). -/

namespace Sys2Proof.Machine

open Sys2Proof

/-- What a meaning answers. -/
abbrev Out3 := Host.Outcome State Fault Refusal

/-! ## Bits -/

/-- The field of len bits from bit lo of a number. -/
def bitsAt (x lo len : Nat) : Nat := x / 2 ^ lo % 2 ^ len

/-- The field of len bits from bit lo of a word. -/
def fld {n : Nat} (x : BitVec n) (lo len : Nat) : Nat := bitsAt x.toNat lo len

/-- A word with the field of len bits from bit lo replaced by the low bits of v. -/
def setFld {n : Nat} (x : BitVec n) (lo len v : Nat) : BitVec n :=
  let mask : BitVec n := .ofNat n ((2 ^ len - 1) * 2 ^ lo)
  (x &&& ~~~mask) ||| .ofNat n (v % 2 ^ len * 2 ^ lo)

/-- A field sign-extended to 64 bits. -/
def sx {n : Nat} (x : BitVec n) : W64 := x.signExtend 64

/-- The number of a Bool. -/
def b2n (b : Bool) : Nat := if b then 1 else 0

/-- The signed value of a number of w bits. -/
def signed (w x : Nat) : Int := if x % 2 ^ w < 2 ^ (w - 1) then (x % 2 ^ w : Nat) else (x % 2 ^ w : Nat) - (2 ^ w : Nat)

/-- Replace the element at index i of a list. -/
def setAt {α : Type} (l : List α) (i : Nat) (a : α) : List α := l.set i a

/-! ## Cores -/

/-- The core at index c (01 R11). -/
def State.core (s : State) (c : Nat) : Core := Tab.get Core.reset s.cores c

/-- Replace the core at index c. -/
def State.setCore (s : State) (c : Nat) (k : Core) : State :=
  { s with cores := Tab.put Core.reset s.cores c k }

/-- Change the core at index c. -/
def State.modCore (s : State) (c : Nat) (f : Core → Core) : State := s.setCore c (f (s.core c))

/-- The core on which a slot op or a micro-op acts. -/
def State.cur (s : State) : Nat := s.iss.core

/-- That core. -/
def State.curCore (s : State) : Core := s.core s.iss.core

/-- Change that core. -/
def State.modCur (s : State) (f : Core → Core) : State := s.modCore s.iss.core f

/-- Every core index of the device (01 R11). -/
def allCores : List Nat := List.range 260

/-! ## Registers -/

/-- A scalar register of a core: s0 reads as zero (06 R127). -/
def Core.getS (k : Core) (n : Nat) : W64 := if n = 0 then 0 else Tab.get 0 k.s n

/-- Write a scalar register: a write to s0 is discarded (06 R127). -/
def Core.setS (k : Core) (n : Nat) (x : W64) : Core :=
  if n = 0 then k else { k with s := Tab.put 0 k.s n x }

/-- The default of a vector register. -/
def zeroLanes : List W32 := List.replicate 128 0

/-- A vector register (09 R211). -/
def Core.getV (k : Core) (n : Nat) : List W32 := Tab.get zeroLanes k.v n

/-- Write a vector register. -/
def Core.setV (k : Core) (n : Nat) (x : List W32) : Core := { k with v := Tab.put zeroLanes k.v n x }

/-- A mask register: k0 reads all ones (09 R212). -/
def Core.getK (k : Core) (n : Nat) : W128 := if n = 0 then BitVec.allOnes 128 else Tab.get 0 k.k n

/-- Write a mask register: a write to k0 is discarded (09 R212). -/
def Core.setK (k : Core) (n : Nat) (x : W128) : Core :=
  if n = 0 then k else { k with k := Tab.put 0 k.k n x }

/-- Predicate n of a window: p0 reads 1 (06 R128). -/
def predBit (pwin : BitVec 16) (n : Nat) : Bool := n == 0 || pwin.getLsbD n

/-- The registers of the current bundle as they stood before it, or the live ones when no bundle is
being issued (06 R129). -/
def State.snap (s : State) : Snap :=
  if s.iss.active then s.iss.snap
  else { s := s.curCore.s, pwin := s.curCore.pwin, v := s.curCore.v, k := s.curCore.k }

/-- A scalar source register. -/
def State.srcS (s : State) (r : SR) : W64 := if r = 0 then 0 else Tab.get 0 s.snap.s r.toNat

/-- The upper register of an even pair (06 R141). -/
def State.srcS1 (s : State) (r : SR) : W64 := s.srcS (r ||| 1)

/-- A vector source register. -/
def State.srcV (s : State) (r : VR) : List W32 := Tab.get zeroLanes s.snap.v r.toNat

/-- A mask source register. -/
def State.srcK (s : State) (r : KR) : W128 :=
  if r = 0 then BitVec.allOnes 128 else Tab.get 0 s.snap.k r.toNat

/-- A predicate as it stood before the bundle (06 R110, R128). -/
def State.srcP (s : State) (n : PR) : Bool := predBit s.snap.pwin n.toNat

/-- Write a scalar register of the current core. -/
def State.dstS (s : State) (r : SR) (x : W64) : State := s.modCur (·.setS r.toNat x)

/-- Write PWIN of the current core: bit 0 stays 1 (06 R128). -/
def State.dstPwin (s : State) (x : BitVec 16) : State := s.modCur fun k => { k with pwin := x ||| 1 }

/-- Write a vector register of the current core. -/
def State.dstV (s : State) (r : VR) (x : List W32) : State := s.modCur (·.setV r.toNat x)

/-- Write a mask register of the current core. -/
def State.dstK (s : State) (r : KR) (x : W128) : State := s.modCur (·.setK r.toNat x)

/-- Write a register named by a mark. -/
def Core.setReg (k : Core) (r : Reg) (x : Nat) : Core :=
  match r with
  | .s n => k.setS n (.ofNat 64 x)
  | .k n => k.setK n (.ofNat 128 x)
  | .bn n => { k with bn := Tab.put 0 k.bn n (.ofNat 512 x) }
  | .v n => k.setV n ((List.range 128).map fun i => .ofNat 32 (x / 2 ^ (32 * i)))

/-- A lane of a vector register. -/
def lane (x : List W32) (i : Nat) : W32 := x.getD i 0

/-- A counting flag, a tag, a parameter, a descriptor and a coverage record of a core. -/
def Core.flag (k : Core) (n : Nat) : BitVec 16 := Tab.get 0 k.f n
def Core.desc (k : Core) (n : Nat) : BitVec 128 := Tab.get 0 k.d n
def Core.param (k : Core) (n : Nat) : W64 := Tab.get 0 k.mp n
def Core.cover (k : Core) (n : Nat) : BitVec 256 := Tab.get 0 k.cv n
def Core.bnet (k : Core) (n : Nat) : BitVec 512 := Tab.get 0 k.bn n
def Core.spillAt (k : Core) (n : Nat) : W64 := Tab.get 0 k.spill n

/-- TAG of descriptor i (11 R256). -/
def Core.tag (k : Core) (i : Nat) : Bool := (k.desc i).getLsbD 81

/-- Set TAG of descriptor i. -/
def Core.setTag (k : Core) (i : Nat) (v : Bool) : Core :=
  { k with d := Tab.put 0 k.d i (setFld (k.desc i) 81 1 (b2n v)) }

/-- An empty channel, gather queue, buffer, receive and accumulator row. -/
def Channel.reset : Channel := { fifo := [], ended := false, last := 0 }
def GQueue.reset : GQueue :=
  { cfg := none, items := [], rows := [], pcs := [], done := 0, off := 0, oneSp := true, spad := none, waits := false, pre := []
    preErrs := [], data := [], closing := false, slots := [], spans := [], landed := false }
def CBuf.reset : CBuf :=
  { init := false, base := 0, slot := 0, nslot := 0, reserved := 0, filled := 0, popped := 0
    released := 0, landed := [] }
def Recv.reset : Recv :=
  { posted := false, base := 0, n := 0, chip := 0, bar := 0, flag := 0, bc := false, fp := false
    landed := 0, gen := 0 }
def AccRow.reset : AccRow := { kind := false, anchor := 0, anchored := false, words := [] }
def GroupEntry.reset : GroupEntry :=
  { rval := 0, ridx := 0, rop := 0, ract := false, arr := 0, ph := false, count := 0, ctx := 0
    gang := false, valid := false }
def Ticket.reset : Ticket := { valid := false, ctx := 0, serving := 0, next := 0 }
def Slab.reset : Slab := { lost := 0, count := 0, head := 0 }

def Core.chan (k : Core) (n : Nat) : Channel := Tab.get Channel.reset k.chans n
def Core.setChan (k : Core) (n : Nat) (x : Channel) : Core :=
  { k with chans := Tab.put Channel.reset k.chans n x }
def Core.gqueue (k : Core) (n : Nat) : GQueue := Tab.get GQueue.reset k.gq n
def Core.setGq (k : Core) (n : Nat) (x : GQueue) : Core :=
  { k with gq := Tab.put GQueue.reset k.gq n x }
def Core.cbuf (k : Core) (n : Nat) : CBuf := Tab.get CBuf.reset k.cb n
def Core.setCb (k : Core) (n : Nat) (x : CBuf) : Core := { k with cb := Tab.put CBuf.reset k.cb n x }
def Core.recv (k : Core) (n : Nat) : Recv := Tab.get Recv.reset k.recvs n
def Core.sends (k : Core) (n : Nat) : List SendOp := Tab.get [] k.sendq n
def Core.accRow (k : Core) (n : Nat) : AccRow := Tab.get AccRow.reset k.acc n
def Core.setRow (k : Core) (n : Nat) (x : AccRow) : Core :=
  { k with acc := Tab.put AccRow.reset k.acc n x }
def State.group (s : State) (n : Nat) : GroupEntry := Tab.get GroupEntry.reset s.groups n
def State.setGroup (s : State) (n : Nat) (x : GroupEntry) : State :=
  { s with groups := Tab.put GroupEntry.reset s.groups n x }
def State.ticket (s : State) (n : Nat) : Ticket := Tab.get Ticket.reset s.tickets n
def State.slab (s : State) (ctx cls : Nat) : Slab := Tab.get Slab.reset s.slabs (4 * ctx + cls)
def State.setSlab (s : State) (ctx cls : Nat) (x : Slab) : State :=
  { s with slabs := Tab.put Slab.reset s.slabs (4 * ctx + cls) x }
def State.strait (s : State) (n : Nat) : Strait := Tab.get Strait.reset s.straits n
def State.setStrait (s : State) (n : Nat) (x : Strait) : State :=
  { s with straits := Tab.put Strait.reset s.straits n x }
def State.ctx (s : State) (n : Nat) : Option Ctx := Tab.get none s.ctxs n

/-! ## STATUS (08 R187) -/

def Core.statusBit (k : Core) (i : Nat) : Bool := k.status.getLsbD i
def Core.setStatus (k : Core) (i : Nat) (v : Bool) : Core :=
  { k with status := setFld k.status i 1 (b2n v) }

/-- HS, handler state. -/
def Core.hs (k : Core) : Bool := k.statusBit 5
/-- SEG, inside a segment. -/
def Core.seg (k : Core) : Bool := k.statusBit 6

/-- SetSat() (03 R63). -/
def State.setSat (s : State) (c : Nat) (v : Bool) : State :=
  if v then s.modCore c (·.setStatus 3 true) else s

/-- A post of amt to flag n of a core: it saturates at 0xFFFF and sets SAT when it would pass that
(06 R157). -/
def Core.post (k : Core) (n amt : Nat) : Core :=
  let t := (k.flag n).toNat + amt
  if 0xFFFF < t then { k with f := Tab.put 0 k.f n 0xFFFF }.setStatus 3 true
  else { k with f := Tab.put 0 k.f n (.ofNat 16 t) }

/-! ## Address-space geometry (02 R23, R25) -/

/-- pa lies in the scratchpad of core c. -/
def inOwn (c pa : Nat) : Bool := spCore pa == some c

/-- The isle of a core.  A service core lies on no isle: its window loads and its step use the fabric cache of isle 0
(log 101, DESIGN CHOICE). -/
def isleOf (c : Nat) : Nat := c / 64 % 4

/-- CORE_ID (08 R186): the lockstep partner reads its even core's index, which is the core that
issues. -/
def coreId (c : Nat) : BitVec 8 := if c < 256 then .ofNat 8 c else Config.serviceCoreId (c - 256)

/-- A core that runs a node of context x (14 R304). -/
def State.runsCtx (s : State) (c x : Nat) : Bool :=
  ((s.core c).run == .running || (s.core c).run == .halted) && (s.core c).ctx == x

/-! ## Outstanding ops and marks (06 R130 to R132) -/

/-- Add an outstanding producer to the current core. -/
def Core.addOut (k : Core) (seq : Nat) (kind : OutKind) (dst : List Reg) (inL : Bool) : Core :=
  let o : Out := { id := k.nextId, seq := seq, kind := kind, dst := dst, inL := inL, pc := k.issPc
                   asked := none, since := k.issCycle }
  { k with outs := k.outs ++ [o], nextId := k.nextId + 1 }

/-- A result of latency above 1 is in its register at issue and carries its mark until LOAD_RETURN. -/
def State.markS (s : State) (r : SR) : State :=
  if r = 0 then s else s.modCur (·.addOut s.iss.seq .done [.s r.toNat] false)

/-- The same for an op that counts in class L until its result is written (06 R132). -/
def State.markL (s : State) (r : SR) : State :=
  s.modCur (·.addOut s.iss.seq .done (if r = 0 then [] else [.s r.toNat]) true)

/-- The same for a vector register. -/
def State.markV (s : State) (r : VR) : State := s.modCur (·.addOut s.iss.seq .done [.v r.toNat] false)

/-- The same for a mask register. -/
def State.markK (s : State) (r : KR) : State :=
  if r = 0 then s else s.modCur (·.addOut s.iss.seq .done [.k r.toNat] false)

/-- A blocking sync op holds the front end after its bundle (06 R154): with the registers it read, its
destination, what it waits to change and the address it works on. -/
def State.holdOn (s : State) (i : Instr) (a b : W64) (dst : List Reg) (mark addr : Nat) : State :=
  let h : Hold := { instr := i, slot := s.iss.slot, seq := s.iss.seq, a := a, b := b, dst := dst
                    stage := 0, mark := mark, addr := addr, ended := none }
  s.modCur fun k => { k with hold := some h }

/-- The destination of a hold: s0 carries no mark (06 R127). -/
def dstReg (r : SR) : List Reg := if r = 0 then [] else [.s r.toNat]

/-- The cycles of the front end since dispatch: those in which a bundle issued, and those that its counters name (06 R134). -/
def Core.frontCycle (k : Core) : Nat :=
  k.seq + k.stallLoad.toNat + k.stallSkew.toNat + k.stallSync.toNat + k.bubbleBr.toNat

/-- A time that the front end counts has come; it counts none while the core does not run (06 R131, 08 R190). -/
def Core.reached (k : Core) (ready : Option Nat) : Bool :=
  match ready with
  | some t => t ≤ k.frontCycle
  | none => true

/-- The latency of an outstanding op has passed (06 R131). -/
def Core.timeUp (k : Core) (o : Out) : Bool := k.reached o.ready

/-- A result that its register holds and whose exact latency has passed: it carries no mark and counts no more (06 R131,
09 R216). -/
def Core.ripe (k : Core) (o : Out) : Bool := o.kind == .done && o.ready.isSome && k.timeUp o

/-- The registers that carry a pending mark. -/
def Core.marks (k : Core) : List Reg :=
  (k.outs.filter (!k.ripe ·)).flatMap (·.dst) ++ k.mq.flatMap (·.dst) ++ k.c0q.flatMap (·.dst) ++ k.c1q.flatMap (·.dst)
    ++ (match k.hold with
        | some h => h.dst
        | none => [])
    ++ (match k.hidHold with
        | some h => h.dst
        | none => [])

/-- Is the instruction acpy.out or acpy.in, which count in class T (06 R132)? -/
def isAcpy : Instr → Bool
  | .acpyOut .. => true
  | .acpyIn .. => true
  | _ => false

/-- A held op that counts in class L until its result is written: bar.wait (14 R326). -/
def Hold.inL (h : Hold) : Bool :=
  match h.instr with
  | .barWait .. => true
  | _ => false

/-- The count of class L. -/
def Core.countL (k : Core) : Nat :=
  (k.outs.filter fun o => o.inL && !k.ripe o).length + (k.hold.toList.filter (·.inL)).length + (k.hidHold.toList.filter (·.inL)).length

/-- The count of class S.  A store in the segment store buffer issues to its home when the segment ends, and counts
from then on (log 96, DEDUCED). -/
def Core.countS (k : Core) : Nat := k.stores.length

/-- The C-class ops of the gather queues. -/
def Core.gatherCount (k : Core) : Nat := ((List.range 4).map fun q => (k.gqueue q).items.length).sum

/-- The count of class C. -/
def Core.countC (k : Core) : Nat :=
  ((k.c0q ++ k.c1q).filter fun e => !isAcpy e.instr).length
    + ((List.range 8).map fun c => (k.chan c).fifo.length).sum
    + k.gatherCount
    + ((List.range 16).map fun q => (k.sends q).length).sum
    + ((List.range 4).filter fun c => (Tab.get none k.rateNext c).isSome).length

/-- The count of class T. -/
def Core.countT (k : Core) : Nat :=
  k.mq.length + (k.c0q.filter fun e => isAcpy e.instr).length
    + (k.c1q.filter fun e => isAcpy e.instr).length
    + b2n k.call.isSome + b2n k.acpy.isSome

/-! ## Traps (08 R182) -/

/-- The trap codes. -/
inductive TrapCode where
  | illegalOp | codeRange | brk | trap | align | xlate | prot | mhaz | barState | seqRange
  | seqDouble | seqState | cmpt | linkStall | uncorr | engine | priv | group | cbState
  deriving DecidableEq, Repr, Inhabited

/-- The number of a trap code. -/
def TrapCode.num : TrapCode → Nat
  | .illegalOp => 0x01
  | .codeRange => 0x02
  | .brk => 0x03
  | .trap => 0x04
  | .align => 0x05
  | .xlate => 0x06
  | .prot => 0x07
  | .mhaz => 0x08
  | .barState => 0x09
  | .seqRange => 0x0A
  | .seqDouble => 0x0B
  | .seqState => 0x0C
  | .cmpt => 0x0D
  | .linkStall => 0x0E
  | .uncorr => 0x0F
  | .engine => 0x10
  | .priv => 0x11
  | .group => 0x12
  | .cbState => 0x13

/-- A trap that an access or an op calls for: its code, TRAP_INFO and TRAP_ADDR. -/
structure Trp where
  code : TrapCode
  info : Nat
  addr : W64
  deriving DecidableEq, Repr, Inhabited

/-- ALIGN for an alignment of 2^n bytes (08 R182). -/
def alignTrap (log2 : Nat) (va : W64) : Trp := ⟨.align, log2, va⟩

/-- XLATE with its level and reason (08 R195). -/
def xlateTrap (level reason : Nat) (va : W64) : Trp := ⟨.xlate, level + 8 * reason, va⟩

/-- UNCORR at a physical address. -/
def uncorrTrap (pa : Nat) : Trp := ⟨.uncorr, 0, .ofNat 64 pa⟩

/-- A word of a context's CCB (08 R188). -/
def State.ccbWord (s : State) (ccb off : Nat) : W64 := s.readW (ccb + off)

/-- Write CSTATE into the CCB of a context (08 R188). -/
def State.setCstate (s : State) (ccb v : Nat) : State :=
  s.writeW (ccb + 0x18) (setFld (s.ccbWord ccb 0x18) 8 2 v)

/-- An event to the host on the connection of the context; it is dropped when that connection no
longer exists (21 R433). -/
def State.hostEvent (s : State) (ctx code : Nat) : State :=
  match s.ctx ctx with
  | some x => match x.conn with
    | some conn => { s with hostOut := s.hostOut ++
        [{ conn := conn, w0 := .ofNat 64 (0x80 + 256 * code + 65536 * ctx)
           value := s.ccbWord x.ccb 0x18, len := 0, payload := [] }] }
    | none => s
  | none => s

/-- Ask every core of a context to stop (08 R189, R190). -/
def State.requestStop (s : State) (ctx : Nat) : State :=
  { s with cores := s.cores.map fun p =>
      if p.2.run = .running ∧ p.2.ctx = ctx then (p.1, { p.2 with preReq := true }) else p }

/-- Mark a context as stopping, to end as `why` (1 pre-empted, 2 faulted, 3 closed, 4 released); a later stop with a
greater end replaces an earlier one. -/
def State.setStopping (s : State) (ctx why : Nat) (byDisp : Bool) : State :=
  match s.ctx ctx with
  | some x =>
    let x := { x with
      stopping := some (Nat.max why (x.stopping.getD 0)), byDispatcher := byDisp, restoring := false }
    { s with ctxs := Tab.put none s.ctxs ctx (some x) }
  | none => s

/-- The bundle of core c is no longer being issued. -/
def State.clearIssue (s : State) (c : Nat) : State :=
  if s.iss.core = c then { s with iss := { s.iss with active := false, ops := [] } } else s

/-- ContextFault (08 R184): the context stops as for a pre-emption, its CCB records the fault, and the
host is told.  The core at fault halts at once. -/
def State.contextFault (s : State) (c : Nat) (code : TrapCode) (pc : Nat) : State :=
  let k := s.core c
  let w := setFld (setFld (setFld (setFld (s.ccbWord k.ccb 0x18) 8 2 2) 16 8 code.num) 24 8
    (coreId c).toNat) 32 32 pc
  let s := (s.writeW (k.ccb + 0x18) w).requestStop k.ctx
  let s := s.setStopping k.ctx 2 false
  let s := s.modCore c fun k => { k with run := .halted, preReq := false, pc := pc }
  (s.hostEvent k.ctx 1).clearIssue c

/-- End the open segment of a core: its buffered stores issue (08 R200). -/
def Core.closeSegment (k : Core) : Core :=
  { k with stores := k.stores ++ k.segment.buffer, segment := { k.segment with buffer := [] } }.setStatus 6 false

/-- The state that a segment's shadow keeps (08 R200). -/
def Core.takeShadow (k : Core) : Shadow :=
  { s := k.s, pwin := k.pwin, f := k.f, k := k.k, mp := k.mp, cv := k.cv, spill := k.spill }

/-- Open a segment whose entry bundle is at pc (08 R200). -/
def Core.openSegment (k : Core) (pc : Nat) : Core :=
  { k with segment := { k.segment with mode := true, entryPc := pc, rep := k.rep, first := k.seq, shadow := k.takeShadow, rewinds := 0, closing := false } }.setStatus 6 true

/-- A table with the entries below n that differ between two others, as the second has them. -/
def carryTab {α : Type} [DecidableEq α] (d : α) (n : Nat) (old new t : Tab α) : Tab α :=
  (List.range n).foldl (fun t i => if Tab.get d new i = Tab.get d old i then t else Tab.put d t i (Tab.get d new i)) t

/-- An op of bundle `seq` has completed and written registers.  One that issued before the open segment belongs to the
state that its checkpoint is (08 R201, R209): the shadow takes what it wrote (log 118, DEDUCED). -/
def Core.carry (old new : Core) (seq : Nat) : Core :=
  if new.seg && seq ≤ new.segment.first then
    let x := new.segment.shadow
    { new with segment := { new.segment with shadow := { x with
        s := carryTab 0 64 old.s new.s x.s, mp := carryTab 0 8 old.mp new.mp x.mp
        cv := carryTab 0 4 old.cv new.cv x.cv } } }
  else new

/-- The same for a sync op of bundle `seq` that has held, with the flag that it consumes. -/
def Core.carryHold (old new : Core) (seq : Nat) : Core :=
  let k := old.carry new seq
  if k.seg && seq ≤ k.segment.first then
    { k with segment := { k.segment with shadow := { k.segment.shadow with
        f := carryTab 0 16 old.f new.f k.segment.shadow.f } } }
  else k

/-- The stage and the mark of a pending sync op when it holds again (06 R154): what wtag.clr and fence.sc have found
already counts no more. -/
def Hold.freshStage (h : Hold) : Nat × Nat :=
  match h.instr with
  | .wtagClr _ => (0, h.mark)
  | .fenceSc => (0, 0)
  | _ => (h.stage, h.mark)

/-- A pending sync op is evaluated afresh when it holds again (06 R154). -/
def Hold.afresh (h : Hold) : Hold := { h with stage := h.freshStage.1, mark := h.freshStage.2 }

/-- A pc: bit 0 is always 0 (05 R101), also where software has written an odd TRAP_ENTRY or TRAP_PC (log 97, DEDUCED). -/
def evenPc (x : BitVec 32) : Nat := x.toNat / 2 * 2

/-- The core as it enters its handler (08 R183): the trap registers, hidden trap state, HS and the pc; an open
segment ends, its buffered stores issue and the handler waits for them (08 R200), and segment mode is suspended
(08 R201). -/
def Core.enterHandler (k : Core) (t : Trp) (pc slot : Nat) : Core :=
  let e := k.closeSegment
  { e with
    trapCode := .ofNat 8 t.code.num, trapPc := .ofNat 32 pc, trapSlot := .ofNat 4 slot
    trapInfo := .ofNat 64 t.info, trapAddr := t.addr
    hidRep := k.rep, hidHold := k.hold.map Hold.afresh, hidSeg := k.segment.mode
    rep := none, hold := none, homeReq := false
    segment := { e.segment with mode := false, closing := k.seg }
    pc := evenPc k.trapEntry }.setStatus 5 true

/-- TakeTrap (08 R183): in handler state, or with no handler, the trap is a context fault (08 R184). -/
def State.takeTrap (s : State) (c : Nat) (t : Trp) (pc slot : Nat) : State :=
  let k := s.core c
  if k.hs ∨ k.trapEntry = 0xFFFFFFFF then s.contextFault c t.code pc
  else (s.modCore c (·.enterHandler t pc slot)).clearIssue c

/-- The core with its segment rewound (08 R202).  Outstanding loads that issued inside the segment write no register and
report no error, and a sync op that issued before it stays pending (log 93, DEDUCED). -/
def Core.rewound (k : Core) : Core :=
  let sh := k.segment.shadow
  let first := k.segment.first
  { k with
    s := sh.s, pwin := sh.pwin, f := sh.f, k := sh.k, mp := sh.mp, cv := sh.cv, spill := sh.spill
    rwCount := k.rwCount + 1, pc := k.segment.entryPc, rep := k.segment.rep, hold := k.hold.filter (·.seq ≤ first)
    outs := k.outs.map fun o => if first < o.seq then { o with kind := .done, dst := [] } else o
    uncorrDue := k.uncorrDue.filter (·.2 ≤ first)
    segment := { k.segment with buffer := [], rewinds := k.segment.rewinds + 1, rewinding := 0xF } }

/-- The core rewinds its segment, or at the third rewind in a row takes UNCORR (08 R202). -/
def State.rewindOrTrap (s : State) (c : Nat) (t : Trp) (pc slot : Nat) : State :=
  let k := s.core c
  if k.seg then
    if k.segment.rewinds = 2 then s.takeTrap c { t with info := 1 } pc slot
    else (s.setCore c k.rewound).clearIssue c
  else s.takeTrap c t pc slot

/-- A trap of core c: UNCORR inside a segment rewinds it (08 R202). -/
def State.trapAt (s : State) (c : Nat) (t : Trp) (pc slot : Nat) : State :=
  if t.code = .uncorr then s.rewindOrTrap c t pc slot else s.takeTrap c t pc slot

/-- A precise trap of the bundle that is being issued (08 R181): TRAP_SLOT is the slot of the op, also for the CODE_RANGE
of a target out of range (06 R144; log 113, DEDUCED). -/
def State.preciseTrap (s : State) (t : Trp) : State := s.trapAt s.iss.core t s.iss.pcb s.iss.slot

/-- A requested trap: it resumes after the bundle (08 R181). -/
def State.requestedTrap (s : State) (t : Trp) : State := s.takeTrap s.iss.core t s.curCore.pc s.iss.slot

/-- Return from a trap (08 R204): hidden trap state comes back, HS clears, the pc is TRAP_PC, the
engines with a pending fault resume, and a segment opens again when segment mode was active (R201). -/
def Core.returnFromTrap (k : Core) : Core :=
  let k := { k with
    rep := k.hidRep
    hold := if k.hidHold.isSome then k.hidHold else k.hold
    hidRep := none, hidHold := none, efaults := []
    pc := evenPc k.trapPc }.setStatus 5 false
  if k.hidSeg then { k.openSegment k.pc with hidSeg := false } else k

/-- An engine fault becomes pending in its core, with the address it reports: the engine is stopped while
it stands (08 R185). -/
def State.engineFaultAt (s : State) (c unit queue : Nat) (t : Trp) (addr : W64) : State :=
  s.modCore c fun k =>
    { k with efaults := k.efaults ++
        [{ unit := unit, queue := queue, cause := t.code.num, detail := t.info % 2 ^ 48
           addr := addr, taken := false }] }

/-- An engine fault at the address that its cause carries: a virtual address or none (08 R182). -/
def State.engineFault (s : State) (c unit queue : Nat) (t : Trp) : State :=
  s.engineFaultAt c unit queue t (if t.code = .uncorr then 0 else t.addr)

/-- The engine of a unit is stopped by a pending fault (08 R185). -/
def Core.stopped (k : Core) (unit queue : Nat) : Bool :=
  k.efaults.any fun f => f.unit == unit && f.queue == queue

/-- A queue of the link engine is stopped by a pending fault (08 R185): of its sends (0), of its receives (1), of what
lk.tide, lk.circ, lk.park and lk.rate set (2). -/
def Core.linkStopped (k : Core) (kind queue : Nat) : Bool :=
  k.efaults.any fun f => f.unit == 10 && f.kind == kind && f.queue == queue

/-- An engine fault of the link engine becomes pending in its core. -/
def State.linkFault (s : State) (c kind queue : Nat) (t : Trp) : State :=
  s.modCore c fun k =>
    { k with efaults := k.efaults ++
        [{ unit := 10, kind := kind, queue := queue, cause := t.code.num, detail := t.info % 2 ^ 48
           addr := if t.code = .uncorr then 0 else t.addr, taken := false }] }

/-- TRAP_INFO of ENGINE (08 R182). -/
def EFault.info (f : EFault) : Nat :=
  f.cause % 32 + 256 * (f.unit % 16) + 4096 * (f.queue % 16) + 65536 * f.detail

/-- Cores that step while their context runs: they neither wait for a save nor are free. -/
def Core.live (k : Core) : Bool := k.run == .running

/-- A core's engines run until its context is asked to stop (08 R190). -/
def Core.engineOn (k : Core) : Bool := k.run == .running && !k.preReq

/-- The core is asked to stop, or has stopped for a request (08 R190). -/
def Core.stopAsked (k : Core) : Bool := k.preReq || k.run == .halted

/-- The parameter registers and a descriptor as a queued op reads them when it leaves its queue (12 R279). -/
def QEntry.params (e : QEntry) (k : Core) : List W64 := if e.left then e.mps else (List.range 8).map k.param
def QEntry.descOf (e : QEntry) (k : Core) (n : Nat) : BitVec 128 := if e.left then e.ds.getD n 0 else k.desc n

/-- Enter an op into the queue of its slot, with the registers that it read at issue (01 R17). -/
def Core.enqueue (k : Core) (slot : Nat) (e : QEntry) : Core :=
  if slot = 3 then { k with mq := k.mq ++ [e] }
  else if slot = 4 then { k with c0q := k.c0q ++ [e] }
  else { k with c1q := k.c1q ++ [e] }

end Sys2Proof.Machine
end

