-- ==== Sys2Proof/Machine/Numbers.lean ====
section
/-! DEFINITION. Number formats, exact values, RoundTo, saturation, UpBound and CovQ (03). -/

namespace Sys2Proof.Machine

open Sys2Proof

/-- An exact value: NaN, an infinity, or (−1)^neg × m × 2^e; a zero keeps its sign. -/
inductive Num where
  | nan
  | inf (neg : Bool)
  | fin (neg : Bool) (m : Nat) (e : Int)
  deriving DecidableEq, Repr, Inhabited

/-- A floating-point format (03 R53): its width, mantissa bits and bias, its largest finite magnitude as
an encoding, and whether it has infinities. -/
structure FloatFmt where
  w : Nat
  mbits : Nat
  bias : Int
  maxFin : Nat
  hasInf : Bool
  nan : Nat
  inf : Nat
  deriving DecidableEq, Repr, Inhabited

/-- A format of 03 R52. -/
inductive Fmt where
  | float (f : FloatFmt)
  | int (w : Nat) (signed : Bool)
  deriving DecidableEq, Repr, Inhabited

def f32Fmt : FloatFmt := ⟨32, 23, 127, 0x7F7FFFFF, true, 0x7FC00000, 0x7F800000⟩
def bf16Fmt : FloatFmt := ⟨16, 7, 127, 0x7F7F, true, 0x7FC0, 0x7F80⟩
def fp16Fmt : FloatFmt := ⟨16, 10, 15, 0x7BFF, true, 0x7E00, 0x7C00⟩
def e5m2Fmt : FloatFmt := ⟨8, 2, 15, 0x7B, true, 0x7E, 0x7C⟩
def e4m3Fmt : FloatFmt := ⟨8, 3, 7, 0x7E, false, 0x7F, 0x7F⟩
def e2m1Fmt : FloatFmt := ⟨4, 1, 1, 0x7, false, 0, 0⟩
/-- IEEE 754 binary64, which 09 R241 sums in. -/
def f64Fmt : FloatFmt :=
  ⟨64, 52, 1023, 0x7FEFFFFFFFFFFFFF, true, 0x7FF8000000000000, 0x7FF0000000000000⟩

/-- The format of a code (03 R52); codes 10 to 15 name none. -/
def fmtOf : Nat → Option Fmt
  | 0 => some (.float f32Fmt)
  | 1 => some (.float bf16Fmt)
  | 2 => some (.float fp16Fmt)
  | 3 => some (.float e5m2Fmt)
  | 4 => some (.float e4m3Fmt)
  | 5 => some (.float e2m1Fmt)
  | 6 => some (.int 16 true)
  | 7 => some (.int 16 false)
  | 8 => some (.int 8 true)
  | 9 => some (.int 8 false)
  | _ => none

/-- The width in bits of a format. -/
def Fmt.width : Fmt → Nat
  | .float f => f.w
  | .int w _ => w

/-- The value of an encoding without special cases (03 R53). -/
def FloatFmt.value (f : FloatFmt) (x : Nat) : Num :=
  let neg := x / 2 ^ (f.w - 1) % 2 == 1
  let mag := x % 2 ^ (f.w - 1)
  let e := mag / 2 ^ f.mbits
  let m := mag % 2 ^ f.mbits
  if e = 0 then .fin neg m (1 - f.bias - f.mbits)
  else .fin neg (2 ^ f.mbits + m) ((e : Int) - f.bias - f.mbits)

/-- The value of an encoding (03 R53, R54). -/
def FloatFmt.decode (f : FloatFmt) (x : Nat) : Num :=
  let mag := x % 2 ^ (f.w - 1)
  if mag ≤ f.maxFin then f.value x
  else if f.hasInf ∧ mag = f.inf then .inf (x / 2 ^ (f.w - 1) % 2 == 1)
  else .nan

/-- The exact value of an integer. -/
def Num.ofInt (i : Int) : Num := .fin (decide (i < 0)) i.natAbs 0

/-- The value of an element (03 R53 to R55). -/
def Fmt.decode (f : Fmt) (x : Nat) : Num :=
  match f with
  | .float f => f.decode x
  | .int w true => .ofInt (signed w x)
  | .int w false => .ofInt ((x % 2 ^ w : Nat) : Int)

/-- m × 2^e as an integer number of steps 2^g, rounded down, with what is left as a fraction a / 2^d. -/
def stepsOf (m : Nat) (e g : Int) : Nat × Nat × Nat :=
  if g ≤ e then (m * 2 ^ (e - g).toNat, 0, 0)
  else
    let d := (g - e).toNat
    (m / 2 ^ d, m % 2 ^ d, d)

/-- Does a magnitude round away from zero?  q is its lower step count, r / 2^d the fraction left
(03 R62). -/
def roundsUp (mode : Nat) (neg : Bool) (q r d noise : Nat) : Bool :=
  if r = 0 then false
  else match mode with
    | 0 => 2 ^ d < 2 * r || (2 * r == 2 ^ d && q % 2 == 1)
    | 1 => false
    | 2 => !neg
    | 3 => neg
    | _ => noise % 65536 < 65536 * r / 2 ^ d

/-- The sign bit of a format. -/
def FloatFmt.sign (f : FloatFmt) (neg : Bool) : Nat := if neg then 2 ^ (f.w - 1) else 0

/-- Overflow(fmt, mode, x): the encoding and whether SetSat was called (03 R63). -/
def FloatFmt.overflow (f : FloatFmt) (mode : Nat) (neg : Bool) : Nat × Bool :=
  if f.w ≤ 8 then (f.sign neg + f.maxFin, true)
  else
    let toInf := match mode with
      | 1 => false
      | 2 => !neg
      | 3 => neg
      | _ => true
    (f.sign neg + (if toInf then f.inf else f.maxFin), false)

/-- RoundTo for a floating-point format: the encoding and whether SetSat was called (03 R62). -/
def FloatFmt.round (f : FloatFmt) (mode : Nat) (x : Num) (noise : Nat) : Nat × Bool :=
  match x with
  | .nan => (f.nan, false)
  | .inf neg => if f.hasInf then (f.sign neg + f.inf, false) else (f.sign neg + f.maxFin, true)
  | .fin neg m e =>
    if m = 0 then (f.sign neg, false)
    else
      let top : Int := (Nat.log2 m : Int) + e
      let g : Int := max (top - f.mbits) (1 - f.bias - f.mbits)
      let (q, r, d) := stepsOf m e g
      let q := if roundsUp mode neg q r d noise then q + 1 else q
      let mag : Int := (g + f.mbits + f.bias - 1) * 2 ^ f.mbits + q
      if mag ≤ f.maxFin then (f.sign neg + mag.toNat, false) else f.overflow mode neg

/-- The largest and smallest values of an integer format (03 R55). -/
def intMax (w : Nat) (sgn : Bool) : Int := if sgn then 2 ^ (w - 1) - 1 else 2 ^ w - 1
def intMin (w : Nat) (sgn : Bool) : Int := if sgn then -(2 ^ (w - 1)) else 0

/-- SatInt(fmt, y), and SatS and SatU (03 R66, R67): the value and whether SetSat was called. -/
def satInt (w : Nat) (sgn : Bool) (y : Int) : Int × Bool :=
  if intMax w sgn < y then (intMax w sgn, true)
  else if y < intMin w sgn then (intMin w sgn, true)
  else (y, false)

/-- WrapS and WrapU as an encoding (03 R67). -/
def wrapInt (w : Nat) (y : Int) : Nat := (y % (2 ^ w : Int)).toNat

/-- A magnitude rounded to an integer with its sign (03 R62). -/
def roundInt (mode : Nat) (neg : Bool) (m : Nat) (e : Int) (noise : Nat) : Int :=
  let (q, r, d) := stepsOf m e 0
  let q := if roundsUp mode neg q r d noise then q + 1 else q
  if neg then -(q : Int) else q

/-- IntRound (03 R62). -/
def intRound (w : Nat) (sgn : Bool) (mode : Nat) (x : Num) (noise : Nat) : Nat × Bool :=
  match x with
  | .nan => (0, true)
  | .inf neg => (wrapInt w (if neg then intMin w sgn else intMax w sgn), true)
  | .fin neg m e =>
    let (y, sat) := satInt w sgn (roundInt mode neg m e noise)
    (wrapInt w y, sat)

/-- RoundTo(fmt, mode, x, noise): the encoding and whether SetSat was called (03 R62). -/
def Fmt.round (f : Fmt) (mode : Nat) (x : Num) (noise : Nat) : Nat × Bool :=
  match f with
  | .float f => f.round mode x noise
  | .int w sgn => intRound w sgn mode x noise

/-! ## Exact arithmetic -/

/-- A finite value as a signed count of steps 2^g, for g at most its exponent. -/
def scaled (neg : Bool) (m : Nat) (e g : Int) : Int :=
  let v : Nat := m * 2 ^ (e - g).toNat
  if neg then -(v : Int) else v

/-- The exact sum; an exact zero sum is +0 unless both addends are −0, or the mode is rdn and the
addends are not both +0 (03 R57, IEEE 754-2019). -/
def Num.add (mode : Nat) : Num → Num → Num
  | .nan, _ => .nan
  | _, .nan => .nan
  | .inf a, .inf b => if a = b then .inf a else .nan
  | .inf a, _ => .inf a
  | _, .inf b => .inf b
  | .fin na ma ea, .fin nb mb eb =>
    let g := min ea eb
    let v := scaled na ma ea g + scaled nb mb eb g
    if v = 0 then
      if ma = 0 ∧ mb = 0 ∧ na = nb then .fin na 0 0 else .fin (mode == 3) 0 0
    else .fin (decide (v < 0)) v.natAbs g

/-- The exact product. -/
def Num.mul : Num → Num → Num
  | .nan, _ => .nan
  | _, .nan => .nan
  | .inf a, .inf b => .inf (a != b)
  | .inf a, .fin b m _ => if m = 0 then .nan else .inf (a != b)
  | .fin a m _, .inf b => if m = 0 then .nan else .inf (a != b)
  | .fin a m e, .fin b n f => .fin (a != b) (m * n) (e + f)

/-- The negation. -/
def Num.neg : Num → Num
  | .nan => .nan
  | .inf a => .inf (!a)
  | .fin a m e => .fin (!a) m e

/-- The magnitude. -/
def Num.abs : Num → Num
  | .nan => .nan
  | .inf _ => .inf false
  | .fin _ m e => .fin false m e

/-- Is the value a NaN, an infinity, a zero? -/
def Num.isNan : Num → Bool
  | .nan => true
  | _ => false
def Num.isInf : Num → Bool
  | .inf _ => true
  | _ => false
def Num.isZero : Num → Bool
  | .fin _ 0 _ => true
  | _ => false
/-- The sign bit. -/
def Num.isNeg : Num → Bool
  | .nan => false
  | .inf a => a
  | .fin a _ _ => a

/-- x < y for values that are not NaN; −0 and +0 are equal. -/
def Num.lt : Num → Num → Bool
  | .nan, _ => false
  | _, .nan => false
  | .inf a, .inf b => a && !b
  | .inf a, _ => a
  | _, .inf b => !b
  | .fin na ma ea, .fin nb mb eb =>
    let g := min ea eb
    decide (scaled na ma ea g < scaled nb mb eb g)

/-- x = y for values that are not NaN. -/
def Num.eq (x y : Num) : Bool := !x.isNan && !y.isNan && !x.lt y && !y.lt x

/-- Multiply by 2^k. -/
def Num.scale (k : Int) : Num → Num
  | .fin a m e => .fin a m (e + k)
  | x => x

/-- floor(log2 |x|) of a non-zero finite value. -/
def Num.log2 : Num → Option Int
  | .fin _ m e => if m = 0 then none else some ((Nat.log2 m : Int) + e)
  | _ => none

/-- The quotient n / d of naturals, d > 0, as a dyadic of at least p significant bits whose last bit is
sticky: it rounds as the exact quotient does to any grid of fewer than p − 18 bits. -/
def quotDyadic (neg : Bool) (n d : Nat) (e : Int) (p : Nat) : Num :=
  if n = 0 then .fin neg 0 0
  else
    let k := p + Nat.log2 d + 1
    let q := n * 2 ^ k / d
    let r := n * 2 ^ k % d
    .fin neg (2 * q + (if r = 0 then 0 else 1)) (e - k - 1)

/-! ## f32 arithmetic (03 R57) -/

/-- The value of an f32 lane. -/
def f32 (x : W32) : Num := f32Fmt.decode x.toNat

/-- RoundTo(f32, mode, x) as a lane. -/
def toF32 (mode : Nat) (x : Num) (noise : Nat) : W32 := .ofNat 32 (f32Fmt.round mode x noise).1

/-- The sum, the difference, the product and the fused product and sum of lanes. -/
def f32Add (mode : Nat) (a b : W32) (noise : Nat) : W32 := toF32 mode ((f32 a).add mode (f32 b)) noise
def f32Sub (mode : Nat) (a b : W32) (noise : Nat) : W32 := toF32 mode ((f32 a).add mode (f32 b).neg) noise
def f32Mul (mode : Nat) (a b : W32) (noise : Nat) : W32 := toF32 mode ((f32 a).mul (f32 b)) noise
def f32Fma (mode : Nat) (a b c : W32) : W32 :=
  toF32 mode (((f32 a).mul (f32 b)).add mode (f32 c)) 0

/-! ## Bound arithmetic (03 R75, R76) -/

/-- UpBound(x). -/
def upBound (x : Num) : W32 :=
  match x with
  | .nan => 0x7F800000
  | .fin _ 0 _ => 0
  | _ => toF32 2 x 0

/-- An operand of bound arithmetic: its sign is cleared and NaN reads as +∞. -/
def boundVal (x : W32) : Num :=
  match (f32 x).abs with
  | .nan => .inf false
  | v => v

/-- A sum and a product of bound arithmetic; 0 × +∞ is +∞. -/
def bAdd (a b : W32) : W32 := upBound ((boundVal a).add 0 (boundVal b))
def bMul (a b : W32) : W32 :=
  match (boundVal a).mul (boundVal b) with
  | .nan => 0x7F800000
  | v => upBound v

/-- The larger of two bounds. -/
def bMax (a b : W32) : W32 :=
  if (boundVal a).lt (boundVal b) then upBound (boundVal b) else upBound (boundVal a)

/-- CovQ(bres, bfull) (03 R76). -/
def covQ (bres bfull : W32) : Nat :=
  match boundVal bres, boundVal bfull with
  | .inf _, _ => 0
  | _, .inf _ => 0xFFFF
  | .fin _ m e, .fin _ n f =>
    if n = 0 then 0xFFFF
    else
      let g := min e f
      let a := m * 2 ^ (e - g).toNat
      let b := n * 2 ^ (f - g).toNat
      if b ≤ a then 0 else Nat.min 0xFFFF (65536 * (b - a) / b)
  | _, _ => 0xFFFF

/-! ## MX blocks (03 R58 to R60) -/

/-- The value of an E8M0 scale. -/
def e8m0 (x : Nat) : Num := if x % 256 = 255 then .nan else .fin false 1 ((x % 256 : Nat) - 127)

/-- The nearest e2m1 encoding of a magnitude, ties to the even one, saturating at 6 (03 R60). -/
def e2m1Nearest (neg : Bool) (m : Nat) (e : Int) : Nat := (e2m1Fmt.round 0 (.fin neg m e) 0).1

/-- MXPack(x): the scale and the 32 elements (03 R60). -/
def mxPack (x : List W32) : Nat × List Nat :=
  let v := x.map f32
  if v.any fun n => n.isNan || n.isInf then (0xFF, v.map fun _ => 0)
  else
    match (v.filterMap Num.log2).foldl (fun a b => match a with
        | none => some b
        | some c => some (max b c)) (none : Option Int) with
    | none => (0, v.map fun n => if n.isNeg then 8 else 0)
    | some top =>
      let sc := max (top - 2) (-127)
      ((sc + 127).toNat, v.map fun n => match n.scale (-sc) with
        | .fin neg m e => e2m1Nearest neg m e
        | _ => 0)

end Sys2Proof.Machine
end

