-- ==== Sys2Proof/Machine/Accumulator.lean ====
section
/-! DEFINITION. The accumulator store: words, tags, the addition of products, and output values
(03 R68 to R73, 12 R287, R292). -/

namespace Sys2Proof.Machine

open Sys2Proof

/-- A word of the store: its tag and its data bits. -/
abbrev AccWord := BitVec 2 × BitVec 128

def AccRow.word (r : AccRow) (n : Nat) : AccWord := Tab.get (0, 0) r.words n
def AccRow.setWord (r : AccRow) (n : Nat) (w : AccWord) : AccRow :=
  { r with words := Tab.put (0, 0) r.words n w }

/-- Clear a row as mzero does: ANCHOR keeps its bits (03 R68, 12 R287). -/
def AccRow.clear (r : AccRow) (kind : Bool) : AccRow :=
  { r with kind := kind, anchored := false, words := [] }

/-- The tag of a product or an element: 1 NaN, 2 +∞, 3 −∞ (03 R68, R71). -/
def tagOf : Num → BitVec 2
  | .nan => 1
  | .inf neg => if neg then 3 else 2
  | .fin .. => 0

/-- The word tag after a product tag enters (03 R71). -/
def tagJoin (w p : BitVec 2) : BitVec 2 :=
  if p = 0 then w else if w = 0 then p else if w = p then w else 1

/-- The products of formats that AQ128 does not serve are WW128: KIND of the rows (03 R69, R70). -/
def kindOf (f g : Nat) : Bool := f ≤ 1 || g ≤ 1

/-- A finite value as a count of steps 2^-48, exact for the products of AQ128 (03 R69). -/
def aqSteps : Num → Int
  | .fin neg m e => if -48 ≤ e then scaled neg m e (-48) else
      let q : Nat := m / 2 ^ (-48 - e).toNat
      if neg then -(q : Int) else q
  | _ => 0

/-- Add steps and a tag into an AQ128 word; it saturates at the ends of the range (03 R69). -/
def addAq (w : AccWord) (total : Int) (tag : BitVec 2) : AccWord × Bool :=
  let (v, sat) := satInt 128 true (w.2.toInt + total)
  ((tagJoin w.1 tag, .ofInt 128 v), sat)

/-- A and S of a WW128 word (03 R70). -/
def wwA (w : AccWord) : Int := (w.2.extractLsb' 1 127).toInt
def wwS (w : AccWord) : Bool := w.2.getLsbD 0

/-- A WW128 word of A, saturated at ±(2^126 − 1), and S (03 R70). -/
def wwWord (tag : BitVec 2) (a : Int) (st : Bool) : AccWord × Bool :=
  let top : Int := 2 ^ 126 - 1
  let b := if top < a then top else if a < -top then -top else a
  ((tag, (BitVec.ofInt 127 b) ++ (if st then 1#1 else 0#1)), b != a)

/-- A product as steps of the window 2^(E − 125), rounded toward zero, and whether bits are left. -/
def wwSteps (anchor : Int) : Num → Int × Bool
  | .fin neg m e =>
    let (q, r, _) := stepsOf m e (anchor - 125)
    (if neg then -(q : Int) else q, r != 0)
  | _ => (0, false)

/-- WWAdd: the products of one operation enter a word of an anchored row (03 R70, R71). -/
def wwAdd (anchor : Int) (w : AccWord) (ps : List Num) : AccWord × Bool :=
  let qs := ps.map (wwSteps anchor)
  let tag := ps.foldl (fun t p => tagJoin t (tagOf p)) w.1
  wwWord tag (wwA w + (qs.map (·.1)).foldl (· + ·) 0) (wwS w || qs.any (·.2))

/-- Clamp an auto anchor (03 R72). -/
def clampAnchor (e : Int) : BitVec 11 := .ofInt 11 (max (-1024) (min 1023 e))

/-- A WW128 row takes its anchor at its first operation: an explicit one, or auto from the largest
exponents of both sides; a row whose operation has only zeros and specials stays unanchored (03 R72).  So does one whose
operation has a non-zero finite element on one side alone, for which auto gives no E (log 45, DEDUCED). -/
def AccRow.takeAnchor (r : AccRow) (explicit : Option Nat) (ea eb : Option Int) : AccRow :=
  if r.anchored then r
  else match explicit with
    | some a => if ea.isSome || eb.isSome then { r with anchor := .ofNat 11 a, anchored := true } else r
    | none => match ea, eb with
      | some x, some y => { r with anchor := clampAnchor (x + y + 16), anchored := true }
      | _, _ => r

/-- The largest floor(log2|x|) over finite non-zero values. -/
def topExp (xs : List Num) : Option Int :=
  (xs.filterMap Num.log2).foldl (fun a b => match a with
    | none => some b
    | some c => some (max b c)) none

/-- One operation on a row: the products of column n enter word n (03 R69 to R72).  An unanchored WW128
row has only zero and special products, of which the tags enter. -/
def AccRow.addColumns (r : AccRow) (explicit : Option Nat) (ea eb : Option Int) (cols : List (List Num)) :
    AccRow × Bool :=
  let r := if r.kind then r.takeAnchor explicit ea eb else r
  cols.zipIdx.foldl (fun (q : AccRow × Bool) c =>
    let w := q.1.word c.2
    let tag := c.1.foldl (fun t p => tagJoin t (tagOf p)) 0
    let (x, sat) :=
      if !r.kind then addAq w ((c.1.map aqSteps).foldl (· + ·) 0) tag
      else if r.anchored then wwAdd r.anchor.toInt w c.1
      else ((tagJoin w.1 tag, w.2), false)
    (q.1.setWord c.2 x, q.2 || sat)) (r, false)

/-- AccValue(word) (03 R73). -/
def AccRow.value (r : AccRow) (n : Nat) : Num :=
  let w := r.word n
  if w.1 = 1 then .nan
  else if w.1 ≠ 0 then .inf (w.1 == 3)
  else if !r.kind then .fin (decide (w.2.toInt < 0)) w.2.toInt.natAbs (-48)
  else
    let a := wwA w
    if a = 0 then .fin false 0 0
    else .fin (decide (a < 0)) (4 * a.natAbs + b2n (wwS w)) (r.anchor.toInt - 127)

/-- The header of a row (03 R68). -/
def AccRow.header (r : AccRow) : Nat := b2n r.kind + 2 * r.anchor.toNat + 4096 * b2n r.anchored

/-- A row with the header h. -/
def AccRow.withHeader (r : AccRow) (h : Nat) : AccRow :=
  { r with kind := bitsAt h 0 1 == 1, anchor := .ofNat 11 (bitsAt h 1 11), anchored := bitsAt h 12 1 == 1 }

/-- The step of a format's grid at |v|, as an exponent of 2 (12 R290). -/
def Fmt.stepExp (f : Fmt) (v : Num) : Int :=
  match f with
  | .int .. => 0
  | .float f => match v.log2 with
    | some t => max (t - f.mbits) (1 - f.bias - f.mbits)
    | none => 1 - f.bias - f.mbits

/-! ## Coverage records (11 R268, R269, R274) -/

def cvRes (r : BitVec 256) : W32 := r.extractLsb' 0 32
def cvFull (r : BitVec 256) : W32 := r.extractLsb' 32 32
def cvXmax (r : BitVec 256) : W32 := r.extractLsb' 64 32
def cvBin (r : BitVec 256) : W32 := r.extractLsb' 96 32
def cvCursor (r : BitVec 256) : Nat := fld r 128 16
def cvK (r : BitVec 256) : Nat := fld r 144 16
def cvNan (r : BitVec 256) : Bool := r.getLsbD 176
def cvThrottled (r : BitVec 256) : Bool := r.getLsbD 177
def cvFresh (r : BitVec 256) : Bool := r.getLsbD 178
def cvDone (r : BitVec 256) : Bool := r.getLsbD 179
def cvRounded (r : BitVec 256) : Bool := r.getLsbD 180
def cvEleft (r : BitVec 256) : Nat := fld r 184 48

/-- A coverage record of its fields; COV is CovQ of the bounds. -/
def cvPack (res full xmax bin : W32) (cursor k : Nat) (nan thr fresh done rounded : Bool) (eleft : Nat) :
    BitVec 256 :=
  .ofNat 256 (res.toNat + 2 ^ 32 * full.toNat + 2 ^ 64 * xmax.toNat + 2 ^ 96 * bin.toNat
    + 2 ^ 128 * (cursor % 65536) + 2 ^ 144 * (k % 65536) + 2 ^ 160 * covQ res full + 2 ^ 176 * b2n nan
    + 2 ^ 177 * b2n thr + 2 ^ 178 * b2n fresh + 2 ^ 179 * b2n done + 2 ^ 180 * b2n rounded
    + 2 ^ 184 * (eleft % 2 ^ 48))

/-- The reserved fields of a record are zero. -/
def cvMask (r : BitVec 256) : BitVec 256 := setFld (setFld r 232 24 0) 181 3 0

/-- cv.add (11 R274). -/
def cvAdd (a b : BitVec 256) : BitVec 256 :=
  cvPack (bAdd (cvRes a) (cvRes b)) (bAdd (cvFull a) (cvFull b)) (bMax (cvXmax a) (cvXmax b))
    (bAdd (cvBin a) (cvBin b)) (Nat.min 0xFFFF (cvCursor a + cvCursor b)) (Nat.min 0xFFFF (cvK a + cvK b))
    (cvNan a || cvNan b) (cvThrottled a || cvThrottled b) (cvFresh a && cvFresh b) (cvDone a && cvDone b)
    (cvRounded a || cvRounded b) (Nat.min (2 ^ 48 - 1) (cvEleft a + cvEleft b))

/-- A record with new bounds; COV follows. -/
def cvBounds (r : BitVec 256) (res full : W32) : BitVec 256 :=
  setFld (setFld (setFld r 0 32 res.toNat) 32 32 full.toNat) 160 16 (covQ res full)

/-- cv.scl by the constant l (11 R274). -/
def cvScale (r : BitVec 256) (l : W32) : BitVec 256 := cvBounds r (bMul l (cvRes r)) (bMul l (cvFull r))

/-- The rounding term of an accumulator copy enters a record (11 R274, 12 R290). -/
def cvRound (r : BitVec 256) (rho : Num) : BitVec 256 :=
  setFld (cvBounds r (upBound ((boundVal (cvRes r)).add 0 rho)) (cvFull r)) 180 1 1

/-- Write a coverage record; one with THROTTLED sets THROTTLED_SEEN (11 R267, 12 R289). -/
def Core.setCv (k : Core) (i : Nat) (r : BitVec 256) : Core :=
  let k := { k with cv := Tab.put 0 k.cv i r }
  if cvThrottled r then k.setStatus 4 true else k

end Sys2Proof.Machine
end

