-- ==== Sys2Proof/Machine/Links.lean ====
section
/-! DEFINITION. The clock and its boundaries (01 R13, 19 R388, R394, 21 R424), the circuit schedule,
widths of straits, and the link registers (19 R406). -/

namespace Sys2Proof.Machine

open Sys2Proof

/-- The link cycle: CYCLE − FRAME_BASE (19 R388). -/
def State.linkCycle (s : State) : Nat := s.cycle.toNat - s.frameBase.toNat

/-- The next value of CYCLE at which a boundary is due: a heartbeat tick, a frame, a circuit slot, the
end of a control period, the gating of a cluster. -/
def State.dueTick (s : State) : Nat := 64 * (s.hbCount.toNat + 1)
def State.dueFrame (s : State) : Option Nat :=
  if s.framesOn then some (s.frameBase.toNat + 48 * (s.frame + 1)) else none
def State.dueSlot (s : State) : Option Nat :=
  if s.framesOn then some (s.frameBase.toNat + s.slotDue) else none
def State.duePeriod (s : State) : Nat := 4096 * (s.power.periods + 1)

/-- The cycle at which cluster cl is gated as things stand (21 R421): under the pack policy 1,024 cycles after the last
node of its cores has left, and at once when every context was stopped (21 R427); none while it holds a node, is gated
or is not there. -/
def State.gateAt (s : State) (cl : Nat) : Option Nat :=
  let ks := (List.range 8).map fun i => s.core (8 * cl + i)
  let last := (ks.map (·.idleFrom)).foldl Nat.max 0
  if 32 ≤ cl || s.power.gated.getLsbD cl || !(ks.all fun k => k.run == .free) then none
  else if s.power.rampDown.getLsbD cl then some last
  else if s.dispCtl.getLsbD 3 then none
  else some (last + 1024)

/-- The next gating of a cluster. -/
def State.dueGate (s : State) : Option Nat :=
  ((List.range 32).filterMap s.gateAt).foldl (fun b n => some (Nat.min n (b.getD n))) none

/-- The earliest of them. -/
def State.dueBoundary (s : State) : Nat :=
  Nat.min (Nat.min (Nat.min s.dueTick s.duePeriod) (s.dueGate.getD s.dueTick))
    (Nat.min (s.dueFrame.getD s.dueTick) (s.dueSlot.getD s.dueTick))

/-- The first link cycle from `now` on whose low 32 bits are the circuit epoch (19 R394). -/
def originAfter (ce now : Nat) : Nat := now + (2 ^ 32 + ce - now % 2 ^ 32) % 2 ^ 32

/-- CE of the link control word (19 R407). -/
def State.epochWord (s : State) : Nat := fld s.linkCtl 32 32

/-- The rotation, the slot and the cycle within the slot of a link cycle under a schedule (19 R394). -/
def Schedule.place (x : Schedule) (lc : Nat) : Nat × Nat × Nat :=
  let j := (lc - x.start) / 15750
  (j / (x.nslot + 1), j % (x.nslot + 1), (lc - x.start) % 15750)

/-- The chip that a schedule joins to strait t in a slot. -/
def Schedule.dest (x : Schedule) (slot t : Nat) : Nat := fld (x.slots.getD slot 0) (4 * t) 4

/-- The chip joined to strait t at a link cycle; the own index when none is (19 R406). -/
def State.joined (s : State) (t lc : Nat) : Nat :=
  match s.sched with
  | some x => if (s.strait t).face then x.dest (x.place lc).2.1 t else s.chip.toNat
  | none => s.chip.toNat

/-- Some slot of the schedule in force joins a strait to a chip (19 R394, R409). -/
def State.routed (s : State) (chip : Nat) : Bool :=
  match s.sched with
  | some x => chip != s.chip.toNat && (List.range (x.nslot + 1)).any fun i =>
      (List.range 16).any fun t => (s.strait t).face && x.dest i t == chip
  | none => false

/-- Frame n lies wholly within a data period of the schedule (19 R394), at least `slack` link cycles
before its end. -/
def Schedule.dataFrame (x : Schedule) (n slack : Nat) : Bool :=
  x.start ≤ 48 * n && (x.place (48 * n)).2.2 + slack ≤ 15000

/-- A group is lit. -/
def Group.isLit : Group → Bool
  | .lit => true
  | _ => false
def Group.isWaking : Group → Bool
  | .waking _ => true
  | _ => false

/-- The state of group g of one direction; an unlisted group is parked. -/
def groupAt (t : Tab Group) (g : Nat) : Group := Tab.get .parked t g

/-- The mask of lit groups and the width (19 R386). -/
def litMask (t : Tab Group) : Nat :=
  (List.range 8).foldr (fun g m => b2n (groupAt t g).isLit + 2 * m) 0
def litWidth (t : Tab Group) : Nat := ((List.range 8).filter fun g => (groupAt t g).isLit).length
def anyWaking (t : Tab Group) : Bool := (List.range 8).any fun g => (groupAt t g).isWaking

/-- KIND and DRAWER of the tide entry of a strait for frame n (19 R389). -/
def Strait.kindAt (t : Strait) (n : Nat) : Nat := fld (Tab.get (0 : BitVec 16) t.table (n % 64)) 14 2
def Strait.drawerAt (t : Strait) (n : Nat) : Nat := fld (Tab.get (0 : BitVec 16) t.table (n % 64)) 0 2

/-- The strait retrains in frame n (19 R403). -/
def Strait.retrainsIn (t : Strait) (n : Nat) : Bool :=
  match t.retrain with
  | some (a, b) => a ≤ n && n ≤ b
  | none => false

/-- Frame n of strait t lies whole in a data period of a slot that joins this chip to another, at least `slack` link
cycles before its end (19 R394). -/
def State.joins (s : State) (t n chip slack : Nat) : Bool :=
  match s.sched with
  | some x => (s.strait t).face && x.dataFrame n slack
      && x.dest (x.place (48 * n)).2.1 t == chip && chip != s.chip.toNat
  | none => false

/-- A frame of the receive direction of strait t could carry data from a chip: the slot joins the two, and it is no
housekeeping frame (19 R389, R391). -/
def State.couldBring (s : State) (t n chip : Nat) : Bool := n % 64 != 0 && s.joins t n chip 48

/-- It may: the strait does not retrain (19 R403). -/
def State.brings (s : State) (t n chip : Nat) : Bool := s.couldBring t n chip && !(s.strait t).retrainsIn n

/-- The present frame may bring data from a chip. -/
def State.hears (s : State) (chip : Nat) : Bool := (List.range 16).any fun t => s.brings t s.frame chip

/-- Frame n of strait t could carry data to a chip (19 R394), but for a retraining. -/
def State.couldCarry (s : State) (t n chip slack : Nat) : Bool :=
  (s.strait t).kindAt n == 2 && s.joins t n chip slack

/-- Frame n of strait t carries data to a chip (19 R394, R403). -/
def State.carries (s : State) (t n chip slack : Nat) : Bool :=
  s.couldCarry t n chip slack && !(s.strait t).retrainsIn n

/-- FRAME (19 R388, R406): what comes at a frame boundary belongs to the frame that begins there. -/
def State.frameNow (s : State) : Nat := s.frame + b2n s.turning

/-- The register of strait t, 0x110 + t (19 R406). -/
def State.straitReg (s : State) (t : Nat) : W64 :=
  let x := s.strait t
  .ofNat 64 (2 ^ 20 * litMask x.tx + 2 ^ 12 * litMask x.rx + 2 ^ 8 * s.joined t s.linkCycle
    + 8 * b2n (x.retrainsIn s.frameNow) + 4 * b2n (anyWaking x.tx) + 2 * b2n (anyWaking x.rx) + b2n x.face)

/-- The rotation register 0x104 (19 R406). -/
def State.rotReg (s : State) : W64 :=
  match s.sched with
  | some x =>
    let p := x.place s.linkCycle
    .ofNat 64 (2 ^ 16 * p.1 + 2 ^ 8 * x.nslot + 2 ^ 5 + 2 ^ 4 * b2n (15000 ≤ p.2.2) + p.2.1)
  | none => 0

/-- The link registers but STALL_LIMIT, by CSR number (19 R406); DSIZE is 0 in early service (21 R428). -/
def State.linkReg (s : State) (n : Nat) : W64 :=
  if n = 0x100 then .ofNat 64 (16 * (if s.stage < 4 then 0 else s.dsize.toNat) + s.chip.toNat)
  else if n = 0x101 then .ofNat 64 (fld s.linkCtl 0 5)
  else if n = 0x103 then .ofNat 64 s.frameNow
  else if n = 0x104 then s.rotReg
  else if n = 0x105 then s.frameBase
  else if n = 0x108 then .ofNat 64 (2 ^ 32 * s.misroute.toNat + s.retrains.toNat)
  else if n < 0x120 then s.straitReg (n - 0x110)
  else .ofNat 64 (2 ^ 48 * (Tab.get (0 : BitVec 16) s.dstraits (n - 0x120)).toNat
    + (Tab.get (0 : BitVec 16) s.gib (n - 0x120)).toNat)

end Sys2Proof.Machine
end

