-- ==== Sys2Proof/Machine/Address.lean ====
section
/-! DEFINITION. Addresses: the physical map, homes, page walks, TLBs and Resolve (02 R22 to R29,
08 R194 to R196). -/

namespace Sys2Proof.Machine

open Sys2Proof

/-- The regions of the physical map (02 R25). -/
inductive Region where
  | shelf (isle : Nat)
  | scratch (core : Nat)
  | config
  | drawer (d : Nat)
  | peer (chip : Nat)
  | unmapped
  deriving DecidableEq, Repr, Inhabited

/-- Early service: before stage 4 of bring-up (21 R428). -/
def State.early (s : State) : Bool := s.stage < 4

/-- The region of a physical address on this device as it stands: what bring-up has not found, and in
early service everything outside isle 0 and configuration space, is unmapped (02 R25, 21 R428). -/
def State.region (s : State) (pa : Nat) : Region :=
  if pa < 0x4000000000 then
    let isle := pa / 0x1000000000
    if isle < 4 ∧ pa % 0x1000000000 < 0xC00000000 ∧ (!s.early || isle == 0) then .shelf isle else .unmapped
  else match spCore pa with
    | some c => if s.early && 64 ≤ c && c < 256 then .unmapped else .scratch c
    | none =>
      if 0x4100000000 ≤ pa ∧ pa < 0x4200000000 then .config
      else if s.early then .unmapped
      else if 2 ^ 45 ≤ pa ∧ pa < 5 * 2 ^ 45 then
        let d := pa / 2 ^ 45 - 1
        if pa % 2 ^ 45 < Nat.min ((Tab.get 0 s.gib d).toNat * 2 ^ 30) 0x180000000000 then .drawer d else .unmapped
      else if 2 ^ 51 ≤ pa ∧ pa < 2 ^ 51 + 16 * 2 ^ 38 then
        let c := (pa - 2 ^ 51) / 2 ^ 38
        if c ≠ s.chip.toNat ∧ c ≤ s.dsize.toNat then .peer c else .unmapped
      else .unmapped

/-- Fold(x, w): the XOR of successive w-bit fields of a 52-bit x (02 R28). -/
def fold (x w : Nat) : Nat := (List.range 52).foldl (fun h i => h ^^^ (x / 2 ^ (w * i) % 2 ^ w)) 0

/-- The isle and the slice of the home of an address of shelf memory (02 R28). -/
def shelfHome (pa : Nat) : Nat × Nat := (pa / 0x1000000000, fold (pa / 4096) 6)

/-- Home(pa): the chip, the isle and the slice (02 R28).  A peer window shows the shelf memory of its chip.  R28 speaks of
cores 0 to 255 only: the scratchpad of service core c has slice c mod 64 of isle 0 (log 12, DESIGN CHOICE). -/
def State.home (s : State) (pa : Nat) : Nat × Nat × Nat :=
  match s.region pa with
  | .shelf _ => (s.chip.toNat, shelfHome pa)
  | .scratch c => (s.chip.toNat, isleOf c, c % 64)
  | .drawer _ => (s.chip.toNat, fold (pa / 4096) 8 / 64, fold (pa / 4096) 8 % 64)
  | .peer c => (c, shelfHome (pa - 2 ^ 51 - c * 2 ^ 38))
  | .config => (s.chip.toNat, 0, 0)
  | .unmapped => (s.chip.toNat, 0, 0)

/-- The kinds of access of 08 R195; homeRead is the READ of an op that executes at a home (17 R367). -/
inductive Acc where
  | read
  | write
  | atomic
  | homeRead
  deriving DecidableEq, Repr, Inhabited

/-- The access bits of TRAP_INFO for PROT: an op that executes at a home sets bit 2 alone, also where a page refuses its R
or W (08 R182; log 13, DEDUCED). -/
def Acc.info : Acc → Nat
  | .write => 1
  | .read => 2
  | .atomic => 4
  | .homeRead => 4

/-- The permissions of a page allow the access (08 R195). -/
def Acc.allowed (a : Acc) (r w : Bool) : Bool :=
  match a with
  | .read => r
  | .homeRead => r
  | .write => w
  | .atomic => r && w

/-- An address lies in a drawer. -/
def State.inDrawer (s : State) (pa : Nat) : Bool :=
  match s.region pa with
  | .drawer _ => true
  | _ => false

/-- A page-table entry is out of reach in a trial: its read from a drawer has not arrived (19 R392; log 56, DESIGN CHOICE). -/
def State.veiled (s : State) (pa : Nat) : Bool :=
  match s.veil with
  | none => false
  | some v => s.inDrawer pa && !v.here.contains (pa / 256)

/-- What a trial gives for an entry out of reach at a level of the table at node: a fault that is none of the machine, or an
entry by which the walk ends at a page. -/
def State.veilGives (s : State) (va : W64) (node level : Nat) : Except Trp W64 :=
  if s.veil.any (·.opens) then
    .ok (if level = 0 then 0x31 else if level = 1 then 0x33 else .ofNat 64 (node / 4096 * 4096 + 1))
  else .error ⟨.xlate, 2 ^ 64, va⟩

/-- One entry of a page table, with the checks of Entry and Next (08 R195). -/
def State.pageEntry (s : State) (va : W64) (node idx level : Nat) : Except Trp W64 :=
  let pa := node + 8 * idx
  match s.region pa with
  | .unmapped => .error (xlateTrap 7 2 va)
  | _ =>
    if s.veiled pa then s.veilGives va node level
    else match poisoned s.errs pa 8 with
    | some e => .error (uncorrTrap e)
    | none =>
      let e := s.readW pa
      if fld e 0 1 = 0 then .error (xlateTrap level 0 va)
      else if fld e 52 12 ≠ 0 ∨ fld e 6 6 ≠ 0 then .error (xlateTrap level 1 va)
      else if level ≠ 0 ∧ fld e 2 2 ≠ 0 then .error (xlateTrap level 1 va)
      else if level ≠ 1 ∧ fld e 1 1 ≠ 0 then .error (xlateTrap level 1 va)
      else .ok e

/-- ADDR of a page-table entry. -/
def entryAddr (e : W64) : Nat := fld e 12 40 * 4096

/-- The leaf of PageWalk: its page address and size, checked for alignment (08 R195). -/
def leafEntry (ctx : Nat) (va e : W64) (size level : Nat) : Except Trp TlbEntry :=
  if entryAddr e % size ≠ 0 then .error (xlateTrap level 5 va)
  else .ok { ctx := ctx, base := va.toNat / size * size, size := size, pa := entryAddr e
             r := fld e 4 1 == 1, w := fld e 5 1 == 1 }

/-- PageWalk without its permission checks (08 R195), from the root of a context. -/
def State.walk (s : State) (ctx root : Nat) (va : W64) : Except Trp TlbEntry := do
  if root % 8192 ≠ 0 then .error (xlateTrap 3 5 va)
  else
    let e3 ← s.pageEntry va root (fld va 47 10) 3
    if entryAddr e3 % 4096 ≠ 0 then .error (xlateTrap 3 5 va)
    else
      let e2 ← s.pageEntry va (entryAddr e3) (fld va 38 9) 2
      let e1 ← s.pageEntry va (entryAddr e2) (fld va 29 9) 1
      if fld e1 1 1 = 1 then leafEntry ctx va e1 (2 ^ 29) 1
      else
        let g := entryAddr e1
        if g % 65536 ≠ 0 then .error (xlateTrap 1 5 va)
        else
          let i := fld va 16 13
          let e ← s.pageEntry va g i 0
          match fld e 2 2 with
          | 0 => leafEntry ctx va e (2 ^ 16) 0
          | 3 => .error (xlateTrap 0 1 va)
          | sz =>
            let size := if sz = 1 then 2 ^ 21 else 2 ^ 25
            let group := size / 2 ^ 16
            let h ← s.pageEntry va g (i / group * group) 0
            if fld h 2 2 ≠ sz then .error (xlateTrap 0 0 va) else leafEntry ctx va h size 0

/-- The addresses of the entries that PageWalk reads for va, in the order of the walk (08 R195). -/
def State.walkReads (s : State) (root : Nat) (va : W64) : List Nat :=
  let at_ := fun (node idx level : Nat) (next : W64 → List Nat) =>
    (node + 8 * idx) :: match s.pageEntry va node idx level with
      | .ok e => next e
      | .error _ => []
  if root % 8192 ≠ 0 then []
  else at_ root (fld va 47 10) 3 fun e3 =>
    if entryAddr e3 % 4096 ≠ 0 then []
    else at_ (entryAddr e3) (fld va 38 9) 2 fun e2 => at_ (entryAddr e2) (fld va 29 9) 1 fun e1 =>
      let g := entryAddr e1
      if fld e1 1 1 = 1 ∨ g % 65536 ≠ 0 then []
      else at_ g (fld va 16 13) 0 fun e =>
        match fld e 2 2 with
        | 1 => [g + 8 * (fld va 16 13 / 32 * 32)]
        | 2 => [g + 8 * (fld va 16 13 / 512 * 512)]
        | _ => []

/-- The entry of a TLB that translates va for a context. -/
def tlbHit (t : List TlbEntry) (ctx : Nat) (va : W64) : Option TlbEntry :=
  t.find? fun e => e.ctx == ctx && e.base ≤ va.toNat && va.toNat < e.base + e.size

/-- The micro-TLB of a path; CP uses the core TLB (08 R196). -/
def Core.microTlb (k : Core) : Path → List TlbEntry
  | .cp => []
  | .cy => k.tlbCy
  | .mx => k.tlbMx
  | .ga => k.tlbGa
  | .lk => k.tlbLk

/-- The translation that a core uses for va on a path: a cached one, or a walk (08 R196). -/
def State.lookup (s : State) (c : Nat) (p : Path) (va : W64) : Except Trp TlbEntry :=
  let k := s.core c
  match tlbHit (k.microTlb p) k.ctx va with
  | some e => .ok e
  | none =>
    match tlbHit k.tlb k.ctx va with
    | some e => .ok e
    | none => s.walk k.ctx (fld (s.ccbWord k.ccb 0) 0 52) va

/-- The entries that a core must read to translate va on a path: those of the walk, when no TLB translates it
(08 R196). -/
def State.walkOf (s : State) (c : Nat) (p : Path) (va : W64) : List Nat :=
  let k := s.core c
  if fld va 57 7 ≠ 0 ∨ va.toNat < 0x40000000 ∨ (tlbHit (k.microTlb p) k.ctx va).isSome ∨ (tlbHit k.tlb k.ctx va).isSome
  then []
  else s.walkReads (fld (s.ccbWord k.ccb 0) 0 52) va

/-- The physical address of va in a page, with the permission checks (08 R195, 02 R26). -/
def State.pageAddr (s : State) (e : TlbEntry) (va : W64) (acc : Acc) : Except Trp Nat :=
  if !acc.allowed e.r e.w then .error ⟨.prot, acc.info, va⟩
  else
    let pa := e.pa + va.toNat % e.size
    match s.region pa with
    | .unmapped => .error (xlateTrap 7 2 va)
    | _ => .ok pa

/-- Resolve(va, acc, path) of core c (02 R29).  A service core stands in no cluster: its cluster window is not mapped
(log 12, DESIGN CHOICE). -/
def State.resolve (s : State) (c : Nat) (p : Path) (va : W64) (acc : Acc) : Except Trp Nat :=
  if fld va 57 7 ≠ 0 then .error (xlateTrap 7 3 va)
  else if va.toNat < 0x200000 then .ok (spBase c + va.toNat)
  else if 0x1000000 ≤ va.toNat ∧ va.toNat < 0x2000000 ∧ c < 256 then
    let d := (va.toNat - 0x1000000) / 0x200000
    let pa := spBase (8 * (c / 8) + d) + va.toNat % 0x200000
    match s.region pa with
    | .unmapped => .error (xlateTrap 7 2 va)
    | _ => .ok pa
  else if va.toNat < 0x40000000 then .error (xlateTrap 7 4 va)
  else
    match s.lookup c p va with
    | .error t => .error t
    | .ok e => s.pageAddr e va acc

/-- Resolve for no core: the dispatcher and Gentar through the root of a context (02 R23). -/
def State.resolveRoot (s : State) (ctx : Nat) (va : W64) (acc : Acc) : Except Trp Nat :=
  if fld va 57 7 ≠ 0 then .error (xlateTrap 7 3 va)
  else if va.toNat < 0x40000000 then .error (xlateTrap 7 4 va)
  else match s.ctx ctx with
    | none => .error (xlateTrap 7 2 va)
    | some x =>
      match s.walk ctx (fld (s.ccbWord x.ccb 0) 0 52) va with
      | .error t => .error t
      | .ok e => s.pageAddr e va acc

/-- The size of a core TLB and of a micro-TLB (08 R196). -/
def tlbSize : Nat := 512
def microTlbSize : Nat := 32

/-- Cache a translation: the oldest makes room, if no other has before (log 11, DESIGN CHOICE). -/
def fillTlb (t : List TlbEntry) (size : Nat) (e : TlbEntry) : List TlbEntry :=
  if t.contains e then t else (e :: t).take size

/-- Cache the translation of va that an access of core c on a path uses. -/
def State.noteTlb (s : State) (c : Nat) (p : Path) (va : W64) : State :=
  if fld va 57 7 ≠ 0 ∨ va.toNat < 0x40000000 then s
  else match s.lookup c p va with
    | .error _ => s
    | .ok e => s.modCore c fun k =>
      let k := { k with tlb := fillTlb k.tlb tlbSize e }
      match p with
      | .cp => k
      | .cy => { k with tlbCy := fillTlb k.tlbCy microTlbSize e }
      | .mx => { k with tlbMx := fillTlb k.tlbMx microTlbSize e }
      | .ga => { k with tlbGa := fillTlb k.tlbGa microTlbSize e }
      | .lk => { k with tlbLk := fillTlb k.tlbLk microTlbSize e }

/-- Drop from a TLB what TLB_INV names: every entry of a context, or those that translate va
(08 R196). -/
def dropTlb (t : List TlbEntry) (ctx : Nat) (va : Option Nat) : List TlbEntry :=
  t.filter fun e => !(e.ctx == ctx && match va with
    | none => true
    | some a => e.base ≤ a && a < e.base + e.size)

/-- Invalidate on every TLB and micro-TLB of the device (08 R196). -/
def State.invalidateTlbs (s : State) (ctx : Nat) (va : Option Nat) : State :=
  { s with cores := s.cores.map fun p => (p.1, { p.2 with
      tlb := dropTlb p.2.tlb ctx va, tlbMx := dropTlb p.2.tlbMx ctx va
      tlbCy := dropTlb p.2.tlbCy ctx va, tlbGa := dropTlb p.2.tlbGa ctx va
      tlbLk := dropTlb p.2.tlbLk ctx va }) }

/-- The virtual addresses at which the runs of one region of a range begin: the range cut at multiples
of 64 KiB, the smallest page. -/
def pageCuts (va n : Nat) : List (Nat × Nat) :=
  if n = 0 then []
  else (List.range ((va + n - 1) / 65536 - va / 65536 + 1)).map fun i =>
    let a := Nat.max va ((va / 65536 + i) * 65536)
    let b := Nat.min (va + n) ((va / 65536 + i + 1) * 65536)
    (a, b - a)

/-- Resolve every byte of a range: its runs as (physical address, length). -/
def State.resolveRange (s : State) (c : Nat) (p : Path) (va : W64) (n : Nat) (acc : Acc) :
    Except Trp (List (Nat × Nat)) :=
  (pageCuts va.toNat n).foldr (fun q r => do
    let pa ← s.resolve c p (.ofNat 64 q.1) acc
    let rest ← r
    return (pa, q.2) :: rest) (.ok [])

/-- The same for no core. -/
def State.resolveRootRange (s : State) (ctx : Nat) (va : W64) (n : Nat) (acc : Acc) :
    Except Trp (List (Nat × Nat)) :=
  (pageCuts va.toNat n).foldr (fun q r => do
    let pa ← s.resolveRoot ctx (.ofNat 64 q.1) acc
    let rest ← r
    return (pa, q.2) :: rest) (.ok [])

/-- An uncorrectable error in the runs. -/
def State.poisonedRuns (s : State) (l : List (Nat × Nat)) : Option Nat :=
  l.findSome? fun q => poisoned s.errs q.1 q.2

/-- The line of a peer address that the fabric cache of an isle holds (02 R44). -/
def State.fabricLine (s : State) (isle pa : Nat) : Option FabricLine :=
  s.fabric.find? fun f => f.isle == isle && f.line == pa / 64

/-- The byte of a peer window that a read through the fabric cache of an isle gives: of the line that it holds, or else
what the home of the peer chip holds, which is a free value (02 R27, R44, log 9, DESIGN CHOICE). -/
def State.peerByte (s : State) (isle : Option Nat) (pa : Nat) : Byte :=
  match isle.bind fun i => s.fabricLine i pa with
  | some f => f.bytes.getD (pa % 64) 0
  | none => Config.peerByte s.freeNo pa

/-- The bytes of runs, as a view and a core of an isle or no core read them. -/
def State.readRuns (s : State) (v : View) (isle : Option Nat) (l : List (Nat × Nat)) : List Byte :=
  l.flatMap fun q => match s.region q.1 with
    | .peer _ => (List.range q.2).map fun i => s.peerByte isle (q.1 + i)
    | _ => s.readAs v q.1 q.2

/-- The line of a peer address as a read fills it now (02 R44). -/
def State.newLine (s : State) (isle line : Nat) : FabricLine :=
  { isle := isle, line := line, bytes := (List.range 64).map fun i => Config.peerByte s.freeNo (64 * line + i) }

/-- The lines that runs meet in peer windows. -/
def State.peerLines (s : State) (l : List (Nat × Nat)) : List Nat :=
  l.flatMap fun q => match s.region q.1 with
    | .peer _ => if q.2 = 0 then [] else (List.range ((q.1 + q.2 - 1) / 64 - q.1 / 64 + 1)).map (q.1 / 64 + ·)
    | _ => []

/-- A read of runs fills the lines that the fabric cache of the isle does not hold (02 R27, R44). -/
def State.fillPeer (s : State) (isle : Nat) (l : List (Nat × Nat)) : State :=
  let missing := (s.peerLines l).filter fun n => (s.fabricLine isle (64 * n)).isNone
  { s with fabric := s.fabric ++ missing.map (s.newLine isle) }

/-- A run lies in configuration space, which only scalar loads and stores reach (02 R26). -/
def State.touchesConfig (s : State) (l : List (Nat × Nat)) : Bool :=
  l.any fun q => s.region q.1 == .config

/-- A run lies in a peer window. -/
def State.touchesPeer (s : State) (l : List (Nat × Nat)) : Bool :=
  l.any fun q => match s.region q.1 with
    | .peer _ => true
    | _ => false

/-- The next free values are fresh. -/
def State.freshen (s : State) : State := { s with freeNo := s.freeNo + 1 }

/-- A writer writes bytes over runs. -/
def State.writeRuns (s : State) (w : Writer) : List (Nat × Nat) → List Byte → State
  | [], _ => s
  | q :: l, bs => (s.writeBy w q.1 (bs.take q.2)).writeRuns w l (bs.drop q.2)

/-- MemRead on a queued path or for the dispatcher: the runs of a range, read; UNCORR when a byte is
poisoned (02 R29). -/
def State.memRead (s : State) (c : Nat) (p : Path) (va : W64) (n : Nat) : Except Trp (List Byte) := do
  let l ← s.resolveRange c p va n .read
  if s.touchesConfig l then .error ⟨.prot, 2, va⟩
  else match s.poisonedRuns l with
  | some e => .error (uncorrTrap e)
  | none => return s.readRuns (viewOf c p) (some (isleOf c)) l

/-- The runs of a range that a core reads on a path. -/
def State.readsOf (s : State) (c : Nat) (p : Path) (va : W64) (n : Nat) : List (Nat × Nat) :=
  match s.resolveRange c p va n .read with
  | .ok l => l
  | .error _ => []

/-- The runs of a range that no core reads, through a context's root. -/
def State.rootRuns (s : State) (ctx : Nat) (va : W64) (n : Nat) : Except Trp (List (Nat × Nat)) := do
  let l ← s.resolveRootRange ctx va n .read
  if s.touchesConfig l then .error ⟨.prot, 2, va⟩
  else match s.poisonedRuns l with
  | some e => .error (uncorrTrap e)
  | none => return l

/-- MemRead for no core, as CP accesses see memory. -/
def State.rootRead (s : State) (ctx : Nat) (va : W64) (n : Nat) : Except Trp (List Byte) :=
  (s.rootRuns ctx va n).map (s.readRuns .cp none)

/-- An 8-byte word for no core. -/
def State.rootWord (s : State) (ctx : Nat) (va : W64) : Except Trp W64 := do
  let bs ← s.rootRead ctx va 8
  return .ofNat 64 (leNat bs)

/-- The range [a, a + n) overlaps a marked word (16 R341). -/
def State.overlapsMark (s : State) (a n : Nat) : Bool :=
  s.marks.any fun m => 8 * m < a + n && a < 8 * m + 8

/-- The range overlaps an armed barrier slot (14 R322). -/
def State.overlapsArmed (s : State) (a n : Nat) : Bool :=
  s.armed.any fun m => 16 * m < a + n && a < 16 * m + 16

end Sys2Proof.Machine
end

