-- ==== Sys2Proof/Machine/Drawers.lean ====
section
/-! DEFINITION. Requests to drawers: the strait, the frame and the response of each (19 R392, R393, R403),
and the loads through peer windows (19 R398, 02 R44). -/

namespace Sys2Proof.Machine

open Sys2Proof

/-- The set bits of a strait mask, from bit 0. -/
def setBits (m : BitVec 16) : List Nat := (List.range 16).filter m.getLsbD

/-- The table of a strait owns a frame of drawer d that can carry a request (19 R390, R392). -/
def Strait.owns (t : Strait) (d : Nat) : Bool :=
  (List.range 64).any fun i => i != 57 && t.kindAt i == 1 && t.drawerAt i == d

/-- The strait that serves an address of drawer d (19 R393). -/
def State.drawerStrait (s : State) (d pa : Nat) : Option Nat :=
  let l := setBits (Tab.get 0 s.dstraits d)
  let k := fold (pa / 256) 8 % l.length
  (l.drop k ++ l.take k).find? fun t => (s.strait t).owns d

/-- A request for a load of a drawer address: ready at its home slice 40 cycles after its bundle issues
(19 R392). -/
def State.askDrawer (s : State) (c id pa : Nat) : State :=
  { s with drawerReqs := s.drawerReqs ++
      [{ core := c, unit := 0, id := id, pa := pa, ready := s.linkCycle + 40, strait := 0, frame := none
         answered := false }] }

/-- The newest outstanding load of core c, at pa, misses its home slice's cache or not. -/
def State.drawerLoad (s : State) (c id pa : Nat) : State :=
  match s.region pa with
  | .drawer _ => if Config.miss s.freeNo then (s.askDrawer c id pa).freshen else s.freshen
  | _ => s

/-! ## Reads of the engines (19 R392) -/

/-- The flits of runs that lie in drawers: the address of each. -/
def State.drawerFlits (s : State) (l : List (Nat × Nat)) : List Nat :=
  l.flatMap fun q => match s.region q.1 with
    | .drawer _ => if q.2 = 0 then []
      else (List.range ((q.1 + q.2 - 1) / 256 - q.1 / 256 + 1)).map fun i => (q.1 / 256 + i) * 256
    | _ => []

/-- A read of a unit of core c reaches the homes of flits: each that misses there forms a request, ready now. -/
def State.askFlits (s : State) (c unit : Nat) (l : List Nat) : State :=
  l.foldl (fun t pa => (if Config.miss t.freeNo then
    { t with drawerReqs := t.drawerReqs ++
        [{ core := c, unit := unit, id := 0, pa := pa, ready := t.linkCycle, strait := 0, frame := none
           answered := false }] } else t).freshen) { s with readsAsked := s.readsAsked ++ [(c, unit)] }

/-- The unit under which a walk for unit u reads the flit of an entry at pa: 0 is the front end, 1 to 8 are the copy
channels, 9 to 12 the gather queues, and 16 + chip the send queues. -/
def walkUnit (u pa : Nat) : Nat := u + 32 * (pa / 256 + 1)

/-- A request is of a unit of core c. -/
def DrawerReq.isOf (r : DrawerReq) (c unit : Nat) : Bool := r.core == c && r.unit == unit

/-- The data of every request of a unit of core c is at its home slice, 384 cycles after its frame began. -/
def State.readsArrived (s : State) (c unit : Nat) : Bool :=
  s.drawerReqs.all fun r => !r.isOf c unit || (r.answered && 48 * (r.frame.getD 0) + 384 ≤ s.linkCycle)

/-- The read of a unit of core c is over. -/
def State.endReads (s : State) (c unit : Nat) : State :=
  { s with drawerReqs := s.drawerReqs.filter fun r => !r.isOf c unit
           readsAsked := s.readsAsked.filter (· != (c, unit)) }

/-! ## Walks (19 R392) -/

/-- The first entry in a drawer that unit u of core c has still to read for the walks of some addresses: its reads follow
one another. -/
def State.walkPending (s : State) (c u : Nat) (p : Path) (vas : List W64) : Option Nat :=
  (vas.flatMap (s.walkOf c p)).find? fun pa => s.inDrawer pa &&
    !(s.readsAsked.contains (c, walkUnit u pa) && s.readsArrived c (walkUnit u pa))

/-- Read it, if that has not begun. -/
def State.askWalk (s : State) (c u pa : Nat) : State :=
  if s.readsAsked.contains (c, walkUnit u pa) then s else s.askFlits c (walkUnit u pa) [pa / 256 * 256]

/-- A unit is a walk's, for unit u. -/
def isWalk (u n : Nat) : Bool := 32 ≤ n && n % 32 == u

/-- Unit u of core c has read an entry of its walks in a drawer. -/
def State.walking (s : State) (c u : Nat) : Bool := s.readsAsked.any fun q => q.1 == c && isWalk u q.2

/-- The walks of unit u are over: their translations are cached (08 R196). -/
def State.walked (s : State) (c u : Nat) (p : Path) (vas : List W64) : State :=
  if s.walking c u then
    let t := vas.foldl (fun t va => t.noteTlb c p va) s
    { t with drawerReqs := t.drawerReqs.filter fun r => !(r.core == c && isWalk u r.unit)
             readsAsked := t.readsAsked.filter fun q => !(q.1 == c && isWalk u q.2) }
  else s

/-- Unit u of core c goes on when the entries of its walks that lie in drawers have arrived; it reads them first. -/
def State.withWalks (s : State) (c u : Nat) (p : Path) (vas : List W64) (go : State → State) : State :=
  match s.walkPending c u p vas with
  | some pa => s.askWalk c u pa
  | none => go (s.walked c u p vas)

/-- A core's unit may run its next step: its engines run, or it completes a piece whose reads have been asked before its
core was asked to stop (08 R190). -/
def State.unitOn (s : State) (c unit : Nat) : Bool :=
  let k := s.core c
  k.engineOn || (k.stopAsked && s.readsAsked.contains (c, unit))

/-- A step of a unit of core c that reads runs: it first asks the drawers, then waits for their data, then goes on. -/
def State.withReads (s : State) (c unit : Nat) (l : List (Nat × Nat)) (go : State → State) : State :=
  let flits := s.drawerFlits l
  if flits.isEmpty then go s
  else if !s.readsAsked.contains (c, unit) then s.askFlits c unit flits
  else if s.readsArrived c unit then go (s.endReads c unit)
  else s

/-- The accesses of a core that leaves its node are no more: what they have asked of a frame keeps its room. -/
def State.orphanReads (s : State) (c : Nat) : State :=
  { s with drawerReqs := (s.drawerReqs.filter fun r => r.core != c || r.frame.isSome).map fun r =>
             if r.core = c then { r with core := 260 } else r
           readsAsked := s.readsAsked.filter fun q => q.1 != c }

/-- A walk of no core, or of the checks with which an op starts, reads the entry at pa: a miss forms a request (19 R392;
log 56, DESIGN CHOICE). -/
def State.walkRequest (s : State) (pa : Nat) : State := if s.inDrawer pa then s.askWalk 261 0 pa else s

/-- The flits of page-table entries in drawers that have arrived: those of core c, or of every core. -/
def State.entriesHere (s : State) (p : Nat → Bool) : List Nat :=
  (s.readsAsked.filter fun q => p q.1 && 32 ≤ q.2 && s.readsArrived q.1 q.2).map fun q => q.2 / 32 - 1

/-- A turn has used the entries that were read for it. -/
def State.entriesUsed (s : State) : State :=
  (s.entriesHere (· == 261)).foldl (fun t n => t.endReads 261 (walkUnit 0 (256 * n))) s

/-- A drawer is there. -/
def State.hasDrawers (s : State) : Bool := !s.early && (List.range 4).any fun d => Tab.get 0 s.gib d != 0

/-! ## The frames of requests -/

/-- The receive groups of strait t that are lit at frame n + 7, as far as is known in frame n (19 R392, R400). -/
def Strait.rxWidthAhead (x : Strait) (n : Nat) : Nat :=
  ((List.range 8).filter fun g =>
    (match x.parkRx with
      | some m => m.getLsbD g
      | none => true)
    && match groupAt x.rx g with
      | .lit => true
      | .parked => false
      | .waking b => b + 50 ≤ n + 7).length

/-- Flits of requests on strait t for frame n. -/
def State.assigned (s : State) (t n : Nat) : Nat :=
  (s.drawerReqs.filter fun r => r.strait == t && r.frame == some n).length

/-- Frame n of strait t can carry one more request to drawer d (19 R392, R403). -/
def State.requestFrame (s : State) (t n d : Nat) : Bool :=
  let x := s.strait t
  x.kindAt n == 1 && x.drawerAt n == d && n % 64 != 57 && !x.retrainsIn n && !x.retrainsIn (n + 7)
    && s.assigned t n < 32 * Nat.min (litWidth x.tx) (x.rxWidthAhead n)

/-- The strait on which request r leaves in the present frame, when it does (19 R392). -/
def State.requestLeaves (s : State) (r : DrawerReq) : Option Nat :=
  match s.region r.pa with
  | .drawer d =>
    match s.drawerStrait d r.pa with
    | some t =>
      if s.framesOn && !s.turning && r.frame.isNone && r.ready ≤ 48 * s.frame && s.requestFrame t s.frame d then some t
      else none
    | none => none
  | _ => none

/-- A request goes before another: it was ready before it, or as early and asked first. -/
def earlier (a b : DrawerReq × Nat) : Bool := a.1.ready < b.1.ready || (a.1.ready == b.1.ready && a.2 < b.2)

/-- Request r, the k-th, may leave now: no request that goes before it leaves on the same strait. -/
def State.requestTurn (s : State) (r : DrawerReq) (k t : Nat) : Bool :=
  s.drawerReqs.zipIdx.all fun q => !earlier q (r, k) || s.requestLeaves q.1 != some t

/-- 19 R392: request k leaves in the present frame. -/
def execDrawerRequest (k : Nat) (s : State) : Out3 :=
  match s.drawerReqs[k]? with
  | none => .next s
  | some r =>
    match s.requestLeaves r with
    | none => .next s
    | some t =>
      if s.requestTurn r k t then
        .next { s with drawerReqs := s.drawerReqs.set k { r with strait := t, frame := some s.frame } }
      else .next s

/-- 19 R392: the response of request k has arrived at its home slice, 384 cycles after frame f began. -/
def execDrawerResponse (k : Nat) (s : State) : Out3 :=
  match s.drawerReqs[k]? with
  | none => .next s
  | some r =>
    match r.frame with
    | none => .next s
    | some f =>
      if 48 * f + 384 ≤ s.linkCycle then
        .next { s with drawerReqs := s.drawerReqs.set k { r with answered := true } }
      else .next s

/-- Outstanding load o of core c may return its value: at once from a scratchpad or a home slice's cache;
with a drawer's response, 404 cycles after frame f began (19 R392); from a line of the fabric cache, or
540 cycles after the frame of its request (19 R398). -/
def State.loadReady (s : State) (c : Nat) (o : Out) (pa : Nat) : Bool :=
  match s.region pa with
  | .drawer _ =>
    (match s.drawerReqs.find? fun r => r.isOf c 0 && r.id == o.id with
    | some r => r.answered && 48 * (r.frame.getD 0) + 404 ≤ s.linkCycle
    | none => true)
  | .peer _ =>
    (s.fabricLine (isleOf c) pa).isSome
      || (match o.asked with
        | some f => 48 * f + 540 ≤ s.linkCycle
        | none => false)
  | _ => true

end Sys2Proof.Machine
end

