-- ==== Sys2Proof/Machine/Operands.lean ====
section
/-! DEFINITION. Operand forms: the registers that an op reads and writes, and effective addresses
(05 R113, 06 R129, R130). -/

namespace Sys2Proof.Machine

open Sys2Proof

/-- The registers that an op names as destinations (06 R129). -/
def destRegs : Instr → List Reg
  | .deviceReset => []
  | .bringupStage2 => []
  | .bringupStage3 _ _ => []
  | .bringupStage4 => []
  | .heartbeatTick => []
  | .bundleFetch _ => []
  | .queuedOpDepart _ _ => []
  | .loadReturn _ _ => []
  | .storePerform _ _ => []
  | .homeAnswer _ => []
  | .syncHoldRelease _ => []
  | .lockstepMismatch _ _ => []
  | .nop => []
  | .add sd _ _ => [.s sd.toNat]
  | .sub sd _ _ => [.s sd.toNat]
  | .mul sd _ _ => [.s sd.toNat]
  | .mulh sd _ _ => [.s sd.toNat]
  | .mulhu sd _ _ => [.s sd.toNat]
  | .div sd _ _ => [.s sd.toNat]
  | .divu sd _ _ => [.s sd.toNat]
  | .rem sd _ _ => [.s sd.toNat]
  | .remu sd _ _ => [.s sd.toNat]
  | .and sd _ _ => [.s sd.toNat]
  | .or sd _ _ => [.s sd.toNat]
  | .xor sd _ _ => [.s sd.toNat]
  | .shl sd _ _ => [.s sd.toNat]
  | .shr sd _ _ => [.s sd.toNat]
  | .sar sd _ _ => [.s sd.toNat]
  | .min sd _ _ => [.s sd.toNat]
  | .max sd _ _ => [.s sd.toNat]
  | .minu sd _ _ => [.s sd.toNat]
  | .maxu sd _ _ => [.s sd.toNat]
  | .seq sd _ _ => [.s sd.toNat]
  | .slt sd _ _ => [.s sd.toNat]
  | .sltu sd _ _ => [.s sd.toNat]
  | .sel sd _ _ _ _ => [.s sd.toNat]
  | .clz sd _ => [.s sd.toNat]
  | .ctz sd _ => [.s sd.toNat]
  | .popc sd _ => [.s sd.toNat]
  | .addi sd _ _ => [.s sd.toNat]
  | .andi sd _ _ => [.s sd.toNat]
  | .ori sd _ _ => [.s sd.toNat]
  | .xori sd _ _ => [.s sd.toNat]
  | .shli sd _ _ => [.s sd.toNat]
  | .shri sd _ _ => [.s sd.toNat]
  | .sari sd _ _ => [.s sd.toNat]
  | .slti sd _ _ => [.s sd.toNat]
  | .sltui sd _ _ => [.s sd.toNat]
  | .li sd _ => [.s sd.toNat]
  | .lix sd _ _ => [.s sd.toNat]
  | .pset _ _ _ _ => []
  | .pseti _ _ _ _ => []
  | .plog _ _ _ _ => []
  | .pwr _ _ => []
  | .prd sd => [.s sd.toNat]
  | .ldB sd _ _ => [.s sd.toNat]
  | .ldH sd _ _ => [.s sd.toNat]
  | .ldW sd _ _ => [.s sd.toNat]
  | .ldD sd _ _ => [.s sd.toNat]
  | .ldBu sd _ _ => [.s sd.toNat]
  | .ldHu sd _ _ => [.s sd.toNat]
  | .ldWu sd _ _ => [.s sd.toNat]
  | .ldQ sd _ _ => [.s sd.toNat, .s (sd.toNat + 1)]
  | .stB _ _ _ => []
  | .stH _ _ _ => []
  | .stW _ _ _ => []
  | .stD _ _ _ => []
  | .stQ _ _ _ => []
  | .splLd sd _ => [.s sd.toNat]
  | .splSt _ _ => []
  | .amo sd _ _ _ _ => [.s sd.toNat]
  | .cas sd _ _ _ => [.s sd.toNat]
  | .tkGet sd _ _ => [.s sd.toNat]
  | .tkNext sd _ _ => [.s sd.toNat]
  | .sqInit sd _ => [.s sd.toNat]
  | .sqRes sd _ _ => [.s sd.toNat]
  | .sqCmt sd _ _ => [.s sd.toNat]
  | .sqRet sd _ _ => [.s sd.toNat]
  | .sqLen sd _ => [.s sd.toNat]
  | .sqLenCl sd _ => [.s sd.toNat]
  | .sqFork sd _ _ => [.s sd.toNat]
  | .sqDrop sd _ => [.s sd.toNat]
  | .sqGrow sd _ _ => [.s sd.toNat]
  | .sqBind _ _ => []
  | .sqBindClr _ => []
  | .sqAddr sd _ _ => [.s sd.toNat]
  | .br _ => []
  | .brLoop cnt _ _ => [.s cnt.toNat]
  | .call _ => [.s 63]
  | .ret _ => []
  | .jr sd _ => [.s sd.toNat]
  | .rep _ _ _ => []
  | .lbPin _ _ => []
  | .lbFree => []
  | .trap _ => []
  | .rett => []
  | .brk _ => []
  | .sysRd sd _ => [.s sd.toNat]
  | .sysWr _ _ => []
  | .tlbInv _ => []
  | .halt => []
  | .yield => []
  | .cmpt _ _ => []
  | .cmptV _ _ => []
  | .ndDone sd _ => [.s sd.toNat]
  | .ndSpawn sd _ => [.s sd.toNat]
  | .ndSel sd _ => [.s sd.toNat]
  | .vaddF vd _ _ _ _ _ => [.v vd.toNat]
  | .vsubF vd _ _ _ _ _ => [.v vd.toNat]
  | .vmulF vd _ _ _ _ _ => [.v vd.toNat]
  | .vfmaF vd _ _ _ _ _ => [.v vd.toNat]
  | .vminF vd _ _ _ => [.v vd.toNat]
  | .vmaxF vd _ _ _ => [.v vd.toNat]
  | .vabsF vd _ _ => [.v vd.toNat]
  | .vaddI vd _ _ _ _ _ _ => [.v vd.toNat]
  | .vsubI vd _ _ _ _ _ _ => [.v vd.toNat]
  | .vmulI vd _ _ _ _ _ _ => [.v vd.toNat]
  | .vminI vd _ _ _ _ _ => [.v vd.toNat]
  | .vmaxI vd _ _ _ _ _ => [.v vd.toNat]
  | .vand vd _ _ _ => [.v vd.toNat]
  | .vor vd _ _ _ => [.v vd.toNat]
  | .vxor vd _ _ _ => [.v vd.toNat]
  | .vshl vd _ _ _ _ _ _ => [.v vd.toNat]
  | .vshr vd _ _ _ _ _ _ => [.v vd.toNat]
  | .vsar vd _ _ _ _ _ _ => [.v vd.toNat]
  | .vcmp kd _ _ _ _ _ => [.k kd.toNat]
  | .vsel vd _ _ _ => [.v vd.toNat]
  | .kop kd _ _ _ => [.k kd.toNat]
  | .kpop sd _ _ _ => [.s sd.toNat]
  | .vexp2 vd _ _ => [.v vd.toNat]
  | .vlog2 vd _ _ => [.v vd.toNat]
  | .vrcp vd _ _ => [.v vd.toNat]
  | .vrsqrt vd _ _ => [.v vd.toNat]
  | .vtanh vd _ _ => [.v vd.toNat]
  | .vcvt vd _ _ _ _ _ _ _ _ => [.v vd.toNat]
  | .vpackMx vd _ _ => [.v vd.toNat]
  | .vunpk vd _ _ _ _ => [.v vd.toNat]
  | .vscl vd _ _ _ _ => [.v vd.toNat]
  | .vmov vd _ _ => [.v vd.toNat]
  | .vbcast vd _ _ _ _ => [.v vd.toNat]
  | .vext _ sb _ _ => [.s sb.toNat]
  | .vperm vd _ _ _ => [.v vd.toNat]
  | .vxg vd _ _ _ _ _ => [.v vd.toNat]
  | .vcmprs vd _ vc _ => [.v vd.toNat, .v vc.toNat]
  | .vexpd vd _ _ => [.v vd.toNat]
  | .vred vd _ vc _ _ _ _ op => if op.toNat < 3 then [.v vd.toNat] else [.v vd.toNat, .v vc.toNat]
  | .vpfx vd _ vc _ _ _ => [.v vd.toNat, .v vc.toNat]
  | .vdesc vd _ _ _ _ => [.v vd.toNat]
  | .vnoise vd _ _ _ _ _ => [.v vd.toNat]
  | .vld vd _ _ _ => [.v vd.toNat]
  | .vst _ _ _ _ => []
  | .vldx vd _ _ _ _ => [.v vd.toNat]
  | .vstx _ _ _ _ _ => []
  | .mcall _ => []
  | .mpset _ _ _ => []
  | .mpget _ sd => [.s sd.toNat]
  | .dsetMem _ _ _ => []
  | .dsetField _ _ _ => []
  | .dget _ sd _ => [.s sd.toNat]
  | .dtag _ _ => []
  | .mzero _ _ _ _ _ => []
  | .msca _ _ _ _ => []
  | .cvRd _ sd _ => [.s sd.toNat]
  | .cvWr _ _ _ => []
  | .cvAdd _ _ _ => []
  | .cvScl _ _ _ => []
  | .mucode _ _ _ => []
  | .mucodeClr _ => []
  | .ldw _ => []
  | .strm => []
  | .acc _ _ => []
  | .grade => []
  | .tail _ => []
  | .bound => []
  | .xmax => []
  | .blk => []
  | .seta _ => []
  | .loop _ => []
  | .brz _ => []
  | .uend => []
  | .cp _ _ _ _ _ _ _ _ _ => []
  | .cp2d _ _ _ _ _ _ _ _ _ => []
  | .cpMc _ _ _ _ _ _ _ _ _ => []
  | .cpChain _ _ => []
  | .cpStat sd _ => [.s sd.toNat]
  | .agCfg _ _ => []
  | .cpAg _ _ _ _ _ _ _ _ _ _ _ => []
  | .gqCfg _ _ => []
  | .gqPush _ _ _ => []
  | .gqEnd _ => []
  | .acpyOut _ _ _ _ _ _ _ _ _ _ => []
  | .acpyIn _ _ _ _ _ _ => []
  | .cbInit _ _ => []
  | .cbPush _ _ _ _ => []
  | .cpSeq _ _ _ _ _ _ _ _ => []
  | .copyPiece _ _ => []
  | .copyComplete _ _ => []
  | .gatherRow _ _ => []
  | .landingCount _ => []
  | .slotFilled _ _ => []
  | .wait _ _ _ _ => []
  | .wtag _ => []
  | .wtagClr _ => []
  | .barInit _ _ _ => []
  | .barArv sd _ _ _ _ => [.s sd.toNat]
  | .barMark _ _ _ => []
  | .barWait sd _ _ => [.s sd.toNat]
  | .barPar _ _ => []
  | .barRet _ => []
  | .flPost _ _ _ => []
  | .flPostR _ _ _ _ => []
  | .flagPostArrive _ => []
  | .flWait sd _ _ => [.s sd.toNat]
  | .fenceX _ _ _ => []
  | .fenceSc => []
  | .drain => []
  | .tkWait _ _ _ => []
  | .cbPop sd _ => [.s sd.toNat]
  | .cbRel _ _ _ => []
  | .step => []
  | .seg => []
  | .segOff => []
  | .rdv _ => []
  | .gBar _ => []
  | .gRed sd _ _ op _ => if op.toNat < 5 then [.s sd.toNat] else [.s sd.toNat, .s (sd.toNat + 1)]
  | .gInfo sd _ => [.s sd.toNat]
  | .bnLd _ n => [.bn n.toNat]
  | .bnMap sd _ _ _ => [.s sd.toNat]
  | .bnMapx sd _ _ _ => [.s sd.toNat]
  | .lkSend _ _ _ _ _ _ _ _ => []
  | .lkRecv _ _ _ _ _ _ _ _ _ => []
  | .lkStat sd _ _ => [.s sd.toNat]
  | .lkTide _ _ => []
  | .lkCirc _ => []
  | .lkPark _ _ => []
  | .lkRate _ _ => []
  | .frameBoundary => []
  | .tideBoundary => []
  | .circuitSlotBoundary => []
  | .drawerRequest _ => []
  | .drawerResponse _ => []
  | .linkPieceArrive _ => []
  | .linkAck _ _ _ _ _ _ => []
  | .retrainStart _ => []
  | .retrainEnd _ => []
  | .groupLit _ _ _ => []
  | .linkStall _ _ => []
  | .dispatch => []
  | .preemptTimeout => []
  | .contextSave _ => []
  | .dispatcherRestore => []
  | .restore _ => []
  | .clPush _ => []
  | .compactSubmit _ => []
  | .compactPage => []
  | .compactSwap => []
  | .pageFree _ => []
  | .groupEntryWrite _ _ => []
  | .ticketEntryWrite _ _ _ => []
  | .linkControlWrite _ => []
  | .configWrite _ _ => []
  | .controlPeriodEnd _ _ => []
  | .ballastStart _ => []
  | .clusterGate _ => []
  | .clusterWake _ => []
  | .launch _ => []
  | .read _ => []
  | .write _ => []
  | .status _ => []
  | .release _ => []
  | .open _ => []
  | .close _ => []
  | .preempt _ => []
  | .resume _ => []
  | .connectionSetUp _ _ _ _ => []
  | .peerLoadRequest _ _ => []

/-- The registers that an op reads (06 R129, R130); a field that the form leaves unused names none. -/
def sourceRegs : Instr → List Reg
  | .deviceReset => []
  | .bringupStage2 => []
  | .bringupStage3 _ _ => []
  | .bringupStage4 => []
  | .heartbeatTick => []
  | .bundleFetch _ => []
  | .queuedOpDepart _ _ => []
  | .loadReturn _ _ => []
  | .storePerform _ _ => []
  | .homeAnswer _ => []
  | .syncHoldRelease _ => []
  | .lockstepMismatch _ _ => []
  | .nop => []
  | .add _ sa sb => [.s sa.toNat, .s sb.toNat]
  | .sub _ sa sb => [.s sa.toNat, .s sb.toNat]
  | .mul _ sa sb => [.s sa.toNat, .s sb.toNat]
  | .mulh _ sa sb => [.s sa.toNat, .s sb.toNat]
  | .mulhu _ sa sb => [.s sa.toNat, .s sb.toNat]
  | .div _ sa sb => [.s sa.toNat, .s sb.toNat]
  | .divu _ sa sb => [.s sa.toNat, .s sb.toNat]
  | .rem _ sa sb => [.s sa.toNat, .s sb.toNat]
  | .remu _ sa sb => [.s sa.toNat, .s sb.toNat]
  | .and _ sa sb => [.s sa.toNat, .s sb.toNat]
  | .or _ sa sb => [.s sa.toNat, .s sb.toNat]
  | .xor _ sa sb => [.s sa.toNat, .s sb.toNat]
  | .shl _ sa sb => [.s sa.toNat, .s sb.toNat]
  | .shr _ sa sb => [.s sa.toNat, .s sb.toNat]
  | .sar _ sa sb => [.s sa.toNat, .s sb.toNat]
  | .min _ sa sb => [.s sa.toNat, .s sb.toNat]
  | .max _ sa sb => [.s sa.toNat, .s sb.toNat]
  | .minu _ sa sb => [.s sa.toNat, .s sb.toNat]
  | .maxu _ sa sb => [.s sa.toNat, .s sb.toNat]
  | .seq _ sa sb => [.s sa.toNat, .s sb.toNat]
  | .slt _ sa sb => [.s sa.toNat, .s sb.toNat]
  | .sltu _ sa sb => [.s sa.toNat, .s sb.toNat]
  | .sel _ sa sb _ _ => [.s sa.toNat, .s sb.toNat]
  | .clz _ sa => [.s sa.toNat]
  | .ctz _ sa => [.s sa.toNat]
  | .popc _ sa => [.s sa.toNat]
  | .addi _ sa _ => [.s sa.toNat]
  | .andi _ sa _ => [.s sa.toNat]
  | .ori _ sa _ => [.s sa.toNat]
  | .xori _ sa _ => [.s sa.toNat]
  | .shli _ sa _ => [.s sa.toNat]
  | .shri _ sa _ => [.s sa.toNat]
  | .sari _ sa _ => [.s sa.toNat]
  | .slti _ sa _ => [.s sa.toNat]
  | .sltui _ sa _ => [.s sa.toNat]
  | .li _ _ => []
  | .lix _ sa _ => [.s sa.toNat]
  | .pset _ sa sb _ => [.s sa.toNat, .s sb.toNat]
  | .pseti _ sa _ _ => [.s sa.toNat]
  | .plog _ _ _ _ => []
  | .pwr sa _ => [.s sa.toNat]
  | .prd _ => []
  | .ldB _ sa _ => [.s sa.toNat]
  | .ldH _ sa _ => [.s sa.toNat]
  | .ldW _ sa _ => [.s sa.toNat]
  | .ldD _ sa _ => [.s sa.toNat]
  | .ldBu _ sa _ => [.s sa.toNat]
  | .ldHu _ sa _ => [.s sa.toNat]
  | .ldWu _ sa _ => [.s sa.toNat]
  | .ldQ _ sa _ => [.s sa.toNat]
  | .stB ss sa _ => [.s ss.toNat, .s sa.toNat]
  | .stH ss sa _ => [.s ss.toNat, .s sa.toNat]
  | .stW ss sa _ => [.s ss.toNat, .s sa.toNat]
  | .stD ss sa _ => [.s ss.toNat, .s sa.toNat]
  | .stQ ss sa _ => [.s ss.toNat, .s (ss.toNat + 1), .s sa.toNat]
  | .splLd _ _ => []
  | .splSt ss _ => [.s ss.toNat]
  | .amo _ sa sb _ _ => [.s sa.toNat, .s sb.toNat]
  | .cas _ sa sb _ => [.s sa.toNat, .s sb.toNat, .s (sb.toNat + 1)]
  | .tkGet _ sa _ => [.s sa.toNat]
  | .tkNext _ sa _ => [.s sa.toNat]
  | .sqInit _ sa => [.s sa.toNat]
  | .sqRes _ sa sb => [.s sa.toNat, .s sb.toNat]
  | .sqCmt _ sa sb => [.s sa.toNat, .s sb.toNat]
  | .sqRet _ sa sb => [.s sa.toNat, .s sb.toNat]
  | .sqLen _ sa => [.s sa.toNat]
  | .sqLenCl _ _ => []
  | .sqFork _ sa sb => [.s sa.toNat, .s sb.toNat, .s (sb.toNat + 1)]
  | .sqDrop _ sa => [.s sa.toNat]
  | .sqGrow _ sa sb => [.s sa.toNat, .s sb.toNat]
  | .sqBind sa _ => [.s sa.toNat]
  | .sqBindClr _ => []
  | .sqAddr _ sa sb => [.s sa.toNat, .s sb.toNat]
  | .br _ => []
  | .brLoop cnt _ _ => [.s cnt.toNat]
  | .call _ => []
  | .ret sa => [.s sa.toNat]
  | .jr _ sa => [.s sa.toNat]
  | .rep cnt _ _ => [.s cnt.toNat]
  | .lbPin _ _ => []
  | .lbFree => []
  | .trap _ => []
  | .rett => []
  | .brk _ => []
  | .sysRd _ _ => []
  | .sysWr sa _ => [.s sa.toNat]
  | .tlbInv sa => [.s sa.toNat]
  | .halt => []
  | .yield => []
  | .cmpt sa sb => [.s sa.toNat, .s sb.toNat]
  | .cmptV va vb => [.v va.toNat, .v vb.toNat]
  | .ndDone _ sa => [.s sa.toNat]
  | .ndSpawn _ sa => [.s sa.toNat]
  | .ndSel _ sa => [.s sa.toNat]
  | .vaddF _ va vb vc k rm => [.v va.toNat, .v vb.toNat, .k k.toNat] ++ (if rm = 4 then [.v vc.toNat] else [])
  | .vsubF _ va vb vc k rm => [.v va.toNat, .v vb.toNat, .k k.toNat] ++ (if rm = 4 then [.v vc.toNat] else [])
  | .vmulF _ va vb vc k rm => [.v va.toNat, .v vb.toNat, .k k.toNat] ++ (if rm = 4 then [.v vc.toNat] else [])
  | .vfmaF _ va vb vc k _ => [.v va.toNat, .v vb.toNat, .v vc.toNat, .k k.toNat]
  | .vminF _ va vb k => [.v va.toNat, .v vb.toNat, .k k.toNat]
  | .vmaxF _ va vb k => [.v va.toNat, .v vb.toNat, .k k.toNat]
  | .vabsF _ va k => [.v va.toNat, .k k.toNat]
  | .vaddI _ va vb k _ _ _ => [.v va.toNat, .v vb.toNat, .k k.toNat]
  | .vsubI _ va vb k _ _ _ => [.v va.toNat, .v vb.toNat, .k k.toNat]
  | .vmulI _ va vb k _ _ _ => [.v va.toNat, .v vb.toNat, .k k.toNat]
  | .vminI _ va vb k _ _ => [.v va.toNat, .v vb.toNat, .k k.toNat]
  | .vmaxI _ va vb k _ _ => [.v va.toNat, .v vb.toNat, .k k.toNat]
  | .vand _ va vb k => [.v va.toNat, .v vb.toNat, .k k.toNat]
  | .vor _ va vb k => [.v va.toNat, .v vb.toNat, .k k.toNat]
  | .vxor _ va vb k => [.v va.toNat, .v vb.toNat, .k k.toNat]
  | .vshl _ va vb k _ imm _ => [.v va.toNat, .k k.toNat] ++ (if imm then [] else [.v vb.toNat])
  | .vshr _ va vb k _ imm _ => [.v va.toNat, .k k.toNat] ++ (if imm then [] else [.v vb.toNat])
  | .vsar _ va vb k _ imm _ => [.v va.toNat, .k k.toNat] ++ (if imm then [] else [.v vb.toNat])
  | .vcmp _ va vb k _ _ => [.v va.toNat, .v vb.toNat, .k k.toNat]
  | .vsel _ va vb k => [.v va.toNat, .v vb.toNat, .k k.toNat]
  | .kop _ ka kb op => .k ka.toNat :: (if op.toNat < 4 then [.k kb.toNat] else [])
  | .kpop _ ka k _ => [.k ka.toNat, .k k.toNat]
  | .vexp2 _ va k => [.v va.toNat, .k k.toNat]
  | .vlog2 _ va k => [.v va.toNat, .k k.toNat]
  | .vrcp _ va k => [.v va.toNat, .k k.toNat]
  | .vrsqrt _ va k => [.v va.toNat, .k k.toNat]
  | .vtanh _ va k => [.v va.toNat, .k k.toNat]
  | .vcvt _ va vb _ _ k _ _ rm => [.v va.toNat, .k k.toNat] ++ (if rm = 4 then [.v vb.toNat] else [])
  | .vpackMx _ va vb => [.v va.toNat, .v vb.toNat]
  | .vunpk _ va k _ _ => [.v va.toNat, .k k.toNat]
  | .vscl _ va vb k _ => [.v va.toNat, .v vb.toNat, .k k.toNat]
  | .vmov _ va k => [.v va.toNat, .k k.toNat]
  | .vbcast _ sb k _ _ => [.s sb.toNat, .k k.toNat]
  | .vext va _ _ _ => [.v va.toNat]
  | .vperm _ va vb k => [.v va.toNat, .v vb.toNat, .k k.toNat]
  | .vxg _ va vb k mode _ => [.v va.toNat, .k k.toNat] ++ (if mode = 3 then [.v vb.toNat] else [])
  | .vcmprs _ va _ k => [.v va.toNat, .k k.toNat]
  | .vexpd _ va k => [.v va.toNat, .k k.toNat]
  | .vred _ va _ k _ _ _ _ => [.v va.toNat, .k k.toNat]
  | .vpfx _ va _ k _ _ => [.v va.toNat, .k k.toNat]
  | .vdesc _ va vb vc leaf => .v vb.toNat :: (if leaf then [.v va.toNat] else [.v vc.toNat])
  | .vnoise _ va sb k _ _ => [.v va.toNat, .s sb.toNat, .s (sb.toNat + 1), .k k.toNat]
  | .vld _ sb k _ => [.s sb.toNat, .k k.toNat]
  | .vst vd sb k _ => [.v vd.toNat, .s sb.toNat, .k k.toNat]
  | .vldx _ va sb k _ => [.v va.toNat, .s sb.toNat, .k k.toNat]
  | .vstx vd va sb k _ => [.v vd.toNat, .v va.toNat, .s sb.toNat, .k k.toNat]
  | .mcall _ => []
  | .mpset _ sa _ => [.s sa.toNat]
  | .mpget _ _ => []
  | .dsetMem _ sa _ => [.s sa.toNat]
  | .dsetField _ sa _ => [.s sa.toNat]
  | .dget _ _ _ => []
  | .dtag _ _ => []
  | .mzero sa anc _ _ _ => if anc then [.s sa.toNat] else []
  | .msca sa _ _ _ => [.s sa.toNat, .s (sa.toNat + 1)]
  | .cvRd _ _ _ => []
  | .cvWr _ sa _ => [.s sa.toNat]
  | .cvAdd _ _ _ => []
  | .cvScl _ _ sa => [.s sa.toNat]
  | .mucode sa _ _ => [.s sa.toNat]
  | .mucodeClr _ => []
  | .ldw _ => []
  | .strm => []
  | .acc _ _ => []
  | .grade => []
  | .tail _ => []
  | .bound => []
  | .xmax => []
  | .blk => []
  | .seta _ => []
  | .loop _ => []
  | .brz _ => []
  | .uend => []
  | .cp dst src len _ _ _ _ _ _ => [.s dst.toNat, .s src.toNat, .s len.toNat]
  | .cp2d dst src len _ _ _ _ _ _ => [.s dst.toNat, .s src.toNat, .s len.toNat, .s (len.toNat + 1)]
  | .cpMc dst src len _ _ _ _ _ _ => [.s dst.toNat, .s src.toNat, .s len.toNat]
  | .cpChain sa _ => [.s sa.toNat]
  | .cpStat _ _ => []
  | .agCfg sa _ => [.s sa.toNat]
  | .cpAg dst src len _ _ _ _ _ _ _ _ => [.s dst.toNat, .s src.toNat, .s len.toNat]
  | .gqCfg sa _ => [.s sa.toNat]
  | .gqPush sa _ _ => [.s sa.toNat]
  | .gqEnd _ => []
  | .acpyOut _ sr sn _ _ _ _ _ _ rm => .s sr.toNat :: (if rm = 4 then [.s sn.toNat] else [])
  | .acpyIn _ sr _ _ _ _ => [.s sr.toNat]
  | .cbInit sa _ => [.s sa.toNat]
  | .cbPush sa _ _ _ => [.s sa.toNat]
  | .cpSeq dst src len _ _ _ _ _ => [.s dst.toNat, .s src.toNat, .s len.toNat, .s (len.toNat + 1)]
  | .copyPiece _ _ => []
  | .copyComplete _ _ => []
  | .gatherRow _ _ => []
  | .landingCount _ => []
  | .slotFilled _ _ => []
  | .wait _ _ _ _ => []
  | .wtag _ => []
  | .wtagClr _ => []
  | .barInit sa sb _ => [.s sa.toNat, .s sb.toNat]
  | .barArv _ sa sb _ _ => [.s sa.toNat, .s sb.toNat]
  | .barMark sa sb _ => [.s sa.toNat, .s sb.toNat]
  | .barWait _ sa sb => [.s sa.toNat, .s sb.toNat]
  | .barPar sa _ => [.s sa.toNat]
  | .barRet sa => [.s sa.toNat]
  | .flPost sb _ _ => [.s sb.toNat]
  | .flPostR sa sb _ _ => [.s sa.toNat, .s sb.toNat]
  | .flagPostArrive _ => []
  | .flWait _ _ _ => []
  | .fenceX _ _ _ => []
  | .fenceSc => []
  | .drain => []
  | .tkWait sa sb _ => [.s sa.toNat, .s sb.toNat]
  | .cbPop _ _ => []
  | .cbRel sa _ _ => [.s sa.toNat]
  | .step => []
  | .seg => []
  | .segOff => []
  | .rdv _ => []
  | .gBar _ => []
  | .gRed _ sa sb _ _ => [.s sa.toNat, .s sb.toNat]
  | .gInfo _ _ => []
  | .bnLd sa _ => [.s sa.toNat]
  | .bnMap _ sa sb n => [.s sa.toNat, .s sb.toNat, .bn n.toNat]
  | .bnMapx sd sa sb n => [.s sd.toNat, .s sa.toNat, .s sb.toNat, .bn n.toNat]
  | .lkSend dst src len _ _ _ _ _ => [.s dst.toNat, .s src.toNat, .s len.toNat]
  | .lkRecv dst src len _ _ _ _ _ _ => [.s dst.toNat, .s src.toNat, .s len.toNat]
  | .lkStat _ _ _ => []
  | .lkTide sa _ => [.s sa.toNat]
  | .lkCirc sa => [.s sa.toNat]
  | .lkPark sa _ => [.s sa.toNat]
  | .lkRate sa _ => [.s sa.toNat]
  | .frameBoundary => []
  | .tideBoundary => []
  | .circuitSlotBoundary => []
  | .drawerRequest _ => []
  | .drawerResponse _ => []
  | .linkPieceArrive _ => []
  | .linkAck _ _ _ _ _ _ => []
  | .retrainStart _ => []
  | .retrainEnd _ => []
  | .groupLit _ _ _ => []
  | .linkStall _ _ => []
  | .dispatch => []
  | .preemptTimeout => []
  | .contextSave _ => []
  | .dispatcherRestore => []
  | .restore _ => []
  | .clPush _ => []
  | .compactSubmit _ => []
  | .compactPage => []
  | .compactSwap => []
  | .pageFree _ => []
  | .groupEntryWrite _ _ => []
  | .ticketEntryWrite _ _ _ => []
  | .linkControlWrite _ => []
  | .configWrite _ _ => []
  | .controlPeriodEnd _ _ => []
  | .ballastStart _ => []
  | .clusterGate _ => []
  | .clusterWake _ => []
  | .launch _ => []
  | .read _ => []
  | .write _ => []
  | .status _ => []
  | .release _ => []
  | .open _ => []
  | .close _ => []
  | .preempt _ => []
  | .resume _ => []
  | .connectionSetUp _ _ _ _ => []
  | .peerLoadRequest _ _ => []

/-- A register that reads as a constant and discards writes: s0 and k0 (06 R127, 09 R212). -/
def Reg.fixed : Reg → Bool
  | .s 0 => true
  | .k 0 => true
  | _ => false

/-- The destinations that an op really writes. -/
def writtenRegs (i : Instr) : List Reg := (destRegs i).filter (!·.fixed)

/-- The sources that an op really reads. -/
def readRegs (i : Instr) : List Reg := (sourceRegs i).filter (!·.fixed)

/-- The address of a scalar load or store: S[sa] + sext(off23), modulo 2^64 (06 R141). -/
def State.ea (s : State) (sa : SR) (off : BitVec 23) : W64 := s.srcS sa + sx off

/-- The address of vld and vst: S[sb] + 64 × sext(imm12) (09 R245). -/
def State.eaV (s : State) (sb : SR) (off : BitVec 12) : W64 := s.srcS sb + sx off * 64

/-- The values of the scalar registers that a queued op carries from its issue (01 R17), in the order of
its fields: each register, and after an even one of a pair its partner. -/
def queuedVals (s : State) : Instr → List W64
  | .deviceReset => []
  | .bringupStage2 => []
  | .bringupStage3 _ _ => []
  | .bringupStage4 => []
  | .heartbeatTick => []
  | .bundleFetch _ => []
  | .queuedOpDepart _ _ => []
  | .loadReturn _ _ => []
  | .storePerform _ _ => []
  | .homeAnswer _ => []
  | .syncHoldRelease _ => []
  | .lockstepMismatch _ _ => []
  | .nop => []
  | .add _ _ _ => []
  | .sub _ _ _ => []
  | .mul _ _ _ => []
  | .mulh _ _ _ => []
  | .mulhu _ _ _ => []
  | .div _ _ _ => []
  | .divu _ _ _ => []
  | .rem _ _ _ => []
  | .remu _ _ _ => []
  | .and _ _ _ => []
  | .or _ _ _ => []
  | .xor _ _ _ => []
  | .shl _ _ _ => []
  | .shr _ _ _ => []
  | .sar _ _ _ => []
  | .min _ _ _ => []
  | .max _ _ _ => []
  | .minu _ _ _ => []
  | .maxu _ _ _ => []
  | .seq _ _ _ => []
  | .slt _ _ _ => []
  | .sltu _ _ _ => []
  | .sel _ _ _ _ _ => []
  | .clz _ _ => []
  | .ctz _ _ => []
  | .popc _ _ => []
  | .addi _ _ _ => []
  | .andi _ _ _ => []
  | .ori _ _ _ => []
  | .xori _ _ _ => []
  | .shli _ _ _ => []
  | .shri _ _ _ => []
  | .sari _ _ _ => []
  | .slti _ _ _ => []
  | .sltui _ _ _ => []
  | .li _ _ => []
  | .lix _ _ _ => []
  | .pset _ _ _ _ => []
  | .pseti _ _ _ _ => []
  | .plog _ _ _ _ => []
  | .pwr _ _ => []
  | .prd _ => []
  | .ldB _ _ _ => []
  | .ldH _ _ _ => []
  | .ldW _ _ _ => []
  | .ldD _ _ _ => []
  | .ldBu _ _ _ => []
  | .ldHu _ _ _ => []
  | .ldWu _ _ _ => []
  | .ldQ _ _ _ => []
  | .stB _ _ _ => []
  | .stH _ _ _ => []
  | .stW _ _ _ => []
  | .stD _ _ _ => []
  | .stQ _ _ _ => []
  | .splLd _ _ => []
  | .splSt _ _ => []
  | .amo _ _ _ _ _ => []
  | .cas _ _ _ _ => []
  | .tkGet _ _ _ => []
  | .tkNext _ _ _ => []
  | .sqInit _ _ => []
  | .sqRes _ _ _ => []
  | .sqCmt _ _ _ => []
  | .sqRet _ _ _ => []
  | .sqLen _ _ => []
  | .sqLenCl _ _ => []
  | .sqFork _ _ _ => []
  | .sqDrop _ _ => []
  | .sqGrow _ _ _ => []
  | .sqBind _ _ => []
  | .sqBindClr _ => []
  | .sqAddr _ _ _ => []
  | .br _ => []
  | .brLoop _ _ _ => []
  | .call _ => []
  | .ret _ => []
  | .jr _ _ => []
  | .rep _ _ _ => []
  | .lbPin _ _ => []
  | .lbFree => []
  | .trap _ => []
  | .rett => []
  | .brk _ => []
  | .sysRd _ _ => []
  | .sysWr _ _ => []
  | .tlbInv _ => []
  | .halt => []
  | .yield => []
  | .cmpt _ _ => []
  | .cmptV _ _ => []
  | .ndDone _ _ => []
  | .ndSpawn _ _ => []
  | .ndSel _ _ => []
  | .vaddF _ _ _ _ _ _ => []
  | .vsubF _ _ _ _ _ _ => []
  | .vmulF _ _ _ _ _ _ => []
  | .vfmaF _ _ _ _ _ _ => []
  | .vminF _ _ _ _ => []
  | .vmaxF _ _ _ _ => []
  | .vabsF _ _ _ => []
  | .vaddI _ _ _ _ _ _ _ => []
  | .vsubI _ _ _ _ _ _ _ => []
  | .vmulI _ _ _ _ _ _ _ => []
  | .vminI _ _ _ _ _ _ => []
  | .vmaxI _ _ _ _ _ _ => []
  | .vand _ _ _ _ => []
  | .vor _ _ _ _ => []
  | .vxor _ _ _ _ => []
  | .vshl _ _ _ _ _ _ _ => []
  | .vshr _ _ _ _ _ _ _ => []
  | .vsar _ _ _ _ _ _ _ => []
  | .vcmp _ _ _ _ _ _ => []
  | .vsel _ _ _ _ => []
  | .kop _ _ _ _ => []
  | .kpop _ _ _ _ => []
  | .vexp2 _ _ _ => []
  | .vlog2 _ _ _ => []
  | .vrcp _ _ _ => []
  | .vrsqrt _ _ _ => []
  | .vtanh _ _ _ => []
  | .vcvt _ _ _ _ _ _ _ _ _ => []
  | .vpackMx _ _ _ => []
  | .vunpk _ _ _ _ _ => []
  | .vscl _ _ _ _ _ => []
  | .vmov _ _ _ => []
  | .vbcast _ _ _ _ _ => []
  | .vext _ _ _ _ => []
  | .vperm _ _ _ _ => []
  | .vxg _ _ _ _ _ _ => []
  | .vcmprs _ _ _ _ => []
  | .vexpd _ _ _ => []
  | .vred _ _ _ _ _ _ _ _ => []
  | .vpfx _ _ _ _ _ _ => []
  | .vdesc _ _ _ _ _ => []
  | .vnoise _ _ _ _ _ _ => []
  | .vld _ _ _ _ => []
  | .vst _ _ _ _ => []
  | .vldx _ _ _ _ _ => []
  | .vstx _ _ _ _ _ => []
  | .mcall _ => []
  | .mpset _ sa _ => [s.srcS sa]
  | .mpget _ _ => []
  | .dsetMem _ sa _ => [s.srcS sa]
  | .dsetField _ sa _ => [s.srcS sa]
  | .dget _ _ _ => []
  | .dtag _ _ => []
  | .mzero sa _ _ _ _ => [s.srcS sa]
  | .msca sa _ _ _ => [s.srcS sa, s.srcS1 sa]
  | .cvRd _ _ _ => []
  | .cvWr _ sa _ => [s.srcS sa]
  | .cvAdd _ _ _ => []
  | .cvScl _ _ sa => [s.srcS sa]
  | .mucode sa _ _ => [s.srcS sa]
  | .mucodeClr _ => []
  | .ldw _ => []
  | .strm => []
  | .acc _ _ => []
  | .grade => []
  | .tail _ => []
  | .bound => []
  | .xmax => []
  | .blk => []
  | .seta _ => []
  | .loop _ => []
  | .brz _ => []
  | .uend => []
  | .cp dst src len _ _ _ _ _ _ => [s.srcS dst, s.srcS src, s.srcS len]
  | .cp2d dst src len _ _ _ _ _ _ => [s.srcS dst, s.srcS src, s.srcS len, s.srcS1 len]
  | .cpMc dst src len _ _ _ _ _ _ => [s.srcS dst, s.srcS src, s.srcS len]
  | .cpChain sa _ => [s.srcS sa]
  | .cpStat _ _ => []
  | .agCfg sa _ => [s.srcS sa]
  | .cpAg dst src len _ _ _ _ _ _ _ _ => [s.srcS dst, s.srcS src, s.srcS len]
  | .gqCfg sa _ => [s.srcS sa]
  | .gqPush sa _ _ => [s.srcS sa]
  | .gqEnd _ => []
  | .acpyOut _ sr sn _ _ _ _ _ _ _ => [s.srcS sr, s.srcS sn]
  | .acpyIn _ sr _ _ _ _ => [s.srcS sr]
  | .cbInit sa _ => [s.srcS sa]
  | .cbPush sa _ _ _ => [s.srcS sa]
  | .cpSeq dst src len _ _ _ _ _ => [s.srcS dst, s.srcS src, s.srcS len, s.srcS1 len]
  | .copyPiece _ _ => []
  | .copyComplete _ _ => []
  | .gatherRow _ _ => []
  | .landingCount _ => []
  | .slotFilled _ _ => []
  | .wait _ _ _ _ => []
  | .wtag _ => []
  | .wtagClr _ => []
  | .barInit _ _ _ => []
  | .barArv _ _ _ _ _ => []
  | .barMark _ _ _ => []
  | .barWait _ _ _ => []
  | .barPar _ _ => []
  | .barRet _ => []
  | .flPost _ _ _ => []
  | .flPostR _ _ _ _ => []
  | .flagPostArrive _ => []
  | .flWait _ _ _ => []
  | .fenceX _ _ _ => []
  | .fenceSc => []
  | .drain => []
  | .tkWait _ _ _ => []
  | .cbPop _ _ => []
  | .cbRel _ _ _ => []
  | .step => []
  | .seg => []
  | .segOff => []
  | .rdv _ => []
  | .gBar _ => []
  | .gRed _ _ _ _ _ => []
  | .gInfo _ _ => []
  | .bnLd _ _ => []
  | .bnMap _ _ _ _ => []
  | .bnMapx _ _ _ _ => []
  | .lkSend dst src len _ _ _ _ _ => [s.srcS dst, s.srcS src, s.srcS len]
  | .lkRecv dst src len _ _ _ _ _ _ => [s.srcS dst, s.srcS src, s.srcS len]
  | .lkStat _ _ _ => []
  | .lkTide sa _ => [s.srcS sa]
  | .lkCirc sa => [s.srcS sa]
  | .lkPark sa _ => [s.srcS sa]
  | .lkRate sa _ => [s.srcS sa]
  | .frameBoundary => []
  | .tideBoundary => []
  | .circuitSlotBoundary => []
  | .drawerRequest _ => []
  | .drawerResponse _ => []
  | .linkPieceArrive _ => []
  | .linkAck _ _ _ _ _ _ => []
  | .retrainStart _ => []
  | .retrainEnd _ => []
  | .groupLit _ _ _ => []
  | .linkStall _ _ => []
  | .dispatch => []
  | .preemptTimeout => []
  | .contextSave _ => []
  | .dispatcherRestore => []
  | .restore _ => []
  | .clPush _ => []
  | .compactSubmit _ => []
  | .compactPage => []
  | .compactSwap => []
  | .pageFree _ => []
  | .groupEntryWrite _ _ => []
  | .ticketEntryWrite _ _ _ => []
  | .linkControlWrite _ => []
  | .configWrite _ _ => []
  | .controlPeriodEnd _ _ => []
  | .ballastStart _ => []
  | .clusterGate _ => []
  | .clusterWake _ => []
  | .launch _ => []
  | .read _ => []
  | .write _ => []
  | .status _ => []
  | .release _ => []
  | .open _ => []
  | .close _ => []
  | .preempt _ => []
  | .resume _ => []
  | .connectionSetUp _ _ _ _ => []
  | .peerLoadRequest _ _ => []

/-- A queued op of the bundle that is being issued enters its queue (01 R17). -/
def State.queueOp (s : State) (i : Instr) : State :=
  let e : QEntry := { instr := i, slot := s.iss.slot, seq := s.iss.seq, vals := queuedVals s i
                      dst := writtenRegs i, pc := s.curCore.issPc }
  s.modCur (·.enqueue s.iss.slot e)

/-- Value i of a queued op. -/
def QEntry.val (e : QEntry) (i : Nat) : W64 := e.vals.getD i 0

end Sys2Proof.Machine
end

