-- ==== Sys2Proof/Machine/Flags.lean ====
section
/-! DEFINITION. Conditions and the sticky bits of STATUS (06 R139, R147, 08 R187). -/

namespace Sys2Proof.Machine

open Sys2Proof

/-- Cond(code, a, b) of pset and pseti (06 R139). -/
def condition (code : BitVec 3) (a b : W64) : Bool :=
  match code.toNat with
  | 0 => a == b
  | 1 => a != b
  | 2 => a.slt b
  | 3 => !a.slt b
  | 4 => a.ult b
  | 5 => !a.ult b
  | 6 => a &&& b != 0
  | _ => a &&& b == 0

/-- PWIN with predicate pd set to v; p0 stays 1 (06 R128, R140). -/
def setPred (pwin : BitVec 16) (pd : PR) (v : Bool) : BitVec 16 :=
  setFld pwin pd.toNat 1 (b2n v) ||| 1

/-- A guard holds: the selected predicate is 1 and bit 4 is 0, or 0 and 1 (05 R110). -/
def guardHolds (pwin : BitVec 16) (pg : BitVec 5) : Bool :=
  predBit pwin (pg.toNat % 16) != pg.getLsbD 4

/-- PWIN after the shift of br.loop: stage predicates move up and ins enters at p1 (06 R147). -/
def shiftPwin (pwin : BitVec 16) (ins : Bool) : BitVec 16 :=
  ((pwin <<< 1) &&& 0xFFFC) ||| (if ins then 2 else 0) ||| 1

/-- PWIN[stages:1] is not zero (06 R147). -/
def stagesLeft (pwin : BitVec 16) (stages : BitVec 4) : Bool :=
  fld pwin 1 stages.toNat != 0

/-- A write of 1 to a W1C bit clears it; the other bits of STATUS keep their values (00 R4, 08 R187). -/
def clearStatus (status : BitVec 7) (w : W64) : BitVec 7 := status &&& ~~~(w.setWidth 7 &&& 0x1F)

end Sys2Proof.Machine
end

