-- ==== Sys2Proof/Machine/Scalar.lean ====
section
/-! DEFINITION. Scalar arithmetic and immediates of slot S (05 R112, 06 R136 to R138). -/

namespace Sys2Proof.Machine

open Sys2Proof

/-- Quotients and remainders of 06 R137; division takes no trap. -/
def divSigned (n d : W64) : W64 := if d = 0 then (if n.msb then 1 else -1) else n.sdiv d
def divUnsigned (n d : W64) : W64 := if d = 0 then BitVec.allOnes 64 else n / d
def remSigned (n d : W64) : W64 := if d = 0 then n else n.srem d
def remUnsigned (n d : W64) : W64 := if d = 0 then n else n % d

/-- The high halves of the products (06 R136). -/
def mulHighSigned (a b : W64) : W64 := ((a.signExtend 128 * b.signExtend 128) >>> 64).setWidth 64
def mulHighUnsigned (a b : W64) : W64 := ((a.setWidth 128 * b.setWidth 128) >>> 64).setWidth 64

/-- Leading and trailing zero bits, and one bits (06 R136). -/
def leadingZeros (a : W64) : Nat := if a = 0 then 64 else 63 - Nat.log2 a.toNat
def trailingZeros (a : W64) : Nat := ((List.range 64).find? a.getLsbD).getD 64
def oneBits (a : W64) : Nat := ((List.range 64).filter a.getLsbD).length

/-- A comparison's result. -/
def bool64 (b : Bool) : W64 := if b then 1 else 0

/-- An op of latency 1 with two sources (06 R136). -/
def State.alu2 (s : State) (f : W64 → W64 → W64) (sd sa sb : SR) : State :=
  s.dstS sd (f (s.srcS sa) (s.srcS sb))

/-- The same for a result of longer latency, which carries a pending mark (06 R130, R131). -/
def State.alu2Long (s : State) (f : W64 → W64 → W64) (sd sa sb : SR) : State :=
  (s.alu2 f sd sa sb).markS sd

/-- An op with one source. -/
def State.alu1 (s : State) (f : W64 → W64) (sd sa : SR) : State := s.dstS sd (f (s.srcS sa))

/-- 05 R112: no effect. -/
def execNop (s : State) : Out3 := .next s
/-- 06 R136. -/
def execAdd (sd sa sb : SR) (s : State) : Out3 := .next (s.alu2 (· + ·) sd sa sb)
/-- 06 R136. -/
def execSub (sd sa sb : SR) (s : State) : Out3 := .next (s.alu2 (· - ·) sd sa sb)
/-- 06 R136. -/
def execMul (sd sa sb : SR) (s : State) : Out3 := .next (s.alu2Long (· * ·) sd sa sb)
/-- 06 R136. -/
def execMulh (sd sa sb : SR) (s : State) : Out3 := .next (s.alu2Long mulHighSigned sd sa sb)
/-- 06 R136. -/
def execMulhu (sd sa sb : SR) (s : State) : Out3 := .next (s.alu2Long mulHighUnsigned sd sa sb)
/-- 06 R136, R137. -/
def execDiv (sd sa sb : SR) (s : State) : Out3 := .next (s.alu2Long divSigned sd sa sb)
/-- 06 R136, R137. -/
def execDivu (sd sa sb : SR) (s : State) : Out3 := .next (s.alu2Long divUnsigned sd sa sb)
/-- 06 R136, R137. -/
def execRem (sd sa sb : SR) (s : State) : Out3 := .next (s.alu2Long remSigned sd sa sb)
/-- 06 R136, R137. -/
def execRemu (sd sa sb : SR) (s : State) : Out3 := .next (s.alu2Long remUnsigned sd sa sb)
/-- 06 R136. -/
def execAnd (sd sa sb : SR) (s : State) : Out3 := .next (s.alu2 (· &&& ·) sd sa sb)
/-- 06 R136. -/
def execOr (sd sa sb : SR) (s : State) : Out3 := .next (s.alu2 (· ||| ·) sd sa sb)
/-- 06 R136. -/
def execXor (sd sa sb : SR) (s : State) : Out3 := .next (s.alu2 (· ^^^ ·) sd sa sb)
/-- 06 R136: only the low six bits of the count act. -/
def execShl (sd sa sb : SR) (s : State) : Out3 := .next (s.alu2 (fun a b => a <<< (fld b 0 6)) sd sa sb)
/-- 06 R136. -/
def execShr (sd sa sb : SR) (s : State) : Out3 := .next (s.alu2 (fun a b => a >>> (fld b 0 6)) sd sa sb)
/-- 06 R136. -/
def execSar (sd sa sb : SR) (s : State) : Out3 :=
  .next (s.alu2 (fun a b => a.sshiftRight (fld b 0 6)) sd sa sb)
/-- 06 R136. -/
def execMin (sd sa sb : SR) (s : State) : Out3 := .next (s.alu2 (fun a b => if a.slt b then a else b) sd sa sb)
/-- 06 R136. -/
def execMax (sd sa sb : SR) (s : State) : Out3 := .next (s.alu2 (fun a b => if a.slt b then b else a) sd sa sb)
/-- 06 R136. -/
def execMinu (sd sa sb : SR) (s : State) : Out3 := .next (s.alu2 (fun a b => if a.ult b then a else b) sd sa sb)
/-- 06 R136. -/
def execMaxu (sd sa sb : SR) (s : State) : Out3 := .next (s.alu2 (fun a b => if a.ult b then b else a) sd sa sb)
/-- 06 R136. -/
def execSeq (sd sa sb : SR) (s : State) : Out3 := .next (s.alu2 (fun a b => bool64 (a == b)) sd sa sb)
/-- 06 R136. -/
def execSlt (sd sa sb : SR) (s : State) : Out3 := .next (s.alu2 (fun a b => bool64 (a.slt b)) sd sa sb)
/-- 06 R136. -/
def execSltu (sd sa sb : SR) (s : State) : Out3 := .next (s.alu2 (fun a b => bool64 (a.ult b)) sd sa sb)
/-- 06 R136: the selecting predicate is read as a guard is. -/
def execSel (sd sa sb : SR) (inv : Bool) (pn : PR) (s : State) : Out3 :=
  .next (s.dstS sd (if s.srcP pn != inv then s.srcS sa else s.srcS sb))
/-- 06 R136. -/
def execClz (sd sa : SR) (s : State) : Out3 := .next (s.alu1 (fun a => .ofNat 64 (leadingZeros a)) sd sa)
/-- 06 R136. -/
def execCtz (sd sa : SR) (s : State) : Out3 := .next (s.alu1 (fun a => .ofNat 64 (trailingZeros a)) sd sa)
/-- 06 R136. -/
def execPopc (sd sa : SR) (s : State) : Out3 := .next (s.alu1 (fun a => .ofNat 64 (oneBits a)) sd sa)

/-- 06 R138. -/
def execAddi (sd sa : SR) (imm : BitVec 23) (s : State) : Out3 := .next (s.alu1 (· + sx imm) sd sa)
/-- 06 R138. -/
def execAndi (sd sa : SR) (imm : BitVec 23) (s : State) : Out3 := .next (s.alu1 (· &&& sx imm) sd sa)
/-- 06 R138. -/
def execOri (sd sa : SR) (imm : BitVec 23) (s : State) : Out3 := .next (s.alu1 (· ||| sx imm) sd sa)
/-- 06 R138. -/
def execXori (sd sa : SR) (imm : BitVec 23) (s : State) : Out3 := .next (s.alu1 (· ^^^ sx imm) sd sa)
/-- 06 R138. -/
def execShli (sd sa : SR) (count : BitVec 6) (s : State) : Out3 := .next (s.alu1 (· <<< count.toNat) sd sa)
/-- 06 R138. -/
def execShri (sd sa : SR) (count : BitVec 6) (s : State) : Out3 := .next (s.alu1 (· >>> count.toNat) sd sa)
/-- 06 R138. -/
def execSari (sd sa : SR) (count : BitVec 6) (s : State) : Out3 :=
  .next (s.alu1 (·.sshiftRight count.toNat) sd sa)
/-- 06 R138. -/
def execSlti (sd sa : SR) (imm : BitVec 23) (s : State) : Out3 :=
  .next (s.alu1 (fun a => bool64 (a.slt (sx imm))) sd sa)
/-- 06 R138. -/
def execSltui (sd sa : SR) (imm : BitVec 23) (s : State) : Out3 :=
  .next (s.alu1 (fun a => bool64 (a.ult (sx imm))) sd sa)
/-- 06 R138. -/
def execLi (sd : SR) (imm : BitVec 23) (s : State) : Out3 := .next (s.dstS sd (sx imm))
/-- 06 R138: the immediate is zero-extended. -/
def execLix (sd sa : SR) (imm : BitVec 23) (s : State) : Out3 :=
  .next (s.alu1 (fun a => (a <<< 23) ||| imm.setWidth 64) sd sa)

end Sys2Proof.Machine
end

