-- ==== Sys2Proof/Machine/LoadStore.lean ====
section
/-! DEFINITION. CP loads and stores and spill memory (02 R29 to R37, 06 R141 to R143, R165), and the
rewind of a segment that consumes an uncorrectable error (08 R202). -/

namespace Sys2Proof.Machine

open Sys2Proof

/-- A region that only LK writes. -/
def Region.isPeer : Region → Bool
  | .peer _ => true
  | _ => false

/-- ALIGN, XLATE and PROT of a CP load of n = 2^log2 bytes (06 R141), and XLATE of a window load to a chip
that the schedule in force joins to no strait (19 R398). -/
def State.loadCheck (s : State) (c : Nat) (va : W64) (log2 : Nat) : Except Trp Nat :=
  if va.toNat % 2 ^ log2 ≠ 0 then .error (alignTrap log2 va)
  else match s.resolve c .cp va .read with
    | .error t => .error t
    | .ok pa =>
      match s.region pa with
      | .peer chip => if s.routed chip then .ok pa else .error (xlateTrap 7 2 va)
      | _ => .ok pa

/-- ALIGN, XLATE and PROT of a CP store, then the armed slots of 14 R322 and the marks of 16 R341. -/
def State.storeCheck (s : State) (c : Nat) (va : W64) (log2 : Nat) : Except Trp Nat :=
  if va.toNat % 2 ^ log2 ≠ 0 then .error (alignTrap log2 va)
  else match s.resolve c .cp va .write with
    | .error t => .error t
    | .ok pa =>
      if (s.region pa).isPeer then .error ⟨.prot, 1, va⟩
      else match s.armed.find? (fun m => 16 * m < pa + 2 ^ log2 && pa < 16 * m + 16) with
        | some m => .error ⟨.barState, 4, va + .ofNat 64 (16 * m) - .ofNat 64 pa⟩
        | none =>
          if s.overlapsMark pa (2 ^ log2) then .error ⟨.seqState, 6, va⟩ else .ok pa

/-! ## Program order on CP (02 R26, R33 to R37) -/

/-- Two byte ranges meet. -/
def meets (a n b m : Nat) : Bool := a < b + m && b < a + n

/-- The bytes that an outstanding op works on. -/
def OutKind.range : OutKind → Option (Nat × Nat)
  | .done => none
  | .load _ pa n _ => some (pa, n)
  | .atomic pa n _ _ _ => some (pa, n)

/-- Two accesses of core c keep program order: their bytes meet, both reach configuration space, or both lie in the
own scratchpad. -/
def State.ordered (s : State) (c a n b m : Nat) : Bool :=
  meets a n b m || (s.region a == .config && s.region b == .config) || (inOwn c a && inOwn c b)

/-- A store in the segment store buffer comes first: it reaches another register of configuration space (02 R26).
The bytes of any other are laid over a later load (02 R37). -/
def State.bufferFirst (s : State) (x : Sto) (a n : Nat) : Bool :=
  s.region x.pa == .config && s.region a == .config && !meets a n x.pa x.bytes.length

/-- No earlier access of the core that must come first is outstanding. -/
def State.inOrder (s : State) (c id pa n : Nat) : Bool :=
  let k := s.core c
  (k.stores.all fun x => id ≤ x.id || x.performed || !s.ordered c pa n x.pa x.bytes.length)
    && (k.segment.buffer.all fun x => id ≤ x.id || !s.bufferFirst x pa n)
    && k.outs.all fun o => id ≤ o.id || match o.kind.range with
      | some q => !s.ordered c pa n q.1 q.2
      | none => true

/-- Two stores of one core to the scratchpad of one other core of its cluster perform in program order. -/
def State.clusterOrder (s : State) (c id pa : Nat) : Bool :=
  match spCore pa with
  | some d => d / 8 != c / 8 || (s.core c).stores.all fun x => id ≤ x.id || x.performed || spCore x.pa != some d
  | none => true

/-- Every load of a bundle has read (02 R33). -/
def Core.loadsRead (k : Core) (seq : Nat) : Bool :=
  k.outs.all fun o => o.seq != seq || match o.kind with
    | .load .. => false
    | _ => true

/-- A store may perform: every access that comes before it has. -/
def State.storeReady (s : State) (c : Nat) (x : Sto) : Bool :=
  s.inOrder c x.id x.pa x.bytes.length && s.clusterOrder c x.id x.pa && (s.core c).loadsRead x.seq

/-- An uncorrectable error that a load of core c meets as it issues: a byte that an earlier store of the core has yet
to write holds none by then (02 R29; log 14, DEDUCED). -/
def State.loadPoison (s : State) (c pa n : Nat) : Option Nat :=
  let k := s.core c
  let covered := fun e => ((k.stores.filter (!·.performed)) ++ k.segment.buffer).any fun x =>
    x.pa ≤ e && e < x.pa + x.bytes.length
  poisoned (s.errs.filter fun e => !covered e) pa n

/-- An uncorrectable error in the bytes that outstanding load or atomic `id` of core c reads as it performs: it takes
those of earlier stores from the segment store buffer. -/
def State.readPoison (s : State) (c id pa n : Nat) : Option Nat :=
  let covered := fun e => (s.core c).segment.buffer.any fun x => x.id < id && x.pa ≤ e && e < x.pa + x.bytes.length
  poisoned (s.errs.filter fun e => !covered e) pa n

/-- The result of a load of n bytes (06 R141). -/
def loadExtend (n : Nat) (sgn : Bool) (x : Nat) : W64 :=
  if sgn then (BitVec.ofNat (8 * n) x).signExtend 64 else .ofNat 64 x

/-- Write the value of a load to its registers: a pair for 16 bytes. -/
def Core.writeLoad (k : Core) (dst : List Reg) (n : Nat) (sgn : Bool) (x : Nat) : Core :=
  match dst with
  | [.s a, .s b] => (k.setS a (.ofNat 64 x)).setS b (.ofNat 64 (x / 2 ^ 64))
  | [.s a] => if n = 16 then k.setS a (.ofNat 64 x) else k.setS a (loadExtend n sgn x)
  | [r] => k.setReg r x
  | _ => k

/-- A CP load of 2^log2 bytes into the registers dst, with a precise UNCORR (02 R29).  From the own scratchpad, where
the earlier stores of the core have performed before the bundle issues, the value is in the register at issue;
elsewhere it arrives at LOAD_RETURN. -/
def State.cpLoad (s : State) (va : W64) (log2 : Nat) (sgn : Bool) (dst : List Reg) : State :=
  let c := s.cur
  match s.loadCheck c va log2 with
  | .error t => s.preciseTrap t
  | .ok pa =>
    let n := 2 ^ log2
    match s.loadPoison c pa n with
    | some e => s.preciseTrap (uncorrTrap e)
    | none =>
      let s := s.noteTlb c .cp va
      if inOwn c pa then
        s.modCur fun k => (k.writeLoad dst n sgn (s.natAs .cp pa n)).addOut s.iss.seq .done (dst.filter (!·.fixed)) true
      else (s.modCur (·.addOut s.iss.seq (.load va.toNat pa n sgn) dst true)).drawerLoad c s.curCore.nextId pa

/-- A scalar load at S[sa] + off. -/
def State.scalarLoad (s : State) (sd sa : SR) (off : BitVec 23) (log2 : Nat) (sgn : Bool) : Out3 :=
  .next (s.cpLoad (s.ea sa off) log2 sgn [.s sd.toNat])

/-- The entry of a store, before the state that holds it. -/
def Core.addStore (k : Core) (st : Sto) : Core :=
  { k with stores := k.stores ++ [{ st with id := k.nextId, pc := k.issPc }], nextId := k.nextId + 1 }

/-- The entry of a store in the segment store buffer. -/
def Core.bufferStore (k : Core) (st : Sto) : Core :=
  { k with segment := { k.segment with buffer := k.segment.buffer ++ [{ st with id := k.nextId, pc := k.issPc }] }
           nextId := k.nextId + 1 }

/-- A CP store of bytes at va, after its checks: it performs at STORE_PERFORM.  Inside a segment a store to another
place than the own scratchpad waits in the store buffer (08 R200). -/
def State.cpStore (s : State) (va : W64) (log2 : Nat) (bytes : List Byte) : State :=
  let c := s.cur
  match s.storeCheck c va log2 with
  | .error t => s.preciseTrap t
  | .ok pa =>
    let s := s.noteTlb c .cp va
    let st : Sto := { id := 0, seq := s.iss.seq, va := va.toNat, pa := pa, bytes := bytes, performed := false
                      pc := 0 }
    if s.curCore.seg && !inOwn c pa then s.modCur (·.bufferStore st) else s.modCur (·.addStore st)

/-- A scalar store at S[sa] + off. -/
def State.scalarStore (s : State) (ss sa : SR) (off : BitVec 23) (log2 : Nat) : Out3 :=
  .next (s.cpStore (s.ea sa off) log2 (leBytes (2 ^ log2) (s.srcS ss).toNat))

/-- 06 R141. -/
def execLdB (sd sa : SR) (off : BitVec 23) (s : State) : Out3 := s.scalarLoad sd sa off 0 true
/-- 06 R141. -/
def execLdH (sd sa : SR) (off : BitVec 23) (s : State) : Out3 := s.scalarLoad sd sa off 1 true
/-- 06 R141. -/
def execLdW (sd sa : SR) (off : BitVec 23) (s : State) : Out3 := s.scalarLoad sd sa off 2 true
/-- 06 R141. -/
def execLdD (sd sa : SR) (off : BitVec 23) (s : State) : Out3 := s.scalarLoad sd sa off 3 false
/-- 06 R141. -/
def execLdBu (sd sa : SR) (off : BitVec 23) (s : State) : Out3 := s.scalarLoad sd sa off 0 false
/-- 06 R141. -/
def execLdHu (sd sa : SR) (off : BitVec 23) (s : State) : Out3 := s.scalarLoad sd sa off 1 false
/-- 06 R141. -/
def execLdWu (sd sa : SR) (off : BitVec 23) (s : State) : Out3 := s.scalarLoad sd sa off 2 false
/-- 06 R141: a register pair. -/
def execLdQ (sd sa : SR) (off : BitVec 23) (s : State) : Out3 :=
  .next (s.cpLoad (s.ea sa off) 4 false [.s sd.toNat, .s (sd.toNat + 1)])
/-- 06 R141. -/
def execStB (ss sa : SR) (off : BitVec 23) (s : State) : Out3 := s.scalarStore ss sa off 0
/-- 06 R141. -/
def execStH (ss sa : SR) (off : BitVec 23) (s : State) : Out3 := s.scalarStore ss sa off 1
/-- 06 R141. -/
def execStW (ss sa : SR) (off : BitVec 23) (s : State) : Out3 := s.scalarStore ss sa off 2
/-- 06 R141. -/
def execStD (ss sa : SR) (off : BitVec 23) (s : State) : Out3 := s.scalarStore ss sa off 3
/-- 06 R141: a register pair. -/
def execStQ (ss sa : SR) (off : BitVec 23) (s : State) : Out3 :=
  .next (s.cpStore (s.ea sa off) 4 (leBytes 8 (s.srcS ss).toNat ++ leBytes 8 (s.srcS1 ss).toNat))

/-- 06 R143: the latency is 1, so no mark is needed. -/
def execSplLd (sd : SR) (slot : BitVec 10) (s : State) : Out3 :=
  .next (s.dstS sd (s.curCore.spillAt slot.toNat))
/-- 06 R143. -/
def execSplSt (ss : SR) (slot : BitVec 10) (s : State) : Out3 :=
  .next (s.modCur fun k => { k with spill := Tab.put 0 k.spill slot.toNat (s.srcS ss) })

/-- The checks of bn.ld: ALIGN, then XLATE unless the 64 bytes lie in the local window (06 R165), whose level and
reason the model takes as those of a range that is not translated (log 98, DEDUCED). -/
def State.bnLdCheck (_s : State) (va : W64) : Except Trp Unit :=
  if va.toNat % 64 ≠ 0 then .error (alignTrap 6 va)
  else if fld va 57 7 ≠ 0 then .error (xlateTrap 7 3 va)
  else if 0x200000 < va.toNat + 64 then .error (xlateTrap 7 4 va)
  else .ok ()

/-- 06 R165: 64 bytes of the own scratchpad, byte k holding selector k. -/
def execBnLd (sa : SR) (n : BitVec 3) (s : State) : Out3 :=
  let va := s.srcS sa
  match s.bnLdCheck va with
  | .error t => .next (s.preciseTrap t)
  | .ok _ =>
    let pa := spBase s.cur + va.toNat
    match poisoned s.errs pa 64 with
    | some e => .next (s.preciseTrap (uncorrTrap e))
    | none =>
      let x := s.natAs .cp pa 64
      .next (s.modCur fun k => (k.setReg (.bn n.toNat) x).addOut s.iss.seq .done [.bn n.toNat] true)

end Sys2Proof.Machine
end

