-- ==== Sys2Proof/Machine/VectorFloat.lean ====
section
/-! DEFINITION. The governed write of a vector op (09 R214), floating-point arithmetic (R219, R220),
conversions and MX blocks (R229 to R232). -/

namespace Sys2Proof.Machine

open Sys2Proof

/-- 128 lanes by number (09 R211). -/
def lanes {α : Type} (f : Nat → α) : List α := (List.range 128).map f

/-- Write a vector register whole; the result carries its pending mark (09 R216). -/
def State.vecPut (s : State) (vd : VR) (x : List W32) : State := (s.dstV vd x).markV vd

/-- The lanes of vd after an op governed by kN: an ungoverned lane keeps its value (09 R214). -/
def State.governed (s : State) (vd : VR) (k : KR) (f : Nat → W32) : List W32 :=
  let m := s.srcK k
  let old := s.curCore.getV vd.toNat
  lanes fun l => if m.getLsbD l then f l else lane old l

/-- An element-wise op (09 R214). -/
def State.vecOp (s : State) (vd : VR) (k : KR) (f : Nat → W32) : State :=
  s.vecPut vd (s.governed vd k f)

/-- An element-wise op whose governed lanes may set SAT (03 R63, 09 R214). -/
def State.vecSat (s : State) (vd : VR) (k : KR) (f : Nat → W32 × Bool) : State :=
  let m := s.srcK k
  let r := (lanes f)
  let sat := (List.range 128).any fun l => m.getLsbD l && (r.getD l (0, false)).2
  (s.vecOp vd k fun l => (r.getD l (0, false)).1).setSat s.cur sat

/-- An op of two lane operands with sr noise from the low half of a third (09 R219). -/
def State.vecArith (s : State) (f : W32 → W32 → Nat → W32) (vd va vb vc : VR) (k : KR) : Out3 :=
  let a := s.srcV va
  let b := s.srcV vb
  let c := s.srcV vc
  .next (s.vecOp vd k fun l => f (lane a l) (lane b l) (fld (lane c l) 0 16))

/-- 09 R219. -/
def execVaddF (vd va vb vc : VR) (k : KR) (rm : BitVec 3) (s : State) : Out3 :=
  s.vecArith (f32Add rm.toNat) vd va vb vc k
/-- 09 R219. -/
def execVsubF (vd va vb vc : VR) (k : KR) (rm : BitVec 3) (s : State) : Out3 :=
  s.vecArith (f32Sub rm.toNat) vd va vb vc k
/-- 09 R219. -/
def execVmulF (vd va vb vc : VR) (k : KR) (rm : BitVec 3) (s : State) : Out3 :=
  s.vecArith (f32Mul rm.toNat) vd va vb vc k
/-- 09 R219: one rounding of the exact value. -/
def execVfmaF (vd va vb vc : VR) (k : KR) (rm : BitVec 3) (s : State) : Out3 :=
  let a := s.srcV va
  let b := s.srcV vb
  let c := s.srcV vc
  .next (s.vecOp vd k fun l => f32Fma rm.toNat (lane a l) (lane b l) (lane c l))

/-- The canonical NaN of f32 (03 R54). -/
def nanF32 : W32 := 0x7FC00000

/-- Order of 09 R220 for values that are not NaN: −0 lies below +0. -/
def f32Below (a b : W32) : Bool :=
  (f32 a).lt (f32 b) || ((f32 a).eq (f32 b) && a.getLsbD 31 && !b.getLsbD 31)

/-- The smaller and the larger (09 R220): a lone NaN gives the other operand. -/
def f32Pick (smaller : Bool) (a b : W32) : W32 :=
  if (f32 a).isNan then (if (f32 b).isNan then nanF32 else b)
  else if (f32 b).isNan then a
  else if smaller then (if f32Below b a then b else a) else (if f32Below a b then b else a)

/-- 09 R219, R220. -/
def execVminF (vd va vb : VR) (k : KR) (s : State) : Out3 :=
  s.vecArith (fun a b _ => f32Pick true a b) vd va vb va k
/-- 09 R219, R220. -/
def execVmaxF (vd va vb : VR) (k : KR) (s : State) : Out3 :=
  s.vecArith (fun a b _ => f32Pick false a b) vd va vb va k

/-- A value with its sign bit cleared; a NaN is the canonical one (09 R219). -/
def f32Abs (a : W32) : W32 := if (f32 a).isNan then nanF32 else a &&& 0x7FFFFFFF

/-- 09 R219. -/
def execVabsF (vd va : VR) (k : KR) (s : State) : Out3 :=
  let a := s.srcV va
  .next (s.vecOp vd k fun l => f32Abs (lane a l))

/-- Element p of a lane, elements being w bits wide (09 R213). -/
def elemAt (w p : Nat) (x : W32) : Nat := fld x (w * p) w

/-- A conversion of one lane (09 R229). -/
def convertLane (from_ to_ : Nat) (rm spos dpos noise : Nat) (a old : W32) : W32 × Bool :=
  match fmtOf from_, fmtOf to_ with
  | some f, some t =>
    let (y, sat) := t.round rm (f.decode (elemAt f.width spos a)) noise
    (setFld old (t.width * dpos) t.width y, sat)
  | _, _ => (old, false)

/-- 09 R229: the other positions of the destination lane keep their bits. -/
def execVcvt (vd va vb : VR) (dpos spos : BitVec 2) (k : KR) (from_ to_ : BitVec 4) (rm : BitVec 3)
    (s : State) : Out3 :=
  let a := s.srcV va
  let b := s.srcV vb
  let old := s.curCore.getV vd.toNat
  .next (s.vecSat vd k fun l =>
    convertLane from_.toNat to_.toNat rm.toNat spos.toNat dpos.toNat (fld (lane b l) 0 16) (lane a l)
      (lane old l))

/-- The lanes of a group after vpack.mx (09 R230). -/
def packLane (scale : Nat) (q : List Nat) (i : Nat) : W32 :=
  if i < 4 then .ofNat 32 ((List.range 8).foldr (fun j acc => q.getD (8 * i + j) 0 % 16 + 16 * acc) 0)
  else if i = 4 then .ofNat 32 scale
  else 0

/-- 09 R230: each lane group packs one MX block. -/
def execVpackMx (vd va vb : VR) (s : State) : Out3 :=
  let a := s.srcV va
  let b := s.srcV vb
  let packs := (List.range 8).map fun g =>
    mxPack ((List.range 32).map fun j => if j < 16 then lane a (16 * g + j) else lane b (16 * g + j - 16))
  .next (s.vecPut vd (lanes fun l =>
    let p := packs.getD (l / 16) (0, [])
    packLane p.1 p.2 (l % 16)))

/-- Lane (g, j) of vunpk: source elements 4j to 4j + 3 of half h (09 R231). -/
def unpackLane (to_ h : Nat) (a : List W32) (g j : Nat) : W32 :=
  match fmtOf to_ with
  | some t => .ofNat 32 ((List.range 4).foldr (fun b acc =>
      let e := 4 * j + b
      let nib := fld (lane a (16 * g + 8 * h + e / 8)) (4 * (e % 8)) 4
      (t.round 0 (e2m1Fmt.decode nib) 0).1 % 256 + 256 * acc) 0)
  | none => 0

/-- 09 R231: exact, so SAT cannot be set (03 R65). -/
def execVunpk (vd va : VR) (k : KR) (to_ : BitVec 4) (h : Bool) (s : State) : Out3 :=
  let a := s.srcV va
  .next (s.vecOp vd k fun l => unpackLane to_.toNat (b2n h) a (l / 16) (l % 16))

/-- A value times an E8M0 scale (09 R232). -/
def scaleLane (rm : Nat) (a b : W32) : W32 :=
  let e := fld b 0 8
  if e = 255 then nanF32 else toF32 rm ((f32 a).scale ((e : Int) - 127)) 0

/-- 09 R232. -/
def execVscl (vd va vb : VR) (k : KR) (rm : BitVec 3) (s : State) : Out3 :=
  s.vecArith (fun a b _ => scaleLane rm.toNat a b) vd va vb va k

end Sys2Proof.Machine
end

