-- ==== Sys2Proof/Machine/VectorMem.lean ====
section
/-! DEFINITION. Scratchpad access of the vector engine (09 R245 to R247). -/

namespace Sys2Proof.Machine

open Sys2Proof

/-- The governed lanes in ascending order. -/
def governedLanes (m : W128) : List Nat := (List.range 128).filter m.getLsbD

/-- The address checks of vld and vst (09 R245). -/
def vldCheck (a : W64) : Except Trp Unit :=
  if a.toNat % 64 ≠ 0 then .error (alignTrap 6 a)
  else if 0x1FFE00 < a.toNat then .error (xlateTrap 7 4 a)
  else .ok ()

/-- The local offset of a lane: vld and vst (09 R245), vldx and vstx (09 R246). -/
def laneAddr (a : W64) (l : Nat) : W64 := a + .ofNat 64 (4 * l)
def indexAddr (a : W64) (idx : List W32) (sh : BitVec 2) (l : Nat) : W64 :=
  a + (lane idx l).setWidth 64 <<< sh.toNat

/-- The same before it wraps at 2^64. -/
def indexSum (a : W64) (idx : List W32) (sh : BitVec 2) (l : Nat) : Nat := a.toNat + (lane idx l).toNat * 2 ^ sh.toNat

/-- The checks of vldx and vstx over the governed lanes in ascending order (09 R246): an address that wraps is
outside the local window too. -/
def indexCheck (a : W64) (idx : List W32) (sh : BitVec 2) : List Nat → Except Trp Unit
  | [] => .ok ()
  | l :: ls =>
    let al := indexAddr a idx sh l
    if al.toNat % 4 ≠ 0 then .error (alignTrap 2 al)
    else if 0x1FFFFF < indexSum a idx sh l + 3 then .error (xlateTrap 7 4 al)
    else indexCheck a idx sh ls

/-- A store to an armed slot or a marked word (14 R322, 16 R341). -/
def State.laneStoreCheck (s : State) (c : Nat) (f : Nat → W64) (ls : List Nat) : Except Trp Unit :=
  match ls.findSome? fun l =>
      let pa := spBase c + (f l).toNat
      if s.overlapsArmed pa 4 then some (⟨.barState, 4, .ofNat 64 ((f l).toNat / 16 * 16)⟩ : Trp)
      else if s.overlapsMark pa 4 then some ⟨.seqState, 6, f l⟩
      else none with
  | some t => .error t
  | none => .ok ()

/-- Load the governed lanes from the own scratchpad: all faults are precise. -/
def State.laneLoad (s : State) (vd : VR) (k : KR) (f : Nat → W64) : State :=
  let base := spBase s.cur
  let ls := governedLanes (s.srcK k)
  match ls.findSome? fun l => poisoned s.errs (base + (f l).toNat) 4 with
  | some e => s.preciseTrap (uncorrTrap e)
  | none =>
    let x := s.governed vd k fun l => .ofNat 32 (s.natAs .cp (base + (f l).toNat) 4)
    (s.dstV vd x).modCur (·.addOut s.iss.seq .done [.v vd.toNat] true)

/-- Store the governed lanes: of two at one address, the higher lane's value stays.  The store performs at
STORE_PERFORM, after the loads of its bundle (02 R33). -/
def State.laneStore (s : State) (x : List W32) (k : KR) (a : W64) (f : Nat → W64) : State :=
  let base := spBase s.cur
  s.modCur (·.addStore { id := 0, seq := s.iss.seq, va := a.toNat, pa := base, bytes := []
                         performed := false, pc := 0
                         lanes := (governedLanes (s.srcK k)).map fun l => (base + (f l).toNat, lane x l) })

/-- The precise faults of vld, vst, vldx and vstx. -/
def State.vldFault (s : State) (sb : SR) (off : BitVec 12) : Except Trp Unit := vldCheck (s.eaV sb off)
def State.vstFault (s : State) (sb : SR) (k : KR) (off : BitVec 12) : Except Trp Unit := do
  vldCheck (s.eaV sb off)
  s.laneStoreCheck s.cur (laneAddr (s.eaV sb off)) (governedLanes (s.srcK k))
def State.vldxFault (s : State) (va : VR) (sb : SR) (k : KR) (sh : BitVec 2) : Except Trp Unit :=
  indexCheck (s.srcS sb) (s.srcV va) sh (governedLanes (s.srcK k))
def State.vstxFault (s : State) (va : VR) (sb : SR) (k : KR) (sh : BitVec 2) : Except Trp Unit := do
  s.vldxFault va sb k sh
  s.laneStoreCheck s.cur (indexAddr (s.srcS sb) (s.srcV va) sh) (governedLanes (s.srcK k))

/-- 09 R245. -/
def execVld (vd : VR) (sb : SR) (k : KR) (off : BitVec 12) (s : State) : Out3 :=
  match s.vldFault sb off with
  | .error t => .next (s.preciseTrap t)
  | .ok _ => .next (s.laneLoad vd k (laneAddr (s.eaV sb off)))

/-- 09 R245. -/
def execVst (vd : VR) (sb : SR) (k : KR) (off : BitVec 12) (s : State) : Out3 :=
  match s.vstFault sb k off with
  | .error t => .next (s.preciseTrap t)
  | .ok _ => .next (s.laneStore (s.srcV vd) k (s.eaV sb off) (laneAddr (s.eaV sb off)))

/-- 09 R246. -/
def execVldx (vd va : VR) (sb : SR) (k : KR) (sh : BitVec 2) (s : State) : Out3 :=
  match s.vldxFault va sb k sh with
  | .error t => .next (s.preciseTrap t)
  | .ok _ => .next (s.laneLoad vd k (indexAddr (s.srcS sb) (s.srcV va) sh))

/-- 09 R246. -/
def execVstx (vd va : VR) (sb : SR) (k : KR) (sh : BitVec 2) (s : State) : Out3 :=
  match s.vstxFault va sb k sh with
  | .error t => .next (s.preciseTrap t)
  | .ok _ => .next (s.laneStore (s.srcV vd) k (s.srcS sb) (indexAddr (s.srcS sb) (s.srcV va) sh))

end Sys2Proof.Machine
end

