-- ==== Sys2Proof/Machine/System.lean ====
section
/-! DEFINITION. Requested traps, the return from a trap, CSRs, TLB_INV, yield and cmpt (08 R186, R187,
R196, R203 to R208). -/

namespace Sys2Proof.Machine

open Sys2Proof

/-- A context's ENERGY_TABLE entry that holds format code f: codes 1, 6 and 7 share the pair of code 2,
and code 3 that of code 4 (08 R186). -/
def energyFormat (f : Nat) : Nat :=
  match f with
  | 1 => 2
  | 6 => 2
  | 7 => 2
  | 3 => 4
  | _ => f

/-- The byte of the CCB at which an ENERGY_TABLE register lies, by CSR number (08 R186, R188). -/
def energyOffset (n : Nat) : Nat := 0x40 + 4 * energyFormat ((n - 0x40) / 2) + 2 * (n % 2)

/-- The ENERGY_TABLE defaults: format, MAC and ROW (11 R265). -/
def energyDefaults : List (Nat × Nat × Nat) :=
  [(0, 1152, 128), (2, 288, 64), (4, 144, 32), (5, 72, 16), (8, 96, 32), (9, 96, 32)]

/-- A CCB whose ENERGY_TABLE the host has left zero takes the defaults (08 R186, 11 R265; log 108, DEDUCED). -/
def State.fillEnergy (s : State) (ccb : Nat) : State :=
  if s.readNat (ccb + 0x40) 40 ≠ 0 then s
  else energyDefaults.foldl
    (fun t q => (t.writeNat (ccb + 0x40 + 4 * q.1) 2 q.2.1).writeNat (ccb + 0x42 + 4 * q.1) 2 q.2.2) s

/-- The energy counter of a core's context (08 R186, 21 R423). -/
def State.energyCtr (s : State) (c : Nat) : W64 :=
  Tab.get 0 s.power.ectr (fld (s.ccbWord (s.core c).ccb 0x18) 0 4)

/-- The CSR of a core, by number (08 R186, 19 R406). -/
def State.csr (s : State) (c n : Nat) : W64 :=
  let k := s.core c
  if n = 0x000 then (coreId c).setWidth 64
  else if n = 0x001 then .ofNat 64 k.ctx
  else if n = 0x002 then .ofNat 64 k.ccb
  else if n = 0x010 then k.trapCode.setWidth 64
  else if n = 0x011 then k.trapPc.setWidth 64
  else if n = 0x012 then k.trapInfo
  else if n = 0x013 then k.trapSlot.setWidth 64
  else if n = 0x014 then k.trapEntry.setWidth 64
  else if n = 0x015 then k.trapAddr
  else if n = 0x018 then 0
  else if n = 0x020 then k.brkPc.setWidth 64
  else if n = 0x021 then k.brkMask.setWidth 64
  else if n = 0x022 then k.brkCount.setWidth 64
  else if n = 0x031 then k.rwCount.setWidth 64
  else if n = 0x038 then s.power.scale.setWidth 64
  else if n = 0x039 then s.energyCtr c
  else if 0x040 ≤ n ∧ n < 0x054 then .ofNat 64 (s.readNat (k.ccb + energyOffset n) 2)
  else if n = 0x058 then s.cycle
  else if n = 0x059 then s.hbCount
  else if n = 0x060 then k.status.setWidth 64
  else if n = 0x070 then .ofNat 64 (fld (s.ccbWord k.ccb 0x68) 0 32)
  else if n = 0x071 then .ofNat 64 (fld (s.ccbWord k.ccb 0x68) 32 16)
  else if n = 0x080 then k.stallLoad
  else if n = 0x081 then k.stallSkew
  else if n = 0x082 then k.stallSync
  else if n = 0x083 then k.bubbleBr
  else if n = 0x102 then k.stallLimit.setWidth 64
  else s.linkReg n

/-- A CSR that only a handler may write (08 R186). -/
def csrHandlerOnly (n : Nat) : Bool :=
  (0x010 ≤ n && n ≤ 0x013) || n == 0x015 || n == 0x018 || (0x040 ≤ n && n ≤ 0x053)

/-- Write a CSR of a core that lies in the core: a read-only one does not change (00 R4). -/
def Core.setCsr (k : Core) (n : Nat) (x : W64) : Core :=
  if n = 0x010 then { k with trapCode := x.setWidth 8 }
  else if n = 0x011 then { k with trapPc := x.setWidth 32 }
  else if n = 0x012 then { k with trapInfo := x }
  else if n = 0x013 then { k with trapSlot := x.setWidth 4 }
  else if n = 0x014 then { k with trapEntry := x.setWidth 32 }
  else if n = 0x015 then { k with trapAddr := x }
  else if n = 0x020 then { k with brkPc := x.setWidth 32 }
  else if n = 0x021 then { k with brkMask := x.setWidth 9 }
  else if n = 0x022 then { k with brkCount := x.setWidth 32 }
  else if n = 0x060 then { k with status := clearStatus k.status x }
  else if n = 0x102 then { k with stallLimit := x.setWidth 16 }
  else k

/-- Write a CSR: the registers of the context lie in its CCB (08 R186, R188). -/
def State.setCsr (s : State) (c n : Nat) (x : W64) : State :=
  let ccb := (s.core c).ccb
  if 0x040 ≤ n ∧ n < 0x054 then s.writeNat (ccb + energyOffset n) 2 x.toNat
  else if n = 0x070 then s.writeNat (ccb + 0x68) 4 x.toNat
  else if n = 0x071 then s.writeNat (ccb + 0x6C) 2 x.toNat
  else s.modCore c (·.setCsr n x)

/-- PRIV for a write outside handler state (08 R186, R205). -/
def State.csrFault (s : State) (n : Nat) : Option Trp :=
  if csrHandlerOnly n && !s.curCore.hs then some ⟨.priv, n, 0⟩ else none

/-- 08 R205. -/
def execSysRd (sd : SR) (csr : BitVec 12) (s : State) : Out3 :=
  .next (s.dstS sd (s.csr s.cur csr.toNat))

/-- 08 R205. -/
def execSysWr (sa : SR) (csr : BitVec 12) (s : State) : Out3 :=
  match s.csrFault csr.toNat with
  | some t => .next (s.preciseTrap t)
  | none => .next (s.setCsr s.cur csr.toNat (s.srcS sa))

/-- The translations that a write of TLB_INV names: those of one address in mode 1, else every one of
the context (08 R196). -/
def tlbInvTarget (w : W64) : Option Nat :=
  if fld w 0 3 = 1 ∧ fld w 3 1 = 0 ∧ fld w 8 8 = 0 ∧ fld w 57 7 = 0 then some (fld w 16 41 * 65536)
  else none

/-- 08 R196: every TLB of the device has dropped the translations when the bundle is done. -/
def execTlbInv (sa : SR) (s : State) : Out3 :=
  match s.csrFault 0x018 with
  | some t => .next (s.preciseTrap t)
  | none =>
    let w := s.srcS sa
    .next (s.invalidateTlbs (fld w 4 4) (tlbInvTarget w))

/-- 08 R203. -/
def execTrap (imm : BitVec 23) (s : State) : Out3 := .next (s.requestedTrap ⟨.trap, imm.toNat, 0⟩)
/-- 08 R203. -/
def execBrk (imm : BitVec 23) (s : State) : Out3 := .next (s.requestedTrap ⟨.brk, imm.toNat, 0⟩)

/-- PRIV of rett (08 R204). -/
def State.rettFault (s : State) : Option Trp := if s.curCore.hs then none else some ⟨.priv, 0, 0⟩

/-- 08 R204. -/
def execRett (s : State) : Out3 :=
  match s.rettFault with
  | some t => .next (s.preciseTrap t)
  | none => .next (s.modCur (·.returnFromTrap))

/-- 08 R207: a core asked to stop halts at the boundary after this bundle. -/
def execYield (s : State) : Out3 :=
  .next (s.modCur fun k => if k.preReq then { k with run := .halted, preReq := false } else k)

/-- CMPT of the scalar form (08 R208). -/
def State.cmptFault (s : State) (sa sb : SR) : Option Trp :=
  if s.srcS sa = s.srcS sb then none else some ⟨.cmpt, 0, 0⟩

/-- CMPT of the vector form: the lowest differing lane (08 R208). -/
def State.cmptVFault (s : State) (va vb : VR) : Option Trp :=
  match (List.range 128).find? fun l => lane (s.srcV va) l != lane (s.srcV vb) l with
  | some l => some ⟨.cmpt, l, 0⟩
  | none => none

/-- 08 R208. -/
def execCmpt (sa sb : SR) (s : State) : Out3 :=
  match s.cmptFault sa sb with
  | some t => .next (s.preciseTrap t)
  | none => .next s

/-- 08 R208. -/
def execCmptV (va vb : VR) (s : State) : Out3 :=
  match s.cmptVFault va vb with
  | some t => .next (s.preciseTrap t)
  | none => .next s

end Sys2Proof.Machine
end

