-- ==== Sys2Proof/Machine/Graph.lean ====
section
/-! DEFINITION. Task graphs: node records, launch records, the decrement, failure, the ready pool,
nd.done, nd.spawn and nd.sel (07 R168 to R174, R179, R180). -/

namespace Sys2Proof.Machine

open Sys2Proof

/-- Write bytes for no core, through a context's root. -/
def State.rootWrite (s : State) (ctx : Nat) (va : W64) (bs : List Byte) : Except Trp State := do
  let l ← s.resolveRootRange ctx va bs.length .write
  if s.touchesConfig l || s.touchesPeer l then .error ⟨.prot, 1, va⟩
  else return s.writeRuns .home l bs

/-- Write an 8-byte word for no core. -/
def State.rootPut (s : State) (ctx : Nat) (va w : W64) : Except Trp State :=
  s.rootWrite ctx va (leBytes 8 w.toNat)

/-- A write that is dropped when it faults. -/
def State.rootTry (s : State) (ctx : Nat) (va w : W64) : State :=
  match s.rootPut ctx va w with
  | .ok t => t
  | .error _ => s

/-- A word that reads as 0 when it faults. -/
def State.rootPeek (s : State) (ctx : Nat) (va : W64) : W64 :=
  match s.rootWord ctx va with
  | .ok w => w
  | .error _ => 0

/-- STATUS of a launch record holds a failure code (07 R173). -/
def launchFailed (status : W64) : Bool := 0x10 ≤ fld status 0 8

/-- Fail(code, n) without its winding down (07 R173): the launch keeps its first failure.  A STATUS that cannot be
read holds none (log 102, DEDUCED). -/
def State.setFailure (s : State) (ctx : Nat) (launch : W64) (code : Nat) (node : W64) : State :=
  let st := s.rootPeek ctx (launch + 0x18)
  if launchFailed st then s
  else (s.rootTry ctx (launch + 0x18) (setFld st 0 8 code)).rootTry ctx (launch + 0x20) node

/-- Change a word of a record through the root of its context; an access that faults makes no change and fails the
launch with 0x16 (07 R168, R173). -/
def State.recordUpdate (s : State) (ctx : Nat) (node launch va : W64) (f : W64 → W64) : State :=
  match (do
      let w ← s.rootWord ctx va
      s.rootPut ctx va (f w)) with
  | .ok t => t
  | .error _ => s.setFailure ctx launch 0x16 node

/-- A node leaves the pool or a failed dispatch: STATE becomes IDLE, and LIVE of its launch falls by one
(07 R173). -/
def State.leaveLive (s : State) (ctx : Nat) (node launch : W64) : State :=
  (s.recordUpdate ctx node launch (node + 0x28) fun w => setFld w 32 2 0).recordUpdate ctx node launch (launch + 0x10)
    fun w => w - 1

/-- Fail(code, n) (07 R173): the launch keeps its first failure, and its nodes leave the pool. -/
def State.failLaunch (s : State) (ctx : Nat) (launch : W64) (code : Nat) (node : W64) : State :=
  let s := s.setFailure ctx launch code node
  let mine := fun p : PoolNode => p.ctx == ctx && p.launch == launch.toNat
  let out := s.pool.filter mine
  let s := { s with pool := s.pool.filter fun p => !mine p }
  out.foldl (fun t p => t.leaveLive ctx (.ofNat 64 p.node) launch) s

/-- Enter a node into the pool: by priority, and in order of entry within one (07 R174). -/
def insertPool (n : PoolNode) : List PoolNode → List PoolNode
  | [] => [n]
  | p :: ps => if n.prio < p.prio then n :: p :: ps else p :: insertPool n ps

/-- The node that entered the pool last. -/
def lastEntered (l : List PoolNode) : Option PoolNode :=
  l.foldl (fun best p => match best with
    | none => some p
    | some q => if q.order ≤ p.order then some p else best) none

/-- Beyond 4,096 entries the nodes of the pool are chained through LINK in entry order (07 R174, log 16, DEDUCED): the
LINK of the last one names a node that enters, or the launch of the last one fails (07 R168). -/
def State.chainLink (s : State) (node : W64) : State :=
  if s.pool.length ≤ 4096 then s
  else match lastEntered s.pool with
    | none => s
    | some p => match s.rootPut p.ctx (.ofNat 64 (p.node + 0x38)) node with
      | .ok t => t
      | .error _ => s.failLaunch p.ctx (.ofNat 64 p.launch) 0x16 (.ofNat 64 p.node)

/-- A node enters the pool. -/
def State.enterPool (s : State) (n : PoolNode) : State :=
  { s with
    pool := insertPool { n with order := s.nextRun, since := s.cycle.toNat } s.pool
    nextRun := s.nextRun + 1 }

/-- A context asks for lockstep (08 R188, R199). -/
def State.lockstep (s : State) (ctx : Nat) : Bool :=
  match s.ctx ctx with
  | some x => fld (s.ccbWord x.ccb 0x18) 6 1 == 1
  | none => false

/-- The number of nodes of a context that the cores of a class can hold at once (08 R199, 21 R428): the limit of a gang, in
early service and under lockstep fewer than the 256 of 07 R174 (log 132, DEDUCED). -/
def State.classSize (s : State) (ctx : Nat) (service : Bool) : Nat :=
  if service then 4
  else (if s.early then 64 else 256) / (if s.lockstep ctx then 2 else 1)

/-- The group ids that a node's record names (07 R168). -/
def namedGroups (w18 : W64) : List Nat :=
  ((List.range 4).filter fun j => w18.getLsbD (20 + j)).map fun j => fld w18 (32 + 8 * j) 8

/-- The group checks at entry into the pool: a failure code or none (07 R177).  Two slots that name one group name one. -/
def State.groupCheck (s : State) (ctx : Nat) (w18 : W64) : Option Nat :=
  let gs := namedGroups w18
  if gs.any fun g => !(s.group g).valid || (s.group g).ctx.toNat != ctx then some 0x15
  else
    let gangs := (gs.filter fun g => (s.group g).gang).eraseDups
    if 1 < gangs.length then some 0x14
    else if gangs.any fun g => s.classSize ctx (w18.getLsbD 16) < (s.group g).count.toNat + 1 then some 0x14
    else none

/-- The outcome of a decrement (07 R170). -/
inductive Decr where
  | counted
  | entered
  | refused
  deriving DecidableEq, Repr, Inhabited

/-- Its number as nd.spawn returns it (07 R180). -/
def Decr.num : Decr → Nat
  | .counted => 0
  | .entered => 1
  | .refused => 2

/-- The part of a decrement that follows PRED = 0: the node enters the pool, unless chaining it has failed its launch
(07 R170, R173, R177). -/
def State.enterNode (s : State) (ctx : Nat) (n launch w20 w28 w18 : W64) : Except Trp (Decr × State) := do
  let s ← s.rootPut ctx (n + 0x20) (setFld w20 0 32 (fld w20 32 32))
  match s.groupCheck ctx w18 with
  | some code =>
    let s ← s.rootPut ctx (n + 0x28) (setFld w28 32 2 0)
    return (.refused, s.failLaunch ctx launch code n)
  | none =>
    let s ← s.rootPut ctx (n + 0x28) (setFld w28 32 2 1)
    let live ← s.rootWord ctx (launch + 0x10)
    let s ← s.rootPut ctx (launch + 0x10) (live + 1)
    let s := s.chainLink n
    if launchFailed (s.rootPeek ctx (launch + 0x18)) then return (.refused, s.leaveLive ctx n launch)
    else return (.entered, s.enterPool
      { ctx := ctx, node := n.toNat, launch := launch.toNat, service := w18.getLsbD 16
        prio := fld w18 17 2, since := 0, order := 0 })

/-- A decrement whose accesses may fault. -/
def State.tryDecrement (s : State) (ctx : Nat) (n launch : W64) : Except Trp (Decr × State) := do
  let st ← s.rootWord ctx (launch + 0x18)
  if launchFailed st then return (.refused, s)
  else
    let w20 ← s.rootWord ctx (n + 0x20)
    let w28 ← s.rootWord ctx (n + 0x28)
    let w18 ← s.rootWord ctx (n + 0x18)
    let pred := fld w20 0 32
    if pred = 0 then return (.refused, s.failLaunch ctx launch 0x12 n)
    else
      let t ← s.rootPut ctx (n + 0x20) (setFld w20 0 32 (pred - 1))
      if pred ≠ 1 then return (.counted, t)
      else if fld w28 32 2 = 1 ∨ fld w28 32 2 = 2 then return (.refused, t.failLaunch ctx launch 0x13 n)
      else t.enterNode ctx n launch w20 w28 w18

/-- A decrement of node n (07 R170) for a launch of context ctx; `parent` is the launch that fails when
n's record cannot be read. -/
def State.decrement (s : State) (ctx : Nat) (parent n : W64) : Decr × State :=
  if n.toNat % 256 ≠ 0 then (.refused, s.failLaunch ctx parent 0x11 n)
  else match s.rootWord ctx (n + 8) with
    | .error _ => (.refused, s.failLaunch ctx parent 0x16 n)
    | .ok launch =>
      match s.tryDecrement ctx n launch with
      | .ok r => r
      | .error _ => (.refused, s.failLaunch ctx launch 0x16 n)

/-- Decrements of a list of nodes at va, in list order (07 R169, R179); a list that cannot be read fails
the launch. -/
def State.decrementList (s : State) (ctx : Nat) (parent owner va : W64) : Nat → State
  | 0 => s
  | n + 1 =>
    match s.rootWord ctx va with
    | .error _ => s.failLaunch ctx parent 0x16 owner
    | .ok x => (s.decrement ctx parent x).2.decrementList ctx parent owner (va + 8) n

/-- STATUS becomes 0x01 when LIVE of a launch is 0 and it has not failed (07 R179). -/
def State.completeLaunch (s : State) (ctx : Nat) (launch live : W64) : Except Trp State := do
  let st ← s.rootWord ctx (launch + 0x18)
  if live = 0 ∧ fld st 0 8 = 0 then s.rootPut ctx (launch + 0x18) (setFld st 0 8 1) else return s

/-- Node n leaves LIVE at its end, which may complete the launch (07 R179).  An access that faults makes no change and
fails the launch (07 R173). -/
def State.endLive (s : State) (ctx : Nat) (launch n : W64) : State :=
  match (do
      let w ← s.rootWord ctx (launch + 0x10)
      let t ← s.rootPut ctx (launch + 0x10) (w - 1)
      return (w - 1, t)) with
  | .error _ => s.failLaunch ctx launch 0x16 n
  | .ok (live, t) => match t.completeLaunch ctx launch live with
    | .ok u => u
    | .error _ => t.failLaunch ctx launch 0x16 n

/-- The end of a node whose record or list the dispatcher cannot read: its launch fails, and it leaves LIVE, once
(07 R173). -/
def State.endFailed (s : State) (ctx : Nat) (launch n : W64) (again : Bool) : State :=
  let t := s.failLaunch ctx launch 0x16 n
  if again then t else t.endLive ctx launch n

/-- The graph effect of nd.done for the node of core c with a result; true when the node was DONE
already (07 R179). -/
def State.graphDone (s : State) (c : Nat) (result : W64) : Bool × State :=
  let k := s.core c
  let n := k.node
  match s.rootWord k.ctx (n + 0x28) with
  | .error _ => (false, s.endFailed k.ctx k.launch n k.ndDone)
  | .ok w28 =>
    if fld w28 32 2 = 3 then (true, s)
    else match (do
        let t ← s.rootPut k.ctx (n + 0x30) result
        t.rootPut k.ctx (n + 0x28) (setFld w28 32 2 3)) with
      | .error _ => (false, s.endFailed k.ctx k.launch n k.ndDone)
      | .ok t => match (do
          let w18 ← t.rootWord k.ctx (n + 0x18)
          let succ ← t.rootWord k.ctx (n + 0x10)
          return (fld w18 0 16, succ)) with
        | .error _ => (false, t.endFailed k.ctx k.launch n k.ndDone)
        | .ok (count, succ) => (false, (t.decrementList k.ctx k.launch n succ count).endLive k.ctx k.launch n)

/-- 07 R179: the bundle has waited for the counts and the paths of the core. -/
def execNdDone (sd sa : SR) (s : State) : Out3 :=
  let (again, t) := (s.releaseAll s.cur).graphDone s.cur (s.srcS sa)
  let t := t.modCur fun k => { k with ndDone := true }
  .next ((t.dstS sd (if again then 1 else 0)).markL sd)

/-- LAUNCH of the node record at n, read as a load does (07 R180). -/
def State.spawnLaunch (s : State) (c : Nat) (n : W64) : Except Trp W64 := do
  let r ← s.memRead c .cp n 256
  return .ofNat 64 (leNat ((r.drop 8).take 8))

/-- The reads that nd.spawn makes as a load does: the node record, and the launch record of its LAUNCH,
whose context it answers (07 R180). -/
def State.spawnReads (s : State) (c : Nat) (n : W64) : Except Trp Nat := do
  let launch ← s.spawnLaunch c n
  let l ← s.memRead c .cp launch 64
  return fld (BitVec.ofNat 64 (leNat ((l.drop 8).take 8))) 16 4

/-- Those reads fill the fabric cache of the isle where they meet peer windows (02 R27). -/
def State.spawnFills (s : State) (c : Nat) (n : W64) : State :=
  let launch := match s.spawnLaunch c n with
    | .ok x => s.readsOf c .cp x 64
    | .error _ => []
  s.fillPeer (isleOf c) (s.readsOf c .cp n 256 ++ launch)

/-- The precise faults of nd.spawn (07 R180); TRAP_INFO[2:0] keeps the low bits of log2 256 (log 17, DEDUCED). -/
def State.spawnFault (s : State) (c : Nat) (n : W64) : Except Trp Nat :=
  if n.toNat % 256 ≠ 0 then .error (alignTrap 0 n) else s.spawnReads c n

/-- The status of nd.spawn on node n, whose launch has context x (07 R180). -/
def State.spawn (s : State) (c x : Nat) (n : W64) : Nat × State :=
  let k := s.core c
  if x ≠ k.ctx then (3, s)
  else
    let (d, t) := s.decrement k.ctx k.launch n
    (d.num, t)

/-- 07 R180. -/
def execNdSpawn (sd sa : SR) (s : State) : Out3 :=
  let n := s.srcS sa
  match s.spawnFault s.cur n with
  | .error t => .next (s.preciseTrap t)
  | .ok x =>
    let (r, t) := ((s.releaseAll s.cur).spawnFills s.cur n).spawn s.cur x n
    .next ((t.dstS sd (.ofNat 64 r)).markL sd)

/-- The address of the entry that a bucket table gives for the context's registers, or none when its header breaks
its limits (07 R180). -/
def State.bucketEntry (s : State) (c : Nat) (table : W64) : Except Trp (Option W64) := do
  let h ← s.memRead c .cp table 64
  let w := BitVec.ofNat 64 (leNat (h.take 8))
  let no := fld w 8 8
  let nd := fld w 16 8
  if fld w 5 3 ≠ 0 ∨ fld w 24 40 ≠ 0 ∨ leNat (h.drop 8) ≠ 0 ∨ no = 0 ∨ 64 < no ∨ nd = 0 ∨ 16 < nd then
    return none
  else
    let occ := (s.csr c 0x070).toNat
    let bo := Nat.min (occ / 2 ^ fld w 0 5) (no - 1)
    let bd := Nat.min (s.csr c 0x071).toNat (nd - 1)
    return some (table + .ofNat 64 (0x40 + 16 * (bo * nd + bd)))

/-- The root of that entry, or none: VALID alone says that it is in use (07 R180).  A root that is not aligned gives none, and
so status 4 alone, without the root (log 134, DEDUCED). -/
def State.bucket (s : State) (c : Nat) (table : W64) : Except Trp (Option W64) := do
  match ← s.bucketEntry c table with
  | none => return none
  | some va =>
    let e ← s.memRead c .cp va 16
    let root := BitVec.ofNat 64 (leNat (e.take 8))
    if leNat (e.drop 8) % 2 = 1 ∧ root.toNat % 256 = 0 then return some root else return none

/-- The reads of a bucket table fill the fabric cache of the isle where they meet peer windows (02 R27). -/
def State.bucketFills (s : State) (c : Nat) (table : W64) : State :=
  let entry := match s.bucketEntry c table with
    | .ok (some va) => s.readsOf c .cp va 16
    | _ => []
  s.fillPeer (isleOf c) (s.readsOf c .cp table 64 ++ entry)

/-- The precise faults of nd.sel, and the root and its context when the table gives one (07 R180). -/
def State.selFault (s : State) (c : Nat) (table : W64) : Except Trp (Option (W64 × Nat)) :=
  if table.toNat % 64 ≠ 0 then .error (alignTrap 6 table)
  else match s.bucket c table with
    | .error t => .error t
    | .ok none => .ok none
    | .ok (some root) =>
      match s.spawnFault c root with
      | .error t => .error t
      | .ok x => .ok (some (root, x))

/-- 07 R180. -/
def execNdSel (sd sa : SR) (s : State) : Out3 :=
  match s.selFault s.cur (s.srcS sa) with
  | .error t => .next (s.preciseTrap t)
  | .ok none => .next ((((s.releaseAll s.cur).bucketFills s.cur (s.srcS sa)).dstS sd 4).markL sd)
  | .ok (some (root, x)) =>
    let (r, t) := (((s.releaseAll s.cur).bucketFills s.cur (s.srcS sa)).spawnFills s.cur root).spawn s.cur x root
    .next ((t.dstS sd (root ||| .ofNat 64 r)).markL sd)

end Sys2Proof.Machine
end

