-- ==== Sys2Proof/Machine/Barrier.lean ====
section
/-! DEFINITION. Transaction barriers and landing counts (14 R306, R321 to R327). -/

namespace Sys2Proof.Machine

open Sys2Proof

/-- The 16 bytes of a barrier slot as a number. -/
def State.barWord (s : State) (pa : Nat) : Nat := s.readNat pa 16

/-- PH, DUE, QUOTA, MARK, LAND, OCORE and OCTX of a slot (14 R321). -/
def barPh (x : Nat) : Nat := bitsAt x 0 4
def barDue (x : Nat) : Nat := bitsAt x 8 20
def barQuota (x : Nat) : Nat := bitsAt x 28 20
def barMarks (x : Nat) : Nat := bitsAt x 48 24
def barLand (x : Nat) : Nat := bitsAt x 72 24
def barOcore (x : Nat) : Nat := bitsAt x 96 8

/-- A slot with the given fields, armed by core ocore of context octx (14 R321). -/
def barPack (ph due quota mark land ocore octx : Nat) : Nat :=
  ph % 16 + 2 ^ 4 * 0xB + 2 ^ 8 * (due % 2 ^ 20) + 2 ^ 28 * (quota % 2 ^ 20) + 2 ^ 48 * (mark % 2 ^ 24)
    + 2 ^ 72 * (land % 2 ^ 24) + 2 ^ 96 * (ocore % 256) + 2 ^ 104 * (octx % 16) + 2 ^ 108 * 0x5A5A5

/-- Replace PH, DUE, MARK and LAND of a slot. -/
def barWith (x ph due mark land : Nat) : Nat :=
  barPack ph due (barQuota x) mark land (barOcore x) (bitsAt x 104 4)

/-- The slot is armed and its CHECK holds (14 R324). -/
def State.armedSlot (s : State) (pa : Nat) : Bool :=
  s.armed.contains (pa / 16) && bitsAt (s.barWord pa) 108 20 == 0x5A5A5

/-- The shortfall MARK − LAND as a signed number (14 R321). -/
def shortfall (mark land : Nat) : Int := signed 24 (mark % 2 ^ 24 + 2 ^ 24 - land % 2 ^ 24)

/-- A change of the shortfall leaves its range (14 R323). -/
def shortfallLeaves (mark land promised landed : Nat) : Bool :=
  let x := shortfall mark land + promised - landed
  decide (x < -(2 ^ 23) ∨ 2 ^ 23 - 1 < x)

/-- Write a barrier slot; its arm bit does not change. -/
def State.putBar (s : State) (pa x : Nat) : State := s.writeNat pa 16 x

/-- A held op is a waiter on a slot, bar.wait or bar.par, that has not been woken. -/
def Hold.waitsOn (h : Hold) (pa : Nat) : Bool :=
  h.addr == pa && h.stage != 2 && match h.instr with
    | .barWait .. => true
    | .barPar .. => true
    | _ => false

/-- Change the waiters of a slot. -/
def State.modWaiters (s : State) (pa : Nat) (f : Hold → Hold) : State :=
  { s with cores := s.cores.map fun p => (p.1, match p.2.hold with
      | some h => if h.waitsOn pa then { p.2 with hold := some (f h) } else p.2
      | none => p.2) }

/-- Wake the waiters of a phase that has completed: their condition is met, whatever the slot does next (14 R323, R326). -/
def State.wakeBar (s : State) (pa : Nat) : State := s.modWaiters pa fun h => { h with stage := 2 }

/-- The phase test of a slot (14 R323). -/
def State.phaseTest (s : State) (pa : Nat) : State :=
  let x := s.barWord pa
  if barDue x = 0 ∧ shortfall (barMarks x) (barLand x) ≤ 0 then
    (s.putBar pa (barWith x (barPh x + 1) (barQuota x) (barMarks x) (barLand x))).wakeBar pa
  else s

/-- BAR_STATE as a precise trap at a slot named va (14 R324). -/
def barTrap (reason : Nat) (va : W64) : Trp := ⟨.barState, reason, va⟩

/-- Is the core of a scratchpad running a node of the context (14 R304, R325)? -/
def State.scratchRuns (s : State) (pa ctx : Nat) : Bool :=
  match spCore pa with
  | some c => s.runsCtx c ctx
  | none => false

/-- The physical address of the slot that a barrier op names, with its precise faults (14 R325). -/
def State.barAddr (s : State) (c : Nat) (va : W64) : Except Trp Nat :=
  if va.toNat % 16 ≠ 0 then .error (alignTrap 4 va)
  else match s.resolve c .cp va .homeRead with
    | .error t => .error t
    | .ok pa => if s.scratchRuns pa (s.core c).ctx then .ok pa else .error ⟨.prot, 4, va⟩

/-- The slot of an op that needs it armed. -/
def State.barArmed (s : State) (c : Nat) (va : W64) : Except Trp Nat :=
  match s.barAddr c va with
  | .error t => .error t
  | .ok pa => if s.armedSlot pa then .ok pa else .error (barTrap 1 va)

/-- The checks of bar.init: the slot and the count (14 R326). -/
def State.barInitCheck (s : State) (c : Nat) (va : W64) (n : Nat) : Except Trp Nat :=
  match s.barAddr c va with
  | .error t => .error t
  | .ok pa =>
    if s.armed.contains (pa / 16) then .error (barTrap 2 va)
    else if n < 1 ∨ 0xFFFFF < n then .error (barTrap 3 va)
    else .ok pa

/-- The checks of bar.arv and bar.mark: every check before any change (14 R326). -/
def State.barArvCheck (s : State) (c : Nat) (va : W64) (tx : Nat) (na : Bool) : Except Trp Nat :=
  match s.barArmed c va with
  | .error t => .error t
  | .ok pa =>
    let x := s.barWord pa
    if 2 ^ 23 ≤ tx then .error (barTrap 7 va)
    else if !na && barDue x == 0 then .error (barTrap 8 va)
    else if shortfallLeaves (barMarks x) (barLand x) tx 0 then .error (barTrap 7 va)
    else .ok pa

/-- The checks of bar.ret (14 R326). -/
def State.barRetCheck (s : State) (c : Nat) (va : W64) : Except Trp Nat :=
  match s.barArmed c va with
  | .error t => .error t
  | .ok pa =>
    let x := s.barWord pa
    if (coreId c).toNat ≠ barOcore x then .error (barTrap 6 va)
    else if barDue x ≠ barQuota x ∨ barLand x ≠ barMarks x then .error (barTrap 5 va)
    else .ok pa

/-- 14 R326. -/
def execBarInit (sa sb : SR) (imm : BitVec 17) (s : State) : Out3 :=
  let n := (s.srcS sb).toNat + imm.toNat
  match s.barInitCheck s.cur (s.srcS sa) n with
  | .error t => .next (s.preciseTrap t)
  | .ok pa =>
    let s := s.putBar pa (barPack 0 n n 0 0 (coreId s.cur).toNat s.curCore.ctx)
    .next { s with armed := s.armed ++ [pa / 16] }

/-- The change of an arrival or of a promise (14 R326). -/
def State.barPromise (s : State) (pa tx : Nat) (na : Bool) : State :=
  let x := s.barWord pa
  let due := if na then barDue x else barDue x - 1
  (s.putBar pa (barWith x (barPh x) due (barMarks x + tx) (barLand x))).phaseTest pa

/-- bar.arv and bar.mark: S[sd] receives the phase, unless NA = 1 (14 R326). -/
def State.barArrive (s : State) (sd sa sb : SR) (na : Bool) (imm : BitVec 16) : Out3 :=
  let tx := (s.srcS sb).toNat + imm.toNat
  match s.barArvCheck s.cur (s.srcS sa) tx na with
  | .error t => .next (s.preciseTrap t)
  | .ok pa =>
    let ph := barPh (s.barWord pa)
    let s := s.barPromise pa tx na
    .next (if na then s else (s.dstS sd (.ofNat 64 ph)).markL sd)

/-- 14 R326: the bundle has waited for its drain. -/
def execBarArv (sd sa sb : SR) (na : Bool) (imm : BitVec 16) (s : State) : Out3 :=
  s.barArrive sd sa sb na imm
/-- 14 R325, R326: bar.arv with NA = 1. -/
def execBarMark (sa sb : SR) (imm : BitVec 16) (s : State) : Out3 := s.barArrive 0 sa sb true imm

/-- What bar.wait finds: none while phase t is the present one, else whether t is stale (14 R326). -/
def barStale (ph t : Nat) : Option Bool :=
  let d := (ph + 16 - t % 16) % 16
  if d = 0 then none else some (d != 1)

/-- The result of a bar.wait that has ended: 0, or 1 for a stale phase (14 R326). -/
def Core.barResult (k : Core) (dst : List Reg) (stale : Bool) : Core :=
  let k := match dst with
    | [r] => k.setReg r (b2n stale)
    | _ => k
  if stale then k.setStatus 0 true else k

/-- 14 R326: it holds while phase t is the present one. -/
def execBarWait (sd sa sb : SR) (s : State) : Out3 :=
  match s.barArmed s.cur (s.srcS sa) with
  | .error t => .next (s.preciseTrap t)
  | .ok pa =>
    let t := fld (s.srcS sb) 0 4
    match barStale (barPh (s.barWord pa)) t with
    | some stale => .next ((s.modCur (·.barResult [.s sd.toNat] stale)).markL sd)
    | none => .next (s.holdOn (.barWait sd sa sb) (s.srcS sa) (s.srcS sb) (dstReg sd) t pa)

/-- 14 R326: it holds while PH[0] is par, and completes as a bar.wait on the phase of that parity. -/
def execBarPar (sa : SR) (par : Bool) (s : State) : Out3 :=
  match s.barArmed s.cur (s.srcS sa) with
  | .error t => .next (s.preciseTrap t)
  | .ok pa =>
    if barPh (s.barWord pa) % 2 = b2n par then .next (s.holdOn (.barPar sa par) (s.srcS sa) 0 [] (b2n par) pa)
    else .next s

/-- End the holds of waiters on a slot that is retired or disarmed: BAR_STATE with reason 1 (06 R154,
14 R326). -/
def State.endBarHolds (s : State) (pa : Nat) : State :=
  s.modWaiters pa fun h => { h with ended := some (TrapCode.barState.num, 1, h.a) }

/-- Disarm a slot; its bytes stay. -/
def State.disarm (s : State) (pa : Nat) : State :=
  { s with armed := s.armed.filter (· != pa / 16) }.endBarHolds pa

/-- 14 R326. -/
def execBarRet (sa : SR) (s : State) : Out3 :=
  match s.barRetCheck s.cur (s.srcS sa) with
  | .error t => .next (s.preciseTrap t)
  | .ok pa => .next ((s.putBar pa 0).disarm pa)

/-- Owe n landing counts of a writer's op at the barrier at offset off of core land (14 R306). -/
def State.owe (s : State) (w : Writer) (queue land off n : Nat) : State :=
  if n = 0 then s
  else { s with owed := s.owed ++
    [{ core := w.core, unit := w.unit, queue := queue, land := land, off := off, left := n, op := w.op }] }

/-- The op that owes a landing count. -/
def Owed.writer (o : Owed) : Writer := { core := o.core, unit := o.unit, op := o.op }

/-- A byte lands at the core of a landing count: in its scratchpad, or, for the issuing core, outside the scratchpads
(14 R304). -/
def Owed.at_ (o : Owed) (pa : Nat) : Bool :=
  match spCore pa with
  | some d => d == o.land
  | none => o.land == o.core

/-- A landing count is the release point of the bytes of its sector (14 R306): of the lowest that CP accesses do not see
yet, and the last count of those of all that remain (log 126, DESIGN CHOICE). -/
def State.releaseSector (s : State) (o : Owed) : State :=
  let left := s.kept.filter fun x => x.view == .cp && o.at_ x.pa && x.unseen.any o.writer.sameOp
  match left.map (·.pa / 64) with
  | [] => s
  | n :: l =>
    let low := l.foldl Nat.min n
    s.release o.writer.sameOp fun pa => o.at_ pa && (o.left == 1 || pa / 64 == low)

/-- An op of a unit still owes landing counts. -/
def State.owes (s : State) (c unit queue : Nat) : Bool :=
  s.owed.any fun o => o.core == c && o.unit == unit && o.queue == queue

/-- What a landing count finds wrong at its barrier (14 R323, R324). -/
def State.landFault (s : State) (o : Owed) : Option Trp :=
  let pa := spBase o.land + o.off
  if !s.armedSlot pa then some (barTrap 1 (.ofNat 64 o.off))
  else
    let x := s.barWord pa
    if shortfallLeaves (barMarks x) (barLand x) 0 1 then some (barTrap 7 (.ofNat 64 o.off)) else none

/-- One landing count at its barrier: LAND rises by 1 (14 R306, R323). -/
def State.landOne (s : State) (pa : Nat) : State :=
  let x := s.barWord pa
  (s.putBar pa (barWith x (barPh x) (barDue x) (barMarks x) (barLand x + 1))).phaseTest pa

/-- Landing count k of those owed, o, is owed no more. -/
def State.countOff (s : State) (k : Nat) (o : Owed) : State :=
  { s with owed := if o.left = 1 then s.owed.eraseIdx k else s.owed.set k { o with left := o.left - 1 } }

/-- 14 R306: landing count k of those owed is applied, or is a run fault of its op (R323); its engine
waits while it is stopped. -/
def execLandingCount (k : Nat) (s : State) : Out3 :=
  match s.owed[k]? with
  | none => .next s
  | some o =>
    if (s.core o.core).stopped o.unit o.queue then .next s
    else match s.landFault o with
      | some t => .next (s.engineFault o.core o.unit o.queue t)
      | none =>
        .next (((s.releaseSector o).landOne (spBase o.land + o.off)).countOff k o)

end Sys2Proof.Machine
end

