-- ==== Sys2Proof/Machine/Sequence.lean ====
section
/-! DEFINITION. Grow-only sequences: descriptors, marks, commits, retracts, slot addresses, slab pages,
forks and drops, and the committed-length registers (16 R340 to R356, 17 R366 to R377). -/

namespace Sys2Proof.Machine

open Sys2Proof

/-- On whose behalf a home reads and writes: a core, or the root of a context. -/
inductive Who where
  | core (c : Nat)
  | root (ctx : Nat)
  deriving DecidableEq, Repr, Inhabited

/-- Translate for an op that executes at a home: configuration space and peer windows take PROT
(17 R367). -/
def State.homeAddr (s : State) (w : Who) (va : W64) (acc : Acc) : Except Trp Nat :=
  match (match w with
    | .core c => s.resolve c .cp va acc
    | .root x => s.resolveRoot x va acc) with
  | .error t => .error t
  | .ok pa => match s.region pa with
    | .config => .error ⟨.prot, 4, va⟩
    | .peer _ => .error ⟨.prot, 4, va⟩
    | _ => .ok pa

/-- n bytes at a home hold no uncorrectable error. -/
def State.homeClean (s : State) (pa n : Nat) : Except Trp Unit :=
  match poisoned s.errs pa n with
  | some e => .error (uncorrTrap e)
  | none => .ok ()

/-- An 8-byte word that a home reads on an op's behalf. -/
def State.homeWord (s : State) (w : Who) (va : W64) : Except Trp W64 := do
  let pa ← s.homeAddr w va .homeRead
  s.homeClean pa 8
  return s.readW pa

/-! ## The descriptor (16 R340) -/

def seqSlot (w18 : W64) : Nat := fld w18 0 6
def seqClass (w18 : W64) : Nat := fld w18 6 2
def seqDepth (w18 : W64) : Nat := fld w18 8 3
def seqLive (w18 : W64) : Bool := w18.getLsbD 16
def seqDropped (w18 : W64) : Bool := w18.getLsbD 17
def seqMapn (w18 : W64) : Nat := fld w18 32 32

/-- The page size of a class (16 R349) and the slots of a page. -/
def pageBytes (cls : Nat) : Nat := 2 ^ (16 + 2 * cls)
def seqP (w18 : W64) : Nat := pageBytes (seqClass w18) / 2 ^ seqSlot w18

/-- A descriptor as its home reads it: its address and fields. -/
structure Desc where
  va : W64
  pa : Nat
  lc : Nat
  lr : Nat
  cap : Nat
  w18 : W64
  fork : Nat
  parent : W64
  children : Nat
  pins : Nat
  map : W64
  window : BitVec 256
  deriving DecidableEq, Repr, Inhabited

/-- Read a descriptor at its physical address. -/
def State.descAt (s : State) (va : W64) (pa : Nat) : Except Trp Desc := do
  s.homeClean pa 128
  let w := fun o => s.readW (pa + o)
  return { va := va, pa := pa, lc := (w 0).toNat, lr := (w 8).toNat, cap := (w 0x10).toNat, w18 := w 0x18
           fork := (w 0x20).toNat, parent := w 0x28, children := fld (w 0x30) 0 32, pins := fld (w 0x30) 32 32
           map := w 0x38, window := .ofNat 256 (s.readNat (pa + 0x40) 32) }

/-- Read the descriptor that an op names, with its ALIGN, XLATE and PROT (17 R367). -/
def State.descOp (s : State) (w : Who) (va : W64) (acc : Acc) : Except Trp Desc :=
  if va.toNat % 128 ≠ 0 then .error (alignTrap 7 va)
  else match s.homeAddr w va acc with
    | .error t => .error t
    | .ok pa => s.descAt va pa

/-- Write the fields of a descriptor; the bytes above them stay. -/
def State.putDesc (s : State) (d : Desc) : State :=
  s.writeBytes d.pa (leBytes 8 d.lc ++ leBytes 8 d.lr ++ leBytes 8 d.cap ++ leBytes 8 d.w18.toNat
    ++ leBytes 8 d.fork ++ leBytes 8 d.parent.toNat ++ leBytes 4 d.children ++ leBytes 4 d.pins
    ++ leBytes 8 d.map.toNat ++ leBytes 32 d.window.toNat)

/-- Write a new descriptor whole: bytes 0x60 to 0x7F become 0 (16 R340, 17 R368). -/
def State.newDesc (s : State) (d : Desc) : State := (s.putDesc d).writeBytes (d.pa + 0x60) (leBytes 32 0)

/-- SEQ_STATE, SEQ_RANGE and SEQ_DOUBLE (17 R367). -/
def seqStateTrap (reason : Nat) (va : W64) : Trp := ⟨.seqState, reason, va⟩
def seqRangeTrap (slot : Nat) (va : W64) : Trp := ⟨.seqRange, slot, va⟩
def seqDoubleTrap (slot : Nat) (va : W64) : Trp := ⟨.seqDouble, slot, va⟩

/-- SEQ_STATE reasons 1 and 2 (16 R341). -/
def Desc.usable (d : Desc) (refuseDropped : Bool) : Except Trp Unit :=
  if !seqLive d.w18 then .error (seqStateTrap 1 d.va)
  else if refuseDropped && seqDropped d.w18 then .error (seqStateTrap 2 d.va)
  else .ok ()

/-- Mark n words from a physical address on, and remove such marks (16 R341). -/
def State.mark (s : State) (pa n : Nat) : State :=
  { s with marks := s.marks ++ (List.range n).map fun i => pa / 8 + i }
def State.unmark (s : State) (pa n : Nat) : State :=
  { s with marks := s.marks.filter fun m => m < pa / 8 || pa / 8 + n ≤ m }

/-- The template words keep R340 but for SLOT, and SLOT and CLASS fit (17 R368). -/
def templateOk (w18 map : W64) (slot : Nat) : Bool :=
  fld w18 8 24 == 0 && 6 ≤ slot && slot ≤ 22 && 2 ^ slot ≤ pageBytes (seqClass w18)
    && 1 ≤ seqMapn w18 && map.toNat % 8 == 0 && fld map 57 7 == 0

/-- Word 0x18 of a live descriptor. -/
def liveWord (w18 : W64) (slot depth : Nat) : W64 :=
  setFld (setFld (setFld w18 0 6 slot) 8 3 depth) 16 1 1

/-! ## Commits, retracts and pushes -/

/-- The cl registers of a core that are bound to the descriptor at pa, each with its binding. -/
def Core.boundTo (k : Core) (pa : Nat) : List (Nat × Nat) :=
  (List.range 8).filterMap fun n => match Tab.get none k.clBind n with
    | some b => if b.2.1 = pa then some (n, b.2.2) else none
    | none => none

/-- The cl registers bound to a descriptor receive LC at once: those of a saved core. -/
def Core.takeLc (k : Core) (pa lc : Nat) : Core :=
  (k.boundTo pa).foldl (fun k q => { k with cl := Tab.put 0 k.cl q.1 (.ofNat 64 lc) }) k

/-- The slot of core c of a context.  08 R191 gives the compute cores a slot; the model keeps those of the
service cores above the 52-bit space (log 12, DESIGN CHOICE). -/
def State.saveSlot (s : State) (ctx ccb c : Nat) : Nat :=
  if c < 256 then fld (s.ccbWord ccb 0x10) 0 52 + c * 0x400000 else 2 ^ 53 + (4 * ctx + c - 256) * 0x400000

/-- The device can write a save slot: it lies in memory. -/
def State.saveable (s : State) (a : Nat) : Bool :=
  2 ^ 52 ≤ a || match s.region a with
  | .shelf _ => true
  | .drawer _ => true
  | .scratch _ => true
  | _ => false

/-- The offset of s0 in a save slot (08 R191). -/
def savedRegs : Nat := 0x28BC00

/-- The save slot of a saved core takes words of the block of its registers, by their position (08 R191). -/
def State.putSlot (s : State) (v : SavedCore) (l : List (Nat × Nat)) : State :=
  match s.ctx v.ctx with
  | some x =>
    let a := s.saveSlot v.ctx x.ccb v.core
    if s.saveable a then l.foldl (fun t q => t.writeNat (a + savedRegs + 8 * q.1) 8 q.2) s else s
  | none => s

/-- The position of cl0 in that block (log 30, DEDUCED). -/
def savedCl : Nat := 157

/-- Every bound cl register of the device that names the descriptor at pa is sent LC (16 R347): those of a saved core, and
their words in its save slot, have it at once (log 43, DEDUCED). -/
def State.pushLc (s : State) (pa lc : Nat) : State :=
  let sent := s.cores.flatMap fun p => (p.2.boundTo pa).map fun q =>
    ({ core := p.1, reg := q.1, gen := q.2, lc := .ofNat 64 lc } : Push)
  let t := s.saved.foldl (fun t v => t.putSlot v ((v.regs.boundTo pa).map fun q => (savedCl + q.1, lc))) s
  { t with
    pushes := s.pushes ++ sent
    saved := s.saved.map fun v => { v with regs := v.regs.takeLc pa lc } }

/-- The number of trailing ones of a window. -/
def trailingOnes (w : BitVec 256) : Nat := ((List.range 256).find? fun i => !w.getLsbD i).getD 256

/-- Window bit of slot i. -/
def Desc.pending (d : Desc) (i : Nat) : Bool := d.lc ≤ i && d.window.getLsbD (i - d.lc)

/-- The commit of slot i at the home (16 R344): true for BUSY. -/
def State.commitSlot (s : State) (d : Desc) (i : Nat) : Except Trp (Bool × State) :=
  if d.lr ≤ i then .error (seqRangeTrap i d.va)
  else if i < d.lc ∨ d.pending i then .error (seqDoubleTrap i d.va)
  else if 256 ≤ i - d.lc then .ok (true, s)
  else
    let w := d.window ||| (1#256 <<< (i - d.lc))
    let t := trailingOnes w
    let s := s.putDesc { d with lc := d.lc + t, window := w >>> t }
    .ok (false, if t = 0 then s else s.pushLc d.pa (d.lc + t))

/-- The retract to slot n at the home (16 R346): true for REFUSED. -/
def State.retract (s : State) (d : Desc) (n : Nat) : Bool × State :=
  if n < d.lc then (true, s)
  else if d.lr ≤ n then (false, s)
  else if (List.range 256).any fun j => d.window.getLsbD j && n ≤ d.lc + j then (true, s)
  else (false, s.putDesc { d with lr := n })

/-! ## Pages -/

/-- The virtual address of own map entry j. -/
def Desc.entryVa (d : Desc) (j : Nat) : W64 := d.map + .ofNat 64 (8 * j)

/-- The number of own map entries in use. -/
def Desc.pages (d : Desc) : Nat := (d.cap - d.fork) / seqP d.w18

/-- PAGE and PRC of a map entry (16 R349). -/
def entryPage (e : W64) : W64 := .ofNat 64 (fld e 0 41 * 65536)
def entryPrc (e : W64) : Nat := fld e 56 8

/-- Read a descriptor on an op's behalf: one that the op also writes with access ATOMIC. -/
def State.descFor (s : State) (w : Who) (va : W64) (acc : Acc) : Except Trp Desc := do
  let pa ← s.homeAddr w va acc
  s.descAt va pa

/-- SlotAddr(D, i) by at most `fuel` steps to ancestors (16 R350). -/
def State.slotAddr (s : State) (w : Who) (d : Desc) (i : Nat) : Nat → Except Trp W64
  | 0 => .error (seqRangeTrap i d.va)
  | n + 1 =>
    if i < d.fork then do
      let up ← s.descFor w d.parent .homeRead
      s.slotAddr w up i n
    else do
      let p := seqP d.w18
      let e ← s.homeWord w (d.entryVa ((i - d.fork) / p))
      return entryPage e + .ofNat 64 ((i - d.fork) % p * 2 ^ seqSlot d.w18)

/-- The addresses of the map entries that a prefix below hi reaches, from descriptor d up its chain, each
with whether its sequence is dropped (16 R354). -/
def State.prefixEntries (s : State) (w : Who) (d : Desc) (hi : Nat) :
    Nat → Except Trp (List (Nat × Nat × Bool))
  | 0 => .ok []
  | n + 1 => do
    let p := seqP d.w18
    let own ← (List.range ((hi - d.fork + p - 1) / p)).mapM fun j => do
      let pa ← s.homeAddr w (d.entryVa j) .atomic
      s.homeClean pa 8
      return (pa, seqClass d.w18, seqDropped d.w18)
    if d.parent = 0 then return own
    else
      let up ← s.descFor w d.parent .homeRead
      let rest ← s.prefixEntries w up d.fork n
      return own ++ rest

/-- The runs of nodes of a context, with their step epochs: those that a freed page waits for
(16 R359). -/
def State.holders (s : State) (ctx : Nat) : List (Nat × Nat) :=
  (s.cores.filter fun p => p.2.ctx == ctx && (p.2.run == .running || p.2.run == .halted)).map
      (fun p => (p.2.runId, p.2.epoch))
    ++ (s.saved.filter fun v => v.ctx == ctx).map fun v => (v.regs.runId, v.regs.epoch)

/-- A page waits for its step boundary (16 R359). -/
def State.releasePage (s : State) (ctx cls : Nat) (va : W64) : State :=
  { s with frees := s.frees ++ [{ ctx := ctx, cls := cls, va := va.toNat, waits := s.holders ctx }] }

/-- Undo a prefix increment; a page of a dropped sequence that nothing reaches any more is freed
(16 R354, R356). -/
def State.undoEntry (s : State) (ctx : Nat) (q : Nat × Nat × Bool) : State :=
  let e := s.readW q.1
  let prc := entryPrc e - 1
  let s := s.writeW q.1 (setFld e 56 8 prc)
  if q.2.2 ∧ prc = 0 then s.releasePage ctx q.2.1 (entryPage e) else s

/-- Free the own pages of a dropped sequence that no descendant reaches (16 R355). -/
def State.freeOwn (s : State) (ctx : Nat) (entries : List Nat) (cls : Nat) : State :=
  entries.foldl (fun t pa =>
    let e := t.readW pa
    if entryPrc e = 0 then t.releasePage ctx cls (entryPage e) else t) s

/-- The own map entries of a descriptor, by physical address. -/
def State.ownEntries (s : State) (w : Who) (d : Desc) : Except Trp (List Nat) :=
  (List.range d.pages).mapM fun j => do
    let pa ← s.homeAddr w (d.entryVa j) .atomic
    s.homeClean pa 8
    return pa

/-- Retire(S), and the ancestors that retire in turn, by at most `fuel` steps (16 R356). -/
def State.retire (s : State) (w : Who) (d : Desc) : Nat → Except Trp State
  | 0 => .ok s
  | n + 1 => do
    let entries ← s.ownEntries w d
    let s := s.putDesc { d with w18 := setFld d.w18 16 1 0 }
    let s := entries.foldl (fun t pa => t.unmark pa 1) (s.unmark d.pa 16)
    if d.parent = 0 then return s
    else
      let up ← s.descFor w d.parent .atomic
      let up := { up with children := up.children - 1 }
      let s := s.putDesc up
      if seqDropped up.w18 ∧ up.children = 0 then s.retire w up n else return s

/-- The sequence of the descriptor at pa is dropped: a page that the compaction engine has copied for it is not swapped
(16 R358). -/
def State.noteDrop (s : State) (pa : Nat) : State :=
  { s with job := s.job.map fun j => if j.swap.isSome ∧ j.desc = pa then { j with lost := true } else j }

/-- The drop of R355 on a descriptor that is live, not dropped and not pinned.  A fork at 0 has raised no PRC
(17 R369), so its drop undoes none (log 103, DEDUCED). -/
def State.dropSeq (s : State) (w : Who) (ctx : Nat) (d : Desc) : Except Trp State := do
  let own ← s.ownEntries w d
  let ups ← if d.parent = 0 ∨ d.fork = 0 then .ok [] else do
    let up ← s.descFor w d.parent .homeRead
    s.prefixEntries w up d.fork 8
  let d := { d with w18 := setFld d.w18 17 1 1 }
  let s := (s.putDesc d).noteDrop d.pa
  let s := ups.foldl (fun t q => t.undoEntry ctx q) s
  let s := s.freeOwn ctx own (seqClass d.w18)
  if d.children = 0 then s.retire w d 9 else return s

/-- The configuration address of a slab entry (16 R351). -/
def slabAddr (ctx cls : Nat) : Nat := 0x4100030000 + 64 * ctx + 16 * cls

/-- Take n pages from the front of a free list: the pages and the new head (16 R351, 17 R375). -/
def State.takePages (s : State) (w : Who) (cls : Nat) (last : Nat) (head : W64) :
    Nat → Except Trp (List W64 × W64)
  | 0 => .ok ([], head)
  | n + 1 =>
    if head = 0 then .error (xlateTrap 7 0 (.ofNat 64 last))
    else if head.toNat % pageBytes cls ≠ 0 then .error (xlateTrap 7 5 head)
    else do
      let next ← s.homeWord w head
      let (ps, h) ← s.takePages w cls head.toNat next n
      return (head :: ps, h)

/-- The answer that fits nothing: SHORT (17 R365). -/
def shortCode : W64 := BitVec.allOnes 64

/-- sq.grow at the home: the new CAP, or SHORT (17 R375). -/
def State.growSeq (s : State) (w : Who) (ctx : Nat) (d : Desc) (k : Nat) : Except Trp (W64 × State) := do
  let cls := seqClass d.w18
  let l := s.slab ctx cls
  let j0 := d.pages
  if l.count.toNat < k ∨ seqMapn d.w18 < j0 + k then return (shortCode, s)
  else
    let (ps, head) ← s.takePages w cls (slabAddr ctx cls) l.head k
    let es ← (List.range k).mapM fun m => s.homeAddr w (d.entryVa (j0 + m)) .atomic
    let s := s.setSlab ctx cls { l with head := head, count := l.count - .ofNat 32 k }
    let s := (es.zip ps).foldl
      (fun t q => (t.writeW q.1 (.ofNat 64 (fld q.2 16 41))).mark q.1 1) s
    let cap := d.cap + k * seqP d.w18
    return (.ofNat 64 cap, s.putDesc { d with cap := cap })

/-! ## Bindings (16 R347, R348) -/

/-- Release the binding of register n of a core: PINS of its descriptor falls by 1 and the register is
unbound and zero (17 R376). -/
def State.unbind (s : State) (c n : Nat) : State :=
  match Tab.get none (s.core c).clBind n with
  | none => s
  | some b =>
    let w := s.readW (b.2.1 + 0x30)
    let s := s.writeW (b.2.1 + 0x30) (setFld w 32 32 (fld w 32 32 - 1))
    s.modCore c fun k => { k with clBind := Tab.put none k.clBind n none, cl := Tab.put 0 k.cl n 0 }

/-- Unbind all eight registers of a core: its node ends (17 R376). -/
def State.unbindAll (s : State) (c : Nat) : State := (List.range 8).foldl (fun t n => t.unbind c n) s

/-! ## The instructions -/

/-- Answer a home-decided op: a fault is a precise trap, else sd receives the answer; the op enters and
leaves class L as the bundle issues (17 R366). -/
def State.answer (s : State) (sd : SR) (r : Except Trp (W64 × State)) : Out3 :=
  match r with
  | .error t => .next (s.preciseTrap t)
  | .ok (x, t) => .next (t.dstS sd x)

/-- 17 R368. -/
def State.sqInit (s : State) (va : W64) : Except Trp (W64 × State) := do
  let d ← s.descOp (.core s.cur) va .atomic
  if seqLive d.w18 then .error (seqStateTrap 3 va)
  else if !templateOk d.w18 d.map (seqSlot d.w18) then .error (seqStateTrap 4 va)
  else
    let s := s.newDesc { d with lc := 0, lr := 0, cap := 0, fork := 0, parent := 0, children := 0, pins := 0
                                window := 0, w18 := liveWord d.w18 (seqSlot d.w18) 0 }
    return (0, s.mark d.pa 16)

/-- 17 R368: the bundle has waited for its drain. -/
def execSqInit (sd sa : SR) (s : State) : Out3 := s.answer sd (s.sqInit (s.srcS sa))

/-- 17 R370. -/
def State.sqRes (s : State) (va n : W64) : Except Trp (W64 × State) := do
  let d ← s.descOp (.core s.cur) va .atomic
  d.usable true
  if d.cap < d.lr + n.toNat then return (shortCode, s)
  else return (.ofNat 64 d.lr, s.putDesc { d with lr := d.lr + n.toNat })

/-- 17 R370, 16 R343. -/
def execSqRes (sd sa sb : SR) (s : State) : Out3 := s.answer sd (s.sqRes (s.srcS sa) (s.srcS sb))

/-- 17 R371. -/
def State.sqCmt (s : State) (va i : W64) : Except Trp (W64 × State) := do
  let d ← s.descOp (.core s.cur) va .atomic
  d.usable true
  let (busy, s) ← s.commitSlot d i.toNat
  return (if busy then 1 else 0, s)

/-- 17 R371: the bundle has waited for its drain. -/
def execSqCmt (sd sa sb : SR) (s : State) : Out3 := s.answer sd (s.sqCmt (s.srcS sa) (s.srcS sb))

/-- 17 R372. -/
def State.sqRet (s : State) (va n : W64) : Except Trp (W64 × State) := do
  let d ← s.descOp (.core s.cur) va .atomic
  d.usable true
  let (refused, s) := s.retract d n.toNat
  return (if refused then 2 else 0, s)

/-- 17 R372. -/
def execSqRet (sd sa sb : SR) (s : State) : Out3 := s.answer sd (s.sqRet (s.srcS sa) (s.srcS sb))

/-- 17 R373, read at the home. -/
def State.sqLen (s : State) (va : W64) : Except Trp (W64 × State) := do
  let d ← s.descOp (.core s.cur) va .homeRead
  d.usable false
  return (.ofNat 64 d.lc, s)

/-- 17 R373. -/
def execSqLen (sd sa : SR) (s : State) : Out3 := s.answer sd (s.sqLen (s.srcS sa))

/-- 17 R373: the register as it stands. -/
def execSqLenCl (sd : SR) (n : BitVec 3) (s : State) : Out3 :=
  .next (s.dstS sd (Tab.get 0 s.curCore.cl n.toNat))

/-- 17 R374. -/
def State.sqAddr (s : State) (va i : W64) : Except Trp (W64 × State) := do
  let d ← s.descOp (.core s.cur) va .homeRead
  d.usable true
  if d.cap ≤ i.toNat then .error (seqRangeTrap i.toNat va)
  else
    let a ← s.slotAddr (.core s.cur) d i.toNat 8
    return (a, s)

/-- 17 R374. -/
def execSqAddr (sd sa sb : SR) (s : State) : Out3 := s.answer sd (s.sqAddr (s.srcS sa) (s.srcS sb))

/-- 17 R375. -/
def State.sqGrow (s : State) (va k : W64) : Except Trp (W64 × State) := do
  let d ← s.descOp (.core s.cur) va .atomic
  d.usable true
  s.growSeq (.core s.cur) s.curCore.ctx d k.toNat

/-- 17 R375. -/
def execSqGrow (sd sa sb : SR) (s : State) : Out3 := s.answer sd (s.sqGrow (s.srcS sa) (s.srcS sb))

/-- 17 R377. -/
def State.sqDrop (s : State) (va : W64) : Except Trp (W64 × State) := do
  let d ← s.descOp (.core s.cur) va .atomic
  d.usable false
  if seqDropped d.w18 then return (3, s)
  else if d.pins ≠ 0 then return (2, s)
  else
    let t ← s.dropSeq (.core s.cur) s.curCore.ctx d
    return (0, t)

/-- 17 R377. -/
def execSqDrop (sd sa : SR) (s : State) : Out3 := s.answer sd (s.sqDrop (s.srcS sa))

/-- The addresses of child and parent: ALIGN of each, then XLATE and PROT of each (17 R367, R369). -/
def State.forkAddrs (s : State) (w : Who) (cva dva : W64) : Except Trp (Nat × Nat) := do
  if cva.toNat % 128 ≠ 0 then .error (alignTrap 7 cva)
  else if dva.toNat % 128 ≠ 0 then .error (alignTrap 7 dva)
  else
    let cpa ← s.homeAddr w cva .atomic
    let dpa ← s.homeAddr w dva .atomic
    return (cpa, dpa)

/-- The checks of sq.fork at the home of C that need no word of D (17 R369). -/
def childFree (c : Desc) : Except Trp Unit :=
  if seqLive c.w18 then .error (seqStateTrap 3 c.va) else .ok ()

/-- Those that follow, in order, up to the prefix increments (16 R352, 17 R369). -/
def forkChecks (c d : Desc) (f : Nat) : Except Trp Unit :=
  if !templateOk c.w18 c.map (seqSlot d.w18) then .error (seqStateTrap 4 c.va)
  else if !seqLive d.w18 then .error (seqStateTrap 1 d.va)
  else if seqDropped d.w18 then .error (seqStateTrap 2 d.va)
  else if seqDepth d.w18 = 7 then .error (seqStateTrap 5 d.va)
  else if d.lc < f then .error (seqRangeTrap f d.va)
  else .ok ()

/-- 17 R369. -/
def State.sqFork (s : State) (cva dva f : W64) : Except Trp (W64 × State) := do
  let w := Who.core s.cur
  let (cpa, dpa) ← s.forkAddrs w cva dva
  let c ← s.descAt cva cpa
  childFree c
  let d ← s.descAt dva dpa
  forkChecks c d f.toNat
  let es ← if f = 0 then .ok [] else s.prefixEntries w d f.toNat 8
  if es.any fun q => entryPrc (s.readW q.1) == 255 then return (2, s)
  else
    let s := es.foldl (fun t q =>
      let e := t.readW q.1
      t.writeW q.1 (setFld e 56 8 (entryPrc e + 1))) s
    let s := s.putDesc { d with children := d.children + 1 }
    let s := s.newDesc { c with
      lc := f.toNat, lr := f.toNat, cap := f.toNat, fork := f.toNat, parent := dva, children := 0
      pins := 0, window := 0, w18 := liveWord c.w18 (seqSlot d.w18) (seqDepth d.w18 + 1) }
    return (0, s.mark cpa 16)

/-- 17 R369: sb names the pair of parent and fork point. -/
def execSqFork (sd sa sb : SR) (s : State) : Out3 :=
  s.answer sd (s.sqFork (s.srcS sa) (s.srcS sb) (s.srcS1 sb))

/-- 17 R376: the old binding is released before the new one is taken; the answer is the first push. -/
def State.sqBind (s : State) (va : W64) (n : Nat) : Except Trp (W64 × State) := do
  let d ← s.descOp (.core s.cur) va .atomic
  d.usable true
  let s := s.unbind s.cur n
  let w := s.readW (d.pa + 0x30)
  let s := s.writeW (d.pa + 0x30) (setFld w 32 32 (fld w 32 32 + 1))
  let s := s.modCur fun k => { k with
    cl := Tab.put 0 k.cl n (.ofNat 64 d.lc), clBind := Tab.put none k.clBind n (some (va, d.pa, s.nextBind)) }
  return (0, { s with nextBind := s.nextBind + 1 })

/-- 17 R376. -/
def execSqBind (sa : SR) (n : BitVec 3) (s : State) : Out3 := s.answer 0 (s.sqBind (s.srcS sa) n.toNat)
/-- 17 R376. -/
def execSqBindClr (n : BitVec 3) (s : State) : Out3 := .next (s.unbind s.cur n.toNat)

/-- 16 R347: push k of those on their way arrives, unless an earlier one to its register is on its way;
one of an earlier binding has no effect. -/
def execClPush (k : Nat) (s : State) : Out3 :=
  match s.pushes[k]? with
  | none => .next s
  | some p =>
    if (s.pushes.take k).any fun q => q.core == p.core && q.reg == p.reg then .next s
    else
      let live := match Tab.get none (s.core p.core).clBind p.reg with
        | some b => b.2.2 == p.gen
        | none => false
      let s := { s with pushes := s.pushes.eraseIdx k }
      .next (if live then s.modCore p.core fun c => { c with cl := Tab.put 0 c.cl p.reg p.lc } else s)

end Sys2Proof.Machine
end

