-- ==== Sys2Proof/Machine/NodeEnd.lean ====
section
/-! DEFINITION. The end of a node (08 R206). -/

namespace Sys2Proof.Machine

open Sys2Proof

/-- The lockstep partner of a core, in the odd cluster (08 R199). -/
def partnerOf (c : Nat) : Nat := c + 8

/-- A core ends its node: the core, its loop buffer and its posted receives are free (08 R206, 19 R396),
and segment mode ends with the node (08 R201). -/
def Core.free (k : Core) : Core :=
  { k.closeSegment with
    run := .free, preReq := false, loopBuf := { pinned := [], captured := [] }
    hold := none, rep := none, hidRep := none, hidHold := none, hidSeg := false, stallDue := none
    cmptDue := none, uncorrDue := none, recvs := [], inbound := []
    segment := Segment.reset }

/-- A core is idle from this cycle on (21 R421). -/
def Core.idleSince (k : Core) (cycle : Nat) : Core := { k with run := .free, idleFrom := cycle }

/-- Free a core and the partner of a lockstep node. -/
def State.freeCore (s : State) (c : Nat) : State :=
  let lock := s.lockstep (s.core c).ctx && c < 256
  let s := (s.unbindAll c).modCore c fun k => k.free.idleSince s.cycle.toNat
  if lock then s.modCore (partnerOf c) (·.idleSince s.cycle.toNat) else s

/-- 08 R206: the graph effect of nd.done, for a node that has not executed it. -/
def execHalt (s : State) : Out3 :=
  let t := if s.curCore.ndDone then s else ((s.releaseAll s.cur).graphDone s.cur 0).2
  .next (t.freeCore s.cur)

end Sys2Proof.Machine
end

