-- ==== Sys2Proof/Machine/Atomic.lean ====
section
/-! DEFINITION. Atomics and ticket dispensers (16 R339, R362, R363, 17 R378 to R381). -/

namespace Sys2Proof.Machine

open Sys2Proof

/-- The value that an atomic of n bytes writes (16 R339); op codes of 17 R378, and 10 for cas with its
compare operand a and its new value b. -/
def atomicNew (op n old a b : Nat) : Nat :=
  let w := 8 * n
  let x := a % 2 ^ w
  match op with
  | 0 => (old + x) % 2 ^ w
  | 1 => old &&& x
  | 2 => old ||| x
  | 3 => old ^^^ x
  | 4 => if signed w x < signed w old then x else old
  | 5 => if signed w old < signed w x then x else old
  | 6 => Nat.min old x
  | 7 => Nat.max old x
  | 8 => x
  | 9 => (f32Add 0 (.ofNat 32 old) (.ofNat 32 x) 0).toNat
  | _ => if old = x then b % 2 ^ w else old

/-- The old value as sd receives it: minu, maxu and fadd of 4 bytes extend with zeros (17 R378). -/
def atomicOld (op n old : Nat) : W64 :=
  if n = 8 then .ofNat 64 old
  else if op = 6 ∨ op = 7 ∨ op = 9 then .ofNat 64 old
  else (BitVec.ofNat 32 old).signExtend 64

/-- An atomic at its home: the old value and the state after it (16 R339). -/
def State.atomicAt (s : State) (pa n op : Nat) (a b : W64) : W64 × State :=
  let old := s.readNat pa n
  (atomicOld op n old, s.writeNat pa n (atomicNew op n old a.toNat b.toNat))

/-- The address of an atomic of n bytes, with its precise faults (17 R367). -/
def State.atomicAddr (s : State) (c : Nat) (va : W64) (n : Nat) : Except Trp Nat :=
  if va.toNat % n ≠ 0 then .error (alignTrap (Nat.log2 n) va) else s.homeAddr (.core c) va .atomic

/-- Issue an atomic, with a precise UNCORR: it executes when its value returns, on the own scratchpad too, in bundle
order with the other accesses of its bytes or of that scratchpad (17 R366, R378). -/
def State.atomicOp (s : State) (sd : SR) (va : W64) (n op : Nat) (a b : W64) : Out3 :=
  let c := s.cur
  match s.atomicAddr c va n with
  | .error t => .next (s.preciseTrap t)
  | .ok pa =>
    match s.loadPoison c pa n with
    | some e => .next (s.preciseTrap (uncorrTrap e))
    | none =>
      .next ((s.noteTlb c .cp va).modCur (·.addOut s.iss.seq (.atomic pa n op a b) (dstReg sd) true))

/-- The width of an atomic in bytes (17 R378). -/
def atomicBytes (width : BitVec 2) : Nat := if width = 0 then 4 else 8

/-- 17 R378. -/
def execAmo (sd sa sb : SR) (width : BitVec 2) (op : BitVec 4) (s : State) : Out3 :=
  s.atomicOp sd (s.srcS sa) (atomicBytes width) op.toNat (s.srcS sb) 0
/-- 17 R379: sb names the pair of compare and new value. -/
def execCas (sd sa sb : SR) (width : BitVec 2) (s : State) : Out3 :=
  s.atomicOp sd (s.srcS sa) (atomicBytes width) 10 (s.srcS sb) (s.srcS1 sb)

/-! ## Tickets -/

/-- The dispenser that an op names: base + addend, in 64 bits (17 R380). -/
def State.ticketIndex (s : State) (base : SR) (n : BitVec 8) : W64 := s.srcS base + n.setWidth 64

/-- PROT of a dispenser number above 255, which the core finds itself (17 R380). -/
def ticketNumber (d : W64) : Except Trp Nat := if 255 < d.toNat then .error ⟨.prot, 4, d⟩ else .ok d.toNat

/-- The configuration address of a dispenser (16 R362). -/
def ticketAddr (d : Nat) : Nat := 0x4100031000 + 16 * d

/-- The checks of a dispenser (17 R380). -/
def State.ticketCheck (s : State) (c : Nat) (d : W64) : Except Trp Nat :=
  match ticketNumber d with
  | .error t => .error t
  | .ok n =>
    let t := s.ticket n
    if !t.valid ∨ t.ctx.toNat ≠ (s.core c).ctx then .error ⟨.prot, 4, d⟩ else .ok n

/-- Replace a dispenser. -/
def State.setTicket (s : State) (n : Nat) (t : Ticket) : State :=
  { s with tickets := Tab.put Ticket.reset s.tickets n t }

/-- tk.get (16 R363). -/
def State.tkGet (s : State) (d : W64) : Except Trp (W64 × State) := do
  let n ← s.ticketCheck s.cur d
  let t := s.ticket n
  return (t.next.setWidth 64, s.setTicket n { t with next := t.next + 1 })

/-- tk.next (16 R363). -/
def State.tkNext (s : State) (d : W64) : Except Trp (W64 × State) := do
  let n ← s.ticketCheck s.cur d
  let t := s.ticket n
  return ((t.serving + 1).setWidth 64, s.setTicket n { t with serving := t.serving + 1 })

/-- 17 R380. -/
def execTkGet (sd sa : SR) (n : BitVec 8) (s : State) : Out3 := s.answer sd (s.tkGet (s.ticketIndex sa n))
/-- 17 R380: the bundle has waited for its drain. -/
def execTkNext (sd sa : SR) (n : BitVec 8) (s : State) : Out3 := s.answer sd (s.tkNext (s.ticketIndex sa n))

/-- The turn of ticket t has come (16 R363). -/
def ticketTurn (serving t : BitVec 32) : Bool := (serving - t).toNat < 2 ^ 31

/-- 17 R381: it holds until the ticket's turn. -/
def execTkWait (sa sb : SR) (n : BitVec 8) (s : State) : Out3 :=
  let d := s.ticketIndex sb n
  match s.ticketCheck s.cur d with
  | .error t => .next (s.preciseTrap t)
  | .ok i => .next (s.holdOn (.tkWait sa sb n) (s.srcS sa) (s.srcS sb) [] (fld (s.srcS sa) 0 32) i)

end Sys2Proof.Machine
end

