-- ==== Sys2Proof/Machine/Buffer.lean ====
section
/-! DEFINITION. Circular buffers (14 R328 to R330). -/

namespace Sys2Proof.Machine

open Sys2Proof

/-- The counters of a buffer (14 R328). -/
def CBuf.nReserved (b : CBuf) : Nat := b.reserved - b.filled
def CBuf.nFilled (b : CBuf) : Nat := b.filled - b.popped
def CBuf.nPopped (b : CBuf) : Nat := b.popped - b.released
def CBuf.nFree (b : CBuf) : Nat := b.nslot - (b.reserved - b.released)

/-- The own-scratchpad offset of slot number n, counted from cb.init. -/
def CBuf.slotOff (b : CBuf) (n : Nat) : Nat := b.base + n % b.nslot * b.slot

/-- CB_STATE (14 R330). -/
def cbTrap (b : Nat) (x : CBuf) : Trp := ⟨.cbState, b, .ofNat 64 x.base⟩

/-- The check of cb.pop (14 R330). -/
def State.cbPopCheck (s : State) (c b : Nat) : Except Trp Unit :=
  let x := (s.core c).cbuf b
  if x.init then .ok () else .error (cbTrap b x)

/-- The check of cb.rel (14 R330). -/
def State.cbRelCheck (s : State) (c b k : Nat) : Except Trp Unit :=
  let x := (s.core c).cbuf b
  if !x.init ∨ x.nPopped < k then .error (cbTrap b x) else .ok ()

/-- 14 R330: it holds while no slot is FILLED. -/
def execCbPop (sd : SR) (b : BitVec 3) (s : State) : Out3 :=
  match s.cbPopCheck s.cur b.toNat with
  | .error t => .next (s.preciseTrap t)
  | .ok _ => .next (s.holdOn (.cbPop sd b) 0 0 (dstReg sd) 0 0)

/-- The slot at TAIL is popped: its offset (14 R330). -/
def Core.popSlot (k : Core) (b : Nat) : Nat × Core :=
  let x := k.cbuf b
  (x.slotOff x.popped, k.setCb b { x with popped := x.popped + 1 })

/-- 14 R330: the bundle has waited for its drain. -/
def execCbRel (sa : SR) (n : BitVec 14) (b : BitVec 3) (s : State) : Out3 :=
  let k := (s.srcS sa).toNat + n.toNat
  match s.cbRelCheck s.cur b.toNat k with
  | .error t => .next (s.preciseTrap t)
  | .ok _ => .next (s.modCur fun c =>
      let x := c.cbuf b.toNat
      c.setCb b.toNat { x with released := x.released + k })

/-- The geometry word of cb.init breaks its limits, or the buffer is in use (14 R329). -/
def cbInitBad (x : CBuf) (w : W64) : Bool :=
  let base := fld w 0 21
  let slot := 64 * (fld w 24 12 + 1)
  let nslot := fld w 40 8 + 1
  fld w 21 3 != 0 || fld w 36 4 != 0 || fld w 48 16 != 0 || 0x200000 < base + slot * nslot
    || (x.init && (x.nReserved != 0 || x.nFilled != 0 || x.nPopped != 0)) || base % 64 != 0

/-- The buffer that cb.init makes (14 R329). -/
def cbInitial (w : W64) : CBuf :=
  { init := true, base := fld w 0 21, slot := 64 * (fld w 24 12 + 1), nslot := fld w 40 8 + 1
    reserved := 0, filled := 0, popped := 0, released := 0, landed := [] }

/-- Reserve the slot at HEAD, when one is FREE: its number (14 R328). -/
def Core.reserveSlot (k : Core) (b : Nat) : Option (Nat × Core) :=
  let x := k.cbuf b
  if x.nFree = 0 then none else some (x.reserved, k.setCb b { x with reserved := x.reserved + 1 })

/-- The bytes of slot number n have performed. -/
def Core.landSlot (k : Core) (b n : Nat) : Core :=
  let x := k.cbuf b
  k.setCb b { x with landed := x.landed ++ [n] }

/-- The slot that becomes FILLED next is the release point of its bytes (14 R328). -/
def State.releaseSlot (s : State) (core : Nat) (x : CBuf) : State :=
  let lo := spBase core + x.slotOff x.filled
  s.release (fun _ => true) fun pa => lo ≤ pa && pa < lo + x.slot

/-- 14 R328: the oldest reserved slot of buffer b becomes FILLED once its bytes have performed. -/
def execSlotFilled (core b : Nat) (s : State) : Out3 :=
  let x := (s.core core).cbuf b
  .next (if x.landed.contains x.filled then
      (s.releaseSlot core x).modCore core fun k =>
        k.setCb b { x with filled := x.filled + 1, landed := x.landed.filter (· != x.filled) }
    else s)

/-- The status word of a buffer (14 R313). -/
def CBuf.status (x : CBuf) : W64 :=
  .ofNat 64 (2 ^ 63 * b2n x.init + 2 ^ 48 * x.nReserved + 2 ^ 32 * x.nPopped + 2 ^ 16 * x.nFree + x.nFilled)

end Sys2Proof.Machine
end

