-- ==== Sys2Proof/Machine/Copy.lean ====
section
/-! DEFINITION. The copy channels: landing words, pieces, overlap, sector counts, chains, generators,
cb.push and cp.seq (14 R302 to R316, R320, R329). -/

namespace Sys2Proof.Machine

open Sys2Proof

/-! ## What an op does at its end (14 R303, R305) -/

/-- The barrier, the flag and the tag of an op. -/
structure Notice where
  bc : Bool
  bar : Nat
  fp : Bool
  flag : Nat
  st : Bool
  desc : Nat
  deriving DecidableEq, Repr, Inhabited

/-- The notice of a landing word. -/
def landNotice (w : W64) (sync : BitVec 4) (st fp bc : Bool) : Notice :=
  { bc := bc, bar := fld w 36 17, fp := fp, flag := fld w 32 4, st := st, desc := sync.toNat }

/-- A reserved bit, or a field set while its option bit is 0 (14 R305). -/
def landBad (w : W64) (fp bc : Bool) : Bool :=
  fld w 53 11 != 0 || (!bc && fld w 36 17 != 0) || (!fp && fld w 32 4 != 0)

/-- The notice of a transfer record (14 R311). -/
def recNotice (w : W64) : Notice :=
  { bc := w.getLsbD 34, bar := fld w 40 17, fp := w.getLsbD 33, flag := fld w 36 4, st := w.getLsbD 35
    desc := fld w 57 4 }

/-- An op that asks for nothing at its end. -/
def noNotice : Notice := { bc := false, bar := 0, fp := false, flag := 0, st := false, desc := 0 }

/-- The notice of the op in hand, for a chain that of its record. -/
def CopyRun.notice (r : CopyRun) : Notice :=
  match r.entry.instr with
  | .cp _ _ _ _ sync st _ fp bc => landNotice (r.entry.val 2) sync st fp bc
  | .cp2d _ _ _ _ sync st _ fp bc => landNotice (r.entry.val 2) sync st fp bc
  | .cpMc _ _ _ _ sync st _ fp bc => landNotice (r.entry.val 2) sync st fp bc
  | .cpAg _ _ _ _ sync st _ fp bc _ _ => landNotice (r.entry.val 2) sync st fp bc
  | .cpSeq _ _ _ _ sync st _ fp =>
    { noNotice with fp := fp, flag := fld (r.entry.val 3) 16 4, st := st, desc := sync.toNat }
  | .cpChain .. => if r.words.isEmpty then noNotice else recNotice (r.words.getD 3 0)
  | _ => noNotice

/-- The channel that an op goes to (14 R302). -/
def chanOf : Instr → Option Nat
  | .cp _ _ _ ch .. => some ch.toNat
  | .cp2d _ _ _ ch .. => some ch.toNat
  | .cpMc _ _ _ ch .. => some ch.toNat
  | .cpAg _ _ _ ch .. => some ch.toNat
  | .cpSeq _ _ _ ch .. => some ch.toNat
  | .cpChain _ ch => some ch.toNat
  | .cbPush _ _ ch _ => some ch.toNat
  | _ => none

/-- The gather queue that an op goes to. -/
def gatherOf : Instr → Option Nat
  | .gqCfg _ q => some q.toNat
  | .gqPush _ q _ => some q.toNat
  | .gqEnd q => some q.toNat
  | _ => none

/-- An op as it enters its channel. -/
def CopyRun.enter (e : QEntry) : CopyRun :=
  { entry := e, started := false, record := 0, words := [], ind := none, elem := 0, off := 0, down := none
    snap := none, whole := false, landed := false, slotNo := 0, noticed := false, spans := [] }

/-- The number of an op as a writer: by its bundle and slot, and even while it is in hand. -/
def QEntry.opNo (e : QEntry) : Nat := 2 * (8 * e.seq + e.slot)

/-- The op of channel ch of core c as a writer. -/
def CopyRun.writer (r : CopyRun) (c ch : Nat) : Writer := { core := c, unit := 1 + ch, op := r.entry.opNo }

/-! ## Runs, sectors and landing cores -/

/-- Two lists of runs share a byte. -/
def runsMeet (a b : List (Nat × Nat)) : Bool :=
  a.any fun p => b.any fun q => p.1 < q.1 + q.2 && q.1 < p.1 + p.2

/-- Add the range [a, b) to rising ranges, joining those that touch. -/
def addSpan (a b : Nat) : List (Nat × Nat) → List (Nat × Nat)
  | [] => [(a, b)]
  | (x, y) :: l =>
    if b < x then (a, b) :: (x, y) :: l
    else if y < a then (x, y) :: addSpan a b l
    else addSpan (Nat.min a x) (Nat.max b y) l

/-- The sectors that runs reach, added to those already written. -/
def addSectors (spans : List (Nat × Nat)) (runs : List (Nat × Nat)) : List (Nat × Nat) :=
  runs.foldl (fun l q => if q.2 = 0 then l else addSpan (q.1 / 64) ((q.1 + q.2 - 1) / 64 + 1) l) spans

/-- The landing cores of sectors with the number of sectors in each (14 R304, R306). -/
def landings (c : Nat) (spans : List (Nat × Nat)) : List (Nat × Nat) :=
  spans.flatMap fun p => match spCore (64 * p.1), spCore (64 * (p.2 - 1)) with
    | some x, some y => (List.range (y - x + 1)).map fun i =>
        let lo := spBase (x + i) / 64
        (x + i, Nat.min p.2 (lo + 32768) - Nat.max p.1 lo)
    | _, _ => [(c, p.2 - p.1)]

/-- Owe the landing counts of an op (14 R306). -/
def State.oweAll (s : State) (w : Writer) (queue : Nat) (n : Notice) (spans : List (Nat × Nat)) : State :=
  if n.bc then (landings w.core spans).foldl (fun t q => t.owe w queue q.1 (16 * n.bar) q.2) s else s

/-- The landing core of one address: the issuing core outside the scratchpads (14 R304). -/
def State.landCore (s : State) (c : Nat) (p : Path) (va : W64) : Nat :=
  match s.resolve c p va .write with
  | .ok pa => (spCore pa).getD c
  | .error _ => c

/-- Set the tag and post the flag of an op to its landing cores (14 R303); a post to a core that runs no
node of the context is never sent (R304).  The tag releases its bytes to the MX reads of the ops that leave on it (11 R276),
the post to CP accesses (02 R41). -/
def State.notify (s : State) (w : Writer) (n : Notice) (lands : List Nat) : State :=
  let x := (s.core w.core).ctx
  let s := if n.st then (s.tagBytes w n.desc).modCore w.core (·.setTag n.desc true) else s
  if n.fp then lands.eraseDups.foldl
    (fun t d => if t.runsCtx d x then t.modCore d (·.post n.flag 1) else t) (s.release w.sameOp fun _ => true)
  else s

/-! ## Writing one piece (14 R307) -/

/-- The checks of a data write on a queued path, over all bytes of it: its runs (14 R322, 16 R341). -/
def State.writeCheck (s : State) (c : Nat) (p : Path) (va : W64) (n : Nat) : Except Trp (List (Nat × Nat)) := do
  let l ← s.resolveRange c p va n .write
  if s.touchesConfig l || s.touchesPeer l then .error ⟨.prot, 1, va⟩
  else if l.any fun q => s.overlapsArmed q.1 q.2 then .error (barTrap 4 va)
  else if l.any fun q => s.overlapsMark q.1 q.2 then .error (seqStateTrap 6 va)
  else return l

/-- A landing core that runs no node of the context: PROT at the address (14 R304). -/
def State.landCheck (s : State) (c : Nat) (p : Path) (va : W64) (n : Nat) : Except Trp Unit :=
  let x := (s.core c).ctx
  match (pageCuts va.toNat n).find? fun q => match s.resolve c p (.ofNat 64 q.1) .write with
      | .ok pa => match spCore pa with
        | some d => !s.runsCtx d x
        | none => false
      | .error _ => false with
  | some q => .error ⟨.prot, 1, .ofNat 64 q.1⟩
  | none => .ok ()

/-- Check every destination of a piece, then write it to all: its runs and the state after it. -/
def State.pieceWrite (s : State) (w : Writer) (dsts : List W64) (bytes : List Byte) :
    Except Trp (List (Nat × Nat) × State) := do
  let ls ← dsts.mapM fun d => s.writeCheck w.core w.path d bytes.length
  return (ls.flatten, ls.foldl (fun t l => t.writeRuns w l bytes) s)

/-! ## Generators (14 R314 to R316) -/

/-- CNT and STR of a dimension, and the number of elements. -/
def agCnt (b : AgBlock) (d : Nat) : Nat := fld (b.getD 2 0) (16 * d) 16 + 1
def agStr (b : AgBlock) (d : Nat) : Int := signed 32 (fld (b.getD (3 + d / 2) 0) (32 * (d % 2)) 32)
def agCount (b : AgBlock) : Nat := agCnt b 0 * agCnt b 1 * agCnt b 2 * agCnt b 3

/-- The element bytes, the indirect dimension and the table's offset. -/
def agElem (b : AgBlock) : Nat := fld (b.getD 1 0) 0 20 + 1
def agInd (b : AgBlock) : Nat := fld (b.getD 1 0) 20 3
def agTable (b : AgBlock) : Nat := fld (b.getD 5 0) 0 21

/-- The index of element k in dimension d. -/
def agIdx (b : AgBlock) (k d : Nat) : Nat :=
  let below := (List.range d).foldl (fun p e => p * agCnt b e) 1
  k / below % agCnt b d

/-- The table entry that element k uses: the one held, or one read on CY (14 R315). -/
def State.agEntry (s : State) (c : Nat) (b : AgBlock) (held : Option (Nat × W64)) (k : Nat) :
    Except Trp (Option (Nat × W64)) :=
  if agInd b = 7 then .ok none
  else
    let j := agIdx b k (agInd b)
    let fresh := do
      let ta := agTable b + 8 * j
      if 0x1FFFFF < ta + 7 then .error (xlateTrap 7 4 (.ofNat 64 ta))
      else
        let bs ← s.memRead c .cy (.ofNat 64 ta) 8
        return some (j, BitVec.ofNat 64 (leNat bs))
    match held with
    | some (i, t) => if i = j then .ok (some (i, t)) else fresh
    | none => fresh

/-- A_k (14 R314). -/
def State.agAddr (s : State) (c : Nat) (b : AgBlock) (held : Option (Nat × W64)) (k : Nat) :
    Except Trp W64 := do
  let e ← s.agEntry c b held k
  let sum := ((List.range 4).map fun d =>
    if d = agInd b then
      (match e with
        | some q => (q.2.toNat : Int) * agStr b d
        | none => 0)
    else (agIdx b k d : Int) * agStr b d).foldl (· + ·) 0
  return b.getD 0 0 + .ofInt 64 sum

/-- A generator block breaks R314 or names no dimension (14 R316). -/
def agBad (b : AgBlock) : Bool :=
  fld (b.getD 1 0) 23 41 != 0 || fld (b.getD 5 0) 21 43 != 0 || b.getD 6 0 != 0 || b.getD 7 0 != 0
    || (4 ≤ agInd b && agInd b ≤ 6) || agTable b % 8 != 0

/-- The eight words of a 64-byte block of the own scratchpad (14 R316, R319). -/
def State.ownBlock (s : State) (c : Nat) (p : Path) (off : W64) : Except Trp (List W64) :=
  if off.toNat % 64 ≠ 0 then .error (alignTrap 6 off)
  else if 0x200000 < off.toNat + 64 then .error (xlateTrap 7 4 off)
  else do
    let bs ← s.memRead c p off 64
    return (List.range 8).map fun i => .ofNat 64 (leNat ((bs.drop (8 * i)).take 8))

/-- ag.cfg as it leaves its queue (14 R316). -/
def State.agLoad (s : State) (c n : Nat) (off : W64) : Except Trp State := do
  let b ← s.ownBlock c .cy off
  if agBad b then .error ⟨.illegalOp, 0, 0⟩
  else return s.modCore c fun k => { k with ag := Tab.put none k.ag n (some b) }

/-- cb.init as it leaves its queue (14 R329). -/
def State.cbSetUp (s : State) (c b : Nat) (w : W64) : Except Trp State :=
  if cbInitBad ((s.core c).cbuf b) w then .error ⟨.cbState, b, .ofNat 64 (fld w 0 21)⟩
  else .ok (s.modCore c (·.setCb b (cbInitial w)))

/-! ## Where the bytes of an op come from and go -/

/-- The elements of an op: their number, the bytes of each, and where element k comes from and goes. -/
structure Lay where
  count : Nat
  n : Nat
  src : Nat → Except Trp W64
  dst : Nat → Except Trp (List W64)

/-- A linear copy of n bytes. -/
def linear (dsts : List W64) (src : W64) (n : Nat) : Lay :=
  { count := if n = 0 ∨ dsts.isEmpty then 0 else 1, n := n, src := fun _ => .ok src, dst := fun _ => .ok dsts }

/-- The virtual address of an offset in the cluster window of core i (02 R23). -/
def windowVa (i off : Nat) : W64 := .ofNat 64 (0x1000000 + 0x200000 * i + off)

/-- The cores that MASK of cp.mc names. -/
def mcCores (w : W64) : List Nat := (List.range 8).filter fun i => w.getLsbD (56 + i)

/-- The device index of core i of a core's cluster; a service core stands in none, and such a field names core 256 + i
for it (log 12, DESIGN CHOICE). -/
def clusterCore (c i : Nat) : Nat := 8 * (c / 8) + i

/-- The local offset of staged entry i, which ends within the local window (14 R320). -/
def stagedAddr (base : W64) (size i : Nat) : Except Trp W64 :=
  let a := base.toNat + i * size
  if 0x200000 < a + size then .error (xlateTrap 7 4 (.ofNat 64 a)) else .ok (.ofNat 64 a)

/-- The elements of the op in hand. -/
def State.lay (s : State) (c : Nat) (r : CopyRun) : Lay :=
  let e := r.entry
  let d := e.val 0
  let a := e.val 1
  let n := fld (e.val 2) 0 32
  match e.instr with
  | .cp .. => linear [d] a n
  | .cp2d .. =>
    let w := e.val 3
    { count := if n = 0 then 0 else fld w 0 16 + 1, n := n
      src := fun k => .ok (a + .ofNat 64 (k * fld w 16 24))
      dst := fun k => .ok [d + .ofNat 64 (k * fld w 40 24)] }
  | .cpMc .. => linear ((mcCores d).map fun i => windowVa i (fld d 0 21)) a n
  | .cpAg _ _ _ _ _ _ _ _ _ side _ =>
    let b := r.words
    let m := agElem b
    { count := agCount b, n := m
      src := fun k => if side then .ok (a + .ofNat 64 (k * m)) else do
        let x ← s.agAddr c b r.ind k
        return a + x
      dst := fun k => if side then do
        let x ← s.agAddr c b r.ind k
        return [d + x]
        else .ok [d + .ofNat 64 (k * m)] }
  | .cpSeq .. =>
    let size := 2 ^ seqSlot (r.words.getD 0 0)
    { count := fld (e.val 3) 0 16, n := size
      src := fun k => stagedAddr a size k
      dst := fun k => do
        let x ← s.descFor (.core c) d .homeRead
        let t ← s.slotAddr (.core c) x ((e.val 2).toNat + k) 8
        return [t] }
  | .cpChain .. =>
    linear [r.words.getD 2 0] (r.words.getD 1 0) (fld (r.words.getD 3 0) 0 32)
  | .cbPush _ b _ core =>
    let x := (s.core (clusterCore c core.toNat)).cbuf b.toNat
    linear [windowVa core.toNat (x.slotOff r.slotNo)] (e.val 0) x.slot
  | _ => linear [] 0 0

/-- The runs of all sources and of all destinations of an op, when every one resolves. -/
def State.layRuns (s : State) (c : Nat) (l : Lay) : Except Trp (List (Nat × Nat) × List (Nat × Nat)) := do
  let q ← (List.range l.count).mapM fun k => do
    let a ← l.src k
    let ds ← l.dst k
    let x ← s.resolveRange c .cy a l.n .read
    let y ← ds.mapM fun d => s.resolveRange c .cy d l.n .write
    return (x, y.flatten)
  return ((q.map (·.1)).flatten, (q.map (·.2)).flatten)

/-- All runs lie in one scratchpad. -/
def inOneSp (l : List (Nat × Nat)) : Bool :=
  match l with
  | [] => false
  | q :: _ => (spCore q.1).isSome && l.all fun x => spCore x.1 == spCore q.1

/-- The bytes of runs as core c reads them ahead of their pieces: one with an uncorrectable error stops the op at its own
piece (14 R308). -/
def State.readAhead (s : State) (c : Nat) (l : List (Nat × Nat)) : List Ahead :=
  l.flatMap fun q => (s.readRuns (.engine c .cy) (some (isleOf c)) [q]).zipIdx.map fun b =>
    if s.errs.contains (q.1 + b.2) then .bad else .byte b.1

/-- An op of several elements in one scratchpad whose destination meets its source: its whole source is
read first (14 R309).  None: it is not such an op. -/
def State.wholeSource (s : State) (c : Nat) (l : Lay) : Option (List Ahead) :=
  if l.count < 2 then none
  else match s.layRuns c l with
    | .error _ => none
    | .ok (x, y) => if inOneSp (x ++ y) && runsMeet x y then some (s.readAhead c x) else none

/-- The pieces of n bytes to va as offset and length (14 R307). -/
def pieceCuts (va n : Nat) : List (Nat × Nat) :=
  if n = 0 then []
  else (List.range ((va + n - 1) / 4096 - va / 4096 + 1)).map fun i =>
    let a := Nat.max va ((va / 4096 + i) * 4096)
    let b := Nat.min (va + n) ((va / 4096 + i + 1) * 4096)
    (a - va, b - a)

/-- The runs that a piece writes and those that it reads; none where an address does not resolve. -/
def State.pieceRuns (s : State) (c : Nat) (src : W64) (dsts : List W64) (q : Nat × Nat) :
    List (Nat × Nat) × List (Nat × Nat) :=
  let at_ := fun (va : W64) (acc : Acc) => match s.resolveRange c .cy (va + .ofNat 64 q.1) q.2 acc with
    | .ok l => l
    | .error _ => []
  (dsts.flatMap fun d => at_ d .write, at_ src .read)

/-- No piece reads a byte that an earlier piece of the list has written (14 R307). -/
def orderGood : List (List (Nat × Nat) × List (Nat × Nat)) → Bool
  | [] => true
  | p :: ps => ps.all (fun q => !runsMeet p.1 q.2) && orderGood ps

/-- The order of the pieces of an element: upwards, downwards, or neither will do. -/
def State.pieceOrder (s : State) (c : Nat) (src : W64) (dsts : List W64) (n : Nat) : Option Bool :=
  let ps := (pieceCuts (dsts.headD 0).toNat n).map fun q => s.pieceRuns c src dsts q
  if orderGood ps then some false else if orderGood ps.reverse then some true else none

/-- The next piece of an element of n bytes of which `off` are written: its offset and length. -/
def nextPiece (va n off : Nat) (down : Bool) : Nat × Nat :=
  if down then
    let e := va + (n - off)
    let b := Nat.max va ((e - 1) / 4096 * 4096)
    (b - va, e - b)
  else (off, Nat.min (n - off) (4096 - (va + off) % 4096))

/-! ## Starting an op (14 R304, R308) -/

/-- The landing cores that an op's registers fix. -/
def State.startLands (s : State) (c : Nat) (r : CopyRun) : Except Trp Unit :=
  let l := s.lay c r
  let perElement := match r.entry.instr with
    | .cpAg _ _ _ _ _ _ _ _ _ side _ => side
    | .cpSeq .. => true
    | .cbPush .. => true
    | _ => false
  if perElement then .ok ()
  else do
    let ds := (List.range l.count).map fun k => match l.dst k with
      | .ok x => x
      | .error _ => []
    ds.flatten.forM fun d => s.landCheck c .cy d l.n
    if l.count = 0 && r.notice.fp then
      match r.entry.instr with
      | .cpMc .. => .ok ()
      | .cpChain .. => s.landCheck c .cy (r.words.getD 2 0) 1
      | _ => s.landCheck c .cy (r.entry.val 0) 1

/-- The masked cores of cp.mc run nodes of the context (14 R304). -/
def State.mcLands (s : State) (c : Nat) (d : W64) : Except Trp Unit :=
  match (mcCores d).find? fun i => !s.runsCtx (clusterCore c i) (s.core c).ctx with
  | some i => .error ⟨.prot, 1, windowVa i (fld d 0 21)⟩
  | none => .ok ()

/-- The start checks of cp.mc (14 R310). -/
def State.mcStart (s : State) (c : Nat) (d w : W64) : Except Trp Unit :=
  if fld d 21 35 ≠ 0 then .error ⟨.illegalOp, 0, 0⟩
  else if 0x200000 < fld d 0 21 + fld w 0 32 then .error (xlateTrap 7 4 (.ofNat 64 (fld d 0 21)))
  else s.mcLands c d

/-- The start checks of cp.seq, in the order of sq.cmt: the descriptor's word 0x18 (14 R320, 17 R371). -/
def State.seqStart (s : State) (c : Nat) (e : QEntry) : Except Trp W64 := do
  let w := e.val 3
  let n := fld w 0 16
  let i := (e.val 2).toNat
  if fld w 20 44 ≠ 0 ∨ 256 < n then .error ⟨.illegalOp, 0, 0⟩
  else
    let d ← s.descOp (.core c) (e.val 0) .atomic
    d.usable true
    if i < d.lc then .error (seqRangeTrap i d.va)
    else if d.lr < i + n then .error (seqRangeTrap (Nat.max i d.lr) d.va)
    else match (List.range n).find? fun j => d.pending (i + j) with
      | some j => .error (seqDoubleTrap (i + j) d.va)
      | none => return d.w18

/-- An ag.cfg of generator g stands before an op in a slot queue. -/
def agWaits (g : Nat) (e : QEntry) (q : List QEntry) : Bool :=
  q.any fun x => (x.seq < e.seq || (x.seq == e.seq && x.slot < e.slot)) && match x.instr with
    | .agCfg _ n => n.toNat == g
    | _ => false

/-- The part of a start that an op has of its own: the op with what it has read, or none when it waits. -/
def State.ownStart (s : State) (c : Nat) (r : CopyRun) : Except Trp (Option (CopyRun × State)) :=
  let e := r.entry
  let w := e.val 2
  let bad : Except Trp (Option (CopyRun × State)) := .error ⟨.illegalOp, 0, 0⟩
  match e.instr with
  | .cp _ _ _ _ _ _ _ fp bc => if landBad w fp bc then bad else .ok (some (r, s))
  | .cp2d _ _ _ _ _ _ _ fp bc => if landBad w fp bc then bad else .ok (some (r, s))
  | .cpMc _ _ _ _ _ _ _ fp bc =>
    if landBad w fp bc then bad
    else match s.mcStart c (e.val 0) w with
      | .error t => .error t
      | .ok _ => .ok (some (r, s))
  | .cpAg _ _ _ _ _ _ _ fp bc _ gen =>
    let k := s.core c
    if agWaits gen.toNat e (k.c0q ++ k.c1q) then .ok none
    else if landBad w fp bc ∨ fld w 0 32 ≠ 0 then bad
    else match Tab.get none k.ag gen.toNat with
      | none => bad
      | some b => .ok (some ({ r with words := b }, s))
  | .cpSeq .. => match s.seqStart c e with
    | .error t => .error t
    | .ok x => .ok (some ({ r with words := [x] }, s))
  | .cpChain _ ch =>
    .ok (some ({ r with record := (e.val 0).toNat }, s.modCore c fun k =>
      k.setChan ch.toNat { k.chan ch.toNat with ended := false }))
  | .cbPush _ b _ core =>
    let o := clusterCore c core.toNat
    let x := (s.core o).cbuf b.toNat
    if !x.init then .error (cbTrap b.toNat x)
    else if !s.runsCtx o (s.core c).ctx then .error ⟨.prot, 4, 0⟩
    else match (s.core o).reserveSlot b.toNat with
      | none => .ok none
      | some (n, k) => .ok (some ({ r with slotNo := n }, s.setCore o k))
  | _ => .ok (some (r, s))

/-- Start an op: its checks, and its whole source when R309 asks for it; a fault has no effect. -/
def State.copyStart (s : State) (c : Nat) (r : CopyRun) : Except Trp (Option (CopyRun × State)) := do
  match ← s.ownStart c r with
  | none => return none
  | some (r, t) =>
    t.startLands c r
    let snap := t.wholeSource c (t.lay c r)
    return some ({ r with started := true, snap := snap, whole := snap.isSome }, t)

/-! ## Running an op -/

/-- All bytes of the op in hand are written: its landing counts are owed (14 R303, R306). -/
def State.copyLanded (s : State) (c ch : Nat) (r : CopyRun) : CopyRun × State :=
  let t := s.oweAll (r.writer c ch) 0 r.notice r.spans
  match r.entry.instr with
  | .cbPush _ b _ core =>
    ({ r with landed := true }, t.modCore (clusterCore c core.toNat) (·.landSlot b.toNat r.slotNo))
  | _ => ({ r with landed := true }, t)

/-- The next element of an op. -/
def CopyRun.nextElem (r : CopyRun) : CopyRun :=
  { r with elem := r.elem + 1, off := 0, down := none, snap := if r.whole then r.snap else none }

/-- The commit of cp.seq after the bytes of its slot, which it releases (02 R41); on BUSY it waits (14 R320). -/
def State.seqCommit (s : State) (c ch : Nat) (r : CopyRun) : Except Trp (CopyRun × State) := do
  let d ← s.descOp (.core c) (r.entry.val 0) .atomic
  d.usable true
  let (busy, t) ← s.commitSlot d ((r.entry.val 2).toNat + r.elem)
  return if busy then (r, s) else (r.nextElem, t.release (r.writer c ch).sameOp fun _ => true)

/-- The physical addresses of the bytes of runs. -/
def runBytes (l : List (Nat × Nat)) : List Nat := l.flatMap fun q => (List.range q.2).map (q.1 + ·)

/-- A sector of pa is among those written. -/
def inSpans (spans : List (Nat × Nat)) (pa : Nat) : Bool := spans.any fun p => p.1 ≤ pa / 64 && pa / 64 < p.2

/-- A byte read ahead: one that held an uncorrectable error is read again, and is an error still while it stands or when
the op has written its sector; one whose address did not resolve is read as it stands (log 104, DEDUCED). -/
def State.aheadByte (s : State) (c : Nat) (spans : List (Nat × Nat)) (q : Ahead × Nat) : Except Trp Byte :=
  match q.1 with
  | .byte b => .ok b
  | .bad => if s.errs.contains q.2 || inSpans spans q.2 then .error (uncorrTrap q.2)
    else .ok (s.byteAs (.engine c .cy) q.2)
  | .later => if s.errs.contains q.2 then .error (uncorrTrap q.2) else .ok (s.byteAs (.engine c .cy) q.2)

/-- The bytes of a piece at offset q.1 of an element: those read before, or the source as it stands. -/
def State.pieceSource (s : State) (c : Nat) (r : CopyRun) (l : Lay) (src : W64) (q : Nat × Nat) :
    Except Trp (List Byte) :=
  match r.snap with
  | some bs => do
    let x ← s.resolveRange c .cy (src + .ofNat 64 q.1) q.2 .read
    let held := (bs.drop ((if r.whole then r.elem * l.n else 0) + q.1)).take q.2
    if s.touchesConfig x then .error ⟨.prot, 2, src + .ofNat 64 q.1⟩
    else (held.zip (runBytes x)).mapM (s.aheadByte c r.spans)
  | none => s.memRead c .cy (src + .ofNat 64 q.1) q.2

/-- The source of an element of n bytes as it is read before its first piece: a piece whose source does not resolve has
its fault, and its bytes, at its own turn (14 R308). -/
def State.elementSource (s : State) (c : Nat) (src : W64) (dsts : List W64) (n : Nat) : List Ahead :=
  (pieceCuts (dsts.headD 0).toNat n).flatMap fun q =>
    match s.resolveRange c .cy (src + .ofNat 64 q.1) q.2 .read with
    | .ok x => s.readAhead c x
    | .error _ => List.replicate q.2 .later

/-- The order in which the pieces of the element in hand run, decided before its first piece; where
neither order will do, its source is read first (14 R307, R309). -/
def State.planElement (s : State) (c : Nat) (r : CopyRun) (l : Lay) (src : W64) (dsts : List W64) : CopyRun :=
  if r.down.isSome then r
  else if r.snap.isSome then { r with down := some false }
  else match s.pieceOrder c src dsts l.n with
    | some d => { r with down := some d }
    | none => { r with down := some false, snap := some (s.elementSource c src dsts l.n) }

/-- The piece in hand of an element, whose order is decided: its offset and length. -/
def CopyRun.piece (r : CopyRun) (dsts : List W64) (n : Nat) : Nat × Nat :=
  nextPiece (dsts.headD 0).toNat n r.off (r.down.getD false)

/-- A destination formed per element is checked at its piece (14 R304). -/
def State.elementLands (s : State) (c : Nat) (r : CopyRun) (va : W64) (n : Nat) : Except Trp Unit :=
  match r.entry.instr with
  | .cpAg _ _ _ _ _ _ _ _ _ side _ => if side then s.landCheck c .cy va n else .ok ()
  | _ => .ok ()

/-- Write the next piece of the element in hand. -/
def State.onePiece (s : State) (c ch : Nat) (r : CopyRun) (l : Lay) : Except Trp (CopyRun × State) := do
  let src ← l.src r.elem
  let dsts ← l.dst r.elem
  let r := s.planElement c r l src dsts
  let q := r.piece dsts l.n
  let bytes ← s.pieceSource c r l src q
  let to_ := dsts.map (· + .ofNat 64 q.1)
  to_.forM fun d => s.elementLands c r d q.2
  let (runs, t) ← s.pieceWrite (r.writer c ch) to_ bytes
  let t := t.fillPeer (isleOf c) (s.readsOf c .cy (src + .ofNat 64 q.1) q.2)
  let t := ((src :: to_).foldl (fun t d => t.noteTlb c .cy d) t).freshen
  return ({ r with off := r.off + q.2, spans := addSectors r.spans runs }, t)

/-- Go on with an op that has its elements: one piece, or one commit, or its end. -/
def State.copyRun (s : State) (c ch : Nat) (r : CopyRun) : Except Trp (CopyRun × State) := do
  let l := s.lay c r
  if l.count ≤ r.elem then return s.copyLanded c ch r
  else if r.off < l.n then
    let ind ← match r.entry.instr with
      | .cpAg .. => s.agEntry c r.words r.ind r.elem
      | _ => .ok none
    s.onePiece c ch { r with ind := ind } (s.lay c { r with ind := ind })
  else match r.entry.instr with
    | .cpSeq .. => s.seqCommit c ch r
    | _ => return (r.nextElem, s)

/-- A reserved bit of a transfer record is set (14 R311). -/
def recordBad (w : List W64) : Bool :=
  fld (w.getD 3 0) 61 3 != 0 || (List.range 4).any fun i => w.getD (4 + i) 0 != 0

/-- A chain takes its next record (14 R312). -/
def State.chainFetch (s : State) (c ch : Nat) (r : CopyRun) : Except Trp (CopyRun × State) := do
  let va := BitVec.ofNat 64 r.record
  if r.record = 0 then return ({ r with landed := true }, s)
  else if r.record % 64 ≠ 0 then .error (alignTrap 6 va)
  else
    let bs ← s.memRead c .cy va 64
    let w := (List.range 8).map fun i => BitVec.ofNat 64 (leNat ((bs.drop (8 * i)).take 8))
    let s := (s.fillPeer (isleOf c) (s.readsOf c .cy va 64)).freshen
    if !(w.getD 3 0).getLsbD 32 then
      return ({ r with landed := true }, s.modCore c fun k =>
        k.setChan ch { k.chan ch with ended := true, last := va })
    else if recordBad w then .error ⟨.illegalOp, 0, 0⟩
    else
      let r := { r with words := w, elem := 0, off := 0, down := none, snap := none, spans := [] }
      s.startLands c r
      return (r, s)

/-- One step of the op at the head of a channel: its start, a record, a piece, a commit or its end; none
when it waits. -/
def State.copyStep (s : State) (c ch : Nat) (r : CopyRun) : Except Trp (Option (CopyRun × State)) :=
  if !r.started then s.copyStart c r
  else
    let isChain := match r.entry.instr with
      | .cpChain .. => true
      | _ => false
    (if isChain && r.words.isEmpty then s.chainFetch c ch r else s.copyRun c ch r).map some

/-- A fault of a channel's op; one of cp.seq names its descriptor (14 R308, R320). -/
def State.chanFault (s : State) (c ch : Nat) (r : CopyRun) (t : Trp) : State :=
  match r.entry.instr with
  | .cpSeq .. => s.engineFaultAt c (1 + ch) 0 t (r.entry.val 0)
  | _ => s.engineFault c (1 + ch) 0 t

/-- Replace the op at the head of a channel. -/
def State.setHead (s : State) (c ch : Nat) (r : CopyRun) : State :=
  s.modCore c fun k =>
    let x := k.chan ch
    k.setChan ch { x with fifo := r :: x.fifo.tail }

/-- The next step of the op at the head of a channel, as the state after it. -/
def State.copyAdvance (s : State) (c ch : Nat) (r : CopyRun) : State :=
  match s.copyStep c ch r with
  | .error t => s.chanFault c ch r t
  | .ok none => s
  | .ok (some (r, t)) => t.setHead c ch r

/-- The runs that the piece in hand reads: none when its source has been read before, the whole element when that is
read before its first piece (14 R309). -/
def State.pieceReads (s : State) (c : Nat) (r : CopyRun) (l : Lay) : List (Nat × Nat) :=
  match l.src r.elem, l.dst r.elem with
  | .ok src, .ok dsts =>
    if r.snap.isSome then []
    else if r.down.isNone && (s.pieceOrder c src dsts l.n).isNone then
      (pieceCuts (dsts.headD 0).toNat l.n).flatMap fun q => s.readsOf c .cy (src + .ofNat 64 q.1) q.2
    else
      let q := (s.planElement c r l src dsts).piece dsts l.n
      s.readsOf c .cy (src + .ofNat 64 q.1) q.2
  | _, _ => []

/-- The runs that the next step of a channel's op reads on CY: a record of a chain, or the source of a piece. -/
def State.stepReads (s : State) (c : Nat) (r : CopyRun) : List (Nat × Nat) :=
  let l := s.lay c r
  if !r.started then []
  else match r.entry.instr, r.words with
    | .cpChain .., [] => s.readsOf c .cy (.ofNat 64 r.record) 64
    | _, _ => if r.elem < l.count && r.off < l.n then s.pieceReads c r l else []

/-- The addresses at which a range of n bytes begins and ends. -/
def ends (va : W64) (n : Nat) : List W64 := if n = 0 then [] else [va, va + .ofNat 64 (n - 1)]

/-- The addresses that the next step of a channel's op translates on CY: of a record of a chain, or of the source and the
destinations of a piece. -/
def State.stepVas (s : State) (c : Nat) (r : CopyRun) : List W64 :=
  let l := s.lay c r
  if !r.started then (l.dst 0).toOption.getD []
  else match r.entry.instr, r.words with
    | .cpChain .., [] => [.ofNat 64 r.record]
    | _, _ => match l.src r.elem, l.dst r.elem with
      | .ok src, .ok dsts =>
        if r.elem < l.count && r.off < l.n then
          let q := (s.planElement c r l src dsts).piece dsts l.n
          (src :: dsts).flatMap fun va => ends (va + .ofNat 64 q.1) q.2
        else []
      | _, _ => []

/-- 14 R307: channel `unit` of a core carries out the next piece of the op at its head, when what its walks and itself
read of drawers has arrived (19 R392). -/
def execCopyPiece (core unit : Nat) (s : State) : Out3 :=
  let k := s.core core
  if !s.unitOn core (1 + unit) || 8 ≤ unit || k.stopped (1 + unit) 0 then .next s
  else match (k.chan unit).fifo with
    | [] => .next s
    | r :: _ =>
      if r.landed then .next s
      else .next (s.withWalks core (1 + unit) .cy (s.stepVas core r) fun t =>
        t.withReads core (1 + unit) (t.stepReads core r) fun t => t.copyAdvance core unit r)

/-! ## Completion (14 R303, R312) -/

/-- The landing cores of an op that is complete; an op that moved nothing posts to the landing core of its
destination (14 R304, R310). -/
def State.copyLands (s : State) (c : Nat) (r : CopyRun) : List Nat :=
  let near := match landings c r.spans with
    | [] => [s.landCore c .cy (match r.entry.instr with
      | .cpChain .. => r.words.getD 2 0
      | _ => r.entry.val 0)]
    | l => l.map (·.1)
  match r.entry.instr with
  | .cpMc .. => (mcCores (r.entry.val 0)).map (clusterCore c)
  | _ => near

/-- The slot of a cb.push is FILLED. -/
def State.pushFilled (s : State) (c : Nat) (r : CopyRun) : Bool :=
  match r.entry.instr with
  | .cbPush _ b _ core => r.slotNo < ((s.core (clusterCore c core.toNat)).cbuf b.toNat).filled
  | _ => true

/-- The landing cores whose flags an op posts as it completes: of those that `keep` holds for. -/
def State.postedLands (s : State) (c : Nat) (r : CopyRun) (keep : Nat → Bool) : List Nat := (s.copyLands c r).filter keep

/-- The record in hand of a chain is over, and the chain goes on (14 R312). -/
def State.recordNext (s : State) (c ch : Nat) (r : CopyRun) : State :=
  let t := (s.overWriter (r.writer c ch)).modCore c fun k => k.setChan ch { k.chan ch with last := .ofNat 64 r.record }
  t.setHead c ch { r with
    record := (r.words.getD 0 0).toNat, words := [], landed := false, noticed := false, spans := [] }

/-- The tag and the post of the record in hand, once. -/
def State.recordNotice (s : State) (c ch : Nat) (r : CopyRun) (keep : Nat → Bool) : State :=
  if r.noticed then s else s.notify (r.writer c ch) r.notice (s.postedLands c r keep)

/-- The record in hand is complete: its tag and post, then its OWN is cleared, and the chain goes on
(14 R312). -/
def State.recordDone (s : State) (c ch : Nat) (r : CopyRun) (keep : Nat → Bool) : State :=
  let s := s.recordNotice c ch r keep
  let w := setFld (r.words.getD 3 0) 32 1 0
  match s.pieceWrite (r.writer c ch) [.ofNat 64 (r.record + 0x18)] (leBytes 8 w.toNat) with
  | .error t => (s.setHead c ch { r with noticed := true }).engineFault c (1 + ch) 0 t
  | .ok (_, t) => t.recordNext c ch r

/-- The op at the head of a channel is complete and leaves it. -/
def State.copyDone (s : State) (c ch : Nat) (r : CopyRun) (keep : Nat → Bool) : State :=
  (s.notify (r.writer c ch) r.notice (s.postedLands c r keep)).modCore c fun k =>
    let x := k.chan ch
    k.setChan ch { x with fifo := x.fifo.tail }

/-- The op at the head of channel ch, when it has nothing left to wait for. -/
def State.completing (s : State) (c ch : Nat) : Option CopyRun :=
  let k := s.core c
  if k.stopped (1 + ch) 0 || s.owes c (1 + ch) 0 then none
  else (k.chan ch).fifo.head?.filter fun r => r.landed && s.pushFilled c r

/-- The op in hand of a chain: its record is not over. -/
def CopyRun.inRecord (r : CopyRun) : Bool :=
  match r.entry.instr with
  | .cpChain .. => !r.words.isEmpty
  | _ => false

/-- The op at the head of channel ch completes, and posts the flags of those landing cores that `keep` holds for. -/
def State.channelComplete (s : State) (c ch : Nat) (keep : Nat → Bool) : State :=
  match s.completing c ch with
  | none => s
  | some r => if r.inRecord then s.recordDone c ch r keep else s.copyDone c ch r keep

/-- The status word of a channel (14 R313). -/
def Core.chanStatus (k : Core) (ch : Nat) : W64 :=
  let x := k.chan ch
  let busy := match x.fifo with
    | r :: _ => r.started
    | [] => false
  let chain := match x.fifo with
    | r :: _ => r.started && match r.entry.instr with
      | .cpChain .. => true
      | _ => false
    | [] => false
  .ofNat 64 (2 ^ 13 * fld x.last 6 51 + 2 ^ 11 * b2n (k.stopped (1 + ch) 0) + 2 ^ 10 * b2n x.ended
    + 2 ^ 9 * b2n chain + 2 ^ 8 * b2n busy + (x.fifo.length - b2n busy) % 256)

end Sys2Proof.Machine
end

