-- ==== Sys2Proof/Machine/Gather.lean ====
section
/-! DEFINITION. The gather unit: commands, rows, combining scatters and gathers into a circular buffer
(14 R309, R317 to R319, 15 R336). -/

namespace Sys2Proof.Machine

open Sys2Proof

/-! ## The configuration block (14 R317) -/

def gTbase (b : List W64) : W64 := b.getD 0 0
def gRowb (b : List W64) : Nat := fld (b.getD 1 0) 0 32
def gRstride (b : List W64) : Nat := fld (b.getD 1 0) 32 32
def gDbase (b : List W64) : W64 := b.getD 2 0
def gWord (b : List W64) : W64 := b.getD 3 0
def gScatter (b : List W64) : Bool := (gWord b).getLsbD 0
def gIndexOrder (b : List W64) : Bool := (gWord b).getLsbD 1
def gFmt (b : List W64) : Nat := fld (gWord b) 2 4
def gTocb (b : List W64) : Bool := (gWord b).getLsbD 6
def gCbcore (b : List W64) : Nat := fld (gWord b) 7 3
def gCb (b : List W64) : Nat := fld (gWord b) 10 3

/-- It combines duplicates at its end (14 R318). -/
def gCombine (b : List W64) : Bool := gScatter b && !gIndexOrder b

/-- What a command does at its end. -/
def gNotice (b : List W64) : Notice :=
  let w := gWord b
  { bc := w.getLsbD 18, bar := fld w 19 17, fp := w.getLsbD 13, flag := fld w 14 4, st := w.getLsbD 36
    desc := fld w 37 4 }

/-- The buffer that a command fills, and its owner. -/
def gOwner (c : Nat) (b : List W64) : Nat := clusterCore c (gCbcore b)
def State.gBuf (s : State) (c : Nat) (b : List W64) : CBuf := (s.core (gOwner c b)).cbuf (gCb b)

/-- A format that a combining scatter may name: any code 0 to 9 except e2m1. -/
def gFmtOk (f : Nat) : Bool := f ≤ 9 && f != 5

/-- A combination that is a fault (14 R317). -/
def State.gBad (s : State) (c : Nat) (b : List W64) : Bool :=
  let x := s.gBuf c b
  fld (gWord b) 41 23 != 0 || (List.range 4).any (fun i => b.getD (4 + i) 0 != 0)
    || gRowb b == 0 || 65536 < gRowb b || (gTocb b && gScatter b) || !gFmtOk (gFmt b)
    || (gCombine b && match fmtOf (gFmt b) with
      | some f => gRowb b % (f.width / 8) != 0
      | none => true)
    || (gTocb b && x.init && x.slot % gRowb b != 0)

/-! ## Rows -/

/-- The table row of an index and the data row of a push. -/
def gTableRow (b : List W64) (r : Nat) : W64 := gTbase b + .ofNat 64 (r * gRstride b)
def gDataRow (b : List W64) (j : Nat) : W64 := gDbase b + .ofNat 64 (j * gRowb b)

/-- Rows of a slot (14 R318). -/
def State.gPerSlot (s : State) (c : Nat) (b : List W64) : Nat := (s.gBuf c b).slot / gRowb b

/-- Where row j of a gather into a buffer goes; the slot of the row is among those reserved. -/
def State.gSlotVa (s : State) (c : Nat) (b : List W64) (slots : List Nat) (j : Nat) : W64 :=
  let q := s.gPerSlot c b
  windowVa (gCbcore b) ((s.gBuf c b).slotOff (slots.getD (j / q) 0) + j % q * gRowb b)

/-- Source and destination of row j with index r. -/
def State.gRow (s : State) (c : Nat) (b : List W64) (g : GQueue) (j r : Nat) : W64 × W64 :=
  if gScatter b then (gDataRow b j, gTableRow b r)
  else if gTocb b then (gTableRow b r, s.gSlotVa c b g.slots j)
  else (gTableRow b r, gDataRow b j)

/-- The command of gather queue `queue` of core c as a writer. -/
def gWriter (c queue : Nat) : Writer := { core := c, unit := 9, op := 2 * queue }

/-- Bytes at runs as core c reads them, with those that the command has overwritten as they were before it. -/
def State.readBefore (s : State) (c : Nat) (pre : List Host.Cell) (l : List (Nat × Nat)) : List Byte :=
  l.flatMap fun q => (s.readRuns (.engine c .ga) (some (isleOf c)) [q]).zipIdx.map fun b =>
    match pre.find? fun x => x.1 == q.1 + b.2 with
    | some x => x.2
    | none => b.1

/-- Keep the bytes at runs that are about to be overwritten for the first time. -/
def State.keepBefore (s : State) (c : Nat) (pre : List Host.Cell) (l : List (Nat × Nat)) : List Host.Cell :=
  l.foldl (fun p q => (List.range q.2).foldl (fun p i =>
    if p.any fun x => x.1 == q.1 + i then p else p ++ [(q.1 + i, s.byteAs (.engine c .ga) (q.1 + i))]) p) pre

/-- An uncorrectable error in runs as they stood before the command. -/
def State.errBefore (s : State) (g : GQueue) (l : List (Nat × Nat)) : Option Nat :=
  (runBytes l).find? fun a => g.preErrs.contains a || (s.errs.contains a && !g.pre.any fun x => x.1 == a)

/-- The bytes of a piece of a row, as they stood before the command or before the row (14 R308, R309). -/
def State.gSource (s : State) (c : Nat) (g : GQueue) (src : W64) (n : Nat) : Except Trp (List Byte) := do
  let l ← s.resolveRange c .ga src n .read
  if s.touchesConfig l then .error ⟨.prot, 2, src⟩
  else match s.errBefore g l with
    | some e => .error (uncorrTrap e)
    | none => return s.readBefore c g.pre l

/-- The row in hand of the command is written. -/
def GQueue.rowDone (g : GQueue) : GQueue :=
  if g.oneSp then { g with done := g.done + 1, off := 0 }
  else { g with done := g.done + 1, off := 0, pre := [], preErrs := [] }

/-- Write a piece of a row: the bytes at its offset in hand (14 R307). -/
def State.gWrite (s : State) (c queue : Nat) (g : GQueue) (dst : W64) (bytes : List Byte) : Except Trp (GQueue × State) := do
  s.landCheck c .ga dst bytes.length
  let (runs, t) ← s.pieceWrite (gWriter c queue) [dst] bytes
  let errs := (runBytes runs).filter s.errs.contains
  return ({ g with off := g.off + bytes.length, spans := addSectors g.spans runs, pre := s.keepBefore c g.pre runs
                   preErrs := g.preErrs ++ errs.filter fun a => !g.pre.any fun x => x.1 == a }, t.noteTlb c .ga dst)

/-- The next piece of a row of n bytes at dst. -/
def GQueue.piece (g : GQueue) (dst : W64) (n : Nat) : Nat × Nat := nextPiece dst.toNat n g.off false

/-- A slot of a buffer has all its rows once row j is written (14 R318). -/
def State.gSlotLands (s : State) (c : Nat) (g : GQueue) (b : List W64) (j : Nat) : State :=
  let q := s.gPerSlot c b
  if gTocb b && (j + 1) % q == 0 then s.modCore (gOwner c b) (·.landSlot (gCb b) (g.slots.getD (j / q) 0)) else s

/-- Read and write the next piece of the first row that is not written; its last piece counts it as written. -/
def State.gMoveRow (s : State) (c queue : Nat) (g : GQueue) (b : List W64) : Except Trp (GQueue × State) := do
  let j := g.done
  let (src, dst) := s.gRow c b g j (g.rows.getD j 0)
  let (off, n) := g.piece dst (gRowb b)
  let bytes ← s.gSource c g (src + .ofNat 64 off) n
  let (g, t) ← s.gWrite c queue g (dst + .ofNat 64 off) bytes
  let t := ((t.fillPeer (isleOf c) (s.readsOf c .ga (src + .ofNat 64 off) n)).noteTlb c .ga src).freshen
  return if g.off < gRowb b then (g, t) else (g.rowDone, t.gSlotLands c g b j)

/-- The scratchpad that holds both runs of a row, when one does (14 R309). -/
def State.gPad (s : State) (c : Nat) (src dst : W64) (n : Nat) : Option Nat :=
  match s.resolveRange c .ga src n .read, s.resolveRange c .ga dst n .write with
  | .ok x, .ok y => if inOneSp (x ++ y) then (x ++ y).head?.bind fun q => spCore q.1 else none
  | _, _ => none

/-- The source of a row meets bytes that the command has overwritten. -/
def State.gMeets (s : State) (c : Nat) (g : GQueue) (src : W64) (n : Nat) : Bool :=
  match s.resolveRange c .ga src n .read with
  | .ok x => x.any fun q => g.pre.any fun p => q.1 ≤ p.1 && p.1 < q.1 + q.2
  | .error _ => false

/-- Pop the index at the head of the queue. -/
def GQueue.pop (g : GQueue) (r pc : Nat) : GQueue :=
  { g with items := g.items.tail, rows := g.rows ++ [r], pcs := g.pcs ++ [pc] }

/-- Pop the index of a row whose place is known.  While the command may lie in one scratchpad, a row whose bytes that
question would change waits for the answer, with the rows after it (14 R309). -/
def State.gPop (s : State) (c : Nat) (g : GQueue) (b : List W64) (r pc : Nat) : GQueue :=
  let q := s.gRow c b g g.rows.length r
  let pad := s.gPad c q.1 q.2 (gRowb b)
  if !g.oneSp then g.pop r pc
  else if pad.isNone || (g.spad.isSome && g.spad != pad) then
    { g with oneSp := false, waits := false, pre := [], preErrs := [] }
  else { g.pop r pc with spad := pad, waits := g.waits || s.gMeets c g q.1 (gRowb b) }

/-- The owner of the buffer that a command fills, its state and the size of its slots (14 R304, R317). -/
def State.gBufOk (s : State) (c : Nat) (b : List W64) : Except Trp Unit :=
  let x := s.gBuf c b
  if !s.runsCtx (gOwner c b) (s.core c).ctx then .error ⟨.prot, 4, 0⟩
  else if !x.init then .error (cbTrap (gCb b) x)
  else if x.slot % gRowb b ≠ 0 then .error ⟨.illegalOp, 0, 0⟩
  else .ok ()

/-- A row of a gather into a buffer: its slot is reserved before its first row (14 R318, 15 R336).  None: it waits for a
FREE slot; rows that wait for the answer of R309 are written first (log 105, DEDUCED). -/
def State.gBufPop (s : State) (c : Nat) (g : GQueue) (b : List W64) (r pc : Nat) :
    Except Trp (Option (GQueue × State)) := do
  s.gBufOk c b
  if g.rows.length / s.gPerSlot c b < g.slots.length then return some (s.gPop c g b r pc, s)
  else match (s.core (gOwner c b)).reserveSlot (gCb b) with
    | some (n, k) => return some ({ g with slots := g.slots ++ [n] }, s.setCore (gOwner c b) k)
    | none => return if g.waits then some ({ g with waits := false }, s) else none

/-- The unit pops an index and reads, places or scatters its row (14 R318). -/
def State.gPush (s : State) (c : Nat) (g : GQueue) (r pc : Nat) : Except Trp (Option (GQueue × State)) :=
  match g.cfg with
  | none => .error ⟨.illegalOp, 0, 0⟩
  | some b =>
    if gCombine b then do
      let va := gDataRow b g.rows.length
      let bs ← s.memRead c .ga va (gRowb b)
      return some ({ g.pop r pc with data := g.data ++ [bs] },
        (s.fillPeer (isleOf c) (s.readsOf c .ga va (gRowb b))).freshen)
    else if gTocb b then s.gBufPop c g b r pc
    else .ok (some (s.gPop c g b r pc, s))

/-! ## The end of a command -/

/-- The exact sum of one element of data rows, rounded to the format (14 R318). -/
def combineElem (f : Fmt) (xs : List Nat) : Nat × Bool :=
  match xs with
  | [] => (0, false)
  | x :: l => f.round 0 (l.foldl (fun a y => a.add 0 (f.decode y)) (f.decode x)) 0

/-- The row that a combining scatter writes: one data row as it is, or the sum of several. -/
def combineRows (f : Fmt) (n : Nat) (rows : List (List Byte)) : List Byte × Bool :=
  match rows with
  | [d] => (d, false)
  | _ =>
    let w := f.width / 8
    let es := (List.range (n / w)).map fun i =>
      combineElem f (rows.map fun d => leNat ((d.drop (w * i)).take w))
    (es.flatMap fun e => leBytes w e.1, es.any (·.2))

/-- The data rows that were pushed with index r. -/
def GQueue.rowsOf (g : GQueue) (r : Nat) : List (List Byte) :=
  ((g.rows.zip g.data).filter fun p => p.1 == r).map (·.2)

/-- Write the next distinct row of a combining scatter. -/
def State.gCombineRow (s : State) (c queue : Nat) (g : GQueue) (b : List W64) (r : Nat) :
    Except Trp (GQueue × State) := do
  match fmtOf (gFmt b) with
  | none => return (g, s)
  | some f =>
    let (bytes, sat) := combineRows f (gRowb b) (g.rowsOf r)
    let dst := gTableRow b r
    let (off, n) := g.piece dst (gRowb b)
    let (g, t) ← s.gWrite c queue g (dst + .ofNat 64 off) ((bytes.drop off).take n)
    return if g.off < gRowb b then (g, t)
      else ({ g with done := g.done + 1, off := 0, pre := [], preErrs := [] }, t.setSat c sat)

/-- The rest of a partly used last slot is written as zero (14 R318). -/
def State.gZeroFill (s : State) (c queue : Nat) (g : GQueue) (b : List W64) : Except Trp (GQueue × State) := do
  let j := g.rows.length
  let q := s.gPerSlot c b
  let n := (s.gBuf c b).slot - j % q * gRowb b
  let dst := s.gSlotVa c b g.slots j
  let (off, m) := g.piece dst n
  let (g, t) ← s.gWrite c queue g (dst + .ofNat 64 off) (List.replicate m 0)
  return if g.off < n then (g, t)
    else (g.rowDone, t.modCore (gOwner c b) (·.landSlot (gCb b) (g.slots.getD (j / q) 0)))

/-- The landing core that a configuration fixes: of a buffer its owner, of a plain gather that of DBASE (14 R304). -/
def State.gStartLands (s : State) (c : Nat) (b : List W64) : Except Trp Unit :=
  if gTocb b then
    (if s.runsCtx (gOwner c b) (s.core c).ctx then .ok () else .error ⟨.prot, 4, 0⟩)
  else if gScatter b then .ok () else s.landCheck c .ga (gDbase b) 1

/-- gq.cfg loads its block (14 R304, R319). -/
def State.gLoad (s : State) (c : Nat) (off : W64) : Except Trp (List W64) := do
  let b ← s.ownBlock c .ga off
  if s.gBad c b then .error ⟨.illegalOp, 0, 0⟩
  else do
    s.gStartLands c b
    return b

/-- A closed command has written everything: its landing counts are owed. -/
def State.gLanded (s : State) (c q : Nat) (g : GQueue) : GQueue × State :=
  ({ g with landed := true }, match g.cfg with
    | some b => s.oweAll (gWriter c q) q (gNotice b) g.spans
    | none => s)

/-- One step of a closed command: a combined row, a row that waited, the rest of a slot, or its end. -/
def State.gClose (s : State) (c queue : Nat) (g : GQueue) : Except Trp (GQueue × State) :=
  match g.cfg with
  | none => .ok (s.gLanded c queue g)
  | some b =>
    if gCombine b then
      (match g.rows.eraseDups[g.done]? with
        | some r => s.gCombineRow c queue g b r
        | none => .ok (s.gLanded c queue g))
    else if g.rows.isEmpty then (s.gStartLands c b).map fun _ => s.gLanded c queue g
    else if g.done < g.rows.length then s.gMoveRow c queue g b
    else if gTocb b && g.done == g.rows.length && g.rows.length % s.gPerSlot c b != 0 then s.gZeroFill c queue g b
    else .ok (s.gLanded c queue g)

/-- The block of a command whose popped rows are not all written and need not wait. -/
def GQueue.writes (g : GQueue) : Option (List W64) :=
  g.cfg.bind fun b => if g.done < g.rows.length && !g.waits && !gCombine b then some b else none

/-- One step of a gather queue; none when it waits. -/
def State.gStep (s : State) (c q : Nat) (g : GQueue) : Except Trp (Option (GQueue × State)) :=
  if g.closing then (s.gClose c q g).map some
  else match g.writes with
  | some b => (s.gMoveRow c q g b).map some
  | none => match g.items with
    | [] => .ok none
    | .idx r _ pc :: _ => s.gPush c g r pc
    | .done _ :: _ => .ok (some ({ g with closing := true }, s))
    | .cfg e :: rest =>
      if !g.rows.isEmpty then .ok (some ({ g with closing := true }, s))
      else do
        let b ← s.gLoad c (e.val 0)
        return some ({ g with cfg := some b, items := rest }, s)

/-- The next step of a gather queue, as the state after it. -/
def State.gAdvance (s : State) (c q : Nat) (g : GQueue) : State :=
  match s.gStep c q g with
  | .error t => s.engineFault c 9 q t
  | .ok none => s
  | .ok (some (g, t)) => t.modCore c (·.setGq q g)

/-- The runs that the next piece of the row in hand reads. -/
def State.gRowReads (s : State) (c : Nat) (g : GQueue) (b : List W64) : List (Nat × Nat) :=
  let (src, dst) := s.gRow c b g g.done (g.rows.getD g.done 0)
  let (off, n) := g.piece dst (gRowb b)
  s.readsOf c .ga (src + .ofNat 64 off) n

/-- The runs that the next step of a gather queue reads: a piece of a row, or the data row of a combining scatter. -/
def State.gReads (s : State) (c : Nat) (g : GQueue) : List (Nat × Nat) :=
  match g.cfg with
  | none => []
  | some b =>
    if gCombine b then
      (match g.closing, g.items with
        | false, .idx _ _ _ :: _ => s.readsOf c .ga (gDataRow b g.rows.length) (gRowb b)
        | _, _ => [])
    else if g.done < g.rows.length && (g.closing || !g.waits) then s.gRowReads c g b
    else []

/-- The addresses that the next step of a gather queue translates on GA: of the source and the destination of a piece. -/
def State.gVas (s : State) (c : Nat) (g : GQueue) : List W64 :=
  match g.cfg with
  | none => []
  | some b =>
    if gCombine b then
      (match g.closing, g.items with
        | false, .idx _ _ _ :: _ => ends (gDataRow b g.rows.length) (gRowb b)
        | true, _ => (g.rows.eraseDups[g.done]?).toList.flatMap fun r => ends (gTableRow b r) (gRowb b)
        | _, _ => [])
    else if g.done < g.rows.length && (g.closing || !g.waits) then
      let (src, dst) := s.gRow c b g g.done (g.rows.getD g.done 0)
      let (off, n) := g.piece dst (gRowb b)
      ends (src + .ofNat 64 off) n ++ ends (dst + .ofNat 64 off) n
    else []

/-- 14 R318: the gather unit carries out the next row or step of a queue, when what its walks and itself read of
drawers has arrived (19 R392). -/
def execGatherRow (core queue : Nat) (s : State) : Out3 :=
  let k := s.core core
  let g := k.gqueue queue
  if !s.unitOn core (9 + queue) || 4 ≤ queue || k.stopped 9 queue || g.landed then .next s
  else .next (s.withWalks core (9 + queue) .ga (s.gVas core g) fun t =>
    t.withReads core (9 + queue) (t.gReads core g) fun t => t.gAdvance core queue g)

/-- The landing cores of a command: of the bytes it wrote, or of where it would have written. -/
def State.gLands (s : State) (c : Nat) (g : GQueue) (b : List W64) : List Nat :=
  match landings c g.spans with
  | [] =>
    if gTocb b then [gOwner c b] else [s.landCore c .ga (if gScatter b then gTbase b else gDbase b)]
  | l => l.map (·.1)

/-- The slots that a command filled are FILLED. -/
def State.gFilled (s : State) (c : Nat) (g : GQueue) : Bool :=
  match g.cfg with
  | some b => g.slots.all fun n => n < (s.gBuf c b).filled
  | none => true

/-- The command of a gather queue has nothing left to wait for. -/
def State.gCompleting (s : State) (c q : Nat) : Bool :=
  let g := (s.core c).gqueue q
  g.landed && !(s.core c).stopped 9 q && !s.owes c 9 q && s.gFilled c g

/-- A command completes: its tag, its post, and gq.end leaves the queue; a gq.cfg that ended it stays and
loads next (14 R303, R319). -/
def State.gatherComplete (s : State) (c q : Nat) (keep : Nat → Bool) : State :=
  if !s.gCompleting c q then s
  else
    let g := (s.core c).gqueue q
    let s := match g.cfg with
      | some b => s.notify (gWriter c q) (gNotice b) ((s.gLands c g b).filter keep)
      | none => s
    let rest := match g.items with
      | .done _ :: l => l
      | l => l
    (s.overWriter (gWriter c q)).modCore c (·.setGq q { GQueue.reset with cfg := g.cfg, items := rest })

/-- 14 R303: the op at the head of channel `unit`, or the command of gather queue `unit` − 8, completes. -/
def execCopyComplete (core unit : Nat) (s : State) : Out3 :=
  if !(s.core core).engineOn then .next s
  else if unit < 8 then .next (s.channelComplete core unit fun _ => true)
  else if unit < 12 then .next (s.gatherComplete core (unit - 8) fun _ => true)
  else .next s

end Sys2Proof.Machine
end

