-- ==== Sys2Proof/Machine/Matrix.lean ====
section
/-! DEFINITION. Slot M: parameter registers, descriptors, mzero, msca, coverage records, mucode, and the
start of calls (11 R256 to R264, 12 R277 to R289, R298).  A slot op enters the M queue; its effect takes
place when it leaves. -/

namespace Sys2Proof.Machine

open Sys2Proof

/-! ## The slot ops -/

/-- 12 R284: the bundle of the last executing mcall is remembered (11 R262). -/
def execMcall (routine : BitVec 6) (s : State) : Out3 :=
  .next ((s.queueOp (.mcall routine)).modCur fun k => { k with lastMcall := some s.iss.seq })
/-- 12 R281. -/
def execMpset (n : BitVec 3) (sa : SR) (imm : BitVec 25) (s : State) : Out3 := .next (s.queueOp (.mpset n sa imm))
/-- 12 R281. -/
def execMpget (n : BitVec 3) (sd : SR) (s : State) : Out3 := .next (s.queueOp (.mpget n sd))
/-- 12 R283. -/
def execDget (n : BitVec 4) (sd : SR) (h : Bool) (s : State) : Out3 := .next (s.queueOp (.dget n sd h))
/-- 12 R283. -/
def execDtag (n : BitVec 4) (v : Bool) (s : State) : Out3 := .next (s.queueOp (.dtag n v))
/-- 12 R282, field mode. -/
def execDsetField (n : BitVec 4) (sa : SR) (field : BitVec 4) (s : State) : Out3 :=
  .next (s.queueOp (.dsetField n sa field))
/-- 12 R287. -/
def execMzero (sa : SR) (anc kind : Bool) (m1 b : BitVec 8) (s : State) : Out3 :=
  .next (s.queueOp (.mzero sa anc kind m1 b))
/-- 12 R288. -/
def execMsca (sa : SR) (n1 : BitVec 7) (anc : Bool) (anchor : BitVec 11) (s : State) : Out3 :=
  .next (s.queueOp (.msca sa n1 anc anchor))
/-- 12 R289. -/
def execCvRd (cva : BitVec 2) (sd : SR) (q : BitVec 2) (s : State) : Out3 := .next (s.queueOp (.cvRd cva sd q))
/-- 12 R289. -/
def execCvWr (cvd : BitVec 2) (sa : SR) (q : BitVec 2) (s : State) : Out3 := .next (s.queueOp (.cvWr cvd sa q))
/-- 12 R289. -/
def execCvAdd (cvd cva cvb : BitVec 2) (s : State) : Out3 := .next (s.queueOp (.cvAdd cvd cva cvb))
/-- 12 R289. -/
def execCvScl (cvd cva : BitVec 2) (sa : SR) (s : State) : Out3 := .next (s.queueOp (.cvScl cvd cva sa))
/-- 12 R298. -/
def execMucodeClr (n : BitVec 6) (s : State) : Out3 := .next (s.queueOp (.mucodeClr n))

/-- The offset that dset reads in memory mode (12 R282). -/
def dsetAddr (base : W64) (off : BitVec 20) : W64 := base + sx (off ++ 0#4)

/-- The precise faults of dset in memory mode (12 R280, R282). -/
def dsetFault (a : W64) : Option Trp :=
  if a.toNat % 16 ≠ 0 then some (alignTrap 4 a)
  else if 0x1FFFF0 < a.toNat then some (xlateTrap 7 4 a)
  else none

/-- 12 R282, memory mode: S[sa] is read and checked at issue. -/
def execDsetMem (n : BitVec 4) (sa : SR) (off : BitVec 20) (s : State) : Out3 :=
  match dsetFault (dsetAddr (s.srcS sa) off) with
  | some t => .next (s.preciseTrap t)
  | none => .next (s.queueOp (.dsetMem n sa off))

/-- The precise faults of mucode (12 R298). -/
def mucodeFault (a : W64) (count1 : BitVec 6) : Option Trp :=
  if a.toNat % 8 ≠ 0 then some (alignTrap 3 a)
  else if 0x200000 < a.toNat + 8 * (count1.toNat + 1) then some (xlateTrap 7 4 a)
  else none

/-- 12 R298: S[sa] is read and checked at issue. -/
def execMucode (sa : SR) (count1 n : BitVec 6) (s : State) : Out3 :=
  match mucodeFault (s.srcS sa) count1 with
  | some t => .next (s.preciseTrap t)
  | none => .next (s.queueOp (.mucode sa count1 n))

/-- MHAZ of an mcall (11 R262, 12 R284). -/
def State.mhazFault (s : State) (c : Nat) : Option Trp :=
  let k := s.core c
  let near := match k.lastMcall with
    | some b => k.seq + 1 < b + 4
    | none => false
  let live := (k.mq.filter fun e => match e.instr with
    | .mcall _ => true
    | _ => false).length + b2n k.call.isSome
  if near || 4 ≤ live then some ⟨.mhaz, b2n near + 2 * b2n (4 ≤ live), 0⟩ else none

/-! ## Effects on leaving the queue -/

/-- The value of mpset (12 R281). -/
def mpsetValue (e : QEntry) (imm : BitVec 25) : W64 := e.val 0 + sx imm

/-- Bytes of the own scratchpad, read on MX. -/
def State.ownRead (s : State) (c off n : Nat) : Except Trp (List Byte) :=
  match poisoned s.errs (spBase c + off) n with
  | some e => .error (uncorrTrap e)
  | none => .ok (s.readAs (.engine c .mx) (spBase c + off) n)

/-- The bits of a descriptor that a field code of dset writes: the lowest and their number (12 R282). -/
def dsetBits : Nat → Nat × Nat
  | 0 => (0, 21)
  | 1 => (21, 3)
  | 2 => (24, 9)
  | 3 => (33, 12)
  | 4 => (45, 12)
  | 5 => (57, 20)
  | _ => (77, 4)

/-- Write the destination of a queued op. -/
def Core.giveS (k : Core) (sd : SR) (x : W64) : Core := k.setS sd.toNat x

/-- dset in memory mode (12 R282). -/
def State.dsetAct (s : State) (c n : Nat) (a : W64) : Except Trp State := do
  let bs ← s.ownRead c a.toNat 16
  let v := BitVec.ofNat 128 (leNat bs)
  if fld v 82 46 ≠ 0 then .error ⟨.illegalOp, 0, 0⟩
  else return s.modCore c fun k => { k with d := Tab.put 0 k.d n v }

/-- Clear rows b to b + m − 1 (12 R287). -/
def Core.clearRows (k : Core) (b m : Nat) (kind : Bool) : Core :=
  (List.range m).foldl (fun k i => k.setRow (b + i) ((k.accRow (b + i)).clear kind)) k

/-- mzero (12 R287). -/
def Core.mzeroAct (k : Core) (e : QEntry) (anc kind : Bool) (m b : Nat) : Core :=
  let k := k.clearRows b m kind
  if anc then (List.range m).foldl (fun k i => k.setRow (b + i)
    { k.accRow (b + i) with anchor := .ofNat 11 (fld (e.val 0) 0 11), anchored := true }) k
  else k

/-- mucode loads a routine: every position past count is 0 (12 R298). -/
def State.mucodeAct (s : State) (c n count : Nat) (a : W64) : Except Trp State := do
  let bs ← s.ownRead c a.toNat (8 * count)
  let ws := (List.range 64).map fun i => BitVec.ofNat 64 (leNat ((bs.drop (8 * i)).take 8))
  return s.modCore c fun k => { k with ucode := Tab.put [] k.ucode n ws }

/-! ## msca (12 R288) -/

/-- The start faults of msca on its pair of registers. -/
def mscaFault (k : Core) (p q : W64) (n : Nat) : Option Trp :=
  let s := fld p 0 8
  let b := fld p 8 8
  let m := fld p 16 8 + 1
  let j := fld p 24 8 + 1
  let xs := fld q 0 21
  let ws := fld q 32 21
  if fld p 32 32 ≠ 0 ∨ fld q 21 11 ≠ 0 ∨ fld q 53 11 ≠ 0 ∨ 256 < s + m * j ∨ 256 < b + m
      ∨ (List.range (m * j)).any (fun i => (k.accRow (s + i)).kind)
      ∨ (List.range m).any (fun i => !(k.accRow (b + i)).kind) then some ⟨.illegalOp, 0, 0⟩
  else if 0x200000 < xs + m * j then some (xlateTrap 7 4 (.ofNat 64 xs))
  else if 0x200000 < ws + j * n then some (xlateTrap 7 4 (.ofNat 64 ws))
  else none

/-- A partial with its two scales (12 R288). -/
def scalePart (v x w : Num) : Num := (v.mul x).mul w

/-- One destination row of msca.  Its elements are the source values: a row whose elements are all zero or special stays
unanchored, whatever the scales are (03 R72).  Neither ea nor eb counts a scale of 0xFF (log 46, DEDUCED). -/
def Core.mscaRow (k : Core) (e : QEntry) (n : Nat) (explicit : Option Nat) (xs ws : List Num) (m : Nat) :
    Core × Bool :=
  let p := e.val 0
  let rows := fld p 16 8 + 1
  let blocks := fld p 24 8 + 1
  let src := fun j i => (k.accRow (fld p 0 8 + j * rows + m)).value i
  let x := fun j => xs.getD (m * blocks + j) .nan
  let w := fun j i => ws.getD (j * n + i) .nan
  let cols := (List.range n).map fun i => (List.range blocks).map fun j => scalePart (src j i) (x j) (w j i)
  let ea := topExp ((List.range blocks).flatMap fun j => (List.range n).map fun i => (src j i).mul (x j))
  let eb := if ea.isSome then topExp ws else none
  let (r, sat) := (k.accRow (fld p 8 8 + m)).addColumns explicit ea eb cols
  (k.setRow (fld p 8 8 + m) r, sat)

/-- msca as it leaves its queue. -/
def State.mscaAct (s : State) (c : Nat) (e : QEntry) (n : Nat) (explicit : Option Nat) : Except Trp State := do
  let p := e.val 0
  let q := e.val 1
  match mscaFault (s.core c) p q n with
  | some t => .error t
  | none =>
    let m := fld p 16 8 + 1
    let j := fld p 24 8 + 1
    let xb ← s.ownRead c (fld q 0 21) (m * j)
    let wb ← s.ownRead c (fld q 32 21) (j * n)
    let xs := xb.map fun b => e8m0 b.toNat
    let ws := wb.map fun b => e8m0 b.toNat
    let (k, sat) := (List.range m).foldl (fun (t : Core × Bool) i =>
      let (k, y) := t.1.mscaRow e n explicit xs ws i
      (k, t.2 || y)) (s.core c, false)
    return (s.setCore c k).setSat c sat

/-! ## Tiles (11 R257) -/

def dBase (d : BitVec 128) : Nat := fld d 0 21
def dCore (d : BitVec 128) : Nat := fld d 21 3
def dMc (d : BitVec 128) : Bool := d.getLsbD 24
def dRows (d : BitVec 128) : Nat := fld d 33 12 + 1
def dCols (d : BitVec 128) : Nat := fld d 45 12 + 1
def dStride (d : BitVec 128) : Nat := fld d 57 20
def dFmt (d : BitVec 128) : Nat := fld d 77 4

/-- The width in bits of a format code; 0 for a code that names none. -/
def fmtBits (f : Nat) : Nat := ((fmtOf f).map Fmt.width).getD 0

/-- The byte length of a row of a tile. -/
def rowBytes (d : BitVec 128) : Nat := (dCols d * fmtBits (dFmt d) + 7) / 8

/-- The core whose scratchpad holds a tile, and the virtual address of an offset in it. -/
def tileCore (c : Nat) (d : BitVec 128) : Nat := clusterCore c (dCore d)
def tileVa (c : Nat) (d : BitVec 128) (off : Nat) : W64 :=
  if tileCore c d = c then .ofNat 64 off else windowVa (dCore d) off

/-- The physical address of row j. -/
def tilePa (c : Nat) (d : BitVec 128) (j : Nat) : Nat := spBase (tileCore c d) + dBase d + j * dStride d

/-- The tile's last row ends beyond the scratchpad when rows have n bytes (11 R257). -/
def tileOver (d : BitVec 128) (n : Nat) : Bool := 0x200000 < dBase d + (dRows d - 1) * dStride d + n

/-- The format and range checks of a descriptor (11 R257). -/
def tileFault (c : Nat) (d : BitVec 128) : Option Trp :=
  if 10 ≤ dFmt d ∨ (dFmt d = 5 ∧ dCols d % 2 = 1) ∨ fld d 82 46 ≠ 0 then some ⟨.illegalOp, 0, 0⟩
  else if tileOver d (rowBytes d) then some (xlateTrap 7 4 (tileVa c d (dBase d)))
  else none

/-- BASE or STRIDE is not a multiple of 64. -/
def tileAlign (c : Nat) (d : BitVec 128) : Option Trp :=
  if dBase d % 64 ≠ 0 ∨ dStride d % 64 ≠ 0 then some (alignTrap 6 (tileVa c d (dBase d))) else none

/-- CORE names a core that runs no node of the context. -/
def State.tileProt (s : State) (c : Nat) (d : BitVec 128) (acc : Acc) : Option Trp :=
  if s.runsCtx (tileCore c d) (s.core c).ctx then none
  else some ⟨.prot, acc.info, tileVa c d (dBase d)⟩

/-- The codes of elements first to first + n − 1 of a row at pa, as core c reads them on MX (03 R56). -/
def State.tileElems (s : State) (c pa fmt first n : Nat) : Except Trp (List Nat) :=
  let w := fmtBits fmt
  let lo := first * w / 8
  let len := ((first + n) * w + 7) / 8 - lo
  match poisoned s.errs (pa + lo) len with
  | some e => .error (uncorrTrap e)
  | none =>
    let x := s.natAs (.engine c .mx) (pa + lo) len
    .ok ((List.range n).map fun i => bitsAt x (w * (first + i) - 8 * lo) w)

/-- The value of an element code. -/
def elemValue (fmt x : Nat) : Num :=
  match fmtOf fmt with
  | some f => f.decode x
  | none => .nan

/-! ## The start of a call (12 R285, R286, R293) -/

/-- The programs of the built-in routines (12 R297). -/
def builtin : Nat → List W64
  | 0 => [0x9000000000000000, 0x3600000000000000, 0x1000000000000000, 0x2000000000000000,
          0xA000000000000002, 0xC000000000000000]
  | 1 => [0x9000000000000000, 0x7000000000000000, 0x3600000000000000, 0x4000000000000000,
          0xB000000000000008, 0x1000000000000001, 0x2000000000000000, 0xA000000000000003,
          0x5400000000000000, 0x6000000000000000, 0xC000000000000000]
  | 2 => [0x9000000000000001, 0x3600000000000000, 0x8000000000000000, 0x1000000000000000,
          0x2000000000000000, 0xA000000000000003, 0xC000000000000000]
  | 3 => [0x9000000000000000, 0x3600000000000000, 0x1000000000000000, 0x2000000000000000,
          0xA000000000000002, 0xC000000000000000]
  | _ => []

/-- The program of a routine; none when it holds no code (11 R259). -/
def Core.program (k : Core) (r : Nat) : List W64 := if r < 32 then builtin r else Tab.get [] k.ucode r

/-- A program is graded: it holds a grade, tail, bound or xmax micro-op (12 R285). -/
def gradedProgram (p : List W64) : Bool := p.any fun u => 4 ≤ fld u 60 4 && fld u 60 4 ≤ 7

/-- The routine reads its parameters as MM.G does. -/
def Core.gradedRoutine (k : Core) (r : Nat) : Bool := r == 1 || (32 ≤ r && gradedProgram (k.program r))

/-- A bit that R285 marks zero is set. -/
def zeroMarked (ma : List W64) (graded writable : Bool) : Bool :=
  let a := fun i => ma.getD i 0
  let tr := if writable then 5 else 4
  let common := fld (a 1) tr (64 - tr) != 0 || fld (a 3) 28 36 != 0 || fld (a 5) 17 47 != 0
  if graded then
    let resume := !(a 5).getLsbD 16
    common || fld (a 0) 5 27 != 0 || (!(a 0).getLsbD 4 && fld (a 0) 32 32 != 0) || fld (a 2) 21 43 != 0
      || fld (a 4) 48 16 != 0 || fld (a 7) 2 62 != 0
      || (!resume && (fld (a 6) 3 29 != 0 || (!(a 6).getLsbD 0 && fld (a 6) 32 32 != 0)))
  else common || fld (a 0) 4 60 != 0 || fld (a 5) 0 16 != 0

/-- GradeCost (11 R264): the costs of the dearer format, W on a tie, scaled. -/
def State.gradeCost (s : State) (c m n xf wf : Nat) : Nat :=
  let mac := fun f => (s.csr c (0x40 + 2 * f)).toNat
  let f := if mac wf < mac xf then xf else wf
  ((m * n * mac f + n * (s.csr c (0x41 + 2 * f)).toNat) * s.power.scale.toNat + 255) / 256

/-- The call state that the parameters give, as they stood when the call left its queue (12 R279, R293). -/
def State.callState (s : State) (c : Nat) (e : QEntry) (r : Nat) : Call :=
  let k := s.core c
  let ma := e.params k
  let a := fun i => ma.getD i 0
  let x := e.descOf k (fld (a 0) 0 4)
  let w := e.descOf k (fld (a 1) 0 4)
  let tr := r == 3 || (32 ≤ r && (a 1).getLsbD 4)
  let kk := if tr then dCols w else dRows w
  let n := if tr then dRows w else dCols w
  let m := fld (a 3) 8 8 + 1
  { entry := e, routine := r, ma := ma, x := x, w := w, tr := tr, k := kk, n := n, b := fld (a 3) 0 8, m := m
    g := fld (a 5) 0 16, fresh := (a 5).getLsbD 16, e := fld (a 4) 0 48
    gc := s.gradeCost c m n (dFmt x) (dFmt w), ng := 0, z := false, pl := false, tgt := fld (a 3) 0 8, pos := 0
    first := 0, latch := [], pass := 0, throttled := 0x100 < s.power.scale.toNat, graded := false
    xmax := 0, nan := false, t0 := 0, tg := 0, anchor := none }

/-- The products of the call are WW128 (03 R68 to R70). -/
def Call.kind (x : Call) : Bool := kindOf (dFmt x.x) (dFmt x.w)

/-- Rows of X in a pass (11 R254). -/
def Call.block (x : Call) : Nat := if dFmt x.x = 0 ∨ dFmt x.w = 0 then 64 else 128

/-- The accumulator rows that a call names (11 R260). -/
def Call.rows (x : Call) : Nat := if x.routine = 2 then x.m * (x.k / 32) else x.m

/-- M, K or N breaks R255 or R260, or a row that is not zeroed has another KIND (12 R286).  A writable routine has the limit of
MM.G when it is graded, and names M rows (log 136, DEDUCED). -/
def Core.shapeBad (k : Core) (x : Call) (graded : Bool) : Bool :=
  (graded && x.block < x.m) || 256 < x.b + x.rows || 128 < x.n || dRows x.x < x.m || dCols x.x != x.k
    || (x.routine == 2 && x.k % 32 != 0)
    || (!x.fresh && (List.range x.rows).any fun i => (k.accRow (x.b + i)).kind != x.kind)

/-- The start cursor of a graded call is wrong (11 R270, R272). -/
def Core.cursorBad (k : Core) (x : Call) : Bool :=
  let r := k.cover (fld (x.ma.getD 7 0) 0 2)
  x.k < x.g || (x.fresh && x.g != 0) || (!x.fresh && (x.g != cvCursor r || x.k != cvK r))

/-- The checks of the tail table (11 R263). -/
def tailFault (off k : Nat) : Option Trp :=
  if off % 4 ≠ 0 then some (alignTrap 2 (.ofNat 64 off))
  else if 0x1FFFFF < off + 4 * k + 3 then some (xlateTrap 7 4 (.ofNat 64 off))
  else none

/-- The start checks of a call, the first failure in the order of 12 R286; of X and W in one row of it, X first (log 135, DESIGN
CHOICE). -/
def State.callFault (s : State) (c : Nat) (x : Call) : Option Trp :=
  let k := s.core c
  let illegal : Trp := ⟨.illegalOp, 0, 0⟩
  let graded := k.gradedRoutine x.routine
  if (k.program x.routine).isEmpty then some illegal
  else if zeroMarked x.ma graded (32 ≤ x.routine) then some illegal
  else ((tileFault c x.x).orElse fun _ => tileFault c x.w).orElse fun _ =>
    ((tileAlign c x.x).orElse fun _ => tileAlign c x.w).orElse fun _ =>
    ((s.tileProt c x.x .read).orElse fun _ => s.tileProt c x.w .read).orElse fun _ =>
    if k.shapeBad x graded then some illegal
    else if !graded then none
    else if k.cursorBad x then some illegal
    else tailFault (fld (x.ma.getD 2 0) 0 21) x.k

/-- An mcall leaves its queue: its start checks, then its call state (12 R284, R293). -/
def State.callStart (s : State) (c : Nat) (e : QEntry) (r : Nat) : Except Trp State :=
  let x := s.callState c e r
  match s.callFault c x with
  | some t => .error t
  | none => .ok (s.modCore c fun k => { k with call := some x })

/-- The effect of an M op as it leaves its queue (12 R277 to R298). -/
def State.matrixAct (s : State) (c : Nat) (e : QEntry) : Except Trp State :=
  match e.instr with
  | .mcall r => s.callStart c e r.toNat
  | .mpset n _ imm => .ok (s.modCore c fun k => { k with mp := Tab.put 0 k.mp n.toNat (mpsetValue e imm) })
  | .mpget n sd => .ok (s.modCore c fun k => k.giveS sd (k.param n.toNat))
  | .dsetMem n _ off => (s.untag c n.toNat).dsetAct c n.toNat (dsetAddr (e.val 0) off)
  | .dsetField n _ field =>
    let f := dsetBits field.toNat
    .ok (s.modCore c fun k =>
      { k with d := Tab.put 0 k.d n.toNat (setFld (k.desc n.toNat) f.1 f.2 (e.val 0).toNat) })
  | .dget n sd h => .ok (s.modCore c fun k =>
      k.giveS sd (.ofNat 64 (fld (k.desc n.toNat) (if h then 64 else 0) 64)))
  | .dtag n v => .ok ((s.untag c n.toNat).modCore c (·.setTag n.toNat v))
  | .mzero _ anc kind m1 b => .ok (s.modCore c (·.mzeroAct e anc kind (m1.toNat + 1) b.toNat))
  | .msca _ n1 anc anchor => s.mscaAct c e (n1.toNat + 1) (if anc then some anchor.toNat else none)
  | .cvRd a sd q => .ok (s.modCore c fun k =>
      k.giveS sd (.ofNat 64 (fld (k.cover a.toNat) (64 * q.toNat) 64)))
  | .cvWr d _ q => .ok (s.modCore c fun k =>
      k.setCv d.toNat (cvMask (setFld (k.cover d.toNat) (64 * q.toNat) 64 (e.val 0).toNat)))
  | .cvAdd d a b => .ok (s.modCore c fun k => k.setCv d.toNat (cvAdd (k.cover a.toNat) (k.cover b.toNat)))
  | .cvScl d a _ => .ok (s.modCore c fun k =>
      k.setCv d.toNat (cvScale (k.cover a.toNat) (.ofNat 32 (fld (e.val 0) 0 32))))
  | .mucode _ count1 n => s.mucodeAct c n.toNat (count1.toNat + 1) (e.val 0)
  | .mucodeClr n => .ok (s.modCore c fun k => { k with ucode := Tab.put [] k.ucode n.toNat [] })
  | _ => .ok s

end Sys2Proof.Machine
end

