-- ==== Sys2Proof/Machine/Micro.lean ====
section
/-! DEFINITION. The micro-ops of the matrix engine (11 R253, R254, R264 to R273, 12 R294 to R297).  Each
acts on the call that runs on the core that the step has chosen, and moves its position. -/

namespace Sys2Proof.Machine

open Sys2Proof

/-- The call waits: its engine is stopped, or has been asked to stop at this point (12 R296). -/
def Core.callWaits (k : Core) (x : Call) (stopHere : Bool) : Bool :=
  k.stopped 0 0 || (k.run != .running && k.run != .halted) || (stopHere && k.stopAsked && !x.graded)

/-- One micro-op of the call that runs: a fault stops the engine at it (12 R286, R294). -/
def State.micro (s : State) (stopHere : Call → Bool) (f : Call → Except Trp (Option Call × State)) : Out3 :=
  let c := s.cur
  let k := s.core c
  match k.call with
  | none => .next s
  | some x =>
    if k.callWaits x (stopHere x) then .next s
    else match f x with
      | .error t => .next (s.engineFault c 0 0 t)
      | .ok (y, t) => .next (t.modCore c fun j => k.carry { j with call := y } x.entry.seq)

/-- It goes on at the next position. -/
def Call.step (x : Call) : Option Call := some { x with pos := x.pos + 1 }

/-- A cause that a micro-op raises. -/
def microIllegal : Trp := ⟨.illegalOp, 0, 0⟩

/-! ## ldw and strm -/

/-- Grade k of W, or of its transpose: the codes of its N columns (12 R295). -/
def State.gradeElems (s : State) (c : Nat) (x : Call) (k : Nat) : Except Trp (List Nat) :=
  if x.tr then
    (List.range x.n).mapM fun j => do
      let e ← s.tileElems c (tilePa c x.w j) (dFmt x.w) k 1
      return e.headD 0
  else s.tileElems c (tilePa c x.w k) (dFmt x.w) 0 x.n

/-- 12 R295: latch the next grades. -/
def execLdw (gr : Bool) (s : State) : Out3 :=
  s.micro (fun _ => false) fun x => do
    let left := Nat.min 128 (x.k - x.g)
    let n := if gr then Nat.min x.ng left else left
    let tile ← (List.range n).mapM fun i => s.gradeElems s.cur x (x.g + i)
    return ({ x with first := x.g, latch := tile, g := x.g + n, ng := n }.step, s)

/-- The plane of a latched grade, and the accumulator row of X row m in a plane. -/
def Call.plane (x : Call) (i : Nat) : Nat := if x.pl then (x.first + i) / 32 else 0
def Call.target (x : Call) (plane m : Nat) : Nat := x.tgt + plane * x.m + m

/-- The planes that the latched grades reach. -/
def Call.planes (x : Call) : List Nat := ((List.range x.latch.length).map x.plane).eraseDups

/-- A row that strm would add into lies above 255 or has another KIND (12 R295). -/
def Core.strmBad (k : Core) (x : Call) : Bool :=
  x.planes.any fun p => (List.range x.m).any fun m =>
    255 < x.target p m || (k.accRow (x.target p m)).kind != x.kind

/-- The latched elements of column j in a plane, with those of an X row at the same grades. -/
def Call.column (x : Call) (w : List (List Num)) (xs : List Num) (p j : Nat) : List Num :=
  (w.zip xs).zipIdx.filterMap fun q =>
    if x.plane q.2 = p then some (q.1.2.mul (q.1.1.getD j .nan)) else none

/-- X row m against the latched grades: one operation on each plane's row (03 R72, 12 R295). -/
def Core.strmRow (k : Core) (x : Call) (w : List (List Num)) (eb : Option Int) (xs : List Num) (m : Nat) :
    Core × Bool :=
  x.planes.foldl (fun (q : Core × Bool) p =>
    let cols := (List.range x.n).map (x.column w xs p)
    let (r, sat) := (q.1.accRow (x.target p m)).addColumns x.anchor (topExp xs) eb cols
    (q.1.setRow (x.target p m) r, q.2 || sat)) (k, false)

/-- The rows of X that the pass in hand runs. -/
def Call.passRows (x : Call) : List Nat :=
  (List.range (Nat.min x.block (x.m - x.pass))).map (x.pass + ·)

/-- One pass of strm (11 R254): all its operands are read before any product is added. -/
def State.strmPass (s : State) (c : Nat) (x : Call) : Except Trp (Option Call × State) := do
  if x.latch.isEmpty then return ({ x with pass := 0 }.step, s)
  else if x.pass = 0 && (s.core c).strmBad x then .error microIllegal
  else
    let rows := x.passRows
    let elems ← rows.mapM fun m => s.tileElems c (tilePa c x.x m) (dFmt x.x) x.first x.latch.length
    let w := x.latch.map fun g => g.map (elemValue (dFmt x.w))
    let eb := topExp w.flatten
    let (k, sat) := (rows.zip elems).foldl (fun (q : Core × Bool) r =>
      let (k, y) := q.1.strmRow x w eb (r.2.map (elemValue (dFmt x.x))) r.1
      (k, q.2 || y)) (s.core c, false)
    let t := (s.setCore c k).setSat c sat
    let done := x.pass + rows.length
    return (if x.m ≤ done then { x with pass := 0 }.step else some { x with pass := done }, t)

/-- 12 R295: one pass; a call that is asked to stop waits between passes (R296). -/
def execStrm (s : State) : Out3 := s.micro (fun x => x.pass != 0) (s.strmPass s.cur)

/-! ## The other micro-ops -/

/-- 12 R295. -/
def execAcc (a : BitVec 3) (imm : BitVec 8) (s : State) : Out3 :=
  s.micro (fun _ => false) fun x =>
    .ok ({ x with tgt := fld (x.ma.getD a.toNat 0) 0 8 + imm.toNat, pl := false }.step, s)

/-- Charge the grades of the next tile (11 R264, 12 R295); a stop request ends the call as a spent budget
does (R296). -/
def Call.charge (x : Call) (stop : Bool) : Call :=
  let want := Nat.min 128 (x.k - x.g)
  let n := if stop then 0 else if x.gc = 0 then want else Nat.min want (x.e / x.gc)
  { x with ng := n, e := x.e - n * x.gc, z := n == 0, graded := true }

/-- 12 R295, R296. -/
def execGrade (s : State) : Out3 :=
  s.micro (fun _ => false) fun x => .ok ((x.charge (s.core s.cur).stopAsked).step, s)

/-- A 4-byte word of the own scratchpad on MX. -/
def State.ownWord (s : State) (c off : Nat) : Except Trp W32 :=
  (s.ownRead c off 4).map fun bs => .ofNat 32 (leNat bs)

/-- 12 R295, 11 R263. -/
def execTail (a : BitVec 3) (s : State) : Out3 :=
  s.micro (fun _ => false) fun x =>
    let off := fld (x.ma.getD a.toNat 0) 0 21
    match tailFault off x.k with
    | some t => .error t
    | none => do
      let t0 ← s.ownWord s.cur off
      let tg ← s.ownWord s.cur (off + 4 * x.g)
      return ({ x with t0 := t0, tg := tg }.step, s)

/-- The incoming record of a graded call: B_RES, B_FULL, NAN, THROTTLED and ROUNDED (11 R269, R272). -/
def Core.incoming (k : Core) (x : Call) : BitVec 256 :=
  let m := x.ma.getD 6 0
  if !x.fresh then k.cover (fld (x.ma.getD 7 0) 0 2)
  else if m.getLsbD 0 then setFld (setFld (0 : BitVec 256) 0 32 (fld m 32 32)) 32 32 (fld m 32 32)
  else k.cover (fld m 1 2)

/-- The record of a call that stops at grade g (11 R269).  BIN takes the bits of bx_res as they come (log 111, DEDUCED). -/
def boundRecord (x : Call) (inc : BitVec 256) : BitVec 256 :=
  let bx := if x.fresh then cvRes inc else cvBin inc
  let xmax := if x.fresh then x.xmax else cvXmax inc
  let nan := (x.fresh && x.nan) || cvNan inc
  let full := if x.fresh then bMul x.t0 (bAdd (cvFull inc) xmax) else cvFull inc
  let res := if nan then 0x7F800000 else bAdd (bMul x.t0 bx) (bMul x.tg xmax)
  cvPack res full xmax bx x.g x.k nan (x.throttled || cvThrottled inc) x.fresh (x.g == x.k) (cvRounded inc) x.e

/-- 12 R295. -/
def execBound (s : State) : Out3 :=
  s.micro (fun _ => false) fun x =>
    .ok (x.step, s.modCur fun k => k.setCv (fld (x.ma.getD 7 0) 0 2) (boundRecord x (k.incoming x)))

/-- The largest magnitude of the input, +∞ when an element is no finite number; with XSRC at least the
floor (11 R269, 12 R285). -/
def inputMax (ma0 : W64) (xs : List Num) : W32 :=
  let top := if xs.any fun v => v.isNan || v.isInf then (0x7F800000 : W32)
    else upBound (xs.foldl (fun a v => if a.lt v.abs then v.abs else a) (.fin false 0 0))
  if ma0.getLsbD 4 then bMax top (.ofNat 32 (fld ma0 32 32)) else top

/-- 12 R295: a resume keeps XMAX and NAN. -/
def execXmax (s : State) : Out3 :=
  s.micro (fun _ => false) fun x =>
    if !x.fresh then .ok (x.step, s)
    else do
      let rows ← (List.range x.m).mapM fun m => s.tileElems s.cur (tilePa s.cur x.x m) (dFmt x.x) 0 x.k
      let xs := rows.flatten.map (elemValue (dFmt x.x))
      return ({ x with xmax := inputMax (x.ma.getD 0 0) xs, nan := xs.any Num.isNan }.step, s)

/-- 12 R295. -/
def execBlk (s : State) : Out3 :=
  s.micro (fun _ => false) fun x =>
    if x.k % 32 ≠ 0 then .error microIllegal else .ok ({ x with pl := true }.step, s)

/-- 12 R295: rows above 255 do not exist. -/
def execSeta (planes : Bool) (s : State) : Out3 :=
  s.micro (fun _ => false) fun x =>
    let rows := x.m * (if planes then x.k / 32 else 1)
    let m3 := x.ma.getD 3 0
    let y := { x with anchor := if m3.getLsbD 16 then some (fld m3 17 11) else none }
    if 256 < x.b + rows then .error microIllegal
    else if x.fresh then .ok (y.step, s.modCur (·.clearRows x.b rows x.kind))
    else if (List.range rows).any fun i => (s.curCore.accRow (x.b + i)).kind != x.kind then .error microIllegal
    else .ok (y.step, s)

/-- 12 R295; a call that is asked to stop waits here (R296). -/
def execLoop (pos : BitVec 6) (s : State) : Out3 :=
  s.micro (fun _ => true) fun x => .ok (if x.g < x.k then some { x with pos := pos.toNat } else x.step, s)

/-- 12 R295. -/
def execBrz (pos : BitVec 6) (s : State) : Out3 :=
  s.micro (fun _ => false) fun x => .ok (if x.z then some { x with pos := pos.toNat } else x.step, s)

/-- 12 R295: the call completes. -/
def execUend (s : State) : Out3 := s.micro (fun _ => false) fun _ => .ok (none, s)

/-- The micro-op at the position of the call that runs on a core, when there is one (12 R294). -/
def Core.microOp (k : Core) : Option Instr :=
  match k.call with
  | some x => ((k.program x.routine)[x.pos]?).bind fun w => decodeMicro w.toNat
  | none => none

/-- The word at the position of the call is no micro-op: a run fault (12 R294). -/
def State.microBad (s : State) (c : Nat) : State :=
  let k := s.core c
  match k.call with
  | some x => if k.callWaits x false then s else s.engineFault c 0 0 microIllegal
  | none => s

end Sys2Proof.Machine
end

