-- ==== Sys2Proof/Machine/AccCopy.lean ====
section
/-! DEFINITION. The accumulator copies acpy.out and acpy.in (12 R290 to R292).  They leave their queue
with their descriptor and run one tile row at a time. -/

namespace Sys2Proof.Machine

open Sys2Proof

/-- The bytes of a raw row image (12 R291). -/
def rawBytes : Nat := 2112

/-- The precise checks of an accumulator copy on the registers that it reads at issue (12 R280, R290). -/
def acpyFault (raw : Nat) (sr : W64) (sn : Option W64) : Option Trp :=
  if 255 < sr.toNat then some ⟨.illegalOp, raw, 0⟩
  else match sn with
    | some a =>
      if a.toNat % 4 ≠ 0 then some (alignTrap 2 a)
      else if 0x1FFFFC < a.toNat then some (xlateTrap 7 4 a)
      else none
    | none => none

/-- The word of the slot op that is being issued, without its guard (05 R111). -/
def State.slotWord (s : State) : Nat :=
  ((s.iss.ops.find? fun o => o.slot == s.iss.slot).map (·.raw)).getD 0

/-- 12 R290: S[sr] and S[sn] are read and checked at issue. -/
def execAcpyOut (n : BitVec 4) (sr sn : SR) (upd : Bool) (cvc : BitVec 2) (flag : BitVec 4)
    (post raw wrap : Bool) (rm : BitVec 3) (s : State) : Out3 :=
  match acpyFault s.slotWord (s.srcS sr) (if rm = 4 then some (s.srcS sn) else none) with
  | some t => .next (s.preciseTrap t)
  | none => .next (s.queueOp (.acpyOut n sr sn upd cvc flag post raw wrap rm))

/-- 12 R290: S[sr] is read and checked at issue. -/
def execAcpyIn (n : BitVec 4) (sr : SR) (flag : BitVec 4) (accum post raw : Bool) (s : State) : Out3 :=
  match acpyFault s.slotWord (s.srcS sr) none with
  | some t => .next (s.preciseTrap t)
  | none => .next (s.queueOp (.acpyIn n sr flag accum post raw))

/-! ## The start -/

/-- The fields of a copy: its descriptor, whether it writes memory, RAW, and the noise array. -/
structure AcpyOp where
  n : Nat
  out : Bool
  raw : Bool
  accum : Bool
  noise : Option Nat
  deriving DecidableEq, Repr, Inhabited

/-- The fields of a queued op, when it is an accumulator copy. -/
def acpyOp (e : QEntry) : Option AcpyOp :=
  match e.instr with
  | .acpyOut n _ _ _ _ _ _ raw _ rm =>
    some { n := n.toNat, out := true, raw := raw, accum := false
           noise := if rm = 4 then some (e.val 1).toNat else none }
  | .acpyIn n _ _ accum _ raw =>
    some { n := n.toNat, out := false, raw := raw, accum := accum, noise := none }
  | _ => none

/-- The element kind of a format (03 R69, R70). -/
def elemKind (fmt : Nat) : Bool := fmt ≤ 1

/-- The first accumulator row of a copy. -/
def acpyBase (e : QEntry) : Nat := fld (e.val 0) 0 8

/-- The start faults that need no image (12 R290, 11 R257).  KIND of a row is checked against the element kind of the
format for both ops: an AQ128 row is not written as a float tile (log 106, DEDUCED). -/
def State.acpyStartFault (s : State) (c : Nat) (e : QEntry) (o : AcpyOp) (d : BitVec 128) : Option Trp :=
  let k := s.core c
  let rows := dRows d
  let bad := 256 < acpyBase e + rows || 128 < dCols d || 10 ≤ dFmt d || dMc d
    || (dFmt d == 5 && (!o.raw || dCols d % 2 == 1))
    || (!o.raw && (List.range rows).any fun r => (k.accRow (acpyBase e + r)).kind != elemKind (dFmt d))
  if bad || (!o.out && o.raw && dStride d < rawBytes) then some microIllegal
  else (tileAlign c d).orElse fun _ => (s.tileProt c d (if o.out then .write else .read)).orElse fun _ =>
    if tileOver d (if o.raw then rawBytes else rowBytes d) then some (xlateTrap 7 4 (tileVa c d (dBase d)))
    else match o.noise with
      | some a => if 0x200000 < a + 4 * rows * dCols d then some (xlateTrap 7 4 (.ofNat 64 a)) else none
      | none => none

/-- The words, the tags and the header of a raw image (12 R291). -/
def imageWord (img : List Byte) (i : Nat) : BitVec 128 := .ofNat 128 (leNat ((img.drop (16 * i)).take 16))
def imageTag (img : List Byte) (i : Nat) : BitVec 2 :=
  .ofNat 2 (bitsAt (leNat ((img.drop 2048).take 32)) (2 * i) 2)
def imageHeader (img : List Byte) : Nat := leNat ((img.drop 2080).take 8)

/-- A raw image is refused: its header, or, for an addition, its kind or anchor (12 R291, R292). -/
def imageBad (r : AccRow) (img : List Byte) (n : Nat) (accum : Bool) : Bool :=
  let h := imageHeader img
  let kind := bitsAt h 0 1 == 1
  let anchored := bitsAt h 12 1 == 1
  h / 2 ^ 13 != 0 || (kind && !anchored && (List.range n).any fun i => imageWord img i != 0)
    || (accum && (r.kind != kind || (kind && r.anchored && anchored && r.anchor.toNat != bitsAt h 1 11)))

/-- Bytes of a tile row, read by core c on MX. -/
def State.tileBytes (s : State) (c pa n : Nat) : Except Trp (List Byte) :=
  match poisoned s.errs pa n with
  | some e => .error (uncorrTrap e)
  | none => .ok (s.readAs (.engine c .mx) pa n)

/-- A raw row image, of which the data and tags of words 0 to n − 1 and the header are read (12 R291). -/
def State.rawImage (s : State) (c pa n : Nat) : Except Trp (List Byte) :=
  match s.poisonedRuns [(pa, 16 * n), (pa + 2048, (n + 3) / 4), (pa + 2080, 8)] with
  | some e => .error (uncorrTrap e)
  | none => .ok (s.readAs (.engine c .mx) pa rawBytes)

/-- The raw images that acpy.in reads at its start. -/
def State.acpyImages (s : State) (c : Nat) (e : QEntry) (o : AcpyOp) (d : BitVec 128) :
    Except Trp (List (List Byte)) :=
  if o.out || !o.raw then .ok []
  else do
    let imgs ← (List.range (dRows d)).mapM fun r => s.rawImage c (tilePa c d r) (dCols d)
    if imgs.zipIdx.any fun q => imageBad ((s.core c).accRow (acpyBase e + q.2)) q.1 (dCols d) o.accum then
      .error microIllegal
    else return imgs

/-- An accumulator copy leaves its queue: its start checks, then it runs. -/
def State.acpyStart (s : State) (c : Nat) (e : QEntry) (o : AcpyOp) : Except Trp State :=
  let d := e.descOf (s.core c) o.n
  match s.acpyStartFault c e o d with
  | some t => .error t
  | none => do
    let imgs ← s.acpyImages c e o d
    let r : AcpyRun := { entry := e, d := d, images := imgs, row := 0, rho := none, rhoInf := false }
    return s.modCore c fun k => { k with acpy := some r }

/-! ## Rows -/

/-- A rounded output element: its code, whether SetSat is called, and whether Rho is +∞ (12 R290). -/
def roundOut (f : Fmt) (rm : Nat) (wrap : Bool) (v : Num) (z : Nat) : Nat × Bool × Bool :=
  let plain :=
    let (y, sat) := f.round rm v z
    (y, sat, sat || v.isNan || v.isInf || (f.decode y).isInf)
  match f, v with
  | .int w sgn, .fin neg m e =>
    if wrap then
      let i := roundInt rm neg m e z
      (wrapInt w i, false, decide (i < intMin w sgn ∨ intMax w sgn < i))
    else plain
  | _, _ => plain

/-- Rho of one element as 2^e (12 R290). -/
def rhoExp (f : Fmt) (rm : Nat) (v : Num) : Int := f.stepExp v - (if rm = 0 then 1 else 0)

/-- The noise of an element: the low 16 bits of its word (12 R290). -/
def State.acpyNoise (s : State) (c : Nat) (o : AcpyOp) (i : Nat) : Except Trp Nat :=
  match o.noise with
  | some a => (s.ownWord c (a + 4 * i)).map fun w => w.toNat % 65536
  | none => .ok 0

/-- The larger of two terms 2^e; none is +0. -/
def maxExp (a : Option Int) (b : Int) : Option Int :=
  match a with
  | some x => some (max x b)
  | none => some b

/-- The accumulator copy of core c as a writer. -/
def AcpyRun.writer (r : AcpyRun) (c : Nat) : Writer := { core := c, unit := 0, op := r.entry.opNo }

/-- A write of acpy.out into its tile row: an armed slot and a marked word refuse it (14 R322). -/
def State.acpyWrite (s : State) (w : Writer) (pa : Nat) (va : W64) (parts : List (Nat × List Byte)) : Except Trp State :=
  if parts.any fun p => s.overlapsArmed (pa + p.1) p.2.length then .error (barTrap 4 va)
  else if parts.any fun p => s.overlapsMark (pa + p.1) p.2.length then .error (seqStateTrap 6 va)
  else .ok (parts.foldl (fun t p => t.writeBy w (pa + p.1) p.2) s)

/-- A row of acpy.out in element mode. -/
def State.acpyOutRow (s : State) (c : Nat) (r : AcpyRun) (o : AcpyOp) (rm : Nat) (wrap : Bool) (pa : Nat)
    (va : W64) : Except Trp (AcpyRun × State) := do
  match fmtOf (dFmt r.d) with
  | none => return (r, s)
  | some f =>
    let n := dCols r.d
    let row := (s.core c).accRow (acpyBase r.entry + r.row)
    let zs ← (List.range n).mapM fun i => s.acpyNoise c o (r.row * n + i)
    let es := zs.zipIdx.map fun q => (row.value q.2, roundOut f rm wrap (row.value q.2) q.1)
    let t ← s.acpyWrite (r.writer c) pa va [(0, es.flatMap fun e => leBytes (f.width / 8) e.2.1)]
    let fin := es.filter fun e => !e.2.2.2
    return ({ r with
      rho := fin.foldl (fun a e => maxExp a (rhoExp f rm e.1)) r.rho
      rhoInf := r.rhoInf || es.any fun e => e.2.2.2 }, t.setSat c (es.any fun e => e.2.2.1))

/-- A row of acpy.out in raw mode (12 R291). -/
def State.acpyRawRow (s : State) (c : Nat) (r : AcpyRun) (pa : Nat) (va : W64) : Except Trp State :=
  let n := dCols r.d
  let row := (s.core c).accRow (acpyBase r.entry + r.row)
  let data := (List.range n).flatMap fun i => leBytes 16 (row.word i).2.toNat
  let tags := (List.range n).foldl (fun t i => t + 4 ^ i * (row.word i).1.toNat) 0
  s.acpyWrite (r.writer c) pa va [(0, data), (2048, leBytes 32 tags ++ leBytes 8 row.header ++ List.replicate 24 0)]

/-- A row of acpy.in in element mode: each element is one product with 1 (12 R290). -/
def State.acpyInRow (s : State) (c : Nat) (r : AcpyRun) (pa : Nat) : Except Trp State := do
  let n := dCols r.d
  let xs ← s.tileElems c pa (dFmt r.d) 0 n
  let vs := xs.map (elemValue (dFmt r.d))
  let i := acpyBase r.entry + r.row
  let (row, sat) := ((s.core c).accRow i).addColumns none (topExp vs) (some 0) (vs.map fun v => [v])
  return (s.modCore c (·.setRow i row)).setSat c sat

/-- One word of a raw image enters a word of a row (12 R291, R292). -/
def rawWord (kind : Bool) (w : AccWord) (img : BitVec 128) (tag : BitVec 2) (accum : Bool) : AccWord × Bool :=
  if !accum then ((tag, img), false)
  else if !kind then addAq (w.1, w.2) img.toInt tag
  else
    let y : AccWord := (tag, img)
    wwWord (tagJoin w.1 tag) (wwA w + wwA y) (wwS w || wwS y)

/-- A row of acpy.in in raw mode: words 0 to n − 1 of the image (12 R291, R292). -/
def AccRow.takeImage (row : AccRow) (img : List Byte) (n : Nat) (accum : Bool) : AccRow × Bool :=
  let h := imageHeader img
  let row := if !accum || (row.kind && !row.anchored && bitsAt h 12 1 == 1) then row.withHeader h else row
  (List.range n).foldl (fun (q : AccRow × Bool) i =>
    let (w, sat) := rawWord q.1.kind (q.1.word i) (imageWord img i) (imageTag img i) accum
    (q.1.setWord i w, q.2 || sat)) (row, false)

/-- The next tile row of the copy that runs. -/
def State.acpyRow (s : State) (c : Nat) (r : AcpyRun) : Except Trp (AcpyRun × State) := do
  let pa := tilePa c r.d r.row
  let va := tileVa c r.d (dBase r.d + r.row * dStride r.d)
  let i := acpyBase r.entry + r.row
  let (r, t) ← match acpyOp r.entry, r.entry.instr with
    | some o, .acpyOut _ _ _ _ _ _ _ raw wrap rm =>
      if raw then (s.acpyRawRow c r pa va).map fun t => (r, t)
      else s.acpyOutRow c r o rm.toNat wrap pa va
    | some o, _ =>
      if o.raw then
        let (row, sat) := ((s.core c).accRow i).takeImage (r.images.getD r.row []) (dCols r.d) o.accum
        .ok (r, (s.modCore c (·.setRow i row)).setSat c sat)
      else (s.acpyInRow c r pa).map fun t => (r, t)
    | none, _ => .ok (r, s)
  return ({ r with row := r.row + 1 }, t)

/-- The rounding term of a copy as a value. -/
def AcpyRun.term (r : AcpyRun) : Num :=
  if r.rhoInf then .inf false else match r.rho with
    | some e => .fin false 1 e
    | none => .fin false 0 0

/-- The copy posts a flag at its completion, a release point of its bytes (12 R290). -/
def AcpyRun.posts (r : AcpyRun) : Bool :=
  match r.entry.instr with
  | .acpyOut _ _ _ _ _ _ post _ _ _ => post
  | _ => false

/-- A copy completes: UPD, then its post (12 R290). -/
def Core.acpyDone (k : Core) (r : AcpyRun) : Core :=
  let k := { k with acpy := none }
  match r.entry.instr with
  | .acpyOut _ _ _ upd cvc flag post _ _ _ =>
    let k := if upd then k.setCv cvc.toNat (cvRound (k.cover cvc.toNat) r.term) else k
    if post then k.post flag.toNat 1 else k
  | .acpyIn _ _ flag _ post _ => if post then k.post flag.toNat 1 else k
  | _ => k

/-- The matrix engine goes on with the accumulator copy that runs on a core. -/
def State.acpyStep (s : State) (c : Nat) : State :=
  let k := s.core c
  match k.acpy with
  | none => s
  | some r =>
    if k.stopped 0 0 || !k.engineOn then s
    else if dRows r.d ≤ r.row then
      (if r.posts then s.release (r.writer c).sameOp fun _ => true else s).modCore c fun k =>
        k.carry (k.acpyDone r) r.entry.seq
    else match s.acpyRow c r with
      | .error t => s.engineFault c 0 0 t
      | .ok (r, t) => t.modCore c fun k => { k with acpy := some r }

end Sys2Proof.Machine
end

