-- ==== Sys2Proof/Machine/Control.lean ====
section
/-! DEFINITION. Transfers of control, repeats and the loop buffer (06 R135, R144 to R153). -/

namespace Sys2Proof.Machine

open Sys2Proof

/-- PC_b + 2 × sext(off): formed exactly (06 R144). -/
def branchTarget {n : Nat} (pcb : Nat) (off : BitVec n) : Int := pcb + 2 * off.toInt

/-- CODE_RANGE for a target below 0 or above 0xFFFF_FFFE (06 R144). -/
def targetFault (t : Int) : Option Trp :=
  if t < 0 ∨ 0xFFFFFFFE < t then some ⟨.codeRange, 0x10000, 0⟩ else none

/-- A taken transfer to t: two issue cycles are lost unless the target is a captured bundle of the
pinned region (06 R135). -/
def Core.jump (k : Core) (t : Nat) : Core :=
  { k with pc := t, bubbleBr := if k.loopBuf.captured.contains t then k.bubbleBr else k.bubbleBr + 2 }

/-- Transfer control of the current core to a target that targetFault allows. -/
def State.branchTo (s : State) (t : Int) : Out3 :=
  match targetFault t with
  | some f => .next (s.preciseTrap f)
  | none => .next (s.modCur (·.jump t.toNat))

/-- 06 R144. -/
def execBr (off : BitVec 35) (s : State) : Out3 := s.branchTo (branchTarget s.iss.pcb off)

/-- 06 R145: s63 receives the address of the next bundle. -/
def execCall (off : BitVec 35) (s : State) : Out3 :=
  let t := branchTarget s.iss.pcb off
  match targetFault t with
  | some f => .next (s.preciseTrap f)
  | none => .next ((s.dstS 63 (.ofNat 64 s.iss.npc)).modCur (·.jump t.toNat))

/-- The faults of ret and jr (06 R146). -/
def indirectFault (t : W64) : Option Trp :=
  if t.getLsbD 0 then some (alignTrap 1 t)
  else if fld t 32 32 ≠ 0 then some ⟨.codeRange, 0x10000, 0⟩
  else none

/-- The transfer of ret and jr, with the link register written before it. -/
def State.indirect (s : State) (sd sa : SR) : Out3 :=
  let t := s.srcS sa
  match indirectFault t with
  | some f => .next (s.preciseTrap f)
  | none => .next ((s.dstS sd (.ofNat 64 s.iss.npc)).modCur (·.jump t.toNat))

/-- 06 R146. -/
def execRet (sa : SR) (s : State) : Out3 := s.indirect 0 sa
/-- 06 R146. -/
def execJr (sd sa : SR) (s : State) : Out3 := s.indirect sd sa

/-- The new PWIN of br.loop, and whether it is taken (06 R147). -/
def loopStep (pwin : BitVec 16) (stages : BitVec 4) (count : W64) : BitVec 16 × Bool :=
  let ins := count != 0
  if stages = 0 then (pwin, ins)
  else
    let p := shiftPwin pwin ins
    (p, stagesLeft p stages)

/-- 06 R147, R148. -/
def execBrLoop (cnt : SR) (stages : BitVec 4) (off : BitVec 25) (s : State) : Out3 :=
  let c := s.srcS cnt
  let (p, taken) := loopStep s.snap.pwin stages c
  let t := branchTarget s.iss.pcb off
  match (if taken then targetFault t else none) with
  | some f => .next (s.preciseTrap f)
  | none =>
    let s := if c = 0 then s else s.dstS cnt (c - 1)
    let s := if stages = 0 then s else s.dstPwin p
    .next (if taken then s.modCur (·.jump t.toNat) else s)

/-- The address of the bundle after the one at pc. -/
def Core.nextBundle (k : Core) (pc : Nat) : Option Nat :=
  match decodeCodeWord k.code k.dict pc with
  | .empty next => some next
  | .image _ next => some next
  | _ => none

/-- The address n bundles after pc, or the first address on the way that holds no bundle. -/
def Core.skipBundles (k : Core) : Nat → Nat → Nat
  | 0, pc => pc
  | n + 1, pc =>
    match k.nextBundle pc with
    | some next => k.skipBundles n next
    | none => pc

/-- The addresses of n consecutive bundles from pc on. -/
def Core.bundleRun (k : Core) : Nat → Nat → List Nat
  | 0, _ => []
  | n + 1, pc =>
    match k.nextBundle pc with
    | some next => pc :: k.bundleRun n next
    | none => [pc]

/-- The repeat count: the register, or the immediate when cnt is s0 (06 R149). -/
def State.repCount (s : State) (cnt : SR) (off : BitVec 25) : Nat :=
  if cnt = 0 then off.toNat else (s.srcS cnt).toNat

/-- 06 R149: the b bundles that follow repeat R times, and R = 0 skips them. -/
def execRep (cnt : SR) (b1 : BitVec 4) (off : BitVec 25) (s : State) : Out3 :=
  let b := b1.toNat + 1
  let r := s.repCount cnt off
  .next (s.modCur fun k =>
    if r = 0 then { k with pc := k.skipBundles b s.iss.npc }
    else { k with rep := some { start := s.iss.npc, len := b, left := r, pos := 0 } })

/-- 06 R152: the pinned region becomes the n bundles from the target on. -/
def execLbPin (n1 : SR) (off : BitVec 25) (s : State) : Out3 :=
  let t := branchTarget s.iss.pcb off
  match targetFault t with
  | some f => .next (s.preciseTrap f)
  | none => .next (s.modCur fun k =>
      { k with loopBuf := { pinned := k.bundleRun (n1.toNat + 1) t.toNat, captured := [] } })

/-- 06 R153. -/
def execLbFree (s : State) : Out3 :=
  .next (s.modCur fun k => { k with loopBuf := { pinned := [], captured := [] } })

end Sys2Proof.Machine
end

