-- ==== Sys2Proof/Machine/Group.lean ====
section
/-! DEFINITION. Groups: g.bar, g.red and g.info (07 R177, R178). -/

namespace Sys2Proof.Machine

open Sys2Proof

/-- GID and MIDX of group slot j (07 R168). -/
def Core.gidAt (k : Core) (j : Nat) : Nat := fld k.gid (8 * j) 8
def Core.midxAt (k : Core) (j : Nat) : Nat := fld k.midx (8 * j) 8

/-- GROUP: the group id and the slot, also where GVALID[j] is 0 and the pseudocode's comment names j alone (07 R178,
log 107, DEDUCED). -/
def groupTrap (gid j : Nat) : Trp := ⟨.group, gid + 256 * j, 0⟩

/-- The check of the group slot that the core makes itself (07 R178). -/
def Core.groupSlot (k : Core) (j : Nat) : Except Trp Nat :=
  if k.gvalid.getLsbD j then .ok (k.gidAt j) else .error (groupTrap (k.gidAt j) j)

/-- The check of the entry, and, for a g.red, of the phase's op; the group id (07 R178). -/
def State.groupEntryOf (s : State) (c j : Nat) (op : Option Nat) : Except Trp Nat :=
  match (s.core c).groupSlot j with
  | .error t => .error t
  | .ok g =>
    let e := s.group g
    if !e.valid ∨ e.ctx.toNat ≠ (s.core c).ctx then .error (groupTrap g j)
    else match op with
      | some o => if e.ract ∧ e.rop.toNat ≠ o then .error (groupTrap g j) else .ok g
      | none => .ok g

/-- Combine a value and an index into those of the phase (07 R178).  RIDX of a phase that is no argmin or argmax: the index
that came with its value, and of a sum the first (log 116, DESIGN CHOICE). -/
def groupCombine (op : Nat) (v i a b : W64) : W64 × W64 :=
  let better : Bool := match op with
    | 1 => a.slt v
    | 2 => v.slt a
    | 3 => a.ult v
    | 4 => v.ult a
    | 5 => a.slt v || (a == v && b.ult i)
    | _ => v.slt a || (a == v && b.ult i)
  if op = 0 then (v + a, i) else if better then (a, b) else (v, i)

/-- An entry after a contribution. -/
def GroupEntry.contribute (e : GroupEntry) (op : Nat) (a b : W64) : GroupEntry :=
  if e.ract then
    let (v, i) := groupCombine op e.rval e.ridx a b
    { e with rval := v, ridx := i }
  else { e with rval := a, ridx := b, rop := .ofNat 4 op, ract := true }

/-- A hold in g.bar or g.red on a group that is not over yet. -/
def Hold.onGroup (h : Hold) (gid : Nat) : Bool :=
  h.addr == gid && h.stage == 0 && h.ended.isNone && match h.instr with
    | .gBar _ => true
    | .gRed .. => true
    | _ => false

/-- Change the holds of a core, pending ones included. -/
def Core.mapHolds (k : Core) (f : Hold → Hold) : Core :=
  { k with hold := k.hold.map f, hidHold := k.hidHold.map f }

/-- Change the holds of every core, those of saved cores included. -/
def State.mapHolds (s : State) (f : Hold → Hold) : State :=
  { s with
    cores := s.cores.map fun p => (p.1, p.2.mapHolds f)
    saved := s.saved.map fun v => { v with regs := v.regs.mapHolds f } }

/-- The registers that the result of a phase gives a saved member whose g.red waits for it. -/
def SavedCore.redRegs (v : SavedCore) (gid : Nat) (e : GroupEntry) : List (Nat × W64) :=
  ((v.regs.hold.toList ++ v.regs.hidHold.toList).filter (·.onGroup gid)).flatMap fun h => match h.instr with
    | .gRed sd _ _ op _ => (sd.toNat, e.rval) :: if 5 ≤ op.toNat then [(sd.toNat + 1, e.ridx)] else []
    | _ => []

/-- The save slot of a saved core takes scalar registers. -/
def State.putSaved (s : State) (v : SavedCore) (l : List (Nat × W64)) : State :=
  s.putSlot v ((l.filter fun q => q.1 != 0).map fun q => (q.1, q.2.toNat))

/-- A phase completes: its members have its result, and saved ones have it in their saved registers (07 R178). -/
def State.wakeGroup (s : State) (gid : Nat) (e : GroupEntry) : State :=
  let wake := fun n (h : Hold) => if h.onGroup gid then { h with stage := n, a := e.rval, b := e.ridx } else h
  let s := s.saved.foldl (fun t v => t.putSaved v (v.redRegs gid e)) s
  { s with
    cores := s.cores.map fun p => (p.1, p.2.mapHolds (wake 2))
    saved := s.saved.map fun v => { v with
      regs := ((v.redRegs gid e).foldl (fun k q => k.setS q.1 q.2) v.regs).mapHolds (wake 3) } }

/-- One arrival at the group table (07 R178). -/
def State.groupArrive (s : State) (gid : Nat) (e : GroupEntry) : State :=
  let e := { e with arr := e.arr + 1 }
  if e.count.toNat + 1 ≤ e.arr.toNat then
    (s.setGroup gid { e with arr := 0, ract := false, ph := !e.ph }).wakeGroup gid e
  else s.setGroup gid e

/-- 07 R178: the bundle has waited for its drain. -/
def execGBar (j : BitVec 2) (s : State) : Out3 :=
  match s.groupEntryOf s.cur j.toNat none with
  | .error t => .next (s.preciseTrap t)
  | .ok g => .next ((s.holdOn (.gBar j) 0 0 [] 0 g).groupArrive g (s.group g))

/-- The registers that a g.red writes: a pair for argmin and argmax. -/
def redDst (sd : SR) (op : BitVec 3) : List Reg :=
  if 5 ≤ op.toNat then dstReg sd ++ dstReg (sd + 1) else dstReg sd

/-- 07 R178: the bundle has waited for its drain. -/
def execGRed (sd sa sb : SR) (op : BitVec 3) (j : BitVec 2) (s : State) : Out3 :=
  match s.groupEntryOf s.cur j.toNat (some op.toNat) with
  | .error t => .next (s.preciseTrap t)
  | .ok g =>
    let t := s.holdOn (.gRed sd sa sb op j) 0 0 (redDst sd op) 0 g
    .next (t.groupArrive g ((s.group g).contribute op.toNat (s.srcS sa) (s.srcS sb)))

/-- 07 R178: it does not block. -/
def execGInfo (sd : SR) (j : BitVec 2) (s : State) : Out3 :=
  match s.groupEntryOf s.cur j.toNat none with
  | .error t => .next (s.preciseTrap t)
  | .ok g =>
    let n := (s.group g).count.toNat + 1
    .next ((s.dstS sd (.ofNat 64 (2 ^ 32 * n + s.curCore.midxAt j.toNat))).markS sd)

/-- A core's node names a group. -/
def Core.inGroup (k : Core) (gid : Nat) : Bool :=
  (List.range 4).any fun j => k.gvalid.getLsbD j && k.gidAt j == gid

/-- The group slots of a core's node that name a group. -/
def Core.slotsOf (k : Core) (gid : Nat) : BitVec 4 :=
  (List.range 4).foldl (fun m j => if k.gvalid.getLsbD j && k.gidAt j == gid then setFld m j 1 1 else m) 0

/-- A core is marked as rewinding in a slot that names a group: it has rewound a segment, and has not reached its rdv on
that group since (08 R202, R210; log 119, DEDUCED). -/
def Core.rewinds (k : Core) (gid : Nat) : Bool := k.segment.rewinding &&& k.slotsOf gid != 0

/-- A member of a group of a context is marked as rewinding (08 R202, R210). -/
def State.groupRewinding (s : State) (ctx gid : Nat) : Bool :=
  (s.cores.any fun p => s.runsCtx p.1 ctx && p.2.rewinds gid) || s.saved.any fun v => v.ctx == ctx && v.regs.rewinds gid

end Sys2Proof.Machine
end

