-- ==== Sys2Proof/Machine/Sync.lean ====
section
/-! DEFINITION. Slot Y: waits, tags, flags, fences, drain, step, segments and the release of holds
(06 R154 to R163, 08 R200 to R202, R209, R210, 02 R36, R40, R43, R44). -/

namespace Sys2Proof.Machine

open Sys2Proof

/-! ## The ops -/

/-- A blocking sync op without operands in registers holds after its bundle. -/
def State.plainHold (s : State) (i : Instr) : Out3 := .next (s.holdOn i 0 0 [] 0 0)

/-- 06 R155. -/
def execWait (l t c x : BitVec 4) (s : State) : Out3 := s.plainHold (.wait l t c x)
/-- 06 R156. -/
def execWtag (mask : BitVec 16) (s : State) : Out3 := s.plainHold (.wtag mask)
/-- 06 R156. -/
def execWtagClr (mask : BitVec 16) (s : State) : Out3 := s.plainHold (.wtagClr mask)
/-- 06 R161. -/
def execFenceX (scope q p : BitVec 3) (s : State) : Out3 := s.plainHold (.fenceX scope q p)
/-- 06 R161. -/
def execFenceSc (s : State) : Out3 := s.plainHold .fenceSc
/-- 06 R161. -/
def execDrain (s : State) : Out3 := s.plainHold .drain
/-- 06 R162. -/
def execStep (s : State) : Out3 := s.plainHold .step
/-- 06 R160. -/
def execFlWait (sd : SR) (flag : BitVec 4) (n : BitVec 12) (s : State) : Out3 :=
  .next (s.holdOn (.flWait sd flag n) 0 0 (dstReg sd) 0 0)

/-- The amount of a post: formed exactly (06 R158). -/
def State.postAmount (s : State) (sb : SR) (imm : BitVec 12) : Nat := (s.srcS sb).toNat + imm.toNat

/-- 06 R157, R158. -/
def execFlPost (sb : SR) (flag : BitVec 4) (imm : BitVec 12) (s : State) : Out3 :=
  .next (s.modCur (·.post flag.toNat (s.postAmount sb imm)))

/-- PROT of fl.post.r (06 R158): it has no address, and TRAP_ADDR is 0 (log 114, DESIGN CHOICE). -/
def postFault (dst : W64) : Option Trp := if 255 < dst.toNat then some ⟨.prot, dst.toNat, 0⟩ else none

/-- 06 R158: the post is on its way. -/
def execFlPostR (sa sb : SR) (flag : BitVec 4) (imm : BitVec 12) (s : State) : Out3 :=
  match postFault (s.srcS sa) with
  | some t => .next (s.preciseTrap t)
  | none =>
    let p : Post := { src := s.cur, dst := (s.srcS sa).toNat, ctx := s.curCore.ctx, flag := flag.toNat
                      amt := s.postAmount sb imm, pc := s.curCore.issPc }
    .next { s with posts := s.posts ++ [p] }

/-- 06 R158: post k of those on their way arrives, unless an earlier one of the same two cores is on its
way; one for a core that runs no node of the poster's context is discarded. -/
def execFlagPostArrive (k : Nat) (s : State) : Out3 :=
  match s.posts[k]? with
  | none => .next s
  | some p =>
    if (s.posts.take k).any fun q => q.src == p.src && q.dst == p.dst then .next s
    else
      let t := { s with posts := s.posts.eraseIdx k }
      .next (if s.runsCtx p.dst p.ctx then t.modCore p.dst (·.post p.flag p.amt) else t)

/-! ## Segments (08 R200, R201, R209, R210) -/

/-- 08 R209: it ends the current segment, and the next opens when its stores have performed. -/
def execSeg (s : State) : Out3 :=
  (s.modCur fun k =>
    let k := k.closeSegment
    { k with segment := { k.segment with mode := true } }).plainHold .seg

/-- 08 R209: it leaves segment mode. -/
def execSegOff (s : State) : Out3 :=
  (s.modCur fun k =>
    let k := k.closeSegment
    { k with segment := { k.segment with mode := false } }).plainHold .segOff

/-- 08 R210: seg, and the core has reached its rdv on the group. -/
def execRdv (j : BitVec 2) (s : State) : Out3 :=
  match s.groupEntryOf s.cur j.toNat none with
  | .error t => .next (s.preciseTrap t)
  | .ok g =>
    let t := s.modCur fun k =>
      let k := k.closeSegment
      { k with segment := { k.segment with mode := true, rewinding := k.segment.rewinding &&& ~~~k.slotsOf g } }
    .next (t.holdOn (.rdv j) 0 0 [] 0 g)

/-! ## What a hold waits for -/

/-- A class count is within a field of wait (06 R155). -/
def within (field : BitVec 4) (count : Nat) : Bool := field == 15 || count ≤ field.toNat

/-- The CP path has nothing outstanding of bundles before seq (02 R36). -/
def Core.cpIdle (k : Core) (seq : Nat) : Bool :=
  (k.outs.all fun o => seq ≤ o.seq || match o.kind with
    | .done => true
    | _ => false)
  && k.stores.all fun x => seq ≤ x.seq || x.performed

/-- A queued op is of a path: lk.tide and lk.circ read on CY as they leave their queue (19 R411, R412). -/
def onCy : Instr → Bool
  | .agCfg .. => true
  | .lkTide .. => true
  | .lkCirc .. => true
  | i => (chanOf i).isSome
def onLk : Instr → Bool
  | .lkSend .. => true
  | _ => false

/-- The C0 and C1 queues hold no op of a kind from a bundle before seq. -/
def Core.queuesIdle (k : Core) (p : Instr → Bool) (seq : Nat) : Bool :=
  (k.c0q ++ k.c1q).all fun e => seq ≤ e.seq || !p e.instr

/-- The bytes of a channel's op have performed. -/
def CopyRun.performed (r : CopyRun) : Bool :=
  r.landed && match r.entry.instr with
    | .cpChain .. => r.words.isEmpty
    | _ => true

/-- An op of a gather queue is of a bundle before seq. -/
def GItem.before (i : GItem) (seq : Nat) : Bool :=
  match i with
  | .idx _ b _ => b < seq
  | .done e => e.seq < seq
  | .cfg e => e.seq < seq

/-- The gather queue has performed every row of bundles before seq, but for rows that wait for the end of
their command. -/
def GQueue.idle (g : GQueue) (seq : Nat) : Bool :=
  let items := match g.landed, g.items with
    | true, .done _ :: l => l
    | _, l => l
  !(items.any fun i => i.before seq) && (g.landed || g.writes.isNone)

/-- The pieces of a send, by number, as offset and length: cut at multiples of 4 KiB of its destination
(19 R397, 14 R307). -/
def SendOp.pieces (x : SendOp) : List (Nat × Nat × Nat) :=
  let d := x.entry.val 0
  let at_ := if d.getLsbD 63 then fld d 0 32 else d.toNat
  let l := pieceCuts at_ (fld (x.entry.val 2) 0 32)
  (List.range l.length).zip l

/-- The path of a code of fence.x (06 R161). -/
def fencePath (p : Nat) : Path :=
  match p with
  | 0 => .cp
  | 1 => .cy
  | 2 => .mx
  | 3 => .ga
  | _ => .lk

/-- A path of a core has performed every access of bundles before seq (02 R40). -/
def Core.pathIdle (k : Core) (p seq : Nat) : Bool :=
  match p with
  | 0 => k.cpIdle seq
  | 1 => k.queuesIdle onCy seq
      && (List.range 8).all fun c => (k.chan c).fifo.all fun r => seq ≤ r.entry.seq || r.performed
  | 2 => k.queuesIdle isAcpy seq && (k.mq.all fun e => seq ≤ e.seq)
      && (match k.call with
        | some x => seq ≤ x.entry.seq
        | none => true)
      && (match k.acpy with
        | some r => seq ≤ r.entry.seq
        | none => true)
  | 3 => k.queuesIdle (fun i => (gatherOf i).isSome) seq
      && (List.range 4).all fun q => (k.gqueue q).idle seq
  | _ => k.queuesIdle onLk seq
      && (List.range 16).all fun q => (k.sends q).all fun x => seq ≤ x.entry.seq || x.pieces.all fun q => x.acked.contains q.1

/-- fence.sc drains every path: CP with the accesses of its own bundle, as drain does (06 R155, R161). -/
def Core.allDrained (k : Core) (seq : Nat) : Bool :=
  k.cpIdle (seq + 1) && (List.range 5).all fun p => k.pathIdle p seq

/-- mp0 or mp1 as an mcall will find it: the last mpset before it in the M queue, or the register
(06 R156). -/
def Core.paramAt (k : Core) (n seq : Nat) : W64 :=
  k.mq.foldl (fun v e => match e.instr with
    | .mpset m _ imm => if m.toNat = n ∧ e.seq < seq then mpsetValue e imm else v
    | _ => v) (k.param n)

/-- mp0 or mp1 of an mcall: as it read them when it left its queue, or as it will find them. -/
def Core.callParam (k : Core) (e : QEntry) (n : Nat) : W64 := if e.left then e.mps.getD n 0 else k.paramAt n e.seq

/-- The descriptors that a queued op names (06 R156). -/
def Core.namedTags (k : Core) (e : QEntry) : List Nat :=
  let sync := fun (d : BitVec 4) (st wt : Bool) => if st || wt then [d.toNat] else []
  match e.instr with
  | .mcall _ => [fld (k.callParam e 0) 0 4, fld (k.callParam e 1) 0 4]
  | .dsetMem n _ _ => [n.toNat]
  | .dsetField n _ _ => [n.toNat]
  | .dget n _ _ => [n.toNat]
  | .dtag n _ => [n.toNat]
  | .acpyOut n _ _ _ _ _ _ _ _ _ => [n.toNat]
  | .acpyIn n _ _ _ _ _ => [n.toNat]
  | .cp _ _ _ _ d st wt _ _ => sync d st wt
  | .cp2d _ _ _ _ d st wt _ _ => sync d st wt
  | .cpMc _ _ _ _ d st wt _ _ => sync d st wt
  | .cpAg _ _ _ _ d st wt _ _ _ _ => sync d st wt
  | .cpSeq _ _ _ _ d st wt _ => sync d st wt
  | .lkSend _ _ _ d st wt _ _ => sync d st wt
  | .lkRecv _ _ _ d st wt _ _ _ => sync d st wt
  | _ => []

/-- Every descriptor of a mask has TAG = 1. -/
def Core.tagsSet (k : Core) (mask : BitVec 16) : Bool :=
  (List.range 16).all fun i => !mask.getLsbD i || k.tag i

/-- An op of a bundle before seq that names a descriptor of a mask still waits in a slot queue. -/
def Core.tagsNamed (k : Core) (mask : BitVec 16) (seq : Nat) : Bool :=
  (k.mq ++ k.c0q ++ k.c1q).any fun e => !e.left && e.seq < seq && (k.namedTags e).any fun i => mask.getLsbD i

/-- wtag.clr: it waits for its tags, then for the ops that name them, whatever its tags do meanwhile, and then clears
them (06 R156). -/
def Core.tagsCleared (k : Core) (mask : BitVec 16) (h : Hold) : Option Hold :=
  if h.stage = 0 && !k.tagsSet mask then some h
  else if k.tagsNamed mask h.seq then some { h with stage := 1 }
  else none

/-- Clear the tags of a mask. -/
def Core.clearTags (k : Core) (mask : BitVec 16) : Core :=
  (List.range 16).foldl (fun k i => if mask.getLsbD i then k.setTag i false else k) k

/-- The cleared tags release nothing any more (11 R276). -/
def State.untagAll (s : State) (c : Nat) (mask : BitVec 16) : State :=
  (List.range 16).foldl (fun t i => if mask.getLsbD i then t.untag c i else t) s

/-- The hold of a core is over. -/
def Core.release (k : Core) : Core := { k with hold := none }

/-- Every CP store of a core up to bundle seq has performed. -/
def Core.storesPerformed (k : Core) (seq : Nat) : Bool := k.stores.all fun x => seq < x.seq || x.performed

/-- A new segment opens at the bundle that follows; none does in handler state (08 R201). -/
def Core.reopen (k : Core) : Core := if k.hs then k else k.openSegment k.pc

/-- A hold that fence.sc or step moves on. -/
def Core.holdStage (k : Core) (h : Hold) (stage mark : Nat) : Core :=
  let h := { h with stage := stage, mark := mark }
  { k with hold := some h }

/-- step: the drain is complete; the fabric cache of the isle is invalid and the epoch advances
(06 R162). -/
def State.stepDone (s : State) (c : Nat) : State :=
  { s.modCore c fun k => { k.release with epoch := k.epoch + 1 } with
    fabric := s.fabric.filter fun f => f.isle != isleOf c }

/-- One evaluation of the hold of a core: its condition is met, or it moves to its next stage.  fl.wait gives what its
flag holds after the subtraction (log 122, DEDUCED). -/
def State.evalHold (s : State) (c : Nat) (h : Hold) : State :=
  let k := s.core c
  let free := fun (ok : Bool) => if ok then s.setCore c k.release else s
  let gives := fun (new : Core) => s.setCore c (k.carryHold new h.seq)
  match h.instr with
  | .wait l t x m => free (within l k.countL && within t k.countS && within x k.countC && within m k.countT)
  | .wtag mask => free (k.tagsSet mask)
  | .wtagClr mask =>
    match k.tagsCleared mask h with
    | some g => s.setCore c { k with hold := some g }
    | none => (s.untagAll c mask).setCore c (k.release.clearTags mask)
  | .flWait sd flag n =>
    let f := k.flag flag.toNat
    if n.toNat ≤ f.toNat then
      let x := f - n.setWidth 16
      gives ({ k.release with f := Tab.put 0 k.f flag.toNat x }.setS sd.toNat (x.setWidth 64))
    else s
  | .fenceX scope q p =>
    if k.pathIdle p.toNat h.seq then
      (s.fenceX c (fencePath p.toNat) (fencePath q.toNat) scope.toNat).setCore c k.release
    else s
  | .fenceSc =>
    if h.stage = 0 then
      (if k.allDrained h.seq then (s.scDrained c).setCore c (k.holdStage h 1 s.hbCount.toNat) else s)
    else if h.mark < s.hbCount.toNat then (s.scDone c).setCore c k.release else s
  | .drain => free (k.cpIdle (h.seq + 1))
  | .step => if k.cpIdle (h.seq + 1) then s.stepDone c else s
  | .tkWait .. => free (ticketTurn (s.ticket h.addr).serving (.ofNat 32 h.mark))
  | .cbPop sd b =>
    if 0 < (k.cbuf b.toNat).nFilled then
      let (x, t) := k.popSlot b.toNat
      gives (t.release.setS sd.toNat (.ofNat 64 x))
    else s
  | .barWait sd _ _ =>
    if h.stage = 2 then gives (k.release.barResult [.s sd.toNat] false)
    else match barStale (barPh (s.barWord h.addr)) h.mark with
      | some stale => gives (k.release.barResult [.s sd.toNat] stale)
      | none => s
  | .barPar _ _ => free (h.stage == 2 || barPh (s.barWord h.addr) % 2 != h.mark)
  | .gBar _ => free (2 ≤ h.stage)
  | .gRed sd _ _ op _ =>
    if h.stage = 3 then s.setCore c k.release
    else if h.stage = 2 then
      let t := k.release.setS sd.toNat h.a
      gives (if 5 ≤ op.toNat then t.setS (sd.toNat + 1) h.b else t)
    else s
  | .seg => if k.storesPerformed h.seq then s.setCore c k.release.reopen else s
  | .segOff => free (k.storesPerformed h.seq)
  | .rdv _ =>
    if k.storesPerformed h.seq && !s.groupRewinding k.ctx h.addr then s.setCore c k.release.reopen else s
  | _ => s.setCore c k.release

/-- The slot that a hold of bar.wait or bar.par waits on is no longer armed (06 R154, 14 R326). -/
def State.holdDead (s : State) (h : Hold) : Bool := h.waitsOn h.addr && !s.armedSlot h.addr

/-- 06 R154: the condition of the blocking sync op that holds a core is evaluated. -/
def execSyncHoldRelease (core : Nat) (s : State) : Out3 :=
  let k := s.core core
  match k.hold with
  | none => .next s
  | some h =>
    if !k.live || h.ended.isSome then .next s
    else if s.holdDead h then
      let h := { h with ended := some (TrapCode.barState.num, 1, h.a) }
      .next (s.setCore core { k with hold := some h })
    else .next (s.evalHold core h)

end Sys2Proof.Machine
end

