-- ==== Sys2Proof/Machine/LinkOps.lean ====
section
/-! DEFINITION. The link ops: their entry into a queue, and what each does when it leaves it (19 R386 to
R415). -/

namespace Sys2Proof.Machine

open Sys2Proof

/-- 19 R409. -/
def execLkSend (dst src len : SR) (sync : BitVec 4) (st wt fp : Bool) (cls : BitVec 2) (s : State) : Out3 :=
  .next (s.queueOp (.lkSend dst src len sync st wt fp cls))
/-- 19 R409. -/
def execLkRecv (dst src len : SR) (sync : BitVec 4) (st wt fp bc : Bool) (r : BitVec 3) (s : State) : Out3 :=
  .next (s.queueOp (.lkRecv dst src len sync st wt fp bc r))
/-- 19 R410. -/
def execLkStat (sd : SR) (q : BitVec 4) (kind : BitVec 2) (s : State) : Out3 :=
  .next (s.queueOp (.lkStat sd q kind))
/-- 19 R411. -/
def execLkTide (sa : SR) (q : BitVec 4) (s : State) : Out3 := .next (s.queueOp (.lkTide sa q))
/-- 19 R412. -/
def execLkCirc (sa : SR) (s : State) : Out3 := .next (s.queueOp (.lkCirc sa))
/-- 19 R413. -/
def execLkPark (sa : SR) (q : BitVec 4) (s : State) : Out3 := .next (s.queueOp (.lkPark sa q))
/-- 19 R414. -/
def execLkRate (sa : SR) (c : BitVec 2) (s : State) : Out3 := .next (s.queueOp (.lkRate sa c))

/-! ## Sends -/

/-- Bytes of a send. -/
def SendOp.bytes (x : SendOp) : Nat := fld (x.entry.val 2) 0 32

/-- Flits of a piece: a partial flit counts as one (19 R399). -/
def pieceFlits (n : Nat) : Nat := (n + 255) / 256

/-- All flits of a send. -/
def SendOp.flits (x : SendOp) : Nat := (x.pieces.map fun q => pieceFlits q.2.2).sum

/-- Every piece of a send is acknowledged. -/
def SendOp.done (x : SendOp) : Bool := x.pieces.all fun q => x.acked.contains q.1

/-- Bytes not yet acknowledged. -/
def SendOp.left (x : SendOp) : Nat :=
  ((x.pieces.filter fun q => !x.acked.contains q.1).map fun q => q.2.2).sum

/-- The traffic class of a send. -/
def SendOp.cls (x : SendOp) : Nat :=
  match x.entry.instr with
  | .lkSend _ _ _ _ _ _ _ c => c.toNat
  | _ => 0

/-- What a send does at its end (14 R303): its flag is one of the own core. -/
def sendNotice (e : QEntry) : Notice :=
  match e.instr with
  | .lkSend _ _ _ sync st _ fp _ => landNotice (e.val 2) sync st fp false
  | _ => noNotice

/-- ILLEGAL_OP and XLATE without an address. -/
def illegal : Trp := ⟨.illegalOp, 0, 0⟩

/-- The chip in whose peer window every run lies. -/
def State.peerOf (s : State) (l : List (Nat × Nat)) : Option Nat :=
  match l with
  | [] => none
  | q :: _ =>
    match s.region q.1 with
    | .peer c => if l.all fun x => s.region x.1 == .peer c then some c else none
    | _ => none

/-- The chip in whose peer window va lies by its translation, whatever its page allows (19 R409). -/
def State.windowAt (s : State) (c : Nat) (va : W64) : Option Nat :=
  if fld va 57 7 ≠ 0 ∨ va.toNat < 0x40000000 then none
  else match s.lookup c .lk va with
    | .error _ => none
    | .ok e => match s.region (e.pa + va.toNat % e.size) with
      | .peer chip => some chip
      | _ => none

/-- The destination chip that a send names; none where its address lies in no peer window (19 R409). -/
def State.sendChip (s : State) (c : Nat) (d : W64) : Option Nat :=
  if d.getLsbD 63 then some (fld d 56 4) else s.windowAt c d

/-- The send queue of a send: that of its chip, or 0 where it names none. -/
def State.sendQueue (s : State) (c : Nat) (d : W64) : Nat := (s.sendChip c d).getD 0

/-- The send queue to a chip, replaced. -/
def Core.setSends (k : Core) (q : Nat) (l : List SendOp) : Core := { k with sendq := Tab.put [] k.sendq q l }

/-- Memory mode: every byte translates with WRITE into the peer window of the chip (19 R409). -/
def State.windowWrite (s : State) (c : Nat) (va : W64) (n : Nat) (chip : Option Nat) : Option Trp :=
  match s.resolveRange c .lk va (Nat.max n 1) .write with
  | .error t => some t
  | .ok l => if chip.isSome ∧ s.peerOf l = chip then none else some ⟨.prot, 1, va⟩

/-- The start fault of lk.send, in the order of its entry (19 R409): the landing word and the reserved bits of S[dst],
the chip, the translation. -/
def State.sendFault (s : State) (c : Nat) (e : QEntry) (fp : Bool) : Option Trp :=
  let d := e.val 0
  let msg := d.getLsbD 63
  if landBad (e.val 2) fp false ∨ (msg ∧ (fld d 60 3 ≠ 0 ∨ fld d 32 13 ≠ 0)) then some illegal
  else if (s.sendChip c d).any fun chip => chip == s.chip.toNat || !s.routed chip then
    some (xlateTrap 7 2 (if msg then 0 else d))
  else if msg then none
  else s.windowWrite c d (fld (e.val 2) 0 32) (s.sendChip c d)

/-- lk.send starts: none while its send queue is full (19 R395, R409). -/
def State.sendStart (s : State) (c : Nat) (e : QEntry) (fp : Bool) : Except (Trp × Nat) (Option State) :=
  let q := s.sendQueue c (e.val 0)
  match s.sendFault c e fp with
  | some t => .error (t, q)
  | none =>
    let l := (s.core c).sends q
    if 16 ≤ l.length then .ok none
    else .ok (some (s.modCore c (·.setSends q (l ++ [{ entry := e, sent := 0, acked := [] }]))))

/-! ## Receives -/

/-- lk.recv: the receive is posted, or cancelled and names no source (19 R409). -/
def State.recvStart (s : State) (c : Nat) (e : QEntry) (r : BitVec 3) (sync : BitVec 4) (st fp bc : Bool) :
    Except (Trp × Nat) (Option State) :=
  let base := e.val 0
  let w := e.val 2
  let n := fld w 0 32
  let q := r.toNat
  if landBad w fp bc then .error (illegal, q)
  else if base.toNat % 64 ≠ 0 then .error (alignTrap 6 base, q)
  else if fld (e.val 1) 4 60 ≠ 0 then .error (illegal, q)
  else if 0x200000 < base.toNat + n then .error (xlateTrap 7 4 base, q)
  else
    let x := landNotice w sync st fp bc
    .ok (some (s.modCore c fun k =>
      let p : Recv := { posted := n != 0, base := base.toNat, n := n, chip := if n = 0 then 0 else fld (e.val 1) 0 4
                        bar := x.bar, flag := x.flag, bc := bc, fp := fp, landed := 0, gen := (k.recv q).gen + 1 }
      let k := { k with recvs := Tab.put Recv.reset k.recvs q p }
      if st then k.setTag sync.toNat true else k))

/-! ## Status (19 R410) -/

/-- A count saturated at 32 bits. -/
def sat32 (n : Nat) : Nat := Nat.min n 0xFFFFFFFF

/-- The status word of send queue q: it is BUSY while it holds an op. -/
def State.sendStatus (s : State) (c q : Nat) : W64 :=
  let k := s.core c
  let l := k.sends q
  .ofNat 64 (2 ^ 32 * sat32 (l.map SendOp.left).sum + 2 ^ 26 * b2n (!s.routed q) + 2 ^ 25 * b2n (k.linkStopped 0 q)
    + 2 ^ 24 * b2n (!l.isEmpty) + 2 ^ 16 * l.length)

/-- The status word of a receive. -/
def Recv.status (x : Recv) : W64 := .ofNat 64 (2 ^ 32 * sat32 x.landed + 2 ^ 31 * b2n x.posted + x.chip)

/-- The word of lk.stat. -/
def State.linkStatus (s : State) (c : Nat) (q kind : Nat) : W64 :=
  if kind = 0 then s.sendStatus c q
  else if kind = 1 then s.straitReg q
  else ((s.core c).recv q).status

/-! ## The ops that act on the device (19 R407, R411 to R413) -/

/-- The context of core c holds link control. -/
def State.ownsLinks (s : State) (c : Nat) : Bool := s.linkCtl.getLsbD 4 && fld s.linkCtl 0 4 == (s.core c).ctx

/-- PROT of R407. -/
def linkProt : Trp := ⟨.prot, 0, 0⟩

/-- n bytes of the own scratchpad at offset off, a multiple of 2^log2, on CY. -/
def State.linkBlock (s : State) (c : Nat) (off : W64) (n log2 : Nat) : Except Trp (List Byte) :=
  if off.toNat % 2 ^ log2 ≠ 0 then .error (alignTrap log2 off)
  else if 0x200000 < off.toNat + n then .error (xlateTrap 7 4 off)
  else s.memRead c .cy off n

/-- The 2-byte entries of a tide block, and the 8-byte words of a schedule block. -/
def entries16 (bs : List Byte) : List (BitVec 16) :=
  (List.range 64).map fun i => .ofNat 16 (leNat ((bs.drop (2 * i)).take 2))
def words8 (bs : List Byte) (n : Nat) : List W64 :=
  (List.range n).map fun i => .ofNat 64 (leNat ((bs.drop (8 * i)).take 8))

/-- An entry of a tide table that its strait may hold at index i (19 R389, R390). -/
def State.tideEntryOk (s : State) (t i : Nat) (e : BitVec 16) : Bool :=
  let kind := fld e 14 2
  fld e 2 12 == 0 && (kind == 1 || fld e 0 2 == 0) &&
    if i = 0 then kind == 3
    else if (s.strait t).face then kind == 0 || kind == 2
    else kind == 0 || (kind == 1 && (Tab.get (0 : BitVec 16) s.dstraits (fld e 0 2)).getLsbD t)

/-- A table as a strait holds it. -/
def tideTable (es : List (BitVec 16)) : Tab (BitVec 16) :=
  ((List.range es.length).zip es).foldl (fun t q => Tab.put 0 t q.1 q.2) []

/-- The table that strait t will follow: one accepted, else the one in force. -/
def Strait.coming (t : Strait) : Strait :=
  match t.accepted with
  | some es => { t with table := tideTable es }
  | none => t

/-- Every drawer found owns a frame once strait q follows a new table (19 R390). -/
def State.drawersServed (s : State) (q : Nat) (es : List (BitVec 16)) : Bool :=
  (List.range 4).all fun d => (Tab.get (0 : BitVec 16) s.gib d) == 0 ||
    (setBits (Tab.get 0 s.dstraits d)).any fun t =>
      (if t = q then { s.strait t with table := tideTable es } else (s.strait t).coming).owns d

/-- lk.tide (19 R411). -/
def State.tideLoad (s : State) (c q : Nat) (off : W64) : Except Trp State :=
  if !s.ownsLinks c then .error linkProt
  else do
    let es := entries16 (← s.linkBlock c off 128 7)
    if (List.range 64).all (fun i => s.tideEntryOk q i (es.getD i 0)) && s.drawersServed q es then
      return s.setStrait q { s.strait q with accepted := some es }
    else .error illegal

/-- A block of lk.circ breaks R412. -/
def State.circBad (s : State) (w : List W64) : Bool :=
  let nslot := fld (w.getD 16 0) 0 4
  fld (w.getD 16 0) 4 60 != 0 || (List.range 7).any (fun i => w.getD (17 + i) 0 != 0)
    || (List.range (nslot + 1)).any fun i => (List.range 16).any fun t =>
      !(s.strait t).face && fld (w.getD i 0) (4 * t) 4 != s.chip.toNat

/-- lk.circ (19 R412).  ILLEGAL_OP is listed before ALIGN and XLATE (00 R8): of an unaligned block whose bytes can be
read too. -/
def State.circLoad (s : State) (c : Nat) (off : W64) : Except Trp State :=
  if !s.ownsLinks c then .error linkProt
  else match s.linkBlock c off 192 0 with
    | .ok bs =>
      let w := words8 bs 24
      if s.circBad w then .error illegal
      else if off.toNat % 64 ≠ 0 then .error (alignTrap 6 off)
      else .ok { s with schedNext := some (w.take 16, fld (w.getD 16 0) 0 4) }
    | .error t => if off.toNat % 64 ≠ 0 then .error (alignTrap 6 off) else .error t

/-- lk.park (19 R413): the mask is accepted, and acts at the next frame boundary. -/
def State.parkSet (s : State) (c q : Nat) (w : W64) : Except Trp State :=
  let x := s.strait q
  let rx := w.getLsbD 8
  if !w.getLsbD 0 ∨ fld w 9 55 ≠ 0 ∨ (rx ∧ x.face) then .error illegal
  else if !s.ownsLinks c then .error linkProt
  else
    let m := BitVec.ofNat 8 (fld w 0 8)
    .ok (s.setStrait q (if rx then { x with parkRx := some m } else { x with parkTx := some m }))

/-- lk.rate (19 R414): the value waits for the next frame boundary.  An op whose value a later one of its class replaces
before that leaves class C with the replacement (log 130, DESIGN CHOICE). -/
def State.rateSet (s : State) (c q : Nat) (w : W64) : Except Trp State :=
  if fld w 16 48 ≠ 0 then .error illegal
  else .ok (s.modCore c fun k => { k with rateNext := Tab.put none k.rateNext q (some (.ofNat 16 (fld w 0 16))) })

/-- What a link op does when it leaves its queue: a fault with the queue it reports, none when it waits, or
the state after it. -/
def State.linkAct (s : State) (c : Nat) (e : QEntry) : Except (Trp × Nat) (Option State) :=
  let act := fun (r : Except Trp State) => (match r with
    | .ok t => .ok (some t)
    | .error t => .error (t, 0) : Except (Trp × Nat) (Option State))
  match e.instr with
  | .lkSend _ _ _ _ _ _ fp _ => s.sendStart c e fp
  | .lkRecv _ _ _ sync st _ fp bc r => s.recvStart c e r sync st fp bc
  | .lkStat sd q kind => .ok (some (s.modCore c (·.setS sd.toNat (s.linkStatus c q.toNat kind.toNat))))
  | .lkTide _ q => act (s.tideLoad c q.toNat (e.val 0))
  | .lkCirc _ => act (s.circLoad c (e.val 0))
  | .lkPark _ q => act (s.parkSet c q.toNat (e.val 0))
  | .lkRate _ q => act (s.rateSet c q.toNat (e.val 0))
  | _ => .ok none

end Sys2Proof.Machine
end

