-- ==== Sys2Proof/Machine/Queue.lean ====
section
/-! DEFINITION. The slot queues M, C0 and C1: the copy ops as they enter, and the departure of the op at a
head (01 R17, 11 R261, R275, 12 R277 to R279, 14 R302, R316, R319, R320, R329, 19 R408). -/

namespace Sys2Proof.Machine

open Sys2Proof

/-! ## The copy ops -/

/-- 14 R310. -/
def execCp (dst src len : SR) (ch : BitVec 3) (sync : BitVec 4) (st wt fp bc : Bool) (s : State) : Out3 :=
  .next (s.queueOp (.cp dst src len ch sync st wt fp bc))
/-- 14 R310. -/
def execCp2d (dst src len : SR) (ch : BitVec 3) (sync : BitVec 4) (st wt fp bc : Bool) (s : State) : Out3 :=
  .next (s.queueOp (.cp2d dst src len ch sync st wt fp bc))
/-- 14 R310. -/
def execCpMc (dst src len : SR) (ch : BitVec 3) (sync : BitVec 4) (st wt fp bc : Bool) (s : State) : Out3 :=
  .next (s.queueOp (.cpMc dst src len ch sync st wt fp bc))
/-- 14 R312. -/
def execCpChain (sa : SR) (ch : BitVec 3) (s : State) : Out3 := .next (s.queueOp (.cpChain sa ch))
/-- 14 R313. -/
def execCpStat (sd : SR) (q : BitVec 4) (s : State) : Out3 := .next (s.queueOp (.cpStat sd q))
/-- 14 R316. -/
def execAgCfg (sa : SR) (n : BitVec 2) (s : State) : Out3 := .next (s.queueOp (.agCfg sa n))
/-- 14 R316. -/
def execCpAg (dst src len : SR) (ch : BitVec 3) (sync : BitVec 4) (st wt fp bc side : Bool) (gen : BitVec 2)
    (s : State) : Out3 :=
  .next (s.queueOp (.cpAg dst src len ch sync st wt fp bc side gen))
/-- 14 R319. -/
def execGqCfg (sa : SR) (q : BitVec 2) (s : State) : Out3 := .next (s.queueOp (.gqCfg sa q))
/-- 14 R319. -/
def execGqPush (sa : SR) (q : BitVec 2) (imm : BitVec 25) (s : State) : Out3 := .next (s.queueOp (.gqPush sa q imm))
/-- 14 R319. -/
def execGqEnd (q : BitVec 2) (s : State) : Out3 := .next (s.queueOp (.gqEnd q))
/-- 14 R329. -/
def execCbInit (sa : SR) (b : BitVec 3) (s : State) : Out3 := .next (s.queueOp (.cbInit sa b))
/-- 14 R329. -/
def execCbPush (sa : SR) (b ch core : BitVec 3) (s : State) : Out3 := .next (s.queueOp (.cbPush sa b ch core))
/-- 14 R320. -/
def execCpSeq (dst src len : SR) (ch : BitVec 3) (sync : BitVec 4) (st wt fp : Bool) (s : State) : Out3 :=
  .next (s.queueOp (.cpSeq dst src len ch sync st wt fp))

/-! ## Who waits for whom -/

/-- Op a was issued before op b: by bundle, and within one by slot. -/
def QEntry.before (a b : QEntry) : Bool := a.seq < b.seq || (a.seq == b.seq && a.slot < b.slot)

/-- Some op of a list of queued ops that was issued before e has a property. -/
def anyBefore (l : List QEntry) (e : QEntry) (p : Instr → Bool) : Bool := l.any fun x => x.before e && p x.instr

/-- The same for ops of earlier bundles only. -/
def anyEarlier (l : List QEntry) (e : QEntry) (p : Instr → Bool) : Bool := l.any fun x => x.seq < e.seq && p x.instr

/-- The descriptor that an op waits on through WT (14 R302). -/
def waitTag : Instr → Option Nat
  | .cp _ _ _ _ d _ wt _ _ => if wt then some d.toNat else none
  | .cp2d _ _ _ _ d _ wt _ _ => if wt then some d.toNat else none
  | .cpMc _ _ _ _ d _ wt _ _ => if wt then some d.toNat else none
  | .cpAg _ _ _ _ d _ wt _ _ _ _ => if wt then some d.toNat else none
  | .cpSeq _ _ _ _ d _ wt _ => if wt then some d.toNat else none
  | .lkSend _ _ _ d _ wt _ _ => if wt then some d.toNat else none
  | .lkRecv _ _ _ d _ wt _ _ _ => if wt then some d.toNat else none
  | _ => none

/-- The descriptor that an accumulator copy names. -/
def acpyDesc : Instr → Option Nat
  | .acpyOut n _ _ _ _ _ _ _ _ _ => some n.toNat
  | .acpyIn n _ _ _ _ _ => some n.toNat
  | _ => none

/-- The descriptor that an op of slot M writes through dset or dtag. -/
def writesDesc : Instr → Option Nat
  | .dsetMem n _ _ => some n.toNat
  | .dsetField n _ _ => some n.toNat
  | .dtag n _ => some n.toNat
  | _ => none

/-- An op that reads or writes accumulator rows: mcall, mzero, msca. -/
def usesRows : Instr → Bool
  | .mcall _ => true
  | .mzero _ _ _ _ _ => true
  | .msca _ _ _ _ => true
  | _ => false

/-- An op on coverage records: it reads and writes them as it leaves its queue (12 R279). -/
def isCv : Instr → Bool
  | .cvRd _ _ _ => true
  | .cvWr _ _ _ => true
  | .cvAdd _ _ _ => true
  | .cvScl _ _ _ => true
  | _ => false

/-- An accumulator copy that adds its rounding term to a record. -/
def updates : Instr → Bool
  | .acpyOut _ _ _ upd _ _ _ _ _ _ => upd
  | _ => false

/-- The routine that an op loads or clears (12 R298). -/
def loadsRoutine : Instr → Option Nat
  | .mucode _ _ n => some n.toNat
  | .mucodeClr n => some n.toNat
  | _ => none

/-- The routine that an op calls or loads. -/
def routineOf : Instr → Option Nat
  | .mcall r => some r.toNat
  | i => loadsRoutine i

/-- An op that uses accumulator rows: of slot M, or an accumulator copy. -/
def onRows (i : Instr) : Bool := usesRows i || isAcpy i

/-- Ops a and b of the matrix engine, a before b, keep issue order (11 R261, R275): both use accumulator rows, a is on
coverage records and b adds a rounding term to one, or they are on one routine.  The reads on MX of dset in memory mode and
of mucode keep no order with the rows that an acpy.out writes, since 02 R50 note 8 names neither (log 123, DEDUCED). -/
def keepOrder (a b : Instr) : Bool :=
  (onRows a && onRows b) || (isCv a && updates b)
    || ((loadsRoutine a).isSome && loadsRoutine a == routineOf b) || ((loadsRoutine b).isSome && loadsRoutine b == routineOf a)

/-- An op that acts in the matrix engine: the others of slot M act on registers as they leave their queue (12 R279). -/
def inEngine (i : Instr) : Bool := onRows i || (loadsRoutine i).isSome

/-- The routine of an mcall reads its parameters as MM.G does, or may once an op that loads it has acted. -/
def Core.mayGrade (k : Core) (e : QEntry) (r : Nat) : Bool :=
  k.gradedRoutine r || k.mq.any fun x => x.left && x.before e && loadsRoutine x.instr == some r

/-- An M op that has left its queue has its effect on parameter, descriptor or coverage registers still to come: every
later M op starts after it (11 R261). -/
def Core.effectDue (k : Core) (e : QEntry) : Bool :=
  e.left && match e.instr with
    | .mcall r => k.mayGrade e r.toNat
    | .mzero .. => false
    | .msca .. => false
    | i => (loadsRoutine i).isNone

/-- The tags that an mcall names are set (12 R277). -/
def Core.tagsReady (k : Core) (e : QEntry) : Bool := (k.namedTags e).all k.tag

/-- The head of the M queue waits in it (01 R17, 11 R261, 12 R277, R279): for its tags, for an earlier M op that has its
effect on registers still to come, or for an accumulator copy of an earlier bundle that has yet to read the descriptor
that it writes. -/
def Core.mWaits (k : Core) (e : QEntry) : Bool :=
  k.stopped 0 0 || k.mq.any k.effectDue
    || (match k.call with
      | some x => k.gradedRoutine x.routine
      | none => false)
    || (match writesDesc e.instr with
      | some n => anyEarlier ((k.c0q ++ k.c1q).filter (!·.left)) e fun i => acpyDesc i == some n
      | none => false)
    || (match e.instr with
      | .mcall _ => !k.tagsReady e
      | _ => false)

/-- An accumulator copy at the head of a C queue waits in it: for its tag, or for an M op that is before it and writes its
descriptor (12 R277, R279). -/
def Core.acpyWaits (k : Core) (e : QEntry) (d : Nat) : Bool :=
  k.stopped 0 0 || !k.tag d || anyBefore k.mq e fun i => writesDesc i == some d

/-- An op that has left its queue, or leaves it, waits at the matrix engine for its turn: for an op that goes before it
(11 R261, R275). -/
def Core.yields (k : Core) (e : QEntry) : Bool :=
  k.stopped 0 0 || anyBefore (k.mq ++ k.c0q ++ k.c1q) e (fun i => keepOrder i e.instr)
    || (k.call.map (·.entry)).any (fun x => keepOrder x.instr e.instr)
    || (k.acpy.map (·.entry)).any (fun x => keepOrder x.instr e.instr)

/-- The ops of a channel that have not started. -/
def Core.waitingIn (k : Core) (ch : Nat) : Nat := ((k.chan ch).fifo.filter fun r => !r.started).length

/-- The indices that a gather queue has not popped. -/
def GQueue.indices (g : GQueue) : Nat :=
  (g.items.filter fun i => match i with
    | .idx _ _ _ => true
    | _ => false).length

/-- The queue of a link op, for its order and its stop: a send queue, a receive, or the settings, with its number. -/
def State.linkQueue (s : State) (c : Nat) (e : QEntry) : Option (Nat × Nat) :=
  match e.instr with
  | .lkSend .. => some (0, s.sendQueue c (e.val 0))
  | .lkRecv _ _ _ _ _ _ _ _ r => some (1, r.toNat)
  | .lkTide _ _ => some (2, 0)
  | .lkCirc _ => some (2, 0)
  | .lkPark _ _ => some (2, 0)
  | .lkRate _ _ => some (2, 0)
  | _ => none

/-- A link op at the head of a C queue waits: its queue of the engine is stopped, or an op of it from the same C queue that
a start fault holds is retried first.  14 R302 orders link ops only by the C queue that they leave. -/
def State.linkWaits (s : State) (c : Nat) (own : List QEntry) (e : QEntry) : Bool :=
  match s.linkQueue c e with
  | none => false
  | some q => (s.core c).linkStopped q.1 q.2 || (!e.left && own.any fun x => x.left && s.linkQueue c x == some q)

/-! ## Departure -/

/-- What an op of a slot queue does: it waits, it leaves its queue and waits at the matrix engine, it faults at a unit and a
queue or in the link engine, or it leaves the state after it. -/
inductive Depart where
  | waits
  | enters
  | faults (unit queue : Nat) (t : Trp)
  | linkFaults (kind queue : Nat) (t : Trp)
  | leaves (s : State)

/-- A result that faults at a unit and a queue. -/
def departOf (unit queue : Nat) (r : Except Trp State) : Depart :=
  match r with
  | .ok s => .leaves s
  | .error t => .faults unit queue t

/-- An op of the matrix engine that may leave its queue, or has left it: it acts when its turn has come. -/
def State.atMatrix (s : State) (c : Nat) (e : QEntry) (act : Except Trp State) : Depart :=
  if (s.core c).yields e then (if e.left then .waits else .enters) else departOf 0 0 act

/-- An op of the M queue: its head, or one that has left it. -/
def State.departM (s : State) (c : Nat) (e : QEntry) : Depart :=
  if !e.left && (s.core c).mWaits e then .waits
  else if inEngine e.instr then s.atMatrix c e (s.matrixAct c e)
  else if (s.core c).stopped 0 0 then .waits else departOf 0 0 (s.matrixAct c e)

/-- A copy op goes to its channel. -/
def State.departChan (s : State) (c : Nat) (other : List QEntry) (e : QEntry) (ch : Nat) : Depart :=
  let k := s.core c
  if k.stopped (1 + ch) 0 || anyBefore other e (fun i => chanOf i == some ch) || 8 ≤ k.waitingIn ch then .waits
  else .leaves (s.modCore c fun k =>
    let x := k.chan ch
    k.setChan ch { x with fifo := x.fifo ++ [.enter e] })

/-- What a gather op puts into its queue (14 R319). -/
def gatherItem (e : QEntry) : GItem :=
  match e.instr with
  | .gqPush _ _ imm => .idx ((e.val 0 + imm.setWidth 64).toNat % 2 ^ 32) e.seq e.pc
  | .gqCfg _ _ => .cfg e
  | _ => .done e

/-- A gather op goes to its queue, which holds 64 indices. -/
def State.departGather (s : State) (c : Nat) (other : List QEntry) (e : QEntry) (q : Nat) : Depart :=
  let k := s.core c
  let full := match e.instr with
    | .gqPush _ _ _ => 64 ≤ (k.gqueue q).indices
    | _ => false
  if k.stopped 9 q || anyBefore other e (fun i => gatherOf i == some q) || full then .waits
  else .leaves (s.modCore c fun k =>
    let g := k.gqueue q
    k.setGq q { g with items := g.items ++ [gatherItem e] })

/-- The word of cp.stat: a channel or, from 8 on, a buffer (14 R313). -/
def Core.copyStatus (k : Core) (q : Nat) : W64 := if q < 8 then k.chanStatus q else (k.cbuf (q - 8)).status

/-- A link op of C queue `own` acts. -/
def State.departLink (s : State) (c : Nat) (own : List QEntry) (e : QEntry) : Depart :=
  if s.linkWaits c own e then .waits
  else match s.linkAct c e with
    | .error (t, q) => .linkFaults (((s.linkQueue c e).map (·.1)).getD 0) q t
    | .ok none => .waits
    | .ok (some t) => .leaves t

/-- The head of a C queue; q is 0 for C0 and 1 for C1. -/
def State.departC (s : State) (c q : Nat) (other : List QEntry) (e : QEntry) : Depart :=
  let k := s.core c
  let tagged := match waitTag e.instr with
    | some d => k.tag d
    | none => true
  if k.stopped 11 q || !(e.left || tagged) then .waits
  else match acpyOp e, chanOf e.instr, gatherOf e.instr with
    | some o, _, _ => if !e.left && k.acpyWaits e o.n then .waits else s.atMatrix c e (s.acpyStart c e o)
    | none, some ch, _ => s.departChan c other e ch
    | none, none, some g => s.departGather c other e g
    | none, none, none =>
      match e.instr with
      | .cpStat sd n => .leaves (s.modCore c (·.setS sd.toNat (k.copyStatus n.toNat)))
      | .agCfg _ n => departOf 11 q (s.agLoad c n.toNat (e.val 0))
      | .cbInit _ b => departOf 11 q (s.cbSetUp c b.toNat (e.val 0))
      | _ => s.departLink c (if q = 0 then k.c0q else k.c1q) e

/-- Apply f to a slot queue: 0 is M, 1 is C0, 2 is C1. -/
def Core.modQueue (k : Core) (queue : Nat) (f : List QEntry → List QEntry) : Core :=
  if queue = 0 then { k with mq := f k.mq }
  else if queue = 1 then { k with c0q := f k.c0q }
  else { k with c1q := f k.c1q }

/-- A slot queue of a core. -/
def Core.queueAt (k : Core) (queue : Nat) : List QEntry :=
  if queue = 0 then k.mq else if queue = 1 then k.c0q else if queue = 2 then k.c1q else []

/-- The op of bundle `seq` is no longer in a queue. -/
def dropOp (seq : Nat) (l : List QEntry) : List QEntry := l.filter fun x => x.seq != seq

/-- An op has left its slot queue, with the registers that it reads then (12 R279). -/
def QEntry.leave (e : QEntry) (k : Core) : QEntry :=
  if e.left then e
  else { e with left := true, mps := (List.range 8).map k.param, ds := (List.range 16).map k.desc }

/-- The op of bundle `seq` has left a slot queue. -/
def leaveOp (k : Core) (seq : Nat) (l : List QEntry) : List QEntry :=
  l.map fun x => if x.seq = seq then x.leave k else x

/-- A start fault of the matrix or the link engine finds the op of bundle `seq` out of its slot queue; a
fault of unit 11 leaves its op at the head (08 R185). -/
def faultOp (k : Core) (unit seq : Nat) (l : List QEntry) : List QEntry := if unit = 11 then l else leaveOp k seq l

/-- What may act: the ops that have left a slot queue and have not started, then its head. -/
def leavers (l : List QEntry) : List QEntry := l.filter (·.left) ++ (l.find? fun e => !e.left).toList

/-- What an op of a slot queue does. -/
def State.departAt (s : State) (core queue : Nat) (e : QEntry) : Depart :=
  let k := s.core core
  if queue = 0 then s.departM core e
  else s.departC core (queue - 1) (if queue = 1 then k.c1q else k.c0q) e

/-- An mcall or an accumulator copy that leaves its queue sees what the tags that it waits for have released (11 R276). -/
def State.onLeave (s : State) (c : Nat) (e : QEntry) : State :=
  match e.left, e.instr with
  | false, .mcall _ => s.seeTagged c ((s.core c).namedTags e)
  | false, i => if isAcpy i then s.seeTagged c ((s.core c).namedTags e) else s
  | true, _ => s

/-- The first op of a list that does not wait leaves its slot queue, acts or faults.  What it writes of the core's
registers belongs to the state of its bundle (08 R201; log 118, DEDUCED). -/
def State.departFirst (s : State) (core queue : Nat) : List QEntry → State
  | [] => s
  | e :: l =>
    let k := s.core core
    let u := s.onLeave core e
    match u.departAt core queue e with
    | .waits => s.departFirst core queue l
    | .enters => u.modCore core (·.modQueue queue (leaveOp k e.seq))
    | .faults unit q t => (u.modCore core (·.modQueue queue (faultOp k unit e.seq))).engineFault core unit q t
    | .linkFaults kind q t => (u.modCore core (·.modQueue queue (faultOp k 10 e.seq))).linkFault core kind q t
    | .leaves t => t.modCore core fun x => k.carry (x.modQueue queue (dropOp e.seq)) e.seq

/-- 01 R17: the op at the head of a slot queue leaves it when it waits for nothing, or one that has left it acts. -/
def execQueuedOpDepart (core queue : Nat) (s : State) : Out3 :=
  let k := s.core core
  if k.engineOn then .next (s.departFirst core queue (leavers (k.queueAt queue))) else .next s

end Sys2Proof.Machine
end

