-- ==== Sys2Proof/Machine/Stall.lean ====
section
/-! DEFINITION. What the front end of a core does not issue for: the decoding of a bundle, its stalls (01 R17, 05 R108
to R111, 06 R126 to R135, 08 R200, R201). -/

namespace Sys2Proof.Machine

open Sys2Proof

/-! ## Decode faults (05 R111) -/

/-- An op of a bundle as it decodes: its slot, its word, and the op or none. -/
abbrev Decoded := Nat × Nat × Option (BitVec 5 × Instr)

/-- The ops of a bundle image. -/
def decodeOps (bits : Nat) : List Decoded :=
  (bundleOps bits).map fun q => (q.1, q.2, match decodeOp (slotClass q.1) q.2 with
    | .ok r => some r
    | .error _ => none)

/-- Guards that select one predicate from p1 on and differ in the invert bit (06 R129). -/
def complementary (a b : BitVec 5) : Bool :=
  fld a 0 4 == fld b 0 4 && fld a 0 4 != 0 && a.getLsbD 4 != b.getLsbD 4

/-- A register that an op names as a destination: one of those that carry marks, a coverage record (05 R113, 12 R279)
or an address generator (14 R314). -/
inductive Dest where
  | reg (r : Reg)
  | cv (n : Nat)
  | ag (n : Nat)
  deriving DecidableEq, Repr

/-- The coverage record or the generator that an op of a queued slot names as its destination. -/
def queuedDests : Instr → List Dest
  | .cvWr n .. => [.cv n.toNat]
  | .cvAdd n .. => [.cv n.toNat]
  | .cvScl n .. => [.cv n.toNat]
  | .acpyOut _ _ _ upd _ _ _ _ c _ => if upd then [.cv c.toNat] else []
  | .agCfg _ n => [.ag n.toNat]
  | _ => []

/-- The destinations that count for a conflict: every one but s0 (06 R129). -/
def namedDests (i : Instr) : List Dest := ((destRegs i).filter (· != .s 0)).map .reg ++ queuedDests i

/-- Two ops conflict: a duplicate destination, or two gq.push of one queue (05 R111). -/
def conflict (a b : BitVec 5 × Instr) : Bool :=
  ((namedDests a.2).any fun r => (namedDests b.2).contains r) && !complementary a.1 b.1
    || (match a.2, b.2 with
      | .gqPush _ p _, .gqPush _ q _ => p == q
      | _, _ => false)

/-- The op at the head of the list is at fault: it does not decode, or it conflicts with an earlier one. -/
def opFault (before : List Decoded) (o : Decoded) : Bool :=
  match o.2.2 with
  | none => true
  | some b => before.any fun q => match q.2.2 with
    | some a => conflict a b
    | none => false

/-- The lowest faulting slot and its word (05 R111). -/
def decodeFault : List Decoded → List Decoded → Option (Nat × Nat)
  | _, [] => none
  | before, o :: l => if opFault before o then some (o.1, o.2.1) else decodeFault (before ++ [o]) l

/-- The executing ops of a bundle under a predicate window (05 R110).  A nop whose guard is false is none of them (log 112,
DEDUCED). -/
def executing (pwin : BitVec 16) (ops : List Decoded) : List SlotOp :=
  ops.filterMap fun o => match o.2.2 with
    | some (pg, i) =>
      if predBit pwin (fld pg 0 4) != pg.getLsbD 4 then some { slot := o.1, pg := pg, instr := i, raw := o.2.1 }
      else none
    | none => none

/-- An op that no bundle of a rep body may hold in slot S (06 R150); 08 R203 adds brk. -/
def bannedInRep : Instr → Bool
  | .br _ => true
  | .brLoop _ _ _ => true
  | .call _ => true
  | .ret _ => true
  | .jr _ _ => true
  | .rep _ _ _ => true
  | .lbPin _ _ => true
  | .lbFree => true
  | .trap _ => true
  | .brk _ => true
  | .rett => true
  | .halt => true
  | .yield => true
  | .ndDone _ _ => true
  | .ndSpawn _ _ => true
  | .ndSel _ _ => true
  | _ => false

/-! ## Stalls -/

/-- An op that enters class L at issue (06 R132, 07 R179, R180). -/
def entersL : Instr → Bool
  | .ldB .. | .ldH .. | .ldW .. | .ldD .. | .ldBu .. | .ldHu .. | .ldWu .. | .ldQ .. => true
  | .amo .. | .cas .. | .tkGet .. | .tkNext .. => true
  | .sqInit .. | .sqRes .. | .sqCmt .. | .sqRet .. | .sqLen .. | .sqFork .. | .sqDrop .. => true
  | .sqGrow .. | .sqBind .. | .sqBindClr _ | .sqAddr .. => true
  | .ndDone .. | .ndSpawn .. | .ndSel .. => true
  | .vld .. | .vldx .. | .bnLd .. => true
  | .barArv .. | .barWait .. => true
  | _ => false

/-- An op that enters class S at issue. -/
def entersS : Instr → Bool
  | .stB .. | .stH .. | .stW .. | .stD .. | .stQ .. | .vst .. | .vstx .. => true
  | _ => false

/-- The ops of a bundle with a property. -/
def countOps (ops : List SlotOp) (p : SlotOp → Bool) : Nat := (ops.filter p).length

/-- Ops with a property would take a class of `count` ops past its limit. -/
def overLimit (ops : List SlotOp) (count limit : Nat) (p : SlotOp → Bool) : Bool :=
  let n := countOps ops p
  n != 0 && limit < count + n

/-- The bundle would take class L, S, C or T past its limit (06 R132, R133). -/
def Core.overL (k : Core) (ops : List SlotOp) : Bool := overLimit ops k.countL 32 fun o => entersL o.instr
def Core.overS (k : Core) (ops : List SlotOp) : Bool := overLimit ops k.countS 32 fun o => entersS o.instr
def Core.overC (k : Core) (ops : List SlotOp) : Bool :=
  overLimit ops k.countC 64 fun o => (o.slot == 4 || o.slot == 5) && !isAcpy o.instr
def Core.overT (k : Core) (ops : List SlotOp) : Bool := overLimit ops k.countT 16 fun o => o.slot == 3 || isAcpy o.instr

/-- The bundle would take a class past its limit. -/
def Core.pastLimit (k : Core) (ops : List SlotOp) : Bool := k.overL ops || k.overS ops || k.overC ops || k.overT ops

/-- A queued op of bundle b − 8 or earlier waits in its queue (01 R17). -/
def Core.skewed (k : Core) : Bool := 
  (k.mq ++ k.c0q ++ k.c1q).any fun e => !e.left && e.seq + 8 ≤ k.seq + 1

/-- An executing op reads or writes a register with a pending mark (06 R130). -/
def Core.marked (k : Core) (ops : List SlotOp) : Bool :=
  let m := k.marks
  ops.any fun o => (readRegs o.instr ++ writtenRegs o.instr).any m.contains

/-- An op that waits for a drain before its bundle issues (14 R326, R330, 07 R178, 17 R366). -/
def needsDrain : Instr → Bool
  | .barArv .. | .barMark .. | .gBar _ | .gRed .. | .cbRel .. => true
  | .sqInit .. | .sqFork .. | .sqCmt .. | .tkNext .. => true
  | _ => false

/-- An op that waits for every count and path of the core (07 R179, R180, 08 R206). -/
def needsQuiet : Instr → Bool
  | .ndDone .. | .ndSpawn .. | .ndSel .. | .halt => true
  | _ => false

/-- The counts are 0 and every path has performed its earlier accesses (07 R179). -/
def Core.quiet (k : Core) : Bool :=
  k.countL == 0 && k.countS == 0 && k.countC == 0 && k.countT == 0
    && (List.range 5).all fun p => k.pathIdle p (k.seq + 1)

/-- The bundle waits before it issues for what its ops ask (02 R36, 07 R179). -/
def Core.opWaits (k : Core) (ops : List SlotOp) : Bool :=
  (ops.any fun o => needsDrain o.instr && !k.cpIdle (k.seq + 1))
    || ops.any fun o => needsQuiet o.instr && !k.quiet

/-! ## Segments (08 R200, R201) -/

/-- An op that ends the segment implicitly: those of R200, and cb.rel, whose drain the buffered stores would otherwise
hold for ever (log 99, DEDUCED). -/
def endsSegment : Instr → Bool
  | .amo .. | .cas .. | .tkGet .. | .tkNext .. | .tkWait .. => true
  | .sqInit .. | .sqRes .. | .sqCmt .. | .sqRet .. | .sqLen .. | .sqLenCl .. | .sqFork .. | .sqDrop .. => true
  | .sqGrow .. | .sqBind .. | .sqBindClr _ | .sqAddr .. => true
  | .flPostR .. | .drain | .fenceSc | .step | .barArv .. | .barMark .. | .gBar _ | .gRed .. | .cbRel .. => true
  | .fenceX _ q p => p == 0 || q == 0
  | .ndDone .. | .ndSpawn .. | .ndSel .. | .halt => true
  | _ => false

/-- The open segment ends here: its buffered stores issue, and the bundle waits for them. -/
def Core.endSegment (k : Core) : Core :=
  let k := k.closeSegment
  { k with segment := { k.segment with closing := true } }

/-- A segment opens at a bundle when segment mode is active and none is open (08 R201). -/
def Core.startSegment (k : Core) : Core :=
  if k.segment.mode && !k.seg && !k.hs && !k.segment.closing then k.openSegment k.pc else k

/-! ## Fetch -/

/-- What stands at the pc of a core: its ops and the address of the next bundle, or a trap of the bundle. -/
inductive Fetched where
  | bundle (ops : List Decoded) (next : Nat)
  | trap (t : Trp) (slot : Nat)
  deriving Repr

/-- Fetch and decode the bundle at the pc (05 R102, R103, R108, R111).  Of non-zero padding and a decode fault of a slot the
padding is reported (log 129, DESIGN CHOICE). -/
def Core.fetch (k : Core) : Fetched :=
  match decodeCodeWord k.code k.dict k.pc with
  | .empty next => .bundle [] next
  | .badWord w => .trap ⟨.codeRange, w, 0⟩ 8
  | .overrun => .trap ⟨.codeRange, 0x10000, 0⟩ 8
  | .image bits next =>
    if !paddingZero bits then .trap ⟨.illegalOp, 0, 0⟩ 8
    else
      let ops := decodeOps bits
      match decodeFault [] ops with
      | some (slot, w) => .trap ⟨.illegalOp, w, 0⟩ slot
      | none => .bundle ops next

/-- The op in slot S of a bundle is one that R150 bans. -/
def repBan (ops : List Decoded) : Bool :=
  ops.any fun o => o.1 == 0 && match o.2.2 with
    | some (_, i) => bannedInRep i
    | none => false

/-- The registers of a core as a bundle finds them. -/
def Core.snapshot (k : Core) : Snap := { s := k.s, pwin := k.pwin, v := k.v, k := k.k }

/-- The bundle of core c is about to issue: its ops wait for their faults to be settled. -/
def State.present (s : State) (c : Nat) (ops : List SlotOp) (next : Nat) (answered : Bool) : State :=
  let k := s.core c
  { s with iss := { core := c, active := true, answered := answered, pcb := k.pc, npc := next, seq := k.seq + 1
                    slot := 8, ops := ops, snap := k.snapshot, at_ := k.frontCycle } }

/-! ## What the bundle works on as it issues (02 R33 to R37) -/

/-- The address register, the offset and the size of a scalar load and of a scalar store. -/
def loadOperand : Instr → Option (SR × BitVec 23 × Nat)
  | .ldB _ sa off => some (sa, off, 1)
  | .ldBu _ sa off => some (sa, off, 1)
  | .ldH _ sa off => some (sa, off, 2)
  | .ldHu _ sa off => some (sa, off, 2)
  | .ldW _ sa off => some (sa, off, 4)
  | .ldWu _ sa off => some (sa, off, 4)
  | .ldD _ sa off => some (sa, off, 8)
  | .ldQ _ sa off => some (sa, off, 16)
  | _ => none
def storeOperand : Instr → Option (SR × BitVec 23)
  | .stB _ sa off => some (sa, off)
  | .stH _ sa off => some (sa, off)
  | .stW _ sa off => some (sa, off)
  | .stD _ sa off => some (sa, off)
  | .stQ _ sa off => some (sa, off)
  | _ => none

/-- The address of an op on a descriptor, with its access (17 R367). -/
def descOperand : Instr → Option (SR × Acc)
  | .sqInit _ sa => some (sa, .atomic)
  | .sqRes _ sa _ => some (sa, .atomic)
  | .sqCmt _ sa _ => some (sa, .atomic)
  | .sqRet _ sa _ => some (sa, .atomic)
  | .sqDrop _ sa => some (sa, .atomic)
  | .sqGrow _ sa _ => some (sa, .atomic)
  | .sqBind sa _ => some (sa, .atomic)
  | .sqLen _ sa => some (sa, .homeRead)
  | .sqAddr _ sa _ => some (sa, .homeRead)
  | _ => none

/-- The slot that a barrier op names. -/
def barOperand : Instr → Option SR
  | .barInit sa _ _ => some sa
  | .barArv _ sa _ _ _ => some sa
  | .barMark sa _ _ => some sa
  | .barWait _ sa _ => some sa
  | .barPar sa _ => some sa
  | .barRet sa => some sa
  | _ => none

/-- Bytes at a resolved address. -/
def bytesAt (r : Except Trp Nat) (n : Nat) : List (Nat × Nat) :=
  match r with
  | .ok pa => [(pa, n)]
  | .error _ => []

/-- Those of them that lie in the own scratchpad of core c. -/
def ownBytes (c : Nat) (l : List (Nat × Nat)) : List (Nat × Nat) := l.filter fun q => inOwn c q.1

/-- The bytes that an op of a presented bundle reads or changes in the step in which its bundle issues, beside those of
a sequence's map: an access of the own scratchpad, a barrier slot, a descriptor or a dispenser. -/
def State.touches (s : State) (c : Nat) (i : Instr) : List (Nat × Nat) :=
  match loadOperand i, barOperand i, descOperand i with
  | some (sa, off, n), _, _ => ownBytes c (bytesAt (s.resolve c .cp (s.ea sa off) .read) n)
  | none, some sa, _ => bytesAt (s.resolve c .cp (s.srcS sa) .homeRead) 16
  | none, none, some (sa, acc) => bytesAt (s.resolve c .cp (s.srcS sa) acc) 128
  | none, none, none =>
    match i with
    | .vld .. => [(spBase c, 0x200000)]
    | .vldx .. => [(spBase c, 0x200000)]
    | .bnLd .. => [(spBase c, 0x200000)]
    | .tkGet _ sa n => [(ticketAddr (s.ticketIndex sa n).toNat, 16)]
    | .tkWait _ sb n => [(ticketAddr (s.ticketIndex sb n).toNat, 16)]
    | .sqBindClr n => (Tab.get none (s.core c).clBind n.toNat).toList.map fun b => (b.2.1, 128)
    | _ => []

/-- An op that walks a sequence's map, its free pages or its ancestors. -/
def walksMap : Instr → Bool
  | .sqAddr .. | .sqGrow .. | .sqDrop .. => true
  | _ => false

/-- An earlier access of core c that has not performed meets the bytes, or lies with them in the own scratchpad. -/
def State.awaited (s : State) (c pa n : Nat) : Bool :=
  let hit := fun a m => meets pa n a m || (inOwn c pa && inOwn c a)
  ((s.core c).stores.any fun x => !x.performed && hit x.pa x.bytes.length)
    || (s.core c).outs.any fun o => match o.kind.range with
      | some q => hit q.1 q.2
      | none => false

/-- An op of a presented bundle waits for an earlier access of its core (02 R34, R35).  An op that walks a map waits
for every earlier one (log 100, DEDUCED). -/
def State.opAwaits (s : State) (c : Nat) (i : Instr) : Bool :=
  (s.touches c i).any (fun q => s.awaited c q.1 q.2) || (walksMap i && !(s.core c).cpIdle ((s.core c).seq + 1))

/-- Nothing but stores to the own scratchpad, which are due, keeps the ops of a presented bundle: they wait for no cycle
(06 R131, R134; log 6, DESIGN CHOICE). -/
def State.awaitsOwnStores (s : State) (c : Nat) (ops : List SlotOp) : Bool :=
  let t := s.modCore c fun k => { k with stores := k.stores.filter fun x => !inOwn c x.pa }
  !(ops.any fun o => t.opAwaits c o.instr)

/-- A store op of a presented bundle would wait in the segment store buffer. -/
def State.buffers (s : State) (c : Nat) (i : Instr) : Bool :=
  match storeOperand i with
  | some (sa, off) => match s.resolve c .cp (s.ea sa off) .write with
    | .ok pa => !inOwn c pa
    | .error _ => false
  | none => false

/-- The presented bundle holds a 65th buffered store. -/
def State.bufferFull (s : State) (c : Nat) (ops : List SlotOp) : Bool :=
  64 < (s.core c).segment.buffer.length + countOps ops fun o => s.buffers c o.instr

/-- The addresses that an op of a presented bundle translates on CP: of a scalar load or store, a barrier op, an op on a
descriptor, an atomic, a record of nd.spawn or nd.sel. -/
def State.opVas (s : State) (i : Instr) : List W64 :=
  match loadOperand i, storeOperand i, barOperand i, descOperand i with
  | some (sa, off, _), _, _, _ => [s.ea sa off]
  | none, some (sa, off), _, _ => [s.ea sa off]
  | none, none, some sa, _ => [s.srcS sa]
  | none, none, none, some (sa, _) => [s.srcS sa]
  | none, none, none, none =>
    match i with
    | .amo _ sa _ _ _ => [s.srcS sa]
    | .cas _ sa _ _ => [s.srcS sa]
    | .sqFork _ sa sb => [s.srcS sa, s.srcS sb]
    | .ndSpawn _ sa => [s.srcS sa]
    | .ndSel _ sa => [s.srcS sa]
    | _ => []

/-! ## Whether a bundle can issue -/

/-- What a bundle that does not issue adds to the stall counters (06 R134). -/
def Core.stallSyncOne (k : Core) : Core := { k with stallSync := k.stallSync + 1 }
def Core.stallSkewOne (k : Core) : Core := { k with stallSkew := k.stallSkew + 1 }
def Core.stallLoadOne (k : Core) : Core := { k with stallLoad := k.stallLoad + 1 }

/-- The addresses that the executing ops of a bundle of core c translate on CP. -/
def State.bundleVas (s : State) (c : Nat) (ops : List SlotOp) (next : Nat) : List W64 :=
  let p := s.present c ops next false
  ops.flatMap fun o => p.opVas o.instr

/-- The bundle waits for a walk whose entries lie in drawers (19 R392). -/
def State.bundleWalks (s : State) (c : Nat) (ops : List SlotOp) (next : Nat) : Bool :=
  (s.walkPending c 0 .cp (s.bundleVas c ops next)).isSome

/-- The core as the bundle whose ops are known stalls it, or none when the bundle can issue, or waits for its walks: what
its addresses ask for is known after them. -/
def State.stallOf (s : State) (c : Nat) (ops : List SlotOp) (next : Nat) : Option Core :=
  let k := s.core c
  if k.seg && ops.any fun o => endsSegment o.instr then some k.endSegment.stallSyncOne
  else if k.segment.closing && !k.storesPerformed k.seq then some k.stallSyncOne
  else if k.opWaits ops then some k.stallSyncOne
  else if k.skewed || k.pastLimit ops then some k.stallSkewOne
  else if k.marked ops then some k.stallLoadOne
  else if s.bundleWalks c ops next then none
  else
    let p := s.present c ops next false
    if k.seg && p.bufferFull c ops then some k.endSegment.stallSyncOne
    else if ops.any fun o => p.opAwaits c o.instr then some (if p.awaitsOwnStores c ops then k else k.stallLoadOne)
    else none

/-- The front end of a core does not issue: a hold, a request to a home, a stall of its bundle or a walk. -/
def State.frontStalls (s : State) (c : Nat) : Bool :=
  let k := s.core c
  k.hold.isSome || k.homeReq || match k.fetch with
    | .bundle ops next =>
      let l := executing k.pwin ops
      (s.stallOf c l next).isSome || s.bundleWalks c l next
    | .trap _ _ => false

end Sys2Proof.Machine
end

