-- ==== Sys2Proof/Machine/Held.lean ====
section
/-! DEFINITION. What a stall of a front end waits for, the strait that holds it (19 R403, R404), and the passing of time
(01 R13). -/

namespace Sys2Proof.Machine

open Sys2Proof

/-! ## The work of the engines -/

/-- Work of a unit of a core, as a stall can wait for it: the unit (1 to 8 the copy channels, 9 to 12 the gather queues,
16 + chip the send queues), its op, what the op does at its end, the cores on which it lands, and the buffer that it fills,
by owner and number. -/
structure Work where
  core : Nat
  unit : Nat
  entry : QEntry
  notice : Notice
  lands : List Nat
  fills : Option (Nat × Nat)

/-- The path of a unit, by its code in fence.x. -/
def workPath (u : Nat) : Nat := if u < 9 then 1 else if u < 16 then 3 else 4

/-- The landing cores of a write of n bytes at va (14 R304). -/
def State.rangeLands (s : State) (c : Nat) (p : Path) (va : W64) (n : Nat) : List Nat :=
  match s.resolveRange c p va n .write with
  | .ok l => l.map fun q => (spCore q.1).getD c
  | .error _ => [c]

/-- The cores on which an op of a channel lands: those of its elements, or before its start that of its destination. -/
def State.runLands (s : State) (c : Nat) (r : CopyRun) : List Nat :=
  match r.entry.instr with
  | .cpMc .. => (mcCores (r.entry.val 0)).map (clusterCore c)
  | .cbPush _ _ _ core => [clusterCore c core.toNat]
  | _ =>
    let l := s.lay c r
    if r.started then
      (List.range l.count).flatMap fun k => match l.dst k with
        | .ok ds => ds.flatMap fun d => s.rangeLands c .cy d l.n
        | .error _ => []
    else [s.landCore c .cy (r.entry.val 0)]

/-- The buffer that an op of a channel fills. -/
def CopyRun.fills (r : CopyRun) (c : Nat) : Option (Nat × Nat) :=
  match r.entry.instr with
  | .cbPush _ b _ core => some (clusterCore c core.toNat, b.toNat)
  | _ => none

/-- The work of channel ch: its ops, and those that wait in a slot queue to enter it. -/
def State.channelWork (s : State) (c ch : Nat) : List Work :=
  let k := s.core c
  let waiting := ((k.c0q ++ k.c1q).filter fun e => chanOf e.instr == some ch).map CopyRun.enter
  ((k.chan ch).fifo ++ waiting).map fun r =>
    { core := c, unit := 1 + ch, entry := r.entry, notice := r.notice, lands := s.runLands c r, fills := r.fills c }

/-- The cores on which a gather command lands: of a buffer its owner, of a plain gather that of DBASE, and of a scatter
those of its rows (14 R304). -/
def State.gatherLands (s : State) (c : Nat) (g : GQueue) (b : List W64) : List Nat :=
  if gTocb b then [gOwner c b]
  else if gScatter b then g.rows.map fun r => s.landCore c .ga (gTableRow b r)
  else [s.landCore c .ga (gDbase b)]

/-- The op that ends the command of a gather queue, or one that waits in a slot queue to enter it. -/
def Core.gatherEnd (k : Core) (q : Nat) : QEntry :=
  (((k.gqueue q).items.findSome? fun i => match i with
    | .done e => some e
    | .cfg e => some e
    | .idx _ _ _ => none).orElse fun _ => (k.c0q ++ k.c1q).find? fun e => gatherOf e.instr == some q).getD default

/-- The work of gather queue q: the command in hand. -/
def State.gatherWork (s : State) (c q : Nat) : List Work :=
  let k := s.core c
  let g := k.gqueue q
  match g.cfg with
  | none => []
  | some b => [{ core := c, unit := 9 + q, entry := k.gatherEnd q, notice := gNotice b, lands := s.gatherLands c g b
                 fills := if gTocb b then some (gOwner c b, gCb b) else none }]

/-- The work of the send queue to a chip: its ops that are not done. -/
def State.sendWork (s : State) (c chip : Nat) : List Work :=
  (((s.core c).sends chip).filter fun x => !x.done).map fun x =>
    { core := c, unit := 16 + chip, entry := x.entry, notice := sendNotice x.entry, lands := [c], fills := none }

/-- The work that waits for what unit u of core c has in hand: its ops follow one another. -/
def State.unitWork (s : State) (c u : Nat) : List Work :=
  if u < 9 then s.channelWork c (u - 1) else if u < 16 then s.gatherWork c (u - 9) else s.sendWork c (u - 16)

/-! ## What a stall waits for (19 R404) -/

/-- What the front end of a core waits for: some of its outstanding loads and atomics, some work of units, the landings of
messages in some of the receives of a core, or a walk of its own. -/
structure Awaits where
  out : Out → Bool
  work : Work → Bool
  recv : Nat → Recv → Bool
  walk : Bool

/-- Nothing of the links. -/
def Awaits.none : Awaits := { out := fun _ => false, work := fun _ => false, recv := fun _ _ => false, walk := false }

/-- Either of two. -/
def Awaits.or (a b : Awaits) : Awaits :=
  { out := fun o => a.out o || b.out o, work := fun w => a.work w || b.work w
    recv := fun d r => a.recv d r || b.recv d r, walk := a.walk || b.walk }

/-- Work that sets a tag of a mask on core c. -/
def tagWork (c : Nat) (mask : BitVec 16) : Awaits :=
  { Awaits.none with work := fun w => w.core == c && w.notice.st && mask.getLsbD w.notice.desc }

/-- The mask of one descriptor. -/
def tagMask (d : Nat) : BitVec 16 := .ofNat 16 (2 ^ d)

/-- The tags of some descriptors that are not set. -/
def Core.unset (k : Core) (ds : List Nat) : BitVec 16 := (ds.filter fun d => !k.tag d).foldl (fun m d => m ||| tagMask d) 0

/-- The unit of a queued op. -/
def State.unitOf (s : State) (c : Nat) (e : QEntry) : Option Nat :=
  match chanOf e.instr, gatherOf e.instr, e.instr with
  | some ch, _, _ => some (1 + ch)
  | none, some q, _ => some (9 + q)
  | none, none, .lkSend .. => some (16 + s.sendQueue c (e.val 0))
  | _, _, _ => none

/-- A unit of core c takes no more. -/
def Core.unitFull (k : Core) (u : Nat) : Bool :=
  if u < 9 then 8 ≤ k.waitingIn (u - 1) else if u < 16 then 64 ≤ (k.gqueue (u - 9)).indices else 16 ≤ (k.sends (u - 16)).length

/-- What the head of a slot queue waits for: the tags that it waits on and that are not set, or a unit that takes no more. -/
def State.headAwaits (s : State) (c : Nat) (e : QEntry) : Awaits :=
  let k := s.core c
  let tags := (waitTag e.instr).toList ++ (acpyDesc e.instr).toList ++ match e.instr with
    | .mcall _ => k.namedTags e
    | _ => []
  let full := (s.unitOf c e).filter k.unitFull
  (tagWork c (k.unset tags)).or { Awaits.none with work := fun w => w.core == c && full == some w.unit }

/-- The head of a slot queue can wait for another slot queue: by an interlock of 12 R279, or by the order of its unit. -/
def State.headLocked (s : State) (c : Nat) (e : QEntry) : Bool :=
  let k := s.core c
  (acpyDesc e.instr).isSome || (writesDesc e.instr).isSome
    || (k.c0q ++ k.c1q).any fun x => !x.left && x.before e && (s.unitOf c x).isSome && s.unitOf c x == s.unitOf c e

/-- What the heads of the slot queues wait for that hold an op with a property. -/
def State.queueAwaits (s : State) (c : Nat) (p : QEntry → Bool) : Awaits :=
  let k := s.core c
  let queues := [k.mq, k.c0q, k.c1q].map (·.filter fun e => !e.left)
  let held := queues.filter (·.any p)
  let locked := held.any fun q => q.head?.any (s.headLocked c)
  ((if locked then queues else held).filterMap (·.head?)).foldl (fun a e => a.or (s.headAwaits c e)) Awaits.none

/-- What the ops of class T wait for: an op that has left its queue waits for none that has not. -/
def State.matrixAwaits (s : State) (c : Nat) : Awaits := s.queueAwaits c fun e => e.slot == 3 || isAcpy e.instr

/-- Every op of class C of core c. -/
def classC (c : Nat) : Awaits := { Awaits.none with work := fun w => w.core == c }

/-- Some of the outstanding loads and atomics. -/
def outAwaits (p : Out → Bool) : Awaits := { Awaits.none with out := p }

/-- An access of CP that has not performed. -/
def Out.onCp (o : Out) : Bool := o.kind != .done

/-- Everything that core c has outstanding. -/
def State.allAwaits (s : State) (c : Nat) : Awaits := ((classC c).or (outAwaits fun _ => true)).or (s.matrixAwaits c)

/-- What posts flag f of core c. -/
def flagAwaits (c f : Nat) : Awaits :=
  { Awaits.none with
    work := fun w => w.notice.fp && w.notice.flag == f && w.lands.contains c
    recv := fun d r => d == c && r.fp && r.flag == f }

/-- What counts into the barrier slot at pa. -/
def barAwaits (pa : Nat) : Awaits :=
  { Awaits.none with
    work := fun w => w.notice.bc && w.lands.any fun d => spBase d + 16 * w.notice.bar == pa
    recv := fun d r => r.bc && spBase d + 16 * r.bar == pa }

/-- What a fence waits for on a path of core c, of bundles before seq (02 R40). -/
def State.pathAwaits (s : State) (c p seq : Nat) : Awaits :=
  if p = 0 then outAwaits fun o => o.onCp && o.seq < seq
  else if p = 2 then s.matrixAwaits c
  else { Awaits.none with work := fun w => w.core == c && workPath w.unit == p && w.entry.seq < seq }

/-- What a blocking sync op that holds core c waits for (06 R155, R161, 14 R326, R330). -/
def State.holdAwaits (s : State) (c : Nat) (h : Hold) : Awaits :=
  let k := s.core c
  match h.instr with
  | .wait l _ x m =>
    (outAwaits fun o => o.inL && !within l k.countL).or ((if within x k.countC then Awaits.none else classC c).or
      (if within m k.countT then Awaits.none else s.matrixAwaits c))
  | .wtag m => tagWork c m
  | .wtagClr m => if h.stage = 0 then tagWork c m
      else s.queueAwaits c fun e => e.seq < h.seq && (k.namedTags e).any fun i => m.getLsbD i
  | .flWait _ f _ => flagAwaits c f.toNat
  | .fenceX _ _ p => s.pathAwaits c p.toNat h.seq
  | .fenceSc => if h.stage = 0 then ((classC c).or (outAwaits Out.onCp)).or (s.matrixAwaits c) else Awaits.none
  | .drain => outAwaits Out.onCp
  | .step => outAwaits Out.onCp
  | .barWait .. => barAwaits h.addr
  | .barPar .. => barAwaits h.addr
  | .cbPop _ b => { Awaits.none with work := fun w => w.fills == some (c, b.toNat) }
  | _ => Awaits.none

/-- What a bundle that its classes or the skew rule hold waits for (01 R17, 06 R133). -/
def State.limitAwaits (s : State) (c : Nat) (ops : List SlotOp) : Awaits :=
  let k := s.core c
  if k.skewed then s.queueAwaits c fun e => e.seq + 8 ≤ k.seq + 1
  else ((if k.overL ops then outAwaits (·.inL) else Awaits.none).or (if k.overC ops then classC c else Awaits.none)).or
    (if k.overT ops then s.matrixAwaits c else Awaits.none)

/-- What a bundle that stalls waits for. -/
def State.bundleAwaits (s : State) (c : Nat) (ops : List SlotOp) (next : Nat) : Awaits :=
  let k := s.core c
  let p := s.present c ops next false
  if (ops.any fun o => needsQuiet o.instr) && !k.quiet then s.allAwaits c
  else if k.opWaits ops then outAwaits Out.onCp
  else if k.skewed || k.pastLimit ops then s.limitAwaits c ops
  else if k.marked ops then
    let regs := ops.flatMap fun o => readRegs o.instr ++ writtenRegs o.instr
    (outAwaits fun o => o.dst.any regs.contains).or (s.queueAwaits c fun e => e.dst.any regs.contains)
  else if (s.stallOf c ops next).isNone then { Awaits.none with walk := true }
  else
    let bytes := ops.flatMap fun o => p.touches c o.instr
    outAwaits fun o => (ops.any fun x => walksMap x.instr) || match o.kind.range with
      | some q => bytes.any fun b => meets b.1 b.2 q.1 q.2
      | none => false

/-- What the front end of a core waits for, if it does not issue. -/
def State.awaits (s : State) (c : Nat) : Awaits :=
  let k := s.core c
  if !s.frontStalls c then Awaits.none
  else match k.hold with
    | some h => s.holdAwaits c h
    | none => if k.homeReq then Awaits.none else match k.fetch with
      | .bundle ops next => s.bundleAwaits c (executing k.pwin ops) next
      | .trap _ _ => Awaits.none

/-! ## What a retraining delays (19 R403) -/

/-- The frames in which the retraining of strait t keeps a request to drawer d from leaving: those of the retraining, and
those whose responses fall into it (19 R403). -/
def Strait.spoilt (x : Strait) (d : Nat) : List Nat :=
  match x.retrain with
  | some (a, b) => ((List.range (b + 1 - (a - 7))).map (a - 7 + ·)).filter fun n =>
      x.kindAt n == 1 && x.drawerAt n == d && n % 64 != 57
  | none => []

/-- The frames of the retraining of strait t. -/
def Strait.retrainFrames (x : Strait) : List Nat :=
  match x.retrain with
  | some (a, b) => (List.range (b + 1 - a)).map (a + ·)
  | none => []

/-- The retraining of strait t delays request r to a drawer: but for it, a frame of it could carry the request. -/
def State.delaysRequest (s : State) (t : Nat) (r : DrawerReq) : Bool :=
  r.frame.isNone && match s.region r.pa with
    | .drawer d => s.drawerStrait d r.pa == some t && ((s.strait t).spoilt d).any fun n => r.ready ≤ 48 * n
    | _ => false

/-- It delays outstanding window load o of core c: a frame of it could carry the request to the chip. -/
def State.delaysWindow (s : State) (c t : Nat) (o : Out) : Bool :=
  o.asked.isNone && match o.kind with
    | .load _ pa _ _ =>
      (match s.region pa with
        | .peer chip => (s.fabricLine (isleOf c) pa).isNone && (s.strait t).retrainFrames.any fun n =>
            s.couldCarry t n chip 528 && o.since ≤ s.frameBase.toNat + 48 * n
        | _ => false)
    | _ => false

/-- The stall of core c waits for the access that a request serves: of its own front end, or of a unit of any core. -/
def State.awaitsRequest (s : State) (c : Nat) (r : DrawerReq) : Bool :=
  let a := s.awaits c
  let u := r.unit % 32
  if u = 0 then r.core == c && (if r.unit = 0 then (s.core c).outs.any fun o => o.id == r.id && a.out o else a.walk)
  else (s.unitWork r.core u).any a.work

/-- The retraining of strait t delays a drawer or a window access that the stall of core c waits for (19 R403, R404). -/
def State.delaysAccess (s : State) (c t : Nat) : Bool :=
  (s.drawerReqs.any fun r => s.delaysRequest t r && s.awaitsRequest c r)
    || (s.core c).outs.any fun o => (s.awaits c).out o && s.delaysWindow c t o

/-- It delays a piece of a send that the stall of core c waits for: a frame of it could carry the piece or its
acknowledgement. -/
def State.delaysSend (s : State) (c t : Nat) : Bool :=
  (List.range 16).any fun q => (s.sendWork c q).any (s.awaits c).work
    && (s.strait t).retrainFrames.any fun n => s.couldCarry t n q 48 || s.couldBring t n q

/-- The retraining of strait t delays a piece of chip q, of a message that has begun to land or, as the far chip has it, of
one that has not (log 9, DESIGN CHOICE). -/
def State.delaysPiece (s : State) (t q : Nat) (begun : Bool) : Bool :=
  let l := (s.strait t).retrainFrames
  (l.any fun n => s.couldBring t n q) && (begun || Config.pieceHeld (l.headD 0) q)

/-- It delays a piece of a message whose landing the stall of core c waits for. -/
def State.delaysMessage (s : State) (c t : Nat) : Bool :=
  let a := s.awaits c
  s.cores.any fun p => (p.2.inbound.any fun m => a.recv p.1 m.post && s.delaysPiece t m.chip true)
    || (List.range 8).any fun i => (p.2.recv i).posted && a.recv p.1 (p.2.recv i) && s.delaysPiece t (p.2.recv i).chip false

/-- Core c is held by strait t (19 R404). -/
def State.heldBy (v : State) (c t : Nat) : Bool :=
  let s : State := { v with veil := none }
  (s.strait t).retrainsIn s.frame && s.frontStalls c && (s.delaysAccess c t || s.delaysSend c t || s.delaysMessage c t)

/-- TRAP_INFO of LINK_STALL. -/
def State.linkStallInfo (s : State) (c t : Nat) : Nat :=
  t + 16 * b2n (!({ s with veil := none } : State).delaysAccess c t)

/-! ## Time (01 R13, 19 R404) -/

/-- The straits that retrain in the present frame. -/
def State.retraining (s : State) : List Nat := (List.range 16).filter fun t => (s.strait t).retrainsIn s.frame

/-- The first cycle in which core c can be held from now on: it has issued in its last one. -/
def State.heldFrom (s : State) (c : Nat) : Nat := Nat.max s.cycle.toNat ((s.core c).issCycle + 1)

/-- The cycle at which core c has counted STALL_LIMIT cycles in a row held by strait t, as things stand (19 R404): none
when it counts none, or has taken its LINK_STALL of this retraining. -/
def State.stallAt (s : State) (c t : Nat) : Option Nat :=
  let k := s.core c
  if !k.live || k.stallLimit == 0 || k.stallTaken.contains t || k.stallDue.isSome || !s.heldBy c t then none
  else some (s.heldFrom c + (k.stallLimit.toNat - Tab.get 0 k.heldFor t))

/-- Every such cycle, with its core and its strait. -/
def State.stallsDue (s : State) : List (Nat × Nat × Nat) :=
  s.retraining.flatMap fun t => s.cores.filterMap fun p => (s.stallAt p.1 t).map fun d => (d, p.1, t)

/-- The next cycle at which a boundary is due or a count reaches STALL_LIMIT. -/
def State.due (s : State) : Nat := s.stallsDue.foldl (fun b q => Nat.min b q.1) s.dueBoundary

/-- What is due at cycle d may come now: nothing else is due before it. -/
def State.boundaryDue (s : State) (d : Nat) : Bool := d ≤ s.due

/-- The counts of core c once cycle d has come: those of the straits that hold it go on, every other restarts. -/
def State.heldCounts (s : State) (c d : Nat) : Tab Nat :=
  s.retraining.foldl (fun h t =>
    Tab.put 0 h t (if s.heldBy c t then Tab.get 0 (s.core c).heldFor t + (d - s.heldFrom c) else 0)) []

/-- Core c takes LINK_STALL of strait t: in handler state the trap waits (19 R405). -/
def State.takeStall (s : State) (c t info : Nat) : State :=
  let k := s.core c
  let s' := s.modCore c fun k => { k with stallTaken := k.stallTaken ++ [t] }
  if k.hs then s'.modCore c fun k => { k with stallDue := some (.ofNat 64 info) }
  else s'.takeTrap c ⟨.linkStall, info, 0⟩ k.pc 8

/-- Time passes to cycle d: while a strait retrains, the cores that it holds count (19 R404). -/
def State.countTo (s : State) (d : Nat) : State :=
  if s.retraining.isEmpty || d ≤ s.cycle.toNat then { s with cycle := .ofNat 64 d }
  else { s with cycle := .ofNat 64 d
                cores := s.cores.map fun p => (p.1, { p.2 with heldFor := s.heldCounts p.1 d }) }

/-- Cycle d comes: the cores whose count has reached STALL_LIMIT by then take LINK_STALL (19 R404). -/
def State.passTo (s : State) (d : Nat) : State :=
  (s.stallsDue.filter fun q => q.1 ≤ d).foldl (fun t q => t.takeStall q.2.1 q.2.2 (s.linkStallInfo q.2.1 q.2.2))
    (s.countTo d)

/-- Some time passes, but nothing that is due comes (log 5, DESIGN CHOICE). -/
def State.tick (s : State) : State :=
  let d := Nat.max s.cycle.toNat (Nat.min (s.cycle.toNat + Config.elapse s.freeNo) (s.due - 1))
  { s.countTo d with freeNo := s.freeNo + 1 }

end Sys2Proof.Machine
end

