-- ==== Sys2Proof/Machine/Bundle.lean ====
section
/-! DEFINITION. The front end: considering a bundle, its boundary, faults in the order of 08 R434, breakpoints, and the
issue of a bundle (05 R102 to R111, 06 R126 to R135, R149 to R154, 08 R181, R185, R197, R200, R201). -/

namespace Sys2Proof.Machine

open Sys2Proof

/-! ## Engine faults (08 R185) -/

/-- The path of an engine, by its code in fence.x. -/
def unitPath (unit : Nat) : Nat :=
  if unit = 0 then 2 else if unit ≤ 8 then 1 else if unit = 9 then 3 else if unit = 10 then 4 else 1

/-- A queued op would go to the stopped engine of a fault (08 R185). -/
def State.goesTo (s : State) (c : Nat) (f : EFault) (e : QEntry) : Bool :=
  if f.unit = 0 then e.slot == 3 || isAcpy e.instr
  else if f.unit ≤ 8 then chanOf e.instr == some (f.unit - 1)
  else if f.unit = 9 then gatherOf e.instr == some f.queue
  else if f.unit = 10 then match s.linkQueue c e with
    | some q => q == (f.kind, f.queue)
    | none => false
  else e.slot == 4 + f.queue && !e.left

/-- The ops that the stopped engine of a fault holds. -/
def State.heldOps (s : State) (c : Nat) (f : EFault) : List QEntry :=
  let k := s.core c
  let waiting := (k.mq ++ k.c0q ++ k.c1q).filter (s.goesTo c f)
  let inside :=
    if f.unit = 0 then (k.call.map (·.entry)).toList ++ (k.acpy.map (·.entry)).toList
    else if f.unit ≤ 8 then (k.chan (f.unit - 1)).fifo.map (·.entry)
    else if f.unit = 10 ∧ f.kind = 0 then (k.sends f.queue).map (·.entry)
    else []
  waiting ++ inside

/-- An op of the list of R185 that reports a pending fault. -/
def State.reports (s : State) (c : Nat) (f : EFault) (i : Instr) : Bool :=
  let k := s.core c
  let tags := fun m : BitVec 16 => (s.heldOps c f).any fun e => (k.namedTags e).any fun d => m.getLsbD d
  match i with
  | .wait _ _ x t => if f.unit = 0 then t != 15 else x != 15
  | .wtag m => tags m
  | .wtagClr m => tags m
  | .barWait .. => true
  | .barPar .. => true
  | .cbPop .. => true
  | .flWait .. => true
  | .gBar _ => true
  | .fenceX _ q p => p.toNat == unitPath f.unit || q.toNat == unitPath f.unit
  | .fenceSc => true
  | .step => true
  | .ndDone .. => true
  | .ndSpawn .. => true
  | .ndSel .. => true
  | .halt => true
  | _ => false

/-- The lower unit first, then the lower queue. -/
def EFault.before (a b : EFault) : Bool := a.unit < b.unit || (a.unit == b.unit && a.queue ≤ b.queue)

/-- The pending fault to report of those in a list. -/
def firstFault (l : List EFault) : Option EFault :=
  l.foldl (fun b f => match b with
    | none => some f
    | some g => if g.before f then some g else some f) none

/-- The pending fault that an op reports. -/
def State.reportedBy (s : State) (c : Nat) (i : Instr) : Option EFault :=
  firstFault ((s.core c).efaults.filter fun f => !f.taken && s.reports c f i)

/-- The pending fault that a bundle reports, with the slot of the op that triggers it. -/
def State.bundleReport (s : State) (c : Nat) (ops : List SlotOp) : Option (EFault × Nat) :=
  match firstFault (ops.filterMap fun o => s.reportedBy c o.instr) with
  | none => none
  | some f => (ops.find? fun o => s.reports c f o.instr).map fun o => (f, o.slot)

/-- Take ENGINE for a pending fault (08 R182, R185). -/
def State.takeEngine (s : State) (c : Nat) (f : EFault) (pc slot : Nat) : State :=
  let s := s.modCore c fun k =>
    { k with efaults := k.efaults.map fun g => if g = f then { g with taken := true } else g }
  s.takeTrap c ⟨.engine, f.info, f.addr⟩ pc slot

/-! ## Considering a bundle -/

/-- The core halts for a request to stop (08 R190). -/
def Core.halt (k : Core) : Core := { k with run := .halted, preReq := false }

/-- A bundle whose ops are known: its ENGINE trap, its stalls, the walks of its addresses, or it is presented for issue.
A core that is asked to stop halts where it would wait. -/
def State.considerOps (s : State) (c : Nat) (ops : List SlotOp) (next : Nat) (answered : Bool) : State :=
  let k := s.core c
  match s.bundleReport c ops with
  | some (f, slot) => s.takeEngine c f k.pc slot
  | none => match s.stallOf c ops next with
    | some t => s.setCore c (if k.preReq && !answered then k.halt else t)
    | none =>
      if answered then s.present c ops next true
      else if k.preReq && s.bundleWalks c ops next then s.setCore c k.halt
      else s.withWalks c 0 .cp (s.bundleVas c ops next) fun t => t.present c ops next false

/-- Fetch the bundle at the pc of core c and consider it. -/
def State.considerBundle (s : State) (c : Nat) (answered : Bool) : State :=
  let k := s.core c
  match k.fetch with
  | .trap t slot => s.takeTrap c t k.pc slot
  | .bundle ops next =>
    if k.rep.isSome && repBan ops then
      s.freshen.takeTrap c ⟨.illegalOp, (Config.unstated s.freeNo).toNat, 0⟩ k.pc 0
    else s.considerOps c (executing k.pwin ops) next answered

/-! ## The boundary before a bundle -/

/-- An op that holds was ended without its condition: its trap (06 R154).  The trap codes that end one are
BAR_STATE and GROUP. -/
def endedTrap (e : Nat × W64 × W64) : Trp :=
  ⟨if e.1 = TrapCode.group.num then .group else .barState, e.2.1.toNat, e.2.2⟩

/-- The boundary of a core whose front end a blocking sync op holds (06 R154, 08 R185, R190). -/
def State.atHold (s : State) (c : Nat) (h : Hold) : State :=
  let k := s.core c
  match h.ended with
  | some e => (s.setCore c { k with hold := none }).takeTrap c (endedTrap e) k.pc h.slot
  | none =>
    match s.reportedBy c h.instr with
    | some f => s.takeEngine c f k.pc h.slot
    | none => s.setCore c (if k.preReq then k.halt else k.stallSyncOne)

/-! ## Asynchronous traps -/

/-- An error that an outstanding load or atomic of core c has met is taken (02 R29): it rewinds the segment in which the
load issued, and else it is UNCORR, whose TRAP_PC is the next bundle (log 14, DEDUCED). -/
def State.takeUncorr (s : State) (c : Nat) (q : Nat × Nat) : State :=
  let k := s.core c
  let t := s.setCore c { k with uncorrDue := none }
  if k.segment.first < q.2 then t.trapAt c (uncorrTrap q.1) k.pc 8 else t.takeTrap c (uncorrTrap q.1) k.pc 8

/-- An asynchronous trap that can be taken now: CMPT, or LINK_STALL, which is held while HS = 1 (19 R405). -/
def State.asyncNow (s : State) (c : Nat) : Option (TrapCode × W64) :=
  let k := s.core c
  match k.cmptDue, k.stallDue with
  | some x, _ => some (.cmpt, x)
  | none, some x => if k.hs then none else some (.linkStall, x)
  | none, none => none

/-- Take the asynchronous trap of a core: a LINK_STALL that handler state has held is dropped when the core
is no longer held by its strait (19 R405). -/
def State.takeAsync (s : State) (c : Nat) (a : TrapCode × W64) : State :=
  let k := s.core c
  if a.1 = .linkStall then
    let t := s.setCore c { k with stallDue := none }
    if s.heldBy c (fld a.2 0 4) then t.takeTrap c ⟨.linkStall, a.2.toNat, 0⟩ k.pc 8 else t
  else (s.setCore c { k with cmptDue := none }).takeTrap c ⟨.cmpt, a.2.toNat, 0⟩ k.pc 8

/-- The boundary of core c before its next bundle: an error that is due, an asynchronous trap, a hold, or the bundle. -/
def State.boundary (s : State) (c : Nat) : State :=
  let k := s.core c
  match k.uncorrDue, s.asyncNow c, k.hold with
  | some q, _, _ => s.takeUncorr c q
  | none, some a, _ => s.takeAsync c a
  | none, none, some h => s.atHold c h
  | none, none, none => (s.setCore c (if k.preReq then k else k.startSegment)).considerBundle c false

/-- 05 R102: the bundle boundary of core c: an asynchronous trap, a hold, or the next bundle, which issues, faults or
waits for its home in the same step.  A core that is asked to stop takes a trap of this boundary first, and halts
otherwise (08 R190). -/
def execBundleFetch (core : Nat) (s : State) : Out3 :=
  let k := s.core core
  if !k.live then .next s
  else if k.homeReq then .next (s.setCore core k.stallSyncOne)
  else .next (s.boundary core)

/-- 17 R366: the home of core c's home-decided op answers: the bundle issues, or takes the fault. -/
def execHomeAnswer (core : Nat) (s : State) : Out3 :=
  let k := s.core core
  if !k.live || !k.homeReq then .next s
  else .next ((s.setCore core { k with homeReq := false }).considerBundle core true)

/-! ## What leaves the cluster at issue (08 R199) -/

/-- An access of core c at pa leaves its cluster. -/
def leavesCluster (c pa : Nat) : Bool :=
  match spCore pa with
  | some d => d / 8 != c / 8
  | none => true

/-- An op of a presented bundle of core c works outside its cluster as the bundle issues: on a barrier slot there, on a
group, on the graph (as halt does for a node that has not executed nd.done) or on a dispenser. -/
def State.opLeaves (s : State) (c : Nat) (i : Instr) : Bool :=
  match barOperand i with
  | some sa => match s.resolve c .cp (s.srcS sa) .homeRead with
    | .ok pa => leavesCluster c pa
    | .error _ => false
  | none =>
    match i with
    | .gBar _ | .gRed .. | .gInfo .. | .rdv _ | .ndSpawn .. | .ndSel .. | .ndDone .. | .tkWait .. => true
    | .halt => !(s.core c).ndDone
    | _ => false

/-- TRAP_INFO of a lockstep mismatch (08 R182). -/
def mismatchInfo (pc : Nat) : W64 := .ofNat 64 (2 ^ 63 + pc % 2 ^ 32)

/-! ## Faults of a presented bundle (08 R434) -/

/-- An op of slot S that is decided at a remote place (08 R434). -/
def homeDecided : Instr → Bool
  | .tkGet .. | .tkNext .. => true
  | .sqInit .. | .sqRes .. | .sqCmt .. | .sqRet .. | .sqLen .. | .sqFork .. | .sqDrop .. => true
  | .sqGrow .. | .sqBind .. | .sqBindClr _ | .sqAddr .. => true
  | _ => false
def remoteS (i : Instr) : Bool :=
  homeDecided i || match i with
    | .ndSpawn .. => true
    | .ndSel .. => true
    | _ => false

/-- An op of slot Y that is checked at a remote place (08 R434). -/
def remoteY : Instr → Bool
  | .gBar _ | .gRed .. | .gInfo .. | .rdv _ | .tkWait .. | .cbPop .. | .cbRel .. => true
  | .barInit .. | .barArv .. | .barMark .. | .barWait .. | .barPar .. | .barRet _ => true
  | _ => false

/-- Ops that end a bundle and raise no precise fault of their own before it performs. -/
def noFault : Instr → Bool
  | .trap _ | .brk _ | .halt | .yield | .ndDone .. => true
  | _ => false

/-- The group slot that an op names. -/
def groupOperand : Instr → Option Nat
  | .gBar j => some j.toNat
  | .gRed _ _ _ _ j => some j.toNat
  | .gInfo _ j => some j.toNat
  | .rdv j => some j.toNat
  | _ => none

/-- The fault of a check. -/
def faultOf {α : Type} (r : Except Trp α) : Option Trp :=
  match r with
  | .error t => some t
  | .ok _ => none

/-- XLATE and PROT of a read of n bytes on CP. -/
def State.readable (s : State) (c : Nat) (va : W64) (n : Nat) : Except Trp Unit :=
  match s.resolveRange c .cp va n .read with
  | .error t => .error t
  | .ok l => if s.touchesConfig l then .error ⟨.prot, 2, va⟩ else .ok ()

/-- What the core itself decides of an op that a remote place checks too: its alignment, its translation,
its group slot, the range of its dispenser (08 R434, step 2). -/
def State.ownPart (s : State) (c : Nat) (i : Instr) : Option Trp :=
  match descOperand i, barOperand i, groupOperand i with
  | some (sa, acc), _, _ =>
    let va := s.srcS sa
    if va.toNat % 128 ≠ 0 then some (alignTrap 7 va) else faultOf (s.homeAddr (.core c) va acc)
  | none, some sa, _ =>
    let va := s.srcS sa
    if va.toNat % 16 ≠ 0 then some (alignTrap 4 va) else faultOf (s.resolve c .cp va .homeRead)
  | none, none, some j => faultOf ((s.core c).groupSlot j)
  | none, none, none =>
    match i with
    | .sqFork _ sa sb => faultOf (s.forkAddrs (.core c) (s.srcS sa) (s.srcS sb))
    | .tkGet _ sa n => faultOf (ticketNumber (s.ticketIndex sa n))
    | .tkNext _ sa n => faultOf (ticketNumber (s.ticketIndex sa n))
    | .tkWait _ sb n => faultOf (ticketNumber (s.ticketIndex sb n))
    | .ndSpawn _ sa =>
      let va := s.srcS sa
      if va.toNat % 256 ≠ 0 then some (alignTrap 0 va) else faultOf (s.readable c va 256)
    | .ndSel _ sa =>
      let va := s.srcS sa
      if va.toNat % 64 ≠ 0 then some (alignTrap 6 va) else faultOf (s.readable c va 64)
    | _ => none

/-- The state in which op o alone is tried. -/
def State.tryOf (s : State) (o : SlotOp) : State := { s with iss := { s.iss with slot := o.slot, ops := [o] } }

/-- The trap that op o takes when it is tried on the state before the bundle: the state after the trap. -/
def State.trapOf (run : Instr → State → Out3) (s : State) (o : SlotOp) : Option State :=
  match run o.instr (s.tryOf o) with
  | .next t => if t.iss.active then none else some t
  | _ => none

/-- The fault of op o that the core decides itself (08 R434, step 2). -/
def State.coreFault (run : Instr → State → Out3) (s : State) (o : SlotOp) : Option State :=
  let c := s.iss.core
  let taken := fun t : Trp => s.trapAt c t s.iss.pcb o.slot
  if noFault o.instr then none
  else if remoteS o.instr || remoteY o.instr then ((s.tryOf o).ownPart c o.instr).map taken
  else match o.instr with
    | .mcall _ => (s.mhazFault c).map taken
    | _ => s.trapOf run o

/-- The first fault of a presented bundle, in the order of R434: the state after its trap. -/
def State.bundleFault (run : Instr → State → Out3) (s : State) : Option State :=
  let ops := s.iss.ops
  (ops.findSome? fun o => s.coreFault run o).orElse fun _ =>
    (ops.findSome? fun o => if remoteY o.instr then s.trapOf run o else none).orElse fun _ =>
      ops.findSome? fun o =>
        if remoteS o.instr && (s.iss.answered || !homeDecided o.instr) then s.trapOf run o else none

/-! ## Breakpoints (08 R197) -/

/-- The executing slots of a presented bundle as a mask. -/
def slotMask (ops : List SlotOp) : Nat := ops.foldl (fun m o => m ||| 2 ^ o.slot) 0

/-- The bundle matches the breakpoint: the matching slots, which are none under a mask of 0 (log 54, DEDUCED).  A nop whose
guard is false is no executing slot (log 112, DEDUCED). -/
def State.brkMatch (s : State) : Option Nat :=
  let k := s.curCore
  let m := slotMask s.iss.ops &&& fld k.brkMask 0 8
  if k.brkMask.getLsbD 8 && k.brkPc.toNat == s.iss.pcb && (fld k.brkMask 0 8 == 0 || m != 0) then some m
  else none

/-- The breakpoint of a presented bundle traps: EN becomes 0. -/
def State.takeBreak (s : State) (m : Nat) : State :=
  let c := s.iss.core
  let s := s.modCore c fun k => { k with brkMask := setFld k.brkMask 8 1 0 }
  s.takeTrap c ⟨.brk, 2 ^ 63 + m, 0⟩ s.iss.pcb 8

/-! ## Issue -/

/-- The repeat state after the bundle in hand has issued, and the pc (06 R149). -/
def Core.repAdvance (k : Core) (next : Nat) : Core :=
  match k.rep with
  | none => { k with pc := next }
  | some r =>
    if r.pos + 1 < r.len then { k with pc := next, rep := some { r with pos := r.pos + 1 } }
    else if 1 < r.left then { k with pc := r.start, rep := some { r with pos := 0, left := r.left - 1 } }
    else { k with pc := next, rep := none }

/-- The loop buffer captures a bundle of its region (06 R152). -/
def Core.capture (k : Core) (pc : Nat) : Core :=
  if k.loopBuf.pinned.contains pc && !k.loopBuf.captured.contains pc then
    { k with loopBuf := { k.loopBuf with captured := k.loopBuf.captured ++ [pc] } }
  else k

/-- The bundle issues, after some time: its number, the next pc, and the counts of R404 restart; CMPT is due when the two
copies of what one of its ops does differ (08 R199). -/
def State.issue (s : State) (hit : Option Nat) : State :=
  let i := s.iss
  let t := s.tick
  t.modCore i.core fun k =>
    let k := (k.capture i.pcb).repAdvance i.npc
    { k with
      seq := i.seq, issPc := i.pcb, issCycle := t.cycle.toNat, heldFor := []
      cmptDue := if i.lost.isSome then k.cmptDue.orElse fun _ => some (mismatchInfo i.pcb) else k.cmptDue
      segment := { k.segment with closing := false }
      brkCount := if hit.isSome then k.brkCount - 1 else k.brkCount }

/-- The ops of a bundle in the order in which the model runs them: a remote op of slot S, the loads, the
other slots in order, slot Y, and last an op that leaves the bundle's stream (log 8, DESIGN CHOICE). -/
def isLoad : Instr → Bool
  | .ldB .. | .ldH .. | .ldW .. | .ldD .. | .ldBu .. | .ldHu .. | .ldWu .. | .ldQ .. => true
  | .vld .. | .vldx .. | .bnLd .. => true
  | _ => false
def isLast : Instr → Bool
  | .trap _ | .brk _ | .rett | .halt | .yield => true
  | _ => false
def opRank (o : SlotOp) : Nat :=
  if remoteS o.instr then 0 else if isLoad o.instr then 1 else if isLast o.instr then 4
  else if o.slot = 6 then 3 else 2
def runOrder (ops : List SlotOp) : List SlotOp :=
  (List.range 5).flatMap fun r => ops.filter fun o => opRank o == r

/-- The ops that run as the bundle issues: all but one whose two copies differ (08 R199). -/
def State.issuing (s : State) : List SlotOp := s.iss.ops.filter fun o => s.iss.lost != some o.slot

/-! ## Latencies (06 R131, 09 R216, 15 R335) -/

/-- The exact latency of an op whose result its register holds at issue (06 R131, 09 R216). -/
def exactLatency : Instr → Option Nat
  | .mul .. | .mulh .. | .mulhu .. => some 3
  | .div .. | .divu .. | .rem .. | .remu .. => some 20
  | .vminF .. | .vmaxF .. | .vabsF .. | .vaddI .. | .vsubI .. | .vmulI .. | .vminI .. | .vmaxI .. => some 2
  | .vand .. | .vor .. | .vxor .. | .vshl .. | .vshr .. | .vsar .. => some 2
  | .vmov .. | .vsel .. | .vbcast .. | .vperm .. | .vcmp .. | .kop .. => some 2
  | .vcmprs .. | .vexpd .. | .kpop .. | .vext .. => some 3
  | .vaddF .. | .vsubF .. | .vmulF .. | .vfmaF .. | .vcvt .. | .vunpk .. | .vscl .. | .vxg .. => some 4
  | .vpackMx .. | .vdesc .. => some 6
  | .vexp2 .. | .vlog2 .. | .vrcp .. | .vrsqrt .. | .vtanh .. | .vred .. | .vpfx .. => some 8
  | .vnoise .. => some 10
  | _ => none

/-- The latency of a load from the own scratchpad, before it waits for a bank (06 R131, 09 R216). -/
def ownLatency : Instr → Option Nat
  | .ldB .. | .ldH .. | .ldW .. | .ldD .. | .ldBu .. | .ldHu .. | .ldWu .. | .ldQ .. | .bnLd .. => some 4
  | .vld .. => some 6
  | .vldx .. => some 8
  | _ => none

/-- The least cycles of a load of core c from pa elsewhere (06 R131): of shelf memory those of a hit; a drawer and a peer
window have the times of the straits. -/
def State.farLatency (s : State) (c pa : Nat) : Option Nat :=
  match s.region pa with
  | .scratch d => some (if d / 8 = c / 8 then 24 else if isleOf d = isleOf c then 60 else 90)
  | .shelf _ => some 60
  | .config => some 120
  | _ => none

/-- The least cycles after which a store of core c to pa performs (06 R131). -/
def State.storeLatency (s : State) (c pa : Nat) : Option Nat :=
  match s.region pa with
  | .scratch d => if d = c then some 1 else s.farLatency c pa
  | .drawer _ => some 60
  | _ => s.farLatency c pa

/-- Something beside core c may use the banks of its scratchpad: its copy channels and gather queues, a message that lands,
or another core that has a node (15 R335). -/
def State.banksShared (s : State) (c : Nat) : Bool :=
  let k := s.core c
  (List.range 8).any (fun ch => !(k.chan ch).fifo.isEmpty)
    || (List.range 4).any (fun q => !(k.gqueue q).items.isEmpty || !(k.gqueue q).rows.isEmpty)
    || !k.inbound.isEmpty || s.cores.any fun p => p.1 != c && p.2.run != .free

/-- The cycles for which core access `id` waits for its banks: none where nothing shares them, else at most 8, a free value
(15 R335, log 127, DESIGN CHOICE). -/
def State.bankWait (s : State) (c id : Nat) : Nat := if s.banksShared c then Config.bankWait c id % 9 else 0

/-- The latency of an outstanding op that an instruction of core c has left. -/
def State.latencyOf (s : State) (c : Nat) (i : Instr) (o : Out) : Option Nat :=
  match o.kind with
  | .load _ pa _ _ => s.farLatency c pa
  | .done => (exactLatency i).orElse fun _ => (ownLatency i).map fun n => n + s.bankWait c o.id
  | .atomic .. => none

/-- The results that op i has left from number `first` on may be read, and its stores may perform, when their latency has passed
(06 R131). -/
def State.timed (s : State) (first : Nat) (i : Instr) : State :=
  let c := s.iss.core
  let sto := fun x : Sto => if first ≤ x.id then { x with ready := (s.storeLatency c x.pa).map (s.iss.at_ + ·) } else x
  s.modCore c fun k => { k with
    outs := k.outs.map fun o => if first ≤ o.id then { o with ready := (s.latencyOf c i o).map (s.iss.at_ + ·) } else o
    stores := k.stores.map sto, segment := { k.segment with buffer := k.segment.buffer.map sto } }

/-- Run ops of the bundle in hand, in order; a trap among them ends it. -/
def runOps (run : Instr → State → Out3) : List SlotOp → State → Out3
  | [], s => .next (s.clearIssue s.iss.core)
  | o :: rest, s =>
    match run o.instr { s with iss := { s.iss with slot := o.slot } } with
    | .next t => if t.iss.active then runOps run rest (t.timed s.curCore.nextId o.instr) else .next t
    | r => r

/-- The part of settling after the breakpoint. -/
def State.settleFaults (run : Instr → State → Out3) (s : State) (hit : Option Nat) : Out3 :=
  let i := s.iss
  match s.bundleFault run with
  | some t => .next t
  | none =>
    if s.curCore.preReq && !i.answered then .next ((s.modCur (·.halt)).clearIssue i.core)
    else if !i.answered && i.ops.any fun o => homeDecided o.instr then
      .next ((s.modCore i.core fun k => { k.stallSyncOne with homeReq := true }).clearIssue i.core)
    else runOps run (runOrder s.issuing) (s.issue hit)

/-- Settle the bundle that bundleFetch or homeAnswer has presented, when there is one: its breakpoint, its
faults, the request to its home, or its issue.  `run` is exec. -/
def State.settle (run : Instr → State → Out3) (s : State) : Out3 :=
  if !s.iss.active then .next s
  else match s.brkMatch with
    | some m => if s.curCore.brkCount = 0 then .next (s.takeBreak m) else s.settleFaults run (some m)
    | none => s.settleFaults run none

end Sys2Proof.Machine
end

