-- ==== Sys2Proof/Machine/BitNet.lean ====
section
/-! DEFINITION. The bit network's permutations (06 R164, R166); bn.ld is in Machine/LoadStore.lean. -/

namespace Sys2Proof.Machine

open Sys2Proof

/-- Selector j of a pattern. -/
def selector (p : BitVec 512) (j : Nat) : Nat := fld p (8 * j) 8

/-- Bit j of the result: a source bit, or for a constant selector the constant of bn.map or the old bit
of bn.mapx (06 R164). -/
def mapBit (keep : Bool) (p : BitVec 512) (a b old : W64) (j : Nat) : Bool :=
  let t := selector p j
  if t < 64 then a.getLsbD t
  else if t < 128 then b.getLsbD (t - 64)
  else if keep then old.getLsbD j
  else t % 2 == 1

/-- The permuted word. -/
def bitMap (keep : Bool) (p : BitVec 512) (a b old : W64) : W64 :=
  .ofNat 64 (((List.range 64).map fun j => if mapBit keep p a b old j then 2 ^ j else 0).sum)

/-- 06 R166. -/
def execBnMap (sd sa sb : SR) (n : BitVec 3) (s : State) : Out3 :=
  .next (s.dstS sd (bitMap false (s.curCore.bnet n.toNat) (s.srcS sa) (s.srcS sb) (s.srcS sd)))

/-- 06 R166: a constant selector keeps the old bit. -/
def execBnMapx (sd sa sb : SR) (n : BitVec 3) (s : State) : Out3 :=
  .next (s.dstS sd (bitMap true (s.curCore.bnet n.toNat) (s.srcS sa) (s.srcS sb) (s.srcS sd)))

end Sys2Proof.Machine
end

