-- ==== Sys2Proof/Machine/Dispatcher.lean ====
section
/-! DEFINITION. The dispatcher: kernel images and node records, the dispatch of a node, placement, and
pre-emption by the dispatcher (07 R167, R168, R171 to R176, 08 R189, R193). -/

namespace Sys2Proof.Machine

open Sys2Proof

/-! ## Kernel images (07 R167) -/

/-- The header of a kernel image. -/
structure KernelHeader where
  entry : Nat
  codeLen : Nat
  ndict : Nat
  imgLen : Nat
  deriving DecidableEq, Repr, Inhabited

/-- NAME is ASCII, padded with zeros. -/
def nameOk : List Byte → Bool
  | [] => true
  | b :: bs => if b = 0 then bs.all (· == 0) else b.toNat < 128 && nameOk bs

/-- An 8-byte word of a list of bytes. -/
def wordAt (bs : List Byte) (off : Nat) : Nat := leNat ((bs.drop off).take 8)

/-- The 64 bytes of a header, when they keep R167. -/
def kernelHeader (bs : List Byte) : Option KernelHeader :=
  let w20 := wordAt bs 0x20
  let w28 := wordAt bs 0x28
  let w30 := wordAt bs 0x30
  let h : KernelHeader := { entry := w20 % 2 ^ 32, codeLen := w20 / 2 ^ 32, ndict := w28 % 2 ^ 16, imgLen := w30 % 2 ^ 32 }
  if nameOk (bs.take 0x20) && 1 ≤ h.codeLen && h.codeLen ≤ 2 ^ 31 && h.entry % 2 == 0 && h.entry < 2 * h.codeLen
      && h.ndict ≤ 2048 && bitsAt w28 16 16 ≤ 1024 && w28 / 2 ^ 32 == 0 && h.imgLen ≤ 0x200000
      && w30 / 2 ^ 32 == 0 && wordAt bs 0x38 == 0 then some h
  else none

/-- Little-endian numbers of n bytes each. -/
def groupBytes (n : Nat) : Nat → List Byte → List Nat
  | 0, _ => []
  | m + 1, bs => leNat (bs.take n) :: groupBytes n m (bs.drop n)

/-- The offsets of the code stream and of the scratchpad image. -/
def KernelHeader.codeOff (h : KernelHeader) : Nat := 0x40 + 48 * h.ndict
def KernelHeader.imgOff (h : KernelHeader) : Nat := (h.codeOff + 2 * h.codeLen + 63) / 64 * 64

/-- The code of a trap as a launch status: 0x16 (07 R173). -/
def orFail {α : Type} (code : Nat) (r : Except Trp α) : Except Nat α :=
  match r with
  | .ok a => .ok a
  | .error _ => .error code

/-- Fetch the header, the dictionary and the code stream of the image at k for a context (07 R172 step 2);
a failure code otherwise. -/
def State.fetchKernel (s : State) (ctx : Nat) (k : W64) : Except Nat (KernelHeader × List Nat × List Nat) :=
  if k.toNat % 64 ≠ 0 then .error 0x10
  else do
    let bs ← orFail 0x16 (s.rootRead ctx k 64)
    match kernelHeader bs with
    | none => .error 0x10
    | some h => do
      let d ← orFail 0x16 (s.rootRead ctx (k + 0x40) (48 * h.ndict))
      let c ← orFail 0x16 (s.rootRead ctx (k + .ofNat 64 h.codeOff) (2 * h.codeLen))
      return (h, groupBytes 48 h.ndict d, groupBytes 2 h.codeLen c)

/-! ## Node records (07 R168, R171) -/

/-- The 256 bytes of a node record as words. -/
abbrev NodeRec := List W64

/-- A word of a record. -/
def NodeRec.word (r : NodeRec) (off : Nat) : W64 := r.getD (off / 8) 0

/-- The operand images: SRC, DST and the bytes to copy. -/
def NodeRec.operands (r : NodeRec) : List (W64 × Nat × Nat) :=
  (List.range 6).map fun i =>
    let w := r.word (0x48 + 16 * i)
    (r.word (0x40 + 16 * i), fld w 0 21, 64 * fld w 32 16)

/-- An operand image keeps R171. -/
def operandOk (w : W64) : Bool :=
  fld w 21 11 == 0 && fld w 48 16 == 0 && fld w 0 6 == 0 && fld w 32 16 ≤ 32768
    && fld w 0 21 + 64 * fld w 32 16 ≤ 0x200000

/-- A record keeps R168 and R171. -/
def NodeRec.ok (r : NodeRec) : Bool :=
  let w18 := r.word 0x18
  fld w18 19 1 == 0 && fld w18 24 8 == 0 && fld (r.word 0x28) 42 22 == 0
    && !(w18.getLsbD 16 && fld w18 20 4 != 0)
    && ((List.range 12).all fun i => r.word (0xA0 + 8 * i) == 0)
    && (List.range 6).all fun i => operandOk (r.word (0x48 + 16 * i))

/-- Read a node record. -/
def State.readNode (s : State) (ctx : Nat) (n : W64) : Except Trp NodeRec := do
  let bs ← s.rootRead ctx n 256
  return (groupBytes 8 32 bs).map (BitVec.ofNat 64)

/-! ## Dispatch (07 R172) -/

/-- The registers of a core at dispatch (06 R126, 07 R172, 09 R212, 11 R251, R259, R268, 16 R347,
19 R406): the cached translations stay, and so do the refusals of messages that no node of this core was there to take
(19 R396).  The ANCHOR bits of a row are 0 then (log 137, DESIGN CHOICE). -/
def Core.dispatched (k : Core) (p : PoolNode) (ccb : Nat) : Core :=
  { Core.reset with
    nextId := k.nextId, tlb := k.tlb, tlbMx := k.tlbMx, tlbCy := k.tlbCy, tlbGa := k.tlbGa, tlbLk := k.tlbLk
    refused := k.refused, node := .ofNat 64 p.node, launch := .ofNat 64 p.launch, ctx := p.ctx, ccb := ccb, service := p.service }

/-- A core whose dispatch has failed in step 3: its copy-engine state has its dispatch value (07 R172). -/
def Core.copyReset (k : Core) : Core :=
  { k with cb := Core.reset.cb, ag := Core.reset.ag, gq := Core.reset.gq, chans := Core.reset.chans }

/-- s1 to s8 at dispatch (07 R172 step 4). -/
def dispatchRegs (r : NodeRec) (n launch : W64) : Tab W64 :=
  ((r.operands.map (·.1) ++ [n, launch]).zipIdx).foldl (fun t q => Tab.put 0 t (q.2 + 1) q.1) []

/-- Disarm every barrier slot of a scratchpad; a waiter on one takes BAR_STATE (07 R172 step 3). -/
def State.disarmAll (s : State) (c : Nat) : State :=
  (s.armed.filter fun a => inOwn c (16 * a)).foldl (fun t a => t.disarm (16 * a)) s

/-- Copy operand images in order, on behalf of core c: the first that faults ends the copying. -/
def State.copyOperands (s : State) (c : Nat) : List (W64 × Nat × Nat) → State × Bool
  | [] => (s, true)
  | (src, dst, n) :: l =>
    if n = 0 then s.copyOperands c l
    else match s.memRead c .cp src n with
      | .error _ => (s, false)
      | .ok bs =>
      let t := (s.fillPeer (isleOf c) (s.readsOf c .cy src n)).freshen
      (t.writeBytes (spBase c + dst) bs).copyOperands c l

/-- Step 3 of dispatch: the scratchpad image, then the operand images. -/
def State.copyImages (s : State) (c : Nat) (p : PoolNode) (r : NodeRec) (h : KernelHeader) : State × Bool :=
  match s.rootRead p.ctx (r.word 0 + .ofNat 64 h.imgOff) h.imgLen with
  | .error _ => (s, false)
  | .ok bs => (s.writeBytes (spBase c) bs).copyOperands c r.operands

/-- Step 4 of dispatch: core c issues from ENTRY. -/
def State.startCore (s : State) (c : Nat) (r : NodeRec) (h : KernelHeader) (dict code : List Nat) : State :=
  let w18 := r.word 0x18
  let s1 := (s.freshViews c).modCore c fun k => { k with
    run := .running, s := dispatchRegs r k.node k.launch, pc := h.entry, code := code, dict := dict
    gvalid := .ofNat 4 (fld w18 20 4), gid := .ofNat 32 (fld w18 32 32), midx := .ofNat 32 (fld (r.word 0x28) 0 32)
    trapEntry := .ofNat 32 (fld (s.ccbWord k.ccb 8) 0 32), runId := s.nextRun }
  { s1 with nextRun := s.nextRun + 1 }

/-- The odd core of a lockstep pair is busy with its partner's node (08 R199). -/
def State.takePartner (s : State) (ctx c : Nat) : State :=
  if s.lockstep ctx && c < 256 then s.modCore (partnerOf c) fun k => { k with run := .partner } else s

/-- Steps 1 to 4 of the dispatch of a node to core c: a failure code, with what was done before it.  The record is checked
before step 1 (log 117, DEDUCED). -/
def State.dispatchTo (s : State) (p : PoolNode) (c : Nat) : State × Option Nat :=
  let n := BitVec.ofNat 64 p.node
  match s.readNode p.ctx n with
  | .error _ => (s, some 0x16)
  | .ok r =>
    if !r.ok then (s, some 0x11)
    else
      let w28 := setFld (setFld (r.word 0x28) 32 2 2) 34 8 (coreId c).toNat
      match s.rootPut p.ctx (n + 0x28) w28 with
      | .error _ => (s, some 0x16)
      | .ok s =>
        match s.fetchKernel p.ctx (r.word 0) with
        | .error code => (s, some code)
        | .ok (h, dict, code) =>
          let ccb := (s.ctx p.ctx).elim 0 (·.ccb)
          let old := s.core c
          let t := (s.disarmAll c).setCore c (old.dispatched p ccb)
          match t.copyImages c p r h with
          | (t, false) => (t.setCore c old.copyReset, some 0x16)
          | (t, true) => ((t.startCore c r h dict code).takePartner p.ctx c, none)

/-- Dispatch a node that has left the pool to core c; a failure fails its launch (07 R172, R173). -/
def State.dispatchNode (s : State) (p : PoolNode) (c : Nat) : State :=
  match s.dispatchTo p c with
  | (t, none) => t
  | (t, some code) =>
    let n := BitVec.ofNat 64 p.node
    let l := BitVec.ofNat 64 p.launch
    (t.failLaunch p.ctx l code n).leaveLive p.ctx n l

/-! ## Placement (07 R174, R176, R177) -/

/-- The cluster of a compute core. -/
def clusterOf (c : Nat) : Nat := c / 8

/-- Core c can take a node: it is free, its cluster has power, and in early service it is one of the 64 cores of
isle 0 (21 R428). -/
def State.coreFree (s : State) (c : Nat) : Bool :=
  (s.core c).run == .free
    && (256 ≤ c || !s.power.gated.getLsbD (clusterOf c)) && (!s.early || c < 64)

/-- Core c can take a node of a context: for lockstep the pair of clusters 2i and 2i + 1 (08 R199).  A service core stands in
no cluster and takes it alone (log 128, DEDUCED). -/
def State.seatFree (s : State) (ctx c : Nat) : Bool :=
  s.coreFree c && (256 ≤ c || !s.lockstep ctx || (clusterOf c % 2 == 0 && s.coreFree (partnerOf c)))

/-- PRIO of a context (08 R188). -/
def State.ctxPrio (s : State) (ctx : Nat) : Nat :=
  match s.ctx ctx with
  | some x => fld (s.ccbWord x.ccb 0x18) 4 2
  | none => 0

/-- CSTATE of a context (08 R188). -/
def State.cstate (s : State) (ctx : Nat) : Nat :=
  match s.ctx ctx with
  | some x => fld (s.ccbWord x.ccb 0x18) 8 2
  | none => 0

/-- A saved core names core c among those that it takes. -/
def SavedCore.seats (v : SavedCore) (c : Nat) : Bool := v.core == c || (v.lock && partnerOf v.core == c)

/-- A saved node whose context is being restored takes core c ahead of a node of context ctx: one that the
dispatcher restores does so where PRIO of ctx is not smaller (08 R192, R193). -/
def State.promised (s : State) (ctx c : Nat) : Bool :=
  s.saved.any fun v => v.seats c && match s.ctx v.ctx with
    | some x => x.restoring && (!x.byDispatcher || s.ctxPrio v.ctx ≤ s.ctxPrio ctx)
    | none => false

/-- Core c can take a pool node of a context. -/
def State.seatOpen (s : State) (ctx c : Nat) : Bool :=
  s.seatFree ctx c && !s.promised ctx c
    && (256 ≤ c || !s.lockstep ctx || !s.promised ctx (partnerOf c))

/-- A cluster holds a RUNNING node. -/
def State.clusterBusy (s : State) (cl : Nat) : Bool :=
  s.cores.any fun p => p.1 < 256 && clusterOf p.1 == cl && p.2.run != .free

/-- The order in which the cores of a class are taken (07 R176). -/
def State.seatOrder (s : State) (service : Bool) : List Nat :=
  if service then [256, 257, 258, 259]
  else if s.dispCtl.getLsbD 3 then (List.range 256).map fun p => 8 * (p % 32) + p / 32
  else
    let cl := List.range 32
    (cl.filter s.clusterBusy ++ cl.filter fun x => !s.clusterBusy x).flatMap fun x =>
      (List.range 8).map (8 * x + ·)

/-- The placement cost of a core; its sensor codes are free values (log 9, DESIGN CHOICE). -/
def State.seatCost (s : State) (c : Nat) : Nat :=
  (Config.temp s.freeNo c).toNat + fld s.dispCtl 8 4 * (Config.droop s.freeNo c).toNat

/-- The first of least cost: on equal cost the earlier in the list of candidates, which starts after the class pointer
(log 133, DEDUCED). -/
def cheapest (cost : Nat → Nat) : List Nat → Option Nat
  | [] => none
  | c :: l => match cheapest cost l with
    | some d => if cost d < cost c then some d else some c
    | none => some c

/-- The class pointer: the position of the core chosen last, from which the next search starts (07 R176; log 22,
DEDUCED). -/
def State.seatPtr (s : State) (service : Bool) : Nat := if service then s.ptrService else s.ptrCompute

/-- The core that placement chooses for a node, and the new class pointer; cores in `but` are taken already
in this step (07 R176). -/
def State.chooseSeat (s : State) (p : PoolNode) (but : List Nat) : Option (Nat × State) :=
  let order := s.seatOrder p.service
  let k := s.seatPtr p.service + 1
  let cand := ((order.drop k ++ order.take k).filter fun c =>
    s.seatOpen p.ctx c && !but.contains c && !(s.lockstep p.ctx && but.contains (partnerOf c))).take (fld s.dispCtl 0 3 + 1)
  (cheapest s.seatCost cand).map fun c =>
    let n := order.idxOf c
    (c, if p.service then { s with ptrService := n } else { s with ptrCompute := n })

/-- The cores for the nodes of a list, all at once: under pack, the clusters that hold a RUNNING node are those of before the
step (log 131, DESIGN CHOICE). -/
def State.chooseSeats (s : State) (but : List Nat) : List PoolNode → Option (List (PoolNode × Nat) × State)
  | [] => some ([], s)
  | p :: l =>
    match s.chooseSeat p but with
    | none => none
    | some (c, t) =>
      let taken := if t.lockstep p.ctx && c < 256 then [c, partnerOf c] else [c]
      (t.chooseSeats (but ++ taken) l).map fun q => ((p, c) :: q.1, q.2)

/-- The gang group that a node's record names (07 R177). -/
def State.gangOf (s : State) (p : PoolNode) : Option Nat :=
  (namedGroups (s.rootPeek p.ctx (.ofNat 64 p.node + 0x18))).find? fun g => (s.group g).gang

/-- The context of a pool node runs: it is not stopped and not being stopped. -/
def State.ctxRuns (s : State) (ctx : Nat) : Bool :=
  match s.ctx ctx with
  | some x => x.stopping.isNone && s.cstate ctx == 0
  | none => false

/-- A context runs, or its saved nodes are taking their cores again, and no stop is under way. -/
def State.mayStop (s : State) (ctx : Nat) : Bool :=
  match s.ctx ctx with
  | some x => x.stopping.isNone && (x.restoring || s.cstate ctx == 0)
  | none => false

/-- The nodes that are dispatched with pool node p: itself, or COUNT + 1 members of its gang (07 R177). -/
def State.together (s : State) (p : PoolNode) : Option (List PoolNode) :=
  match s.gangOf p with
  | none => some [p]
  | some g =>
    let n := (s.group g).count.toNat + 1
    let l := s.pool.filter fun q => q.ctx == p.ctx && s.gangOf q == some g
    if n ≤ l.length then some (l.take n) else none

/-- The first nodes in pool order that can be placed now, with their cores (07 R174). -/
def State.placeNext (s : State) : Option (List (PoolNode × Nat) × State) :=
  s.pool.findSome? fun p =>
    if !s.ctxRuns p.ctx then none
    else (s.together p).bind fun l => s.chooseSeats [] l

/-! ## Pre-emption by the dispatcher (08 R189, R193) -/

/-- 10 µs in cycles (01 R13). -/
def State.tenMicroseconds (s : State) : Nat := if s.early then 3750 else 15000

/-- No core of a class is free for a node of a context. -/
def State.noSeat (s : State) (ctx : Nat) (service : Bool) : Bool :=
  (s.seatOrder service).all fun c => !s.seatFree ctx c

/-- A context is running: a core holds a node of it, and no stop is under way. -/
def State.isRunning (s : State) (ctx : Nat) : Bool :=
  s.ctxRuns ctx && s.cores.any fun p => p.2.run == .running && p.2.ctx == ctx

/-- The victim for a node of priority p: the running context of the greatest PRIO value, and of those the
greatest number. -/
def State.victim (s : State) (prio : Nat) : Option Nat :=
  ((List.range 16).filter fun x => s.isRunning x && prio < s.ctxPrio x).foldl
    (fun best x => match best with
      | none => some x
      | some y => if s.ctxPrio y ≤ s.ctxPrio x then some x else some y) none

/-- A pool node that has waited 10 µs with no core of its class free. -/
def State.starved (s : State) (p : PoolNode) : Bool :=
  p.since + s.tenMicroseconds ≤ s.cycle.toNat && s.noSeat p.ctx p.service

/-- 08 R189: the dispatcher requests the pre-emption of its victim. -/
def execPreemptTimeout (s : State) : Out3 :=
  match s.pool.findSome? fun p => if s.starved p then s.victim (s.ctxPrio p.ctx) else none with
  | none => .next s
  | some x => .next ((s.requestStop x).setStopping x 1 true)

/-- A response to a host request (21 R431). -/
def response (r : HostReq) (result : Nat) (value : W64) (payload : List Byte) : HostMsg :=
  { conn := r.conn, w0 := .ofNat 64 (fld r.w0 0 8 + 2 ^ 8 * result + 2 ^ 32 * fld r.w0 32 32)
    value := value, len := payload.length, payload := payload }

/-- What a context has come to that requests on it wait for: it is saved, it is restored, or it is gone. -/
inductive Settled where
  | saved
  | restored
  | gone
  deriving DecidableEq, Repr

/-- The RESULT of a waiting request whose effects have all performed by then (21 R431, R432): PREEMPT when the context is
saved, RESUME when it is restored, CLOSE and RELEASE when it is gone.  A RESUME that the context does not live to see
answers NOCTX (log 124, DESIGN CHOICE). -/
def owedResult (opc : Nat) (what : Settled) : Option Nat :=
  match what with
  | .saved => if opc = 8 then some 0 else none
  | .restored => if opc = 9 then some 0 else none
  | .gone => some (if opc = 9 then 7 else 0)

/-- The answers to the requests that waited for what a context has come to (21 R431, R432). -/
def State.answerOwed (s : State) (ctx : Nat) (what : Settled) : State :=
  let result := fun q : Nat × HostReq => if q.1 = ctx then owedResult (fld q.2.w0 0 8) what else none
  { s with
    owedAnswers := s.owedAnswers.filter fun q => (result q).isNone
    hostOut := s.hostOut ++ s.owedAnswers.filterMap fun q => (result q).map fun e => response q.2 e 0 [] }

/-- CSTATE returns to 0 when the last core of a context is restored; the dispatcher reports a restore that
it made (08 R192, R193). -/
def State.endRestore (s : State) (ctx : Nat) : State :=
  match s.ctx ctx with
  | none => s
  | some x =>
    if !x.restoring || s.saved.any (fun v => v.ctx == ctx) then s
    else
      let y := { x with restoring := false, byDispatcher := false }
      let t : State := { s.setCstate x.ccb 0 with ctxs := Tab.put none s.ctxs ctx (some y) }
      (if x.byDispatcher then t.hostEvent ctx 3 else t).answerOwed ctx .restored

/-- The saved nodes of a context take their cores from now on. -/
def State.beginRestore (s : State) (ctx : Nat) : State :=
  match s.ctx ctx with
  | none => s
  | some x =>
    let y := { x with restoring := true }
    State.endRestore { s with ctxs := Tab.put none s.ctxs ctx (some y) } ctx

/-- A pool node keeps a context of the dispatcher from its restore: its context has a smaller PRIO value,
and it waits for a core of a class on which the context holds saved nodes (08 R193). -/
def State.outranks (s : State) (ctx : Nat) (p : PoolNode) : Bool :=
  s.ctxPrio p.ctx < s.ctxPrio ctx
    && s.saved.any fun v => v.ctx == ctx && v.regs.service == p.service

/-- The dispatcher may restore a context that it pre-empted. -/
def State.mayRestore (s : State) (ctx : Nat) : Bool :=
  match s.ctx ctx with
  | some x => x.byDispatcher && x.stopping.isNone && !x.restoring && s.cstate ctx == 1
      && !(s.pool.any (s.outranks ctx))
  | none => false

/-- 08 R193. -/
def execDispatcherRestore (s : State) : Out3 :=
  match (List.range 16).find? s.mayRestore with
  | none => .next s
  | some x => .next (s.beginRestore x)

/-- A dispatch step begins with the contexts that the dispatcher may restore by now: from then on their saved nodes go
ahead (08 R193). -/
def State.restoreDue (s : State) : State :=
  (List.range 16).foldl (fun t x => if t.mayRestore x then t.beginRestore x else t) s

/-- 07 R172: one dispatch step.  It counts as a choice for the free sensor codes.  Members of a gang are dispatched also
after one of the same step has failed (log 115, DEDUCED). -/
def execDispatch (s : State) : Out3 :=
  let s := s.restoreDue
  match s.placeNext with
  | none => .next s
  | some (l, t) =>
    let t := { t with pool := t.pool.filter fun p => !(l.any fun q => q.1 == p) }
    .next (l.foldl (fun u q => u.dispatchNode q.1 q.2) t.freshen)

end Sys2Proof.Machine
end

