-- ==== Sys2Proof/Machine/Context.lean ====
section
/-! DEFINITION. The context-save engine: the save of a stopped context and the restore of its nodes
(08 R190 to R192).  Parts of the save area whose layout R191 gives are written and read back; the rest is
kept beside it (log 30, DEDUCED). -/

namespace Sys2Proof.Machine

open Sys2Proof

/-! ## Ranges of memory as words -/

/-- The cells of a table of words of n bytes in the len bytes from address a on. -/
def wordCells (a len n : Nat) (t : Tab Nat) : Memory :=
  t.foldl (fun m q => if n * q.1 + n ≤ len then Memory.write m (a + n * q.1) (leBytes n q.2) else m) []

/-- The words of n bytes that a range of `len` bytes from a on holds, without those that are zero. -/
def Memory.words (m : Memory) (a len n : Nat) : Tab Nat :=
  (m.filter fun c => a ≤ c.1 && c.1 < a + len).foldl (fun t c =>
    let i := (c.1 - a) / n
    Tab.put 0 t i (Tab.get 0 t i + c.2.toNat * 256 ^ ((c.1 - a) % n))) []

/-- The range of len bytes from a on replaced by cells. -/
def Memory.splice (m : Memory) (a len : Nat) (cells : Memory) : Memory :=
  m.filter (fun c => c.1 < a) ++ (cells ++ m.filter (fun c => a + len ≤ c.1))

/-- Replace a range of memory; its bytes hold no error any more. -/
def State.putCells (s : State) (a len : Nat) (cells : Memory) : State :=
  { s.seeAll a len with
    mem := Memory.splice s.mem a len cells, errs := s.errs.filter fun e => !(a ≤ e && e < a + len) }

/-- Copy len bytes from a to b, errors with them (02 R29). -/
def State.copyCells (s : State) (a b len : Nat) : State :=
  let cells := (s.mem.filter fun c => a ≤ c.1 && c.1 < a + len).map fun c => (c.1 - a + b, c.2)
  let errs := (s.errs.filter fun e => a ≤ e && e < a + len).map fun e => e - a + b
  let t := s.putCells b len cells
  { t with errs := t.errs ++ errs }

/-! ## The save area (08 R191) -/

/-- Scalar and wide registers as words of memory. -/
def natTab {n : Nat} (t : Tab (BitVec n)) : Tab Nat := t.map fun q => (q.1, q.2.toNat)
def bvTab (n : Nat) (t : Tab Nat) : Tab (BitVec n) := t.map fun q => (q.1, BitVec.ofNat n q.2)

/-- A vector register as one number, lane 0 lowest. -/
def lanesNat (l : List W32) : Nat := l.foldr (fun x a => x.toNat + 2 ^ 32 * a) 0
def natLanes (x : Nat) : List W32 := (List.range 128).map fun i => .ofNat 32 (x / 2 ^ (32 * i))

/-- The word tags of a row as one number of 2 bits for a word. -/
def AccRow.tags (r : AccRow) : Nat := (r.words.map fun w => w.2.1.toNat * 4 ^ w.1).sum

/-- The accumulator data of a core as words of 16 bytes. -/
def Core.accData (k : Core) : Tab Nat :=
  k.acc.flatMap fun r => (r.2.words.filter fun w => w.2.2 != 0).map fun w => (128 * r.1 + w.1, w.2.2.toNat)

/-- A row from its header, its tags and its data words. -/
def accRowOf (header tags : Nat) (data : Tab Nat) : AccRow :=
  { AccRow.reset.withHeader header with
    words := (List.range 128).foldl (fun t w =>
      Tab.put (0, 0) t w (.ofNat 2 (tags / 4 ^ w), .ofNat 128 (Tab.get 0 data w))) [] }

/-- The rows of an accumulator store from its three parts of the save area. -/
def accOf (headers tags data : Tab Nat) : Tab AccRow :=
  let rows : List Nat := (headers.map Prod.fst ++ tags.map Prod.fst
    ++ data.map fun (q : Nat × Nat) => q.1 / 128).eraseDups
  rows.foldl (fun t r =>
    let words : Tab Nat := (data.filter fun (q : Nat × Nat) => q.1 / 128 == r).map fun (q : Nat × Nat) => (q.1 % 128, q.2)
    Tab.put AccRow.reset t r (accRowOf (Tab.get 0 headers r) (Tab.get 0 tags r) words)) []

/-- Words of 64 bits of a number, and the number of such words. -/
def toWords (n x : Nat) : List Nat := (List.range n).map fun i => x / 2 ^ (64 * i) % 2 ^ 64
def ofWords (l : List Nat) : Nat := l.foldr (fun w a => w + 2 ^ 64 * a) 0

/-- The registers 0 to m − 1 of a file, n words each. -/
def fileWords {w : Nat} (t : Tab (BitVec w)) (m n : Nat) : List Nat :=
  (List.range m).flatMap fun i => toWords n (Tab.get 0 t i).toNat

/-- A file of m registers of n words each from its words. -/
def wordsFile (w : Nat) (l : List Nat) (m n : Nat) : Tab (BitVec w) :=
  (List.range m).foldl (fun t i => Tab.put 0 t i (.ofNat w (ofWords ((l.drop (n * i)).take n)))) []

/-- What a generator holds: a word that says whether it is loaded, and its block. -/
def agWords (b : Option AgBlock) : List Nat :=
  match b with
  | some l => 1 :: (List.range 8).map fun i => (l.getD i 0).toNat
  | none => List.replicate 9 0
def wordsAg (l : List Nat) : Option AgBlock :=
  if l.headD 0 = 0 then none else some ((List.range 8).map fun i => .ofNat 64 (l.getD (i + 1) 0))

/-- The repeat state, with a word that says whether one is active. -/
def repWords (r : Option Rep) : List Nat :=
  match r with
  | some r => [1, r.start, r.len, r.left, r.pos]
  | none => [0, 0, 0, 0, 0]
def wordsRep (l : List Nat) : Option Rep :=
  if l.headD 0 = 0 then none
  else some { start := evenPc (.ofNat 32 (l.getD 1 0)), len := l.getD 2 0, left := l.getD 3 0, pos := l.getD 4 0 }

/-- A pending sync op: a word that says whether there is one, the op, its slot and the registers that it read. -/
def pendWords (h : Option Hold) : List Nat :=
  match h with
  | some h => [1, encodeOp 0 h.instr, h.slot, h.a.toNat, h.b.toNat]
  | none => [0, 0, 0, 0, 0]

/-- The mask registers: k0 holds all ones (09 R212). -/
def maskWords (get : Nat → W128) : List Nat := (List.range 8).flatMap fun i => toWords 2 (get i).toNat
def wordsMask (l : List Nat) : Tab W128 := Tab.put 0 (wordsFile 128 l 8 2) 0 0

/-- The words of block 0x28_BC00 in the order of 08 R191, one of 8 bytes for a register of up to 64 bits (log 30,
DEDUCED): s, PWIN, f, the counts, k, mp, cv, d, cl, ag, TRAP_*, BRK_*, STATUS, PC, repeat and pending state, and those of
the hidden trap state, segment mode. -/
def Core.regWords (k : Core) : List Nat :=
  fileWords k.s 64 1 ++ [k.pwin.toNat] ++ fileWords k.f 16 1 ++ [k.countL, k.countS, k.countC, k.countT]
    ++ maskWords k.getK ++ fileWords k.mp 8 1 ++ fileWords k.cv 4 4 ++ fileWords k.d 16 2 ++ fileWords k.cl 8 1
    ++ ((List.range 4).flatMap fun i => agWords (Tab.get none k.ag i))
    ++ [k.trapCode.toNat, k.trapPc.toNat, k.trapInfo.toNat, k.trapSlot.toNat, k.trapEntry.toNat, k.trapAddr.toNat]
    ++ [k.brkPc.toNat, k.brkMask.toNat, k.brkCount.toNat, k.status.toNat, k.pc]
    ++ repWords k.rep ++ pendWords k.hold ++ repWords k.hidRep ++ pendWords k.hidHold
    ++ [b2n k.segment.mode, b2n k.hidSeg]

/-- A core with the registers that such words hold; the counts and the pending ops are those of its records. -/
def Core.withRegWords (k : Core) (l : List Nat) : Core :=
  let at_ := fun i => l.getD i 0
  { k with
    s := wordsFile 64 l 64 1, pwin := .ofNat 16 (at_ 64) ||| 1, f := wordsFile 16 (l.drop 65) 16 1
    k := wordsMask (l.drop 85), mp := wordsFile 64 (l.drop 101) 8 1, cv := wordsFile 256 (l.drop 109) 4 4
    d := wordsFile 128 (l.drop 125) 16 2, cl := wordsFile 64 (l.drop 157) 8 1
    ag := (List.range 4).foldl (fun t i => Tab.put none t i (wordsAg (l.drop (165 + 9 * i)))) []
    trapCode := .ofNat 8 (at_ 201), trapPc := .ofNat 32 (at_ 202), trapInfo := .ofNat 64 (at_ 203)
    trapSlot := .ofNat 4 (at_ 204), trapEntry := .ofNat 32 (at_ 205), trapAddr := .ofNat 64 (at_ 206)
    brkPc := .ofNat 32 (at_ 207), brkMask := .ofNat 9 (at_ 208), brkCount := .ofNat 32 (at_ 209)
    status := .ofNat 7 (at_ 210), pc := evenPc (.ofNat 32 (at_ 211)), rep := wordsRep (l.drop 212)
    hidRep := wordsRep (l.drop 222), hidSeg := at_ 233 % 2 == 1
    segment := { k.segment with mode := at_ 232 % 2 == 1 } }

/-- The shadowed registers of a segment, after its spill memory. -/
def Shadow.words (x : Shadow) : List Nat :=
  fileWords x.s 64 1 ++ [x.pwin.toNat] ++ fileWords x.f 16 1
    ++ maskWords (fun i => if i = 0 then BitVec.allOnes 128 else Tab.get 0 x.k i) ++ fileWords x.mp 8 1 ++ fileWords x.cv 4 4
def Shadow.withWords (x : Shadow) (l : List Nat) : Shadow :=
  { x with
    s := wordsFile 64 l 64 1, pwin := .ofNat 16 (l.getD 64 0) ||| 1, f := wordsFile 16 (l.drop 65) 16 1
    k := wordsMask (l.drop 81), mp := wordsFile 64 (l.drop 97) 8 1, cv := wordsFile 256 (l.drop 105) 4 4 }

/-- The stall counters, after bn0 to bn7. -/
def Core.stallWords (k : Core) : List Nat :=
  [k.stallLoad.toNat, k.stallSkew.toNat, k.stallSync.toNat, k.bubbleBr.toNat]

/-- The segment store buffer: 16 bytes for a store, its address and the first eight bytes of its data.  The other eight of
a st.q, for which 64 entries of 1 KiB have no room, stand in a continuation record (log 30, DEDUCED). -/
def Core.bufferWords (k : Core) : List Nat :=
  k.segment.buffer.flatMap fun x => [x.pa, leNat (x.bytes.take 8)]

/-- A list of words as a table by position. -/
def posTab (l : List Nat) : Tab Nat := (l.zipIdx.map fun q => (q.2, q.1)).filter fun q => q.2 != 0

/-- The words of a table from position 0 on. -/
def tabWords (t : Tab Nat) (n : Nat) : List Nat := (List.range n).map (Tab.get 0 t)

/-- The words of the continuation records: one for each op that the queues and engines hold, of a value that the spec
does not give, and the upper data of each buffered st.q. -/
def State.recordWords (s : State) (k : Core) : List Nat :=
  (List.range (k.countC + k.countT)).map (fun i => (Config.recordWord s.freeNo i).toNat)
    ++ (k.segment.buffer.filter fun x => 8 < x.bytes.length).map fun x => leNat (x.bytes.drop 8)

/-- Write core c of a context to its slot, but for the scratchpad. -/
def State.writeSlot (s : State) (a : Nat) (k : Core) : State :=
  let put := fun (t : State) (off len n : Nat) (w : Tab Nat) => t.putCells (a + off) len (wordCells (a + off) len n w)
  let rows := fun (f : AccRow → Nat) => (k.acc.map fun r => (r.1, f r.2)).filter fun r => r.2 != 0
  let s := put s 0x200000 0x80000 16 k.accData
  let s := put s 0x280000 0x2000 32 (rows AccRow.tags)
  let s := put s 0x282000 0x800 8 (rows AccRow.header)
  let s := put s 0x282800 0x4000 512 (k.v.map fun q => (q.1, lanesNat q.2))
  let s := put s 0x286800 0x2000 8 (natTab k.spill)
  let s := put s 0x288800 0x2000 8 (natTab k.segment.shadow.spill)
  let s := put s 0x28A800 0x3C8 8 (posTab k.segment.shadow.words)
  let s := put s 0x28B800 0x400 8 (posTab k.bufferWords)
  let s := put s savedRegs 0x750 8 (posTab k.regWords)
  let s := put s 0x28C400 0x200 64 (natTab k.bn)
  let s := put s 0x28C600 0x20 8 (posTab k.stallWords)
  (put s 0x290000 0x70000 8 (posTab (s.recordWords k))).freshen

/-- A saved core with what its slot holds. -/
def State.readSlot (s : State) (a : Nat) (k : Core) : Core :=
  let get := fun off len n => Memory.words s.mem (a + off) len n
  let shadow := { k.segment.shadow with spill := bvTab 64 (get 0x288800 0x2000 8) }.withWords (tabWords (get 0x28A800 0x3C8 8) 121)
  let k := k.withRegWords (tabWords (get savedRegs 0x750 8) 234)
  let stall := fun i => BitVec.ofNat 64 (Tab.get 0 (get 0x28C600 0x20 8) i)
  { k with
    acc := accOf (get 0x282000 0x800 8) (get 0x280000 0x2000 32) (get 0x200000 0x80000 16)
    v := (get 0x282800 0x4000 512).map fun q => (q.1, natLanes q.2)
    spill := bvTab 64 (get 0x286800 0x2000 8)
    segment := { k.segment with shadow := shadow }
    bn := bvTab 512 (get 0x28C400 0x200 64)
    stallLoad := stall 0, stallSkew := stall 1, stallSync := stall 2, bubbleBr := stall 3 }

/-- A saved core as its slot holds it. -/
def State.heldRegs (s : State) (v : SavedCore) : Core :=
  match s.ctx v.ctx with
  | some x =>
    let a := s.saveSlot v.ctx x.ccb v.core
    if s.saveable a then s.readSlot a v.regs else v.regs
  | none => v.regs

/-- The words of the block of the registers that differ between two cores, by their position: those of the second. -/
def regChanges (k k' : Core) : List (Nat × Nat) :=
  (k.regWords.zip k'.regWords).zipIdx.filterMap fun q => if q.1.1 = q.1.2 then none else some (q.2, q.1.2)

/-- The memory of the continuation records of a slot. -/
def State.recordCells (s : State) (a : Nat) : List Host.Cell :=
  s.mem.filter fun c => a + 0x290000 ≤ c.1 && c.1 < a + 0x300000

/-! ## The save -/

/-- The cores that hold nodes of a context. -/
def State.ctxCores (s : State) (ctx : Nat) : List Nat :=
  (s.cores.filter fun p => (p.2.run == .running || p.2.run == .halted) && p.2.ctx == ctx).map (·.1)

/-- The matrix engine of a core has stopped: it runs no call, or a plain call waits at a boundary, or a fault
holds it (08 R190, 12 R296). -/
def Core.matrixRests (k : Core) : Bool :=
  match k.call with
  | none => true
  | some x =>
    k.stopped 0 0 || (!x.graded && (x.pass != 0 || match k.microOp with
      | some (.loop _) => true
      | _ => false))

/-- The engines of a halted core have stopped and its accesses are complete (08 R190). -/
def State.coreRests (s : State) (c : Nat) : Bool :=
  let k := s.core c
  k.run == .halted && !k.homeReq && k.matrixRests
    && (k.outs.all fun o => match o.kind with
      | .done => true
      | _ => false)
    && (k.stores.all (·.performed)) && !(s.owed.any fun o => o.core == c && !k.stopped o.unit o.queue)
    && !(s.pushes.any fun p => p.core == c) && !(s.readsAsked.any fun q => q.1 == c && 1 ≤ q.2 && q.2 ≤ 12)

/-- Every engine of a stopping context has stopped. -/
def State.ctxRests (s : State) (ctx : Nat) : Bool :=
  ((s.ctxCores ctx).all s.coreRests) && !(s.posts.any fun p => p.ctx == ctx)

/-- What a core keeps of itself beside its node: the cached translations, and the messages refused (19 R396). -/
def Core.bare (k : Core) (cycle : Nat) : Core :=
  { Core.reset with
    nextId := k.nextId, tlb := k.tlb, tlbMx := k.tlbMx, tlbCy := k.tlbCy, tlbGa := k.tlbGa, tlbLk := k.tlbLk
    refused := k.refused, idleFrom := cycle }

/-- The core and its lockstep partner are free. -/
def State.bareCore (s : State) (ctx c : Nat) : State :=
  let t := ((s.orphanReads c).freshViews c).modCore c (·.bare s.cycle.toNat)
  if s.lockstep ctx && c < 256 then t.modCore (partnerOf c) (·.idleSince s.cycle.toNat) else t

/-- Save core c of a context: its scratchpad, its registers and its continuation records. -/
def State.saveCore (s : State) (ctx ccb c : Nat) : State :=
  let k := s.core c
  let a := s.saveSlot ctx ccb c
  let ok := s.saveable a
  let arms := s.armed.filter fun x => inOwn c (16 * x)
  let t := if ok then (s.copyCells (spBase c) a 0x200000).writeSlot a k else s
  let v : SavedCore := { ctx := ctx, core := c, lock := s.lockstep ctx && c < 256
                         regs := { k with code := [], dict := [], hold := k.hold.map Hold.afresh }, arms := arms
                         record := t.recordCells a, owed := s.owed.filter fun o => o.core == c, broken := !ok }
  let t := { t with saved := t.saved ++ [v], armed := t.armed.filter (fun x => !inOwn c (16 * x))
                    owed := t.owed.filter fun o => o.core != c }
  t.bareCore ctx c

/-- A context leaves: those of its saved nodes that have not ended leave their launches, its saved state and its waiting pages are
discarded, and the context is no longer resident (21 R431). -/
def State.dropContext (s : State) (ctx : Nat) : State :=
  let mine := s.saved.filter fun v => v.ctx == ctx && !v.regs.ndDone
  let t := mine.foldl (fun t v => t.leaveLive ctx v.regs.node v.regs.launch) s
  { t with
    saved := t.saved.filter fun v => v.ctx != ctx, frees := t.frees.filter fun f => f.ctx != ctx
    ctxs := Tab.put none t.ctxs ctx none }

/-- A released context is no longer resident: its saved nodes, its nodes in the pool and its waiting pages go with it,
and no record of it in memory changes (08 R184, 21 R431; log 109, DEDUCED). -/
def State.forgetContext (s : State) (ctx : Nat) : State :=
  { s with
    saved := s.saved.filter fun v => v.ctx != ctx, frees := s.frees.filter fun f => f.ctx != ctx
    pool := s.pool.filter fun p => p.ctx != ctx, ctxs := Tab.put none s.ctxs ctx none }

/-- The save is complete: a pre-empted context has CSTATE 1, and a closed or a released one is gone.  A RESUME that a later
stop has overtaken waits on (21 R432). -/
def State.endSave (s : State) (ctx : Nat) (x : Ctx) (why : Nat) : State :=
  let y := { x with stopping := none }
  let s : State := { s with ctxs := Tab.put none s.ctxs ctx (some y) }
  let s := if why = 1 then s.setCstate x.ccb 1 else s
  let s := if why = 1 ∧ x.byDispatcher then s.hostEvent ctx 2 else s
  if why = 3 then (s.dropContext ctx).answerOwed ctx .gone
  else if why = 4 then (s.forgetContext ctx).answerOwed ctx .gone
  else s.answerOwed ctx .saved

/-- 08 R191: once every engine of a stopping context has stopped, its cores are saved. -/
def execContextSave (ctx : Nat) (s : State) : Out3 :=
  match s.ctx ctx with
  | none => .next s
  | some x => match x.stopping with
    | none => .next s
    | some why =>
      if !s.ctxRests ctx then .next s
      else
        let t := (s.ctxCores ctx).foldl (fun t c => t.saveCore ctx x.ccb c) s
        .next (t.endSave ctx x why)

/-! ## The restore (08 R192) -/

/-- The gang groups that a saved core's node names. -/
def State.savedGangs (s : State) (v : SavedCore) : List Nat :=
  ((List.range 4).filter fun j => v.regs.gvalid.getLsbD j && (s.group (v.regs.gidAt j)).gang).map v.regs.gidAt

/-- The saved cores that are restored with one: the members of its gang (07 R177). -/
def State.restoredWith (s : State) (v : SavedCore) : List SavedCore :=
  let g := s.savedGangs v
  if g.isEmpty then [v] else s.saved.filter fun u => u.ctx == v.ctx && (s.savedGangs u).any g.contains

/-- The cores of a saved node are free. -/
def State.savedSeatFree (s : State) (v : SavedCore) : Bool :=
  s.coreFree v.core && (!v.lock || s.coreFree (partnerOf v.core))

/-- The check of the continuation records of a saved core fails (08 R191). -/
def State.savedBroken (s : State) (v : SavedCore) (a : Nat) : Bool :=
  v.broken || s.recordCells a != v.record

/-- A restored core whose check failed takes UNCORR at its first bundle (08 R191). -/
def State.restoreCheck (s : State) (c a : Nat) (broken : Bool) : State :=
  if broken then s.takeTrap c (uncorrTrap (a + 0x290000)) (s.core c).pc 8 else s

/-- Reload a saved core: its scratchpad with its armed slots, its registers, and its code from the kernel
image; a kernel that can no longer be fetched fails the launch. -/
def State.restoreCore (s : State) (v : SavedCore) (ccb : Nat) : State :=
  let c := v.core
  let a := s.saveSlot v.ctx ccb c
  let ok := s.saveable a
  let broken := s.savedBroken v a
  let live := s.core c
  let k0 := if ok then s.readSlot a v.regs else v.regs
  let k : Core := { k0 with
    run := .running, preReq := false, idleFrom := live.idleFrom, nextId := Nat.max live.nextId k0.nextId
    tlb := live.tlb, tlbMx := live.tlbMx, tlbCy := live.tlbCy, tlbGa := live.tlbGa, tlbLk := live.tlbLk
    refused := live.refused, issCycle := s.cycle.toNat }
  let t := if ok then s.copyCells a (spBase c) 0x200000 else s
  let t := { t with saved := t.saved.filter (· != v), armed := t.armed ++ v.arms, owed := t.owed ++ v.owed }
  let t := ((t.freshViews c).setCore c k).takePartner v.ctx c
  match (do
      let n ← orFail 0x16 (t.readNode v.ctx k.node)
      t.fetchKernel v.ctx (n.word 0)) with
  | .error code =>
    let u := t.failLaunch v.ctx k.launch code k.node
    (if k.ndDone then u else u.leaveLive v.ctx k.node k.launch).freeCore c
  | .ok (_, dict, code) =>
    (t.modCore c fun k => { k with code := code, dict := dict }).restoreCheck c a broken

/-- 08 R192: the saved nodes of a context whose cores are free take them, a gang at once. -/
def execRestore (ctx : Nat) (s : State) : Out3 :=
  match s.ctx ctx with
  | none => .next s
  | some x =>
    if !x.restoring then .next s
    else match s.saved.find? fun v => v.ctx == ctx && (s.restoredWith v).all s.savedSeatFree with
      | none => .next s
      | some v =>
        let t := (s.restoredWith v).foldl (fun t u => t.restoreCore u x.ccb) s
        .next (t.endRestore ctx)

end Sys2Proof.Machine
end

