-- ==== Sys2Proof/Machine/Frames.lean ====
section
/-! DEFINITION. Frames, tides, circuit slots, retraining and parking, and what arrives from peers
(19 R388 to R403). -/

namespace Sys2Proof.Machine

open Sys2Proof

/-! ## Sends (19 R395, R397, R399) -/

/-- The piece that holds flit f of a send: its number, offset, length and first flit. -/
def pieceOfFlit (f : Nat) : Nat → List (Nat × Nat × Nat) → Option (Nat × Nat × Nat × Nat)
  | _, [] => none
  | first, q :: l =>
    if f < first + pieceFlits q.2.2 then some (q.1, q.2.1, q.2.2, first)
    else pieceOfFlit f (first + pieceFlits q.2.2) l

/-- What leaves when a piece is whole: its destination at the far chip, its position and its data. -/
def State.pieceOut (s : State) (c chip : Nat) (x : SendOp) (off n : Nat) : Except Trp LinkOut := do
  let d := x.entry.val 0
  let data ← s.memRead c .lk (x.entry.val 1 + .ofNat 64 off) n
  if d.getLsbD 63 then return .piece chip d.toNat off data
  else
    let va := d + .ofNat 64 off
    let l ← s.resolveRange c .lk va n .write
    if s.peerOf l = some chip then
      return .piece chip ((l.headD (0, 0)).1 - (2 ^ 51 + chip * 2 ^ 38)) off data
    else .error ⟨.prot, 1, va⟩

/-- The class of a send may send one more flit in this tide (19 R399). -/
def Core.mayFlit (k : Core) (cls : Nat) : Bool :=
  let r := (Tab.get (0 : BitVec 16) k.rate cls).toNat
  r == 0 || Tab.get 0 k.rateSent cls < r

/-- The flit that an op sends next in frame n: one that leaves again, or else the first that has not left. -/
def SendOp.next (x : SendOp) (n : Nat) : Option Nat :=
  match x.again.find? fun a => a.2 < n with
  | some a => some a.1
  | none => if x.sent < x.flits then some x.sent else none

/-- Flit f of an op leaves in frame n; a misrouted one is discarded and leaves again in a later frame (19 R394). -/
def SendOp.leaves (x : SendOp) (f n : Nat) (lost : Bool) : SendOp :=
  let again := x.again.filter fun a => a.1 != f
  { x with sent := Nat.max x.sent (f + 1), again := if lost then again ++ [(f, n)] else again }

/-- Every flit of a piece has left, and none of them leaves again. -/
def SendOp.pieceLeft (x : SendOp) (first n : Nat) : Bool :=
  first + pieceFlits n ≤ x.sent && !x.again.any fun a => first ≤ a.1 && a.1 < first + pieceFlits n

/-- Flit f of op i of a queue leaves in the present frame. -/
def State.flitOf (s : State) (c chip i : Nat) (x : SendOp) (f : Nat) : State :=
  match pieceOfFlit f 0 x.pieces with
  | none => s
  | some (p, off, n, first) =>
    match s.pieceOut c chip x off n with
    | .error t => s.linkFault c 0 chip t
    | .ok out =>
      let y := x.leaves f s.frame (Config.misrouted s.freeNo)
      let whole := y.pieceLeft first n
      let y := if whole then { y with leftIn := Tab.put 0 y.leftIn p s.frame } else y
      let t := s.freshen.modCore c fun k =>
        let k := k.setSends chip ((k.sends chip).set i y)
        { k with rateSent := Tab.put 0 k.rateSent x.cls (Tab.get 0 k.rateSent x.cls + 1) }
      if whole then
        let t := (t.fillPeer (isleOf c) (s.readsOf c .lk (x.entry.val 1 + .ofNat 64 off) n)).noteTlb c .lk (x.entry.val 1)
        { t with linkOut := t.linkOut ++ [out] }
      else t

/-- The op of core c's send queue to a chip that sends next, with its place and its flit; none while its queue is stopped,
its core halts or its class has sent its share. -/
def State.nextFlit (s : State) (c chip : Nat) : Option (Nat × SendOp × Nat) :=
  let k := s.core c
  let l := k.sends chip
  match (List.range l.length).zip l |>.findSome? fun q => (q.2.next s.frame).map fun f => (q.1, q.2, f) with
  | some q => if k.engineOn && !k.linkStopped 0 chip && k.mayFlit q.2.1.cls then some q else none
  | none => none

/-- The addresses that a flit of a send translates on LK: of its piece's source, and in memory mode of its destination. -/
def SendOp.flitVas (x : SendOp) (f : Nat) : List W64 :=
  match pieceOfFlit f 0 x.pieces with
  | none => []
  | some (_, off, n, _) =>
    let d := x.entry.val 0
    ends (x.entry.val 1 + .ofNat 64 off) n ++ if d.getLsbD 63 then [] else ends (d + .ofNat 64 off) n

/-- One flit of the send queue of core c to a chip; none when it has none to send, or waits for a walk (19 R392). -/
def State.sendFlit (s : State) (c chip : Nat) : Option State :=
  match s.nextFlit c chip with
  | some (i, x, f) =>
    let vas := x.flitVas f
    if (s.walkPending c (16 + chip) .lk vas).isSome then none
    else some ((s.walked c (16 + chip) .lk vas).flitOf c chip i x f)
  | none => none

/-- The send queue of core c to a chip reads an entry that its next flit waits for. -/
def State.askSend (s : State) (c chip : Nat) : State :=
  match s.nextFlit c chip with
  | some (_, x, f) => match s.walkPending c (16 + chip) .lk (x.flitVas f) with
    | some pa => s.askWalk c (16 + chip) pa
    | none => s
  | none => s

/-- The queues of all cores share a frame round-robin, one flit at a time (19 R395). -/
def State.shareFrame (s : State) (chip : Nat) : Nat → Nat → List Nat → State
  | 0, _, _ => s
  | _, 0, _ => s
  | _, _, [] => s
  | fuel + 1, room + 1, c :: cs =>
    match s.sendFlit c chip with
    | none => s.shareFrame chip fuel (room + 1) cs
    | some t => t.shareFrame chip fuel room (cs ++ [c])

/-- The flits that frame n can carry to a chip (19 R387, R394). -/
def State.frameRoom (s : State) (n chip : Nat) : Nat :=
  ((List.range 16).map fun t => if s.carries t n chip 48 then 32 * litWidth (s.strait t).tx else 0).sum

/-- The cores that have sends to a chip, from the one with which the round begins. -/
def State.senders (s : State) (chip : Nat) : List Nat :=
  let l := (s.cores.filter fun p => !(p.2.sends chip).isEmpty).map (·.1)
  let i := Config.firstSender s.freeNo % l.length
  l.drop i ++ l.take i

/-- The sends of frame n to one chip. -/
def State.sendTo (s : State) (n chip : Nat) : State :=
  let l := s.senders chip
  let room := s.frameRoom n chip
  let t := l.foldl (fun t c => t.askSend c chip) s
  (t.shareFrame chip (room + l.length) room l).freshen

/-- Sends whose pieces are all acknowledged complete, in queue order (19 R397, R409). -/
def Core.popSends (k : Core) (q : Nat) : Nat → Core
  | 0 => k
  | fuel + 1 =>
    match k.sends q with
    | [] => k
    | x :: l =>
      if x.done && !k.linkStopped 0 q then
        let n := sendNotice x.entry
        let k := k.setSends q l
        let k := if n.st then k.setTag n.desc true else k
        (if n.fp then k.post n.flag 1 else k).popSends q fuel
      else k

/-- The same for every queue. -/
def Core.popAllSends (k : Core) : Core := (List.range 16).foldl (fun k q => k.popSends q 16) k

/-! ## Parking (19 R400) -/

/-- The groups of a direction under a new mask, at frame boundary n. -/
def parkGroups (t : Tab Group) (m : BitVec 8) (n : Nat) : Tab Group :=
  (List.range 8).foldl (fun t g =>
    match m.getLsbD g, groupAt t g with
    | true, .parked => Tab.put .parked t g (.waking n)
    | true, _ => t
    | false, _ => Tab.put .parked t g .parked) t

/-- Accepted masks act at frame boundary n, unless the strait retrains (19 R413). -/
def Strait.parkAt (x : Strait) (n : Nat) : Strait :=
  if x.retrainsIn n then x
  else
    { x with
      tx := match x.parkTx with
        | some m => parkGroups x.tx m n
        | none => x.tx
      rx := match x.parkRx with
        | some m => parkGroups x.rx m n
        | none => x.rx
      parkTx := none, parkRx := none }

/-- A waking group is lit at frame boundary n (19 R400). -/
def Strait.litDue (x : Strait) (n : Nat) (g : Group) : Bool :=
  match g with
  | .waking b => b + 50 ≤ n && !x.retrainsIn n
  | _ => false

/-- Some group of a strait is due to be lit at boundary n. -/
def Strait.anyLitDue (x : Strait) (n : Nat) : Bool :=
  (List.range 8).any fun g => x.litDue n (groupAt x.tx g) || x.litDue n (groupAt x.rx g)

/-- Its retraining ends at boundary n (19 R403). -/
def Strait.retrainDue (x : Strait) (n : Nat) : Bool :=
  match x.retrain with
  | some (_, b) => b < n
  | none => false

/-! ## A new frame (19 R388) -/

/-- What waits for a frame leaves in frame n when it may (19 R397, R398). -/
def LinkOut.chip : LinkOut → Nat
  | .piece c _ _ _ => c
  | .ack c _ => c
  | .answer c _ => c
def State.waitLeaves (s : State) (n : Nat) (w : Nat × LinkOut) : Bool :=
  w.1 ≤ 48 * n && (List.range 16).any fun t => s.carries t n w.2.chip 48

/-- A window load whose line is not cached sends its request in frame n when it may (19 R398). -/
def State.askPeers (s : State) (n : Nat) : State :=
  { s with cores := s.cores.map fun p => (p.1, { p.2 with outs := p.2.outs.map fun o =>
      match o.kind with
      | .load _ pa _ _ =>
        (match s.region pa with
        | .peer chip =>
          if o.asked.isNone && (s.fabricLine (isleOf p.1) pa).isNone
              && (List.range 16).any fun t => s.carries t n chip 528 then { o with asked := some n }
          else o
        | _ => o)
      | _ => o }) }

/-- Rates that lk.rate has accepted come into force (19 R414). -/
def Core.takeRates (k : Core) : Core :=
  { k with
    rate := (List.range 4).foldl (fun t c => match Tab.get none k.rateNext c with
      | some r => Tab.put 0 t c r
      | none => t) k.rate
    rateNext := [] }

/-- Every core changed. -/
def State.mapCores (s : State) (f : Core → Core) : State :=
  { s with cores := s.cores.map fun p => (p.1, f p.2) }

/-- Every strait changed. -/
def State.mapStraits (s : State) (f : Strait → Strait) : State :=
  (List.range 16).foldl (fun t i => t.setStrait i (f (s.strait i))) s

/-- The requests of accesses that are no more lose their room once the frame of their responses is past. -/
def State.dropOrphans (s : State) (n : Nat) : State :=
  { s with drawerReqs := s.drawerReqs.filter fun r => r.core != 260 || match r.frame with
    | some f => n ≤ f + 8
    | none => true }

/-- Frame n begins. -/
def State.beginFrame (s : State) (n : Nat) : State :=
  let s : State := { s.dropOrphans n with frame := n, turning := false }
  let s := (s.mapCores Core.takeRates).mapStraits (·.parkAt n)
  let out := s.linkWait.filter (s.waitLeaves n)
  let s : State := { s with
    linkOut := s.linkOut ++ out.map (·.2), linkWait := s.linkWait.filter fun w => !s.waitLeaves n w }
  let s := s.askPeers n
  ((List.range 16).foldl (fun t chip => t.sendTo n chip) s).mapCores Core.popAllSends

/-- Nothing of the boundary at the end of the present frame comes before the next frame. -/
def State.frameReady (s : State) (n : Nat) : Bool :=
  (List.range 16).all fun t => !(s.strait t).anyLitDue n && !(s.strait t).retrainDue n

/-- The next frame boundary may come: its cycle.  Every request that leaves in the present frame has left, and a slot
that begins at the same cycle has begun (19 R392, R412). -/
def State.nextFrame (s : State) : Option Nat :=
  match s.dueFrame with
  | some d =>
    if s.boundaryDue d && (s.dueSlot.all fun x => d < x) && s.drawerReqs.all fun r => (s.requestLeaves r).isNone
    then some d else none
  | none => none

/-- What comes at the end of the present frame, at cycle d, has begun: the next frame is due. -/
def State.turn (s : State) (d : Nat) : State := { s.passTo d with turning := true }

/-- 19 R388: a frame whose tide index is not 0 begins. -/
def execFrameBoundary (s : State) : Out3 :=
  let n := s.frame + 1
  match s.nextFrame with
  | none => .next s
  | some d =>
    if n % 64 = 0 ∨ !s.frameReady n then .next s
    else .next ((s.passTo d).beginFrame n)

/-- An accepted table comes into force (19 R390). -/
def Strait.takeTable (x : Strait) : Strait := { x.coming with accepted := none }

/-- 19 R390, R399: a frame of tide index 0 begins; accepted tables are in force and rate counts restart. -/
def execTideBoundary (s : State) : Out3 :=
  let n := s.frame + 1
  match s.nextFrame with
  | none => .next s
  | some d =>
    if n % 64 ≠ 0 ∨ !s.frameReady n then .next s
    else
      let s := s.passTo d
      .next (((s.mapStraits Strait.takeTable).mapCores fun k => { k with rateSent := [] }).beginFrame n)

/-- A rotation of the schedule in force begins at link cycle b. -/
def Schedule.rotationAt (x : Schedule) (b : Nat) : Bool := (b - x.start) % (15750 * (x.nslot + 1)) == 0

/-- 19 R394, R412: a circuit slot begins; an accepted schedule comes into force at the start of a rotation,
or at once when none is in force. -/
def execCircuitSlotBoundary (s : State) : Out3 :=
  match s.dueSlot with
  | none => .next s
  | some d =>
    if !s.boundaryDue d then .next s
    else
      let b := s.slotDue
      let t := { s.passTo d with slotDue := b + 15750 }
      let due := match s.sched with
        | some x => x.rotationAt b
        | none => true
      match s.schedNext with
      | some (w, n) =>
        if due then .next { t with sched := some { slots := w, nslot := n, start := b }, schedNext := none }
        else .next t
      | none => .next t

/-! ## Retraining and waking (19 R400, R403) -/

/-- A drawer request on strait t whose response would fall in the frames after n is sent again. -/
def resend (t n : Nat) (r : DrawerReq) : DrawerReq :=
  match r.frame with
  | some f => if r.strait = t ∧ !r.answered ∧ n < f + 7 then { r with frame := none } else r
  | none => r

/-- A window load whose request has left on strait t alone, and whose answer would cross in the frames from the next one
on, asks again after the retraining (19 R403; log 120, DESIGN CHOICE). -/
def State.strandsLoad (s : State) (t : Nat) (o : Out) : Bool :=
  match o.asked, o.kind with
  | some f, .load _ pa _ _ => (match s.region pa with
      | .peer chip => s.frame < f + 11 && (List.range 16).all fun u => s.couldCarry u f chip 528 == (u == t)
      | _ => false)
  | _, _ => false

/-- 19 R403: the strait retrains in the 38 frames from the next boundary. -/
def execRetrainStart (strait : BitVec 4) (s : State) : Out3 :=
  let t := strait.toNat
  let x := s.strait t
  if !s.framesOn || x.retrain.isSome then .next s
  else
    let lost := fun o : Out => s.strandsLoad t o
    let s := s.setStrait t { x with retrain := some (s.frame + 1, s.frame + 38) }
    let s := s.mapCores fun k => { k with
      stallTaken := k.stallTaken.filter (· != t), heldFor := Tab.put 0 k.heldFor t 0
      outs := k.outs.map fun o => if lost o then { o with asked := none } else o }
    .next { s with retrains := s.retrains + 1, drawerReqs := s.drawerReqs.map (resend t s.frame) }

/-- 19 R403: the retraining ends at the next frame boundary. -/
def execRetrainEnd (strait : BitVec 4) (s : State) : Out3 :=
  let x := s.strait strait.toNat
  match s.nextFrame with
  | none => .next s
  | some d =>
    if x.retrainDue (s.frame + 1) then
      .next ((s.setStrait strait.toNat { x with retrain := none }).turn d)
    else .next s

/-- 19 R400: a waking group is lit at the next frame boundary. -/
def execGroupLit (strait : BitVec 4) (rx : Bool) (group : BitVec 3) (s : State) : Out3 :=
  let x := s.strait strait.toNat
  let g := group.toNat
  match s.nextFrame with
  | none => .next s
  | some d =>
    if x.litDue (s.frame + 1) (groupAt (if rx then x.rx else x.tx) g) then
      let y := if rx then { x with rx := Tab.put .parked x.rx g .lit }
        else { x with tx := Tab.put .parked x.tx g .lit }
      .next ((s.setStrait strait.toNat y).turn d)
    else .next s

/-! ## Acknowledgements (19 R397, R408) -/

/-- The first flit of piece p of a send. -/
def SendOp.firstFlit (x : SendOp) (p : Nat) : Nat := ((x.pieces.take p).map fun q => pieceFlits q.2.2).sum

/-- Piece p of a send has left whole and is not acknowledged. -/
def SendOp.awaits (x : SendOp) (p : Nat) : Bool :=
  match x.pieces[p]? with
  | some q => x.pieceLeft (x.firstFlit p) q.2.2 && !x.acked.contains p
  | none => false

/-- The flits of piece p leave again, after frame n. -/
def SendOp.resend (x : SendOp) (p n : Nat) : SendOp :=
  match x.pieces[p]? with
  | some q => { x with again := x.again ++ (List.range (pieceFlits q.2.2)).map fun i => (x.firstFlit p + i, n) }
  | none => x

/-- A send after a refusal of its piece p: a refused message leaves again from its first piece (19 R409), any other op
from the piece that met the fault (14 R308). -/
def SendOp.refuse (x : SendOp) (p cause n : Nat) : SendOp :=
  if (x.entry.val 0).getLsbD 63 ∧ cause = TrapCode.prot.num then { x with sent := 0, again := [], leftIn := [], acked := [] }
  else x.resend p n

/-- An acknowledgement or a refusal of a piece of op i of queue q, applied to a core at the end of frame n; none when
no such piece waits for one that can be back. -/
def Core.takeAck (k : Core) (n q i piece : Nat) (fault : Option (Nat × Nat)) : Option Core :=
  match (k.sends q)[i]? with
  | none => none
  | some x =>
    if !x.awaits piece || n < Tab.get 0 x.leftIn piece + 2 then none
    else match fault with
      | none => some ((k.setSends q ((k.sends q).set i { x with acked := x.acked ++ [piece] })).popSends q 16)
      | some (cause, detail) =>
        let f : EFault := { unit := 10, queue := q, cause := cause, detail := detail, addr := x.entry.val 0
                            taken := false }
        some { k.setSends q ((k.sends q).set i (x.refuse piece cause n)) with efaults := k.efaults ++ [f] }

/-- A send sends its unacknowledged pieces again, in order, after frame n (19 R408). -/
def SendOp.resendAll (x : SendOp) (n : Nat) : SendOp :=
  ((List.range x.pieces.length).filter x.awaits).foldl (fun y p => y.resend p n) x

/-- The sends of core c to a chip send their unacknowledged pieces again. -/
def State.resendTo (s : State) (c chip : Nat) : State :=
  s.modCore c fun k => k.setSends chip ((k.sends chip).map (·.resendAll s.frame))

/-- A saved core of a context takes an acknowledgement: its send queue stands in its continuation records, and what a
completed op writes of its registers, its tag and its flag, goes into its save slot (14 R303, 08 R191). -/
def State.ackSaved (s : State) (core ctx : Nat) (f : Core → Option Core) : State :=
  match s.saved.find? fun v => v.core == core && v.ctx == ctx with
  | none => s
  | some v => match f (s.heldRegs v) with
    | none => s
    | some k => { s.putSlot v (regChanges (s.heldRegs v) k) with
        saved := s.saved.map fun u => if u = v then { u with regs := k } else u }

/-- 19 R397, R396: an acknowledgement reaches the core that sent, in place or saved, at the end of a frame that carries
from the chip to this one. -/
def execLinkAck (core ctx queue k piece : Nat) (fault : Option (Nat × Nat)) (s : State) : Out3 :=
  let f := fun x : Core => x.takeAck s.frame queue k piece fault
  match s.nextFrame with
  | none => .next s
  | some d =>
    if !s.hears queue then .next s
    else if s.runsCtx core ctx then
      match f (s.core core) with
      | some x => .next ((s.setCore core x).turn d)
      | none => .next s
    else .next ((s.ackSaved core ctx f).turn d)

/-! ## Arrivals (19 R396, R397) -/

/-- The answer to a piece: it may leave 48 cycles after the piece has performed. -/
def State.replyTo (s : State) (chip : Nat) (fault : Option (Nat × Nat)) : State :=
  { s with linkWait := s.linkWait ++ [(s.linkCycle + 48, .ack chip fault)] }

/-- The cause and detail of a fault as the sender reports it. -/
def Trp.answer (t : Trp) : Option (Nat × Nat) := some (t.code.num, t.info)

/-- A write of a peer into this chip's memory (19 R396, 02 R25). -/
def State.landMemory (s : State) (p : LinkPiece) : State :=
  let pa := p.base + p.pos
  let n := p.data.length
  let ok := match s.region pa, s.region (pa + n - 1) with
    | .shelf a, .shelf b => a == b
    | _, _ => false
  if !ok then s.replyTo p.chip.toNat (Trp.answer ⟨.prot, 1, 0⟩)
  else if s.overlapsMark pa n then s.replyTo p.chip.toNat (Trp.answer (seqStateTrap 6 0))
  else (s.writeBytes pa p.data).replyTo p.chip.toNat none

/-- Landing counts of a message at its barrier, one by one (14 R306, R323). -/
def State.landMessage (s : State) (c off : Nat) : Nat → Except Trp State
  | 0 => .ok s
  | n + 1 =>
    match s.landFault { core := c, unit := 10, queue := 0, land := c, off := off, left := 1 } with
    | some t => .error t
    | none => (s.landOne (spBase c + off)).landMessage c off n

/-- The 64-byte sectors of rising ranges. -/
def spanCount (l : List (Nat × Nat)) : Nat := (l.map fun q => q.2 - q.1).sum

/-- The message that piece p belongs to, as core k has accepted it, or as it accepts it now (19 R396). -/
def Core.accept (k : Core) (p : LinkPiece) : Option Inbound :=
  match k.inbound.find? fun m => m.chip == p.chip.toNat && m.op == p.op with
  | some m => some m
  | none =>
    let r := k.recv p.recv.toNat
    if k.refused.contains (p.chip.toNat, p.op) then none
    else if r.posted ∧ r.chip = p.chip.toNat ∧ p.base + p.total ≤ r.n then
      some { chip := p.chip.toNat, op := p.op, recv := p.recv.toNat, post := r, got := 0, spans := [] }
    else none

/-- Record a landed piece: the message goes on, or it has landed whole and posts its flag (19 R409). -/
def Core.landed (k : Core) (m : Inbound) (p : LinkPiece) (spans : List (Nat × Nat)) : Core :=
  let n := p.data.length
  let r := k.recv m.recv
  let k := if r.gen = m.post.gen then
      { k with recvs := Tab.put Recv.reset k.recvs m.recv { r with landed := r.landed + n } }
    else k
  let rest := k.inbound.filter fun x => !(x.chip == m.chip && x.op == m.op)
  if p.total ≤ m.got + n then
    let k := { k with inbound := rest }
    if m.post.fp then k.post m.post.flag 1 else k
  else { k with inbound := rest ++ [{ m with got := m.got + n, spans := spans }] }

/-- A piece of a message that its core accepts. -/
def State.landPiece (s : State) (c : Nat) (m : Inbound) (p : LinkPiece) : State :=
  let pa := spBase c + m.post.base + p.base + p.pos
  let n := p.data.length
  if s.overlapsArmed pa n then s.replyTo p.chip.toNat (Trp.answer (barTrap 4 0))
  else if s.overlapsMark pa n then s.replyTo p.chip.toNat (Trp.answer (seqStateTrap 6 0))
  else
    let spans := addSectors m.spans [(pa, n)]
    let s := (s.writeBytes pa p.data).modCore c (·.landed m p spans)
    let counts := if m.post.bc then spanCount spans - spanCount m.spans else 0
    match s.landMessage c (16 * m.post.bar) counts with
    | .ok t => t.replyTo p.chip.toNat none
    | .error t => s.replyTo p.chip.toNat t.answer

/-- A message is refused, with every later piece of it (19 R396). -/
def State.refusePiece (s : State) (c : Nat) (p : LinkPiece) : State :=
  (s.modCore c fun k => { k with refused := k.refused ++ [(p.chip.toNat, p.op)] }).replyTo p.chip.toNat
    (Trp.answer ⟨.prot, 1, 0⟩)

/-- A halted or saved core discards what arrives for it, without an answer (19 R408). -/
def State.linkHalted (s : State) (c : Nat) : Bool :=
  (s.core c).run == .halted || s.saved.any fun v => v.core == c

/-- 19 R396, R397: a piece of a peer's send arrives, in a frame that carries from its chip to this one. -/
def execLinkPieceArrive (p : LinkPiece) (s : State) : Out3 :=
  let c := p.core.toNat
  if !s.framesOn ∨ !s.hears p.chip.toNat ∨ s.dsize.toNat < p.chip.toNat ∨ p.data.isEmpty
      ∨ p.total < p.pos + p.data.length then .next s
  else if !p.msg then .next (s.landMemory p)
  else if (s.core c).run == .halted then .next s
  else match (s.core c).accept p with
    | some m => .next (s.landPiece c m p)
    | none =>
      if s.linkHalted c then .next s
      else .next (s.refusePiece c p)

/-- 02 R44, 19 R398: a window load of another chip arrives in a frame that carries from it, is served by this chip's home slice, and the 64-byte
line waits for a frame to that chip. -/
def execPeerLoadRequest (chip : BitVec 4) (pa : Nat) (s : State) : Out3 :=
  let a := pa / 64 * 64
  match s.region a with
  | .shelf _ =>
    if !s.framesOn ∨ !s.hears chip.toNat ∨ s.dsize.toNat < chip.toNat then .next s
    else .next { s with linkWait := s.linkWait ++ [(s.linkCycle, .answer chip.toNat (s.readBytes a 64))] }
  | _ => .next s

end Sys2Proof.Machine
end

