-- ==== Sys2Proof/Machine/BringUp.lean ====
section
/-! DEFINITION. Device reset and the stages of bring-up (21 R428). -/

namespace Sys2Proof

/-- The drawers found whose STRAITS mask includes strait t, in drawer order (19 R389). -/
def BringUpFind.drawersOf (f : BringUpFind) (t : Nat) : List Nat :=
  (List.range 4).filter fun d => f.gib.getD d 0 != 0 && (f.straits.getD d 0).getLsbD t

/-- The standard entry i ≥ 1 of strait t (19 R389). -/
def BringUpFind.entry (f : BringUpFind) (t i : Nat) : BitVec 16 :=
  if f.faces.getLsbD t then 0x8000
  else
    let d := f.drawersOf t
    if d.isEmpty then 0 else .ofNat 16 (0x4000 + d.getD (i % d.length) 0)

/-- The standard tide table of strait t. -/
def BringUpFind.table (f : BringUpFind) (t : Nat) : Tab (BitVec 16) :=
  (List.range 63).foldl (fun x i => Tab.put 0 x (i + 1) (f.entry t (i + 1))) [(0, 0xC000)]

end Sys2Proof

namespace Sys2Proof.Machine

open Sys2Proof

/-- 21 R428, stage 1: device reset.  What memory holds after it is not stated (log 4, DESIGN CHOICE); the model's own
fields go on. -/
def execDeviceReset (s : State) : Out3 :=
  .next { State.reset with agenda := s.agenda, turnNo := s.turnNo, freeNo := s.freeNo }

/-- 21 R428, stage 2: isle 0 is trained, and Gentar answers requests. -/
def execBringupStage2 (s : State) : Out3 := .next (if s.stage = 1 then { s with stage := 2, service := 0 } else s)

/-- What stage 3 sets: the faces and tables of the straits, the drawers and the domain (19 R389, R406). -/
def State.takeFind (s : State) (f : BringUpFind) : State :=
  let wide := fun l : List (BitVec 16) =>
    (List.range 4).foldl (fun (t : Tab (BitVec 16)) d => Tab.put 0 t d (l.getD d 0)) []
  let s : State := { s with chip := f.chip, dsize := f.dsize, gib := wide f.gib, dstraits := wide f.straits }
  (List.range 16).foldl (fun t i =>
    t.setStrait i { s.strait i with face := f.faces.getLsbD i, table := f.table i }) s

/-- 21 R428, stage 3: a failure leaves the device in early service with STATE 2. -/
def execBringupStage3 (ok : Bool) (find : BringUpFind) (s : State) : Out3 :=
  if s.stage ≠ 2 then .next s
  else if !ok then .next { s with stage := 3, service := 2 }
  else .next { s.takeFind find with stage := 3 }

/-- The contexts of which a core holds a node that runs, those whose saved nodes are still taking their cores among
them. -/
def State.runningCtxs (s : State) : List Nat :=
  (List.range 16).filter fun x => s.mayStop x && s.cores.any fun p => p.2.run == .running && p.2.ctx == x

/-- A stop is under way in a context. -/
def State.anyStopping (s : State) : Bool := s.ctxs.any fun p => match p.2 with
  | some x => x.stopping.isSome
  | none => false

/-- A slot boundary at link cycle 0 comes before frame 0: an accepted schedule is in force (19 R394). -/
def State.firstSlot (s : State) : State :=
  if s.slotDue = 0 then
    let t := { s with slotDue := 15750 }
    match s.schedNext with
    | some (w, n) => { t with sched := some { slots := w, nslot := n, start := 0 }, schedNext := none }
    | none => t
  else s

/-- The clock runs at 1.5 GHz and frame 0 begins, with the tide tables accepted before it (19 R388, R390). -/
def State.startFrames (s : State) : State :=
  (({ s with stage := 4, framesOn := true, frameBase := s.cycle
             slotDue := originAfter s.epochWord 0 } : State).firstSlot.mapStraits Strait.takeTable).beginFrame 0

/-- Restore a context that stage 4 has pre-empted, unless something else has happened to it since. -/
def State.resumeStopped (s : State) (ctx : Nat) : State :=
  match s.ctx ctx with
  | some x => if x.stopping.isNone && !x.restoring && s.cstate ctx == 1 then s.beginRestore ctx else s
  | none => s

/-- The saved nodes of a context are taking their cores. -/
def State.restores (s : State) (ctx : Nat) : Bool :=
  match s.ctx ctx with
  | some x => x.restoring
  | none => false

/-- 21 R428, stage 4: Gentar pre-empts every running context; once they are saved the clock changes, and they
are restored.  SERVICE.STATE is 1 when they are. -/
def execBringupStage4 (s : State) : Out3 :=
  if s.stage = 4 ∧ s.service = 0 then
    (if s.clockStop.any s.restores then .next s else .next { s with service := 1, clockStop := [] })
  else if s.stage ≠ 3 ∨ s.service ≠ 0 then .next s
  else
    let run := s.runningCtxs
    if !run.isEmpty then
      .next (run.foldl (fun t x => (t.requestStop x).setStopping x 1 false)
        { s with clockStop := s.clockStop ++ run })
    else if s.anyStopping then .next s
    else .next (s.clockStop.foldl State.resumeStopped s.startFrames)

end Sys2Proof.Machine
end

