-- ==== Sys2Proof/Machine/ConfigSpace.lean ====
section
/-! DEFINITION. Configuration space: the capability list and the registers of 07 R175, R177, 16 R351, R357,
R362, 19 R407 and 21 R422, R429. -/

namespace Sys2Proof.Machine

open Sys2Proof

/-! ## Reads -/

/-- The entries of the capability list: ID, VERSION and the second word (21 R429). -/
def State.capabilities (s : State) : List (Nat × Nat × W64) :=
  [(0x0001, 0x0B01, Config.serial), (0x0002, 1, s.service.setWidth 64), (0x0010, 1, 0x10000)
  , (0x0011, 1, 0x20000), (0x0012, 1, 0x30000), (0x0013, 1, 0x30400), (0x0014, 1, 0x31000)
  , (0x0015, 1, 0x40000), (0x0016, 1, 0x50000)]

/-- Word i of the capability list. -/
def State.capWord (s : State) (i : Nat) : W64 :=
  match s.capabilities[i / 2]? with
  | none => 0
  | some (id, version, w) => if i % 2 = 0 then .ofNat 64 (2 ^ 32 * 16 + 2 ^ 16 * version + id) else w

/-- Word i of a group entry (07 R177). -/
def GroupEntry.word (e : GroupEntry) (i : Nat) : W64 :=
  match i with
  | 0 => .ofNat 64 (2 ^ 27 * e.rop.toNat + 2 ^ 26 * b2n e.ract + 2 ^ 17 * e.arr.toNat + 2 ^ 16 * b2n e.ph
      + 2 ^ 8 * e.count.toNat + 2 ^ 4 * e.ctx.toNat + 2 * b2n e.gang + b2n e.valid)
  | 1 => 0
  | 2 => e.ridx
  | _ => e.rval

/-- Word i of a slab entry (16 R351) and of a dispenser (16 R362). -/
def Slab.word (x : Slab) (i : Nat) : W64 :=
  if i = 0 then x.head else .ofNat 64 (2 ^ 32 * x.lost.toNat + x.count.toNat)
def Ticket.word (t : Ticket) (i : Nat) : W64 :=
  if i = 0 then .ofNat 64 (2 ^ 32 * t.serving.toNat + t.next.toNat)
  else .ofNat 64 (16 * b2n t.valid + t.ctx.toNat)

/-- Word i of the power block (21 R422). -/
def Power.word (p : Power) (i : Nat) : W64 :=
  if i = 0 then .ofNat 64 (2 ^ 16 * p.step.toNat + p.capW.toNat)
  else if i = 1 then .ofNat 64 (2 ^ 32 * p.pkgW.toNat + 2 ^ 16 * b2n p.slope + p.scale.toNat)
  else if i = 2 then p.gated.setWidth 64
  else if i = 3 then p.capExcess
  else if i = 4 then p.ballast
  else if 32 ≤ i ∧ i < 48 then Tab.get 0 p.ectr (i - 32)
  else 0

/-- The 8-byte word of configuration space at an offset that is a multiple of 8.  Where no register lies it
reads as 0 (log 19, DESIGN CHOICE). -/
def State.cfgWord (s : State) (off : Nat) : W64 :=
  if off < 0x10000 then s.capWord (off / 8)
  else if off = 0x10000 then s.dispCtl.setWidth 64
  else if 0x20000 ≤ off ∧ off < 0x22000 then (s.group ((off - 0x20000) / 32)).word (off / 8 % 4)
  else if 0x30000 ≤ off ∧ off < 0x30400 then
    (s.slab ((off - 0x30000) / 64) (off / 16 % 4)).word (off / 8 % 2)
  else if 0x31000 ≤ off ∧ off < 0x32000 then (s.ticket ((off - 0x31000) / 16)).word (off / 8 % 2)
  else if off = 0x40000 then s.linkCtl
  else if 0x50000 ≤ off ∧ off < 0x51000 then s.power.word ((off - 0x50000) / 8)
  else 0

/-- The base of configuration space (02 R25). -/
def cfgBase : Nat := 0x4100000000

/-- n aligned bytes of configuration space at physical address pa, as a number. -/
def State.cfgRead (s : State) (pa n : Nat) : Nat :=
  let off := pa - cfgBase
  let w := (s.cfgWord (off / 8 * 8)).toNat
  if n = 16 then w + 2 ^ 64 * (s.cfgWord (off / 8 * 8 + 8)).toNat
  else bitsAt w (8 * (off % 8)) (8 * n)

/-! ## Writes -/

/-- The group slot that a held op names. -/
def Hold.groupSlot (h : Hold) : Nat :=
  match h.instr with
  | .gBar j => j.toNat
  | .gRed _ _ _ _ j => j.toNat
  | _ => 0

/-- Members held on a group take GROUP (07 R177, 06 R154). -/
def State.endGroupHolds (s : State) (gid : Nat) : State :=
  s.mapHolds fun h => if h.onGroup gid then
      { h with ended := some (TrapCode.group.num, .ofNat 64 (gid + 256 * h.groupSlot), 0) }
    else h

/-- A write to word i of a group entry: it replaces the RW fields of word 0, clears the phase and ends the
members that hold. -/
def State.writeGroup (s : State) (gid i : Nat) (w : W64) : State :=
  let e := s.group gid
  let e := if i = 0 then
      { e with count := .ofNat 8 (fld w 8 8), ctx := .ofNat 4 (fld w 4 4), gang := w.getLsbD 1
               valid := w.getLsbD 0 }
    else e
  (s.setGroup gid { e with arr := 0, ract := false, rval := 0, ridx := 0 }).endGroupHolds gid

/-- 07 R177: a write of word 0 of a group entry. -/
def execGroupEntryWrite (gid : BitVec 8) (w : W64) (s : State) : Out3 := .next (s.writeGroup gid.toNat 0 w)

/-- A write to word i of a dispenser (16 R362).  Its holders test again at their next evaluation. -/
def State.writeTicket (s : State) (n i : Nat) (w : W64) : State :=
  let t := s.ticket n
  let t := if i = 0 then { t with serving := .ofNat 32 (fld w 32 32), next := .ofNat 32 (fld w 0 32) }
    else { t with valid := w.getLsbD 4, ctx := .ofNat 4 (fld w 0 4) }
  { s with tickets := Tab.put Ticket.reset s.tickets n t }

/-- 16 R362. -/
def execTicketEntryWrite (n : BitVec 8) (word : Bool) (w : W64) (s : State) : Out3 :=
  .next (s.writeTicket n.toNat (b2n word) w)

/-- A write of the link control word; it moves the schedule origin, and with it the slot boundaries while no
schedule is in force (19 R394, R407). -/
def State.writeLinkCtl (s : State) (w : W64) : State :=
  let x := w &&& 0xFFFFFFFF0000001F
  let s := { s with linkCtl := x }
  if s.framesOn && s.sched.isNone then { s with slotDue := originAfter (fld x 32 32) s.linkCycle } else s

/-- 19 R407. -/
def execLinkControlWrite (w : W64) (s : State) : Out3 := .next (s.writeLinkCtl w)

/-- A write to word i of a slab entry (16 R351). -/
def State.writeSlab (s : State) (ctx cls i : Nat) (w : W64) : State :=
  let x := s.slab ctx cls
  s.setSlab ctx cls (if i = 0 then { x with head := w }
    else { x with lost := .ofNat 32 (fld w 32 32), count := .ofNat 32 (fld w 0 32) })

/-- The address of a job record lies in memory (16 R357). -/
def State.jobReadable (s : State) (pa : Nat) : Bool :=
  match s.region pa with
  | .shelf _ => true
  | .scratch _ => true
  | .drawer _ => true
  | _ => false

/-- Write STATE and MOVED of a job record. -/
def State.putJob (s : State) (pa state moved : Nat) : State :=
  s.writeW (pa + 0x18) (setFld (setFld (s.readW (pa + 0x18)) 0 8 state) 32 32 moved)

/-- A write of COMPACT_SUBMIT queues the job at a physical address: its STATE is 0, queued, and it has moved no page
(16 R357).  A record with an uncorrectable error is left as it stands. -/
def State.submitJob (s : State) (w : W64) : State :=
  let pa := fld w 0 52
  let t := if s.jobReadable pa && (poisoned s.errs pa 64).isNone then s.putJob pa 0 0 else s
  { t with jobs := t.jobs ++ [pa] }

/-- 16 R357. -/
def execCompactSubmit (w : W64) (s : State) : Out3 := .next (s.submitJob w)

/-- A write of an 8-byte word of configuration space at an offset that is a multiple of 8 (00 R4 to R6). -/
def State.cfgPut (s : State) (off : Nat) (w : W64) : State :=
  if off = 0x10000 then { s with dispCtl := .ofNat 12 (fld w 0 12) &&& 0xF0F }
  else if 0x20000 ≤ off ∧ off < 0x22000 then s.writeGroup ((off - 0x20000) / 32) (off / 8 % 4) w
  else if 0x30000 ≤ off ∧ off < 0x30400 then
    s.writeSlab ((off - 0x30000) / 64) (off / 16 % 4) (off / 8 % 2) w
  else if off = 0x30400 then s.submitJob w
  else if 0x31000 ≤ off ∧ off < 0x32000 then s.writeTicket ((off - 0x31000) / 16) (off / 8 % 2) w
  else if off = 0x40000 then s.writeLinkCtl w
  else if off = 0x50000 then
    { s with power := { s.power with step := .ofNat 16 (fld w 16 16), capW := .ofNat 16 (fld w 0 16) } }
  else s

/-- 02 R26. -/
def execConfigWrite (off : BitVec 24) (w : W64) (s : State) : Out3 := .next (s.cfgPut (off.toNat / 8 * 8) w)

/-- A store of n aligned bytes to configuration space: bytes of a word that it does not name keep what the
word reads as. -/
def State.cfgStore (s : State) (pa : Nat) (bs : List Byte) : State :=
  let off := pa - cfgBase
  let x := leNat bs
  if bs.length = 16 then (s.cfgPut (off / 8 * 8) (.ofNat 64 x)).cfgPut (off / 8 * 8 + 8) (.ofNat 64 (x / 2 ^ 64))
  else s.cfgPut (off / 8 * 8) (setFld (s.cfgWord (off / 8 * 8)) (8 * (off % 8)) (8 * bs.length) x)

end Sys2Proof.Machine
end

