-- ==== Sys2Proof/Machine/Compaction.lean ====
section
/-! DEFINITION. The compaction engine and the freeing of pages (16 R357 to R359). -/

namespace Sys2Proof.Machine

open Sys2Proof

/-! ## Job records (16 R357) -/

/-- The fields of a job record. -/
def State.jobDesc (s : State) (pa : Nat) : W64 := s.readW pa
def State.jobCtx (s : State) (pa : Nat) : Nat := fld (s.readW (pa + 8)) 0 4
def State.jobFirst (s : State) (pa : Nat) : Nat := fld (s.readW (pa + 0x10)) 0 32
def State.jobPages (s : State) (pa : Nat) : Nat := fld (s.readW (pa + 0x10)) 32 32

/-- A bit of a job record that must be zero is not. -/
def State.jobReserved (s : State) (pa : Nat) : Bool :=
  fld (s.readW (pa + 8)) 4 60 != 0 || fld (s.readW (pa + 0x18)) 8 24 != 0 || s.readNat (pa + 0x20) 32 != 0

/-- The job ends with a STATE. -/
def State.endJob (s : State) (j : Job) (state : Nat) : State :=
  { s.putJob j.pa state j.moved with job := none }

/-! ## One page (16 R358) -/

/-- Own page i of a descriptor is mapped and movable (16 R357). -/
def Desc.movable (d : Desc) (i : Nat) : Bool := i < d.pages && d.fork + (i + 1) * seqP d.w18 ≤ d.lc

/-- Take a page of the descriptor's class and copy own page i into it: the map entry, the old and the new
page, with the state after the copy.  Every access is checked before the page is taken. -/
def State.copyPage (s : State) (ctx : Nat) (d : Desc) (i : Nat) : Except Trp ((Nat × Nat × Nat) × State) := do
  let w := Who.root ctx
  let cls := seqClass d.w18
  let l := s.slab ctx cls
  let e ← s.homeAddr w (d.entryVa i) .atomic
  s.homeClean e 8
  let old := entryPage (s.readW e)
  let (ps, head) ← s.takePages w cls (slabAddr ctx cls) l.head 1
  let new := ps.headD 0
  let runs ← s.rootRuns ctx old (pageBytes cls)
  let t ← s.rootWrite ctx new (runs.flatMap fun q => s.readBytes q.1 q.2)
  return ((e, old.toNat, new.toNat), t.setSlab ctx cls { l with head := head, count := l.count - 1 })

/-- The job in hand considers its next page. -/
def State.nextPage (s : State) (j : Job) : State :=
  let ctx := s.jobCtx j.pa
  if s.jobPages j.pa ≤ j.pos then s.endJob j 1
  else match s.descOp (.root ctx) (s.jobDesc j.pa) .homeRead with
    | .error _ => s.endJob j 4
    | .ok d =>
      let i := s.jobFirst j.pa + j.pos
      if !seqLive d.w18 || seqDropped d.w18 then s.endJob j 3
      else if !d.movable i then { s with job := some { j with pos := j.pos + 1 } }
      else if (s.slab ctx (seqClass d.w18)).count = 0 then s.endJob j 2
      else match s.copyPage ctx d i with
        | .error _ => s.endJob j 4
        | .ok (q, t) => { t with job := some { j with
            swap := some q, desc := d.pa, cls := seqClass d.w18, lost := false } }

/-- A queued job starts: its record is checked. -/
def State.startJob (s : State) (pa : Nat) : State :=
  let j : Job := { pa := pa, pos := 0, moved := 0, swap := none, desc := 0, cls := 0, lost := false }
  if !s.jobReadable pa then s
  else if (poisoned s.errs pa 64).isSome then s.endJob j 4
  else if s.jobReserved pa then s.endJob j 5
  else { s with job := some j }

/-- 16 R358: the next page of the job that runs, or the start of the next job. -/
def execCompactPage (s : State) : Out3 :=
  match s.job with
  | some j => .next (if j.swap.isSome then s else s.nextPage j)
  | none => match s.jobs with
    | [] => .next s
    | pa :: rest => .next ({ s with jobs := rest }.startJob pa)

/-- The swap of a map entry at its home: PRC stays (16 R358). -/
def State.swapEntry (s : State) (j : Job) (ctx cls : Nat) (q : Nat × Nat × Nat) : State :=
  let s := s.writeW q.1 (setFld (s.readW q.1) 0 41 (q.2.2 / 65536))
  let j : Job := { j with pos := j.pos + 1, moved := j.moved + 1, swap := none }
  let s : State := { s.putJob j.pa (fld (s.readW (j.pa + 0x18)) 0 8) j.moved with job := some j }
  s.releasePage ctx cls (.ofNat 64 q.2.1)

/-- 16 R358: the copy has performed; the entry is swapped, unless the sequence is gone. -/
def execCompactSwap (s : State) : Out3 :=
  match s.job with
  | none => .next s
  | some j => match j.swap with
    | none => .next s
    | some q =>
      let ctx := s.jobCtx j.pa
      if j.lost then .next ((s.releasePage ctx j.cls (.ofNat 64 q.2.2)).endJob j 3)
      else match s.descOp (.root ctx) (s.jobDesc j.pa) .homeRead with
        | .error _ => .next (s.endJob j 4)
        | .ok d =>
          if !seqLive d.w18 || seqDropped d.w18 then
            .next ((s.releasePage ctx j.cls (.ofNat 64 q.2.2)).endJob j 3)
          else match s.homeClean q.1 8 with
            | .error _ => .next (s.endJob j 4)
            | .ok _ => .next (s.swapEntry j ctx j.cls q)

/-! ## Freeing (16 R359) -/

/-- The node run with a number still stands before the step boundary: it has not issued step since. -/
def State.stillHolds (s : State) (w : Nat × Nat) : Bool :=
  (s.cores.any fun p => (p.2.run == .running || p.2.run == .halted) && p.2.runId == w.1 && p.2.epoch == w.2)
    || s.saved.any fun v => v.regs.runId == w.1 && v.regs.epoch == w.2

/-- Link a page to the front of its free list, or count it in LOST and tell the host. -/
def State.linkPage (s : State) (f : FreePage) : State :=
  let l := s.slab f.ctx f.cls
  match s.rootPut f.ctx (.ofNat 64 f.va) l.head with
  | .ok t => t.setSlab f.ctx f.cls { l with head := .ofNat 64 f.va, count := l.count + 1 }
  | .error _ => (s.setSlab f.ctx f.cls { l with lost := l.lost + 1 }).hostEvent f.ctx 4

/-- 16 R359: page k of those that wait is freed at its step boundary. -/
def execPageFree (k : Nat) (s : State) : Out3 :=
  match s.frees[k]? with
  | none => .next s
  | some f =>
    if f.waits.any s.stillHolds then .next s
    else .next ({ s with frees := s.frees.eraseIdx k }.linkPage f)

end Sys2Proof.Machine
end

