-- ==== Sys2Proof/Machine/Events.lean ====
section
/-! DEFINITION. What arrives at a core: values of loads and atomics, the performing of stores, lockstep
mismatches and LINK_STALL (02 R29 to R37, R44, 06 R130 to R132, 08 R199, 19 R404). -/

namespace Sys2Proof.Machine

open Sys2Proof

/-! ## Loads and atomics -/

/-- Bytes of a load with those of the core's buffered stores laid over them (02 R37, 08 R200). -/
def overlay (pa : Nat) (bs : List Byte) (buffer : List Sto) : List Byte :=
  buffer.foldl (fun l x => l.zipIdx.map fun q =>
    if x.pa ≤ pa + q.2 ∧ pa + q.2 < x.pa + x.bytes.length then x.bytes.getD (pa + q.2 - x.pa) 0 else q.1) bs

/-- A window load fills a line of the fabric cache of its isle (02 R44). -/
def State.fillLine (s : State) (isle pa : Nat) : FabricLine × State :=
  match s.fabricLine isle pa with
  | some f => (f, s)
  | none =>
    let f := s.newLine isle (pa / 64)
    (f, { s.freshen with fabric := s.fabric ++ [f] })

/-- The bytes that a load of core c reads at its end. -/
def State.loadBytes (s : State) (c pa n : Nat) : List Byte × State :=
  match s.region pa with
  | .config => (leBytes n (s.cfgRead pa n), s)
  | .peer _ =>
    let (f, t) := s.fillLine (isleOf c) pa
    ((f.bytes.drop (pa % 64)).take n, t)
  | _ => (s.readAs .cp pa n, s)

/-- Remove an outstanding op and its request to a drawer. -/
def State.endOut (s : State) (c : Nat) (o : Out) : State :=
  { s.modCore c fun k => { k with outs := k.outs.filter (·.id != o.id) } with
    drawerReqs := s.drawerReqs.filter fun r => !(r.isOf c 0 && r.id == o.id) }

/-- A load or an atomic meets the error in byte e as it performs (02 R29): its register keeps its value, an atomic writes
nothing, and the error is due at the next boundary of the core (log 14, DEDUCED). -/
def State.endPoison (s : State) (c : Nat) (o : Out) (e : Nat) : State :=
  (s.endOut c o).modCore c fun k => { k with uncorrDue := k.uncorrDue.orElse fun _ => some (e, o.seq) }

/-- The value of a load arrives. -/
def State.endLoad (s : State) (c : Nat) (o : Out) (pa n : Nat) (sgn : Bool) : State :=
  match s.readPoison c o.id pa n with
  | some e => s.endPoison c o e
  | none =>
    let (bs, t) := (s.endOut c o).loadBytes c pa n
    let bs := overlay pa bs ((s.core c).segment.buffer.filter fun x => x.id < o.id)
    t.modCore c fun k => k.carry (k.writeLoad o.dst n sgn (leNat bs)) o.seq

/-- An atomic executes at its home and its old value arrives (16 R339). -/
def State.endAtomic (s : State) (c : Nat) (o : Out) (pa n op : Nat) (a b : W64) : State :=
  match s.readPoison c o.id pa n with
  | some e => s.endPoison c o e
  | none =>
    let (x, t) := (s.endOut c o).atomicAt pa n op a b
    match o.dst with
    | [.s d] => t.modCore c fun k => k.carry (k.setS d x) o.seq
    | _ => t

/-- An access whose latency ends at some cycle may return or perform: that cycle has come, or the front end counts none (06 R131,
08 R190). -/
def State.returns (s : State) (c : Nat) (ready : Option Nat) : Bool := !(s.core c).live || (s.core c).reached ready

/-- 06 R130: outstanding op k of a core returns, once every earlier access that must come first has, and
its answer is there. -/
def execLoadReturn (core k : Nat) (s : State) : Out3 :=
  match (s.core core).outs[k]? with
  | none => .next s
  | some o =>
    if !s.returns core o.ready then .next s
    else match o.kind with
    | .done => .next (s.endOut core o)
    | .load _ pa n sgn =>
      if s.inOrder core o.id pa n && s.loadReady core o pa then .next (s.endLoad core o pa n sgn) else .next s
    | .atomic pa n op a b =>
      if s.inOrder core o.id pa n then .next (s.endAtomic core o pa n op a b) else .next s

/-! ## Stores -/

/-- The bytes of a store of core c enter its home. -/
def State.landStore (s : State) (c : Nat) (x : Sto) : State :=
  match s.region x.pa with
  | .config => s.cfgStore x.pa x.bytes
  | _ => x.lanes.foldl (fun t q => t.writeBy (.cp c) q.1 (leBytes 4 q.2.toNat)) (s.writeBy (.cp c) x.pa x.bytes)

/-- 02 R31: store k of a core performs and leaves class S. -/
def execStorePerform (core k : Nat) (s : State) : Out3 :=
  match (s.core core).stores[k]? with
  | none => .next s
  | some x =>
    if x.performed || (s.returns core x.ready && s.storeReady core x) then
      let t := s.modCore core fun c => { c with stores := c.stores.eraseIdx k }
      .next (if x.performed then t else t.landStore core x)
    else .next s

/-! ## Lockstep (08 R199) -/

/-- Access `id` of core c, which has not performed and leaves the cluster: the address of its bundle, and its physical
address. -/
def Core.egress (k : Core) (c id : Nat) : Option (Nat × Nat) :=
  let l := (k.stores.filter (!·.performed)).map (fun x => (x.id, x.pc, x.pa))
    ++ k.outs.filterMap fun o => o.kind.range.map fun q => (o.id, o.pc, q.1)
  (l.find? fun x => x.1 == id && leavesCluster c x.2.2).map (·.2)

/-- Another core stands outside the cluster of core c. -/
def outside (c d : Nat) : Bool := d / 8 != c / 8

/-- Both copies of an access are discarded: its register keeps its old value and loses its mark. -/
def State.discard (s : State) (c id : Nat) : State :=
  { s.modCore c fun k => { k with
      stores := k.stores.filter (·.id != id), outs := k.outs.filter (·.id != id) } with
    drawerReqs := s.drawerReqs.filter fun r => !(r.isOf c 0 && r.id == id) }

/-- Runs leave the cluster of core c. -/
def runsLeave (c : Nat) (l : List (Nat × Nat)) : Bool := l.any fun q => leavesCluster c q.1

/-- The piece in hand of a channel's op, with the runs that it writes; none when it has none. -/
def State.pieceInHand (s : State) (c : Nat) (r : CopyRun) : Option (CopyRun × Nat × List (Nat × Nat)) :=
  let l := s.lay c r
  match l.src r.elem, l.dst r.elem with
  | .ok src, .ok dsts =>
    if r.started && !r.landed && r.elem < l.count && r.off < l.n then
      let r := s.planElement c r l src dsts
      let q := r.piece dsts l.n
      some (r, q.2, dsts.flatMap fun d => match s.resolveRange c .cy (d + .ofNat 64 q.1) q.2 .write with
        | .ok x => x
        | .error _ => [])
    else none
  | _, _ => none

/-- The descriptor of a cp.seq lies outside the cluster of its core. -/
def State.seqLeaves (s : State) (c : Nat) (r : CopyRun) : Bool :=
  match r.entry.instr with
  | .cpSeq .. => (match s.resolve c .cp (r.entry.val 0) .atomic with
    | .ok pa => leavesCluster c pa
    | .error _ => false)
  | _ => false

/-- The word that holds OWN of the record in hand lies outside the cluster. -/
def State.ownLeaves (s : State) (c : Nat) (r : CopyRun) : Bool :=
  match s.resolveRange c .cy (.ofNat 64 (r.record + 0x18)) 8 .write with
  | .ok l => runsLeave c l
  | .error _ => false

/-- What a channel's op does next outside the cluster beside its pieces: a start check of cp.seq reads its descriptor, which
is made again; a commit and the clearing of OWN are left out, and the op goes on. -/
def State.stageEgress (s : State) (c ch : Nat) (r : CopyRun) : Option State :=
  let l := s.lay c r
  if !r.started then (if s.seqLeaves c r then some s else none)
  else if r.landed then
    (if r.inRecord && (s.completing c ch).isSome && s.ownLeaves c r then
      some ((s.recordNotice c ch r fun _ => true).recordNext c ch r) else none)
  else if runsLeave c (s.stepReads c r) then some s
  else if r.elem < l.count && l.n ≤ r.off && s.seqLeaves c r then some (s.setHead c ch r.nextElem)
  else none

/-- The egress of a channel's op: the address of its bundle, and the state in which both copies are discarded.  Bytes that
would be written outside the cluster are not written; a read is made again. -/
def State.chanEgress (s : State) (c ch : Nat) : Option (Nat × State) :=
  ((s.core c).chan ch).fifo.head?.bind fun r =>
    match s.pieceInHand c r with
    | some (x, n, writes) =>
      if runsLeave c writes then some (r.entry.pc, (s.endReads c (1 + ch)).setHead c ch { x with off := x.off + n })
      else if runsLeave c (s.stepReads c r) then some (r.entry.pc, s) else none
    | none => (s.stageEgress c ch r).map fun t => (r.entry.pc, t)

/-- A notice posts flags to cores outside the cluster of core c. -/
def State.noticeLeaves (s : State) (c : Nat) (n : Notice) (lands : List Nat) : Bool :=
  n.fp && lands.any fun d => outside c d && s.runsCtx d (s.core c).ctx

/-- The flag posts with which the op of a unit completes: the address of its bundle, and the state in which it has completed
without those that leave the cluster. -/
def State.noticeEgress (s : State) (c u : Nat) : Option (Nat × State) :=
  let near := fun d => !outside c d
  if u < 8 then
    (s.completing c u).bind fun r =>
      if !r.noticed && s.noticeLeaves c r.notice (s.copyLands c r) then some (r.entry.pc, s.channelComplete c u near) else none
  else
    let g := (s.core c).gqueue (u - 8)
    if !s.gCompleting c (u - 8) then none
    else g.cfg.bind fun b => if s.noticeLeaves c (gNotice b) (s.gLands c g b) then
      some (g.pcs.getLast?.getD 0, s.gatherComplete c (u - 8) near) else none

/-- Landing count k of those owed is at a core outside the cluster: the address of the bundle of the op at the head of its
unit, and the state without that count. -/
def State.countEgress (s : State) (c k : Nat) : Option (Nat × State) :=
  (s.owed[k]?).bind fun o =>
    if o.core = c ∧ outside c o.land then
      let k' := s.core c
      let pc := if o.unit = 9 then (k'.gqueue o.queue).pcs.getLast? else (k'.chan (o.unit - 1)).fifo.head?.map (·.entry.pc)
      some (pc.getD 0, s.countOff k o)
    else none

/-- A piece of the row in hand is passed over: its offset goes on, and with it the row. -/
def State.skipPiece (s : State) (c q : Nat) (g : GQueue) (b : List W64) (n : Nat) : State :=
  let h := { g with off := g.off + n }
  if h.off < gRowb b then s.modCore c (·.setGq q h)
  else if gCombine b then s.modCore c (·.setGq q { h with done := h.done + 1, off := 0, pre := [], preErrs := [] })
  else (s.modCore c (·.setGq q h.rowDone)).gSlotLands c h b h.done

/-- The destination of the row in hand of a gather queue, with the address of the bundle that pushed it. -/
def State.gRowInHand (s : State) (c : Nat) (g : GQueue) (b : List W64) : Option (Nat × W64) :=
  let pc := g.pcs.getD g.done 0
  if gCombine b then
    (if g.closing then (g.rows.eraseDups[g.done]?).map fun r => (pc, gTableRow b r) else none)
  else if g.done < g.rows.length then some (pc, (s.gRow c b g g.done (g.rows.getD g.done 0)).2) else none

/-- The same for a gather queue. -/
def State.gEgress (s : State) (c q : Nat) : Option (Nat × State) :=
  let g := (s.core c).gqueue q
  g.cfg.bind fun b =>
    let reads := runsLeave c (s.gReads c g)
    match s.gRowInHand c g b with
    | some (pc, dst) =>
      let (off, n) := g.piece dst (gRowb b)
      let writes := match s.resolveRange c .ga (dst + .ofNat 64 off) n .write with
        | .ok x => x
        | .error _ => []
      if runsLeave c writes then some (pc, (s.endReads c (9 + q)).skipPiece c q g b n) else if reads then some (pc, s) else none
    | none => if reads then some ((g.pcs.head?).getD 0, s) else none

/-- The egress of a send: the flit that its queue sends next, which leaves again in a later frame. -/
def State.sendEgress (s : State) (c chip : Nat) : Option (Nat × State) :=
  let l := (s.core c).sends chip
  l.zipIdx.findSome? fun q => (q.1.next s.frame).map fun f =>
    (q.1.entry.pc, s.modCore c (·.setSends chip (l.set q.2 (q.1.leaves f s.frame true))))

/-- The egress that a mismatch concerns: the address of its bundle, a physical address where it has one, and the state
without both copies of it (log 62, DEDUCED). -/
def State.egressOf (s : State) (c : Nat) (e : Egress) : Option (Nat × Nat × State) :=
  let k := s.core c
  let bare := fun x : Option (Nat × State) => x.map fun p => (p.1, 0, p.2)
  match e with
  | .same => none
  | .cp id => (k.egress c id).map fun x => (x.1, x.2, s.discard c id)
  | .post i => (s.posts[i]?.filter fun p => p.src == c && outside c p.dst).map fun p =>
      (p.pc, 0, { s with posts := s.posts.eraseIdx i })
  | .count i => bare (s.countEgress c i)
  | .notice u => bare (s.noticeEgress c u)
  | .engine u => bare (if u < 8 then s.chanEgress c u else s.gEgress c (u - 8))
  | .send q => bare (s.sendEgress c q)
  | .home => if k.homeReq then some (k.pc, 0, s.setCore c { k with homeReq := false }) else none
  | .issue _ => none

/-- The next bundle of core c is about to issue, and what its op in a slot does outside the cluster differs between the
two copies: inside a segment the core rewinds, and else the bundle issues without that op, which is discarded. -/
def State.loseAt (s : State) (c slot : Nat) : State :=
  let k := s.core c
  let t := s.boundary c
  if k.homeReq || !t.iss.active || t.iss.core != c || !(t.iss.ops.any fun o => o.slot == slot && t.opLeaves c o.instr)
  then s
  else if k.seg then s.rewindOrTrap c (uncorrTrap 0) k.pc 8
  else { t with iss := { t.iss with lost := some slot } }

/-- 08 R199: the two copies of an egress of a lockstep node are compared.  When they differ, both are discarded, and
the core rewinds its segment or takes CMPT at its next boundary.  A service core runs its nodes alone (log 128, DEDUCED). -/
def execLockstepMismatch (core : Nat) (egress : Egress) (s : State) : Out3 :=
  let k := s.core core
  if !k.live || 256 ≤ core || !s.lockstep k.ctx then .next s
  else match egress with
    | .issue slot => .next (s.loseAt core slot)
    | _ => match s.egressOf core egress with
      | none => .next s
      | some (pc, pa, t) =>
        if k.seg then .next (t.rewindOrTrap core (uncorrTrap pa) k.pc 8)
        else .next (t.modCore core fun k => { k with cmptDue := k.cmptDue.orElse fun _ => some (mismatchInfo pc) })

/-! ## LINK_STALL (19 R404, R405) -/

/-- 19 R404: the count of a core that a retraining strait holds reaches STALL_LIMIT: it takes LINK_STALL, which waits in
handler state. -/
def execLinkStall (core : Nat) (strait : BitVec 4) (s : State) : Out3 :=
  match s.stallAt core strait.toNat with
  | some d => .next (if s.boundaryDue d then s.passTo d else s)
  | none => .next s

end Sys2Proof.Machine
end

