-- ==== Sys2Proof/Machine/Host.lean ====
section
/-! DEFINITION. The Gentar service: host requests and connections (21 R430 to R433, 07 R169). -/

namespace Sys2Proof

open Sys2Proof.Machine

/-! ## Headers (21 R431) -/

/-- The fields of a header: OPC, PHYS, CTX and LEN. -/
def HostReq.opc (r : HostReq) : Nat := fld r.w0 0 8
def HostReq.phys (r : HostReq) : Bool := r.w0.getLsbD 8
def HostReq.ctx (r : HostReq) : Nat := fld r.w0 16 4
def HostReq.len (r : HostReq) : Nat := fld r.w2 0 32

/-- The request breaks its form: an OPC that is not the one expected, a bit that must be zero, or its
length. -/
def HostReq.bad (r : HostReq) (opc : Nat) : Bool :=
  r.opc != opc || fld r.w0 9 7 != 0 || fld r.w0 20 12 != 0 || fld r.w2 32 32 != 0 || 65536 < r.len
    || r.payload.length != (if opc = 3 then r.len else 0)

end Sys2Proof

namespace Sys2Proof.Machine

open Sys2Proof

/-! ## Responses -/

/-- Send a response. -/
def State.respond (s : State) (r : HostReq) (result : Nat) (payload : List Byte) : State :=
  { s with hostOut := s.hostOut ++ [response r result 0 payload] }

/-- Gentar takes the request now: it has started, the connection stands, and under ROD no earlier request of
the connection is still being carried out (R432). -/
def State.takesRequest (s : State) (r : HostReq) : Bool :=
  2 ≤ s.stage && match Tab.get none s.conns r.conn with
    | some rod => !rod || !(s.owedAnswers.any fun q => q.2.conn == r.conn)
    | none => false

/-- A context is resident and not being closed. -/
def State.resident (s : State) (ctx : Nat) : Bool :=
  match s.ctx ctx with
  | some x => x.stopping != some 3
  | none => false

/-- The RESULT of a fault: an address that early service does not reach is EARLY. -/
def State.resultOf (s : State) (t : Trp) : Nat :=
  match t.code with
  | .xlate => if s.early ∧ t.info = 23 then 2 else 3
  | .uncorr => 5
  | _ => 4

/-- Carry out a request: a refusal answers with its RESULT and changes nothing else, and a success answers
with its payload. -/
def State.serve (s : State) (r : HostReq) (opc : Nat) (needsCtx : Bool)
    (f : State → Except Nat (List Byte × State)) : Out3 :=
  if !s.takesRequest r then .next s
  else if r.bad opc then .next (s.respond r 1 [])
  else if needsCtx && !s.resident r.ctx then .next (s.respond r 7 [])
  else match f s with
    | .error e => .next (s.respond r e [])
    | .ok (payload, t) => .next (t.respond r 0 payload)

/-! ## Memory on a request's behalf -/

/-- The runs of a range that a request names: virtual in CTX, or physical. -/
def State.hostRuns (s : State) (r : HostReq) (addr : W64) (n : Nat) (acc : Acc) :
    Except Trp (List (Nat × Nat)) :=
  if !r.phys then s.resolveRootRange r.ctx addr n acc
  else if 2 ^ 52 < addr.toNat + n then .error (xlateTrap 7 2 addr)
  else
    let l := pageCuts addr.toNat n
    if l.any fun q => s.region q.1 == .unmapped then .error (xlateTrap 7 2 addr) else .ok l

/-- A byte that Gentar reads: of configuration space, of a peer's memory, or of memory. -/
def State.hostByte (s : State) (pa : Nat) : Byte :=
  match s.region pa with
  | .config => .ofNat 8 (bitsAt (s.cfgWord ((pa - cfgBase) / 8 * 8)).toNat (8 * (pa % 8)) 8)
  | .peer _ => Config.peerByte s.freeNo pa
  | _ => s.byte pa

/-- Read n bytes. -/
def State.hostRead (s : State) (r : HostReq) (addr : W64) (n : Nat) : Except Trp (List Byte) := do
  let l ← s.hostRuns r addr n .read
  match s.poisonedRuns l with
  | some e => .error (uncorrTrap e)
  | none => return l.flatMap fun q => if s.region q.1 == .config || s.touchesPeer [q] then
      (List.range q.2).map fun i => s.hostByte (q.1 + i)
    else s.readAs .cp q.1 q.2

/-- Write one run: configuration space by its 8-byte words. -/
def State.hostPut (s : State) (pa : Nat) (bs : List Byte) : State :=
  if s.region pa == .config then
    let off := pa - cfgBase
    (List.range ((off + bs.length + 7) / 8 - off / 8)).foldl (fun t i =>
      let w := off / 8 + i
      let old := leBytes 8 (t.cfgWord (8 * w)).toNat
      let new := (List.range 8).map fun j =>
        if off ≤ 8 * w + j ∧ 8 * w + j < off + bs.length then bs.getD (8 * w + j - off) 0 else old.getD j 0
      t.cfgPut (8 * w) (.ofNat 64 (leNat new))) s
  else s.writeBytes pa bs

/-- Write runs in order. -/
def State.hostPuts (s : State) : List (Nat × Nat) → List Byte → State
  | [], _ => s
  | q :: l, bs => (s.hostPut q.1 (bs.take q.2)).hostPuts l (bs.drop q.2)

/-- Write bytes: peer memory, an armed slot and a marked word refuse it, as they refuse a store. -/
def State.hostWrite (s : State) (r : HostReq) (addr : W64) (bs : List Byte) : Except Trp State := do
  let l ← s.hostRuns r addr bs.length .write
  if s.touchesPeer l || (l.any fun q => s.overlapsArmed q.1 q.2 || s.overlapsMark q.1 q.2) then
    .error ⟨.prot, 1, addr⟩
  else return s.hostPuts l bs

/-- A fault as a RESULT. -/
def State.orResult {α : Type} (s : State) (x : Except Trp α) : Except Nat α :=
  match x with
  | .ok a => .ok a
  | .error t => .error (s.resultOf t)

/-- 21 R431. -/
def execRead (r : HostReq) (s : State) : Out3 :=
  s.serve r 2 (!r.phys) fun s => do
    let bs ← s.orResult (s.hostRead r r.addr r.len)
    return (bs, s.freshen)

/-- 21 R431. -/
def execWrite (r : HostReq) (s : State) : Out3 :=
  s.serve r 3 (!r.phys) fun s => do
    let t ← s.orResult (s.hostWrite r r.addr r.payload)
    return ([], t)

/-! ## LAUNCH and STATUS -/

/-- A launch record keeps R169. -/
def launchOk (addr w08 w18 : W64) (tail : List Byte) : Bool :=
  addr.toNat % 64 == 0 && fld w08 0 16 != 0 && fld w08 20 44 == 0 && fld w18 8 56 == 0 && tail.all (· == 0)

/-- A launch that is named by a physical address fails: its record, and its nodes in the pool, are found
through the physical address. -/
def State.failPhys (s : State) (ctx pa code : Nat) (node : W64) : State :=
  let st := s.readW (pa + 0x18)
  let s := if launchFailed st then s else (s.writeW (pa + 0x18) (setFld st 0 8 code)).writeW (pa + 0x20) node
  let mine := fun p : PoolNode => p.ctx == ctx && match s.resolveRoot ctx (.ofNat 64 p.launch) .read with
    | .ok a => a == pa
    | .error _ => false
  let out := s.pool.filter mine
  out.foldl (fun t p => t.leaveLive ctx (.ofNat 64 p.node) (.ofNat 64 p.launch))
    { s with pool := s.pool.filter fun p => !mine p }

/-- The first failure of a decrement that its own launch record cannot tell: a node that is not aligned or
whose record cannot be read. -/
def State.rootFault (s : State) (ctx : Nat) (n : W64) : Option Nat :=
  if n.toNat % 256 ≠ 0 then some 0x11
  else match s.rootWord ctx (n + 8) with
    | .error _ => some 0x16
    | .ok _ => none

/-- The root decrements of a launch whose record lies at physical address pa (07 R169). -/
def State.physRoots (s : State) (ctx pa : Nat) (va : W64) : Nat → State
  | 0 => s
  | k + 1 =>
    match s.rootWord ctx va with
    | .error _ => s.failPhys ctx pa 0x16 (.ofNat 64 pa)
    | .ok n => (match s.rootFault ctx n with
      | some code => s.failPhys ctx pa code n
      | none => (s.decrement ctx n n).2).physRoots ctx pa (va + 8) k

/-- Gentar accepts a launch record: CTX, and STATUS, LIVE and FAULT_NODE are zero (07 R169). -/
def State.acceptLaunch (s : State) (r : HostReq) (w08 w18 : W64) : Except Trp State := do
  let s ← s.hostWrite r (r.addr + 0x08) (leBytes 8 (setFld w08 16 4 r.ctx).toNat)
  let s ← s.hostWrite r (r.addr + 0x10) (leBytes 8 0)
  let s ← s.hostWrite r (r.addr + 0x18) (leBytes 8 (setFld w18 0 8 0).toNat)
  s.hostWrite r (r.addr + 0x20) (leBytes 8 0)

/-- 21 R431, 07 R169. -/
def execLaunch (r : HostReq) (s : State) : Out3 :=
  s.serve r 1 true fun s => do
    if r.addr.toNat % 64 ≠ 0 then .error 1
    else
      let bs ← s.orResult (s.hostRead r r.addr 64)
      let w := fun off => BitVec.ofNat 64 (leNat ((bs.drop off).take 8))
      if !launchOk r.addr (w 8) (w 0x18) (bs.drop 0x28) then .error 1
      else
        let t ← s.orResult (s.acceptLaunch r (w 8) (w 0x18))
        let n := fld (w 8) 0 16
        return ([], if r.phys then t.physRoots r.ctx r.addr.toNat (w 0) n
          else t.decrementList r.ctx r.addr r.addr (w 0) n)

/-- 21 R431: STATUS, LIVE and FAULT_NODE of the launch, then CCB word 0x18. -/
def execStatus (r : HostReq) (s : State) : Out3 :=
  s.serve r 4 true fun s => do
    let bs ← s.orResult (s.hostRead r (r.addr + 0x10) 24)
    let ccb := (s.ctx r.ctx).elim 0 (·.ccb)
    let status := (bs.drop 8).take 1 ++ List.replicate 7 0
    return (status ++ bs.take 8 ++ bs.drop 16 ++ leBytes 8 (s.ccbWord ccb 0x18).toNat, s)

/-! ## Contexts -/

/-- The number of resident contexts. -/
def State.residents (s : State) : Nat := ((List.range 16).filter fun x => (s.ctx x).isSome).length

/-- 21 R431: the CCB at physical address ARG is resident as CTX, its ENERGY_TABLE holds its defaults unless it has values
(08 R186), and its CSTATE is running. -/
def execOpen (r : HostReq) (s : State) : Out3 :=
  s.serve r 6 false fun s =>
    let pa := r.arg.toNat
    if s.residents = 16 then .error 8
    else if (s.ctx r.ctx).isSome then .error 6
    else if pa % 256 ≠ 0 then .error 1
    else if 2 ^ 52 ≤ pa ∨ s.region pa = .unmapped then .error (if s.early then 2 else 3)
    else if s.region pa = .config ∨ s.touchesPeer [(pa, 256)] then .error 4
    else if (poisoned s.errs pa 256).isSome then .error 5
    else
      let x : Ctx := { ccb := pa, conn := some r.conn, byDispatcher := false, stopping := none, restoring := false }
      .ok ([], { (s.fillEnergy pa).setCstate pa 0 with ctxs := Tab.put none s.ctxs r.ctx (some x) })

/-- A request whose response leaves when the context has been saved, restored or dropped. -/
def State.owe1 (s : State) (r : HostReq) : State := { s with owedAnswers := s.owedAnswers ++ [(r.ctx, r)] }

/-- A request on a context that answers later, or is refused. -/
def State.serveLater (s : State) (r : HostReq) (opc : Nat) (f : State → Option State) : Out3 :=
  if !s.takesRequest r then .next s
  else if r.bad opc then .next (s.respond r 1 [])
  else if !s.resident r.ctx then .next (s.respond r 7 [])
  else match f (s.owe1 r) with
    | some t => .next t
    | none => .next (s.respond r 6 [])

/-- The launches of a context that still have nodes: of the pool, of its cores and of saved cores. -/
def State.openLaunches (s : State) (ctx : Nat) : List W64 :=
  ((s.pool.filter fun p => p.ctx == ctx).map (fun p => BitVec.ofNat 64 p.launch)
    ++ (s.ctxCores ctx).map (fun c => (s.core c).launch)
    ++ (s.saved.filter fun v => v.ctx == ctx).map (·.regs.launch)).eraseDups

/-- A launch with LIVE > 0 ends with STATUS 0x17, unless it has failed already (07 R173, 21 R431). -/
def State.closeLaunch (s : State) (ctx : Nat) (l : W64) : State :=
  let st := s.rootPeek ctx (l + 0x18)
  if s.rootPeek ctx (l + 0x10) = 0 || launchFailed st then s else s.rootTry ctx (l + 0x18) (setFld st 0 8 0x17)

/-- The nodes of a context leave the pool. -/
def State.emptyPool (s : State) (ctx : Nat) : State :=
  let out := s.pool.filter fun p => p.ctx == ctx
  out.foldl (fun t p => t.leaveLive ctx (.ofNat 64 p.node) (.ofNat 64 p.launch))
    { s with pool := s.pool.filter fun p => p.ctx != ctx }

/-- The group entries and the ticket dispensers of a context are not VALID. -/
def State.dropEntries (s : State) (ctx : Nat) : State :=
  { s with
    groups := s.groups.map fun p => (p.1, if p.2.ctx.toNat = ctx then { p.2 with valid := false } else p.2)
    tickets := s.tickets.map fun p => (p.1, if p.2.ctx.toNat = ctx then { p.2 with valid := false } else p.2) }

/-- Close a context: its launches end, its nodes leave the pool, and its cores stop. -/
def State.closeContext (s : State) (ctx : Nat) : State :=
  let s := (s.openLaunches ctx).foldl (fun t l => t.closeLaunch ctx l) s
  (((s.emptyPool ctx).dropEntries ctx).requestStop ctx).setStopping ctx 3 false

/-- 21 R431: the context is gone when the save engine has found its cores stopped. -/
def execClose (r : HostReq) (s : State) : Out3 := s.serveLater r 7 fun s => some (s.closeContext r.ctx)

/-- Release a context (08 R184): it goes as soon as its cores are saved. -/
def State.releaseContext (s : State) (ctx : Nat) : State := (s.requestStop ctx).setStopping ctx 4 false

/-- 21 R431: CSTATE must be 2. -/
def execRelease (r : HostReq) (s : State) : Out3 :=
  s.serveLater r 5 fun s => if s.cstate r.ctx = 2 then some (s.releaseContext r.ctx) else none

/-- 21 R431, 08 R189: CSTATE must be 0. -/
def execPreempt (r : HostReq) (s : State) : Out3 :=
  s.serveLater r 8 fun s =>
    if s.cstate r.ctx = 0 then some ((s.requestStop r.ctx).setStopping r.ctx 1 false) else none

/-- Gentar restores a context, also one that the dispatcher pre-empted (08 R192, R193). -/
def State.resumeContext (s : State) (ctx : Nat) : State :=
  match s.ctx ctx with
  | none => s
  | some x =>
    if x.restoring then s
    else
      let y := { x with byDispatcher := false }
      State.beginRestore { s with ctxs := Tab.put none s.ctxs ctx (some y) } ctx

/-- 21 R431: CSTATE must be 1. -/
def execResume (r : HostReq) (s : State) : Out3 :=
  s.serveLater r 9 fun s => if s.cstate r.ctx = 1 then some (s.resumeContext r.ctx) else none

/-! ## Connections (21 R430) -/

/-- 21 R430: mode 0 stands for RUD and mode 1 for ROD (log 21, DEDUCED); any other mode is refused, and so are RMA
operations and transport security. -/
def execConnectionSetUp (conn : Nat) (mode : BitVec 4) (sendOnly security : Bool) (s : State) : Out3 :=
  if s.stage < 2 ∨ 2 ≤ mode.toNat ∨ !sendOnly ∨ security then .next s
  else .next { s with conns := Tab.put none s.conns conn (some (mode == 1)) }

/-- A connection ends: no event of the contexts that were OPENed on it reaches the host any more (21 R433), and no response
that is owed on it (log 90, DESIGN CHOICE); what its requests do goes on. -/
def State.endConnection (s : State) (conn : Nat) : State :=
  { s with
    conns := Tab.put none s.conns conn none
    owedAnswers := s.owedAnswers.filter fun q => q.2.conn != conn
    ctxs := s.ctxs.map fun p => (p.1, p.2.map fun x => if x.conn = some conn then { x with conn := none } else x) }

end Sys2Proof.Machine
end

