-- ==== Sys2Proof/Machine/Power.lean ====
section
/-! DEFINITION. The heartbeat and the power controller (01 R13, 21 R421 to R426). -/

namespace Sys2Proof.Machine

open Sys2Proof

/-- 01 R13: a tick of the heartbeat counter, every 64 cycles. -/
def execHeartbeatTick (s : State) : Out3 :=
  if s.boundaryDue s.dueTick then
    .next { s.passTo s.dueTick with hbCount := s.hbCount + 1 }
  else .next s

/-! ## The cap (21 R424) -/

/-- The scale after a control period in which PKG_W was drawn. -/
def Power.nextScale (p : Power) (pkgW : Nat) : Nat :=
  let cap := p.capW.toNat
  let scale := p.scale.toNat
  if cap ≠ 0 ∧ cap < pkgW then Nat.min (scale + p.step.toNat) 0xFFFF
  else if cap = 0 ∨ 16 * pkgW < 15 * cap then Nat.max (scale - p.step.toNat) 0x0100
  else scale

/-- The energy above the cap in a control period, in whole µJ (21 R426). -/
def Power.excess (p : Power) (pkgW : Nat) : Nat := (pkgW - p.capW.toNat) * 4096 / 1500

/-- Ballast ran above the cap in the period that ends. -/
def Power.conflict (p : Power) (pkgW : Nat) : Bool :=
  p.ballastRan && p.capW != 0 && p.capW.toNat < pkgW

/-- The power block at the end of a control period; `slope`: the slope limit held the current. -/
def Power.endPeriod (p : Power) (pkgW : BitVec 16) (slope : Bool) : Power :=
  { p with
    pkgW := pkgW, scale := .ofNat 16 (p.nextScale pkgW.toNat), slope := slope || p.ballastRan
    capExcess := if p.conflict pkgW.toNat then p.capExcess + .ofNat 64 (p.excess pkgW.toNat) else p.capExcess
    ballastRan := false, periods := p.periods + 1 }

/-- 21 R424: a control period of 4,096 cycles ends; PKG_W and the slope limit come from the rails. -/
def execControlPeriodEnd (pkgW : BitVec 16) (slope : Bool) (s : State) : Out3 :=
  if s.boundaryDue s.duePeriod then
    .next { s.passTo s.duePeriod with power := s.power.endPeriod pkgW slope }
  else .next s

/-- 21 R425: ballast generators run dummy passes, whose energy goes to BALLAST (R423). -/
def execBallastStart (microjoules : Nat) (s : State) : Out3 :=
  let p := s.power
  .next { s with power := { p with ballast := p.ballast + .ofNat 64 microjoules, ballastRan := true } }

/-- A whole number of microjoules is charged to the counter that CCB.ECTR of a context names (21 R423). -/
def State.chargeEnergy (s : State) (ctx microjoules : Nat) : State :=
  match s.ctx ctx with
  | none => s
  | some x =>
    let p := s.power
    let i := fld (s.ccbWord x.ccb 0x18) 0 4
    { s with power := { p with ectr := Tab.put 0 p.ectr i (Tab.get 0 p.ectr i + .ofNat 64 microjoules) } }

/-! ## Gating (21 R421) -/

/-- 21 R421: an idle cluster is gated when its time has come. -/
def execClusterGate (cluster : Nat) (s : State) : Out3 :=
  match s.gateAt cluster with
  | none => .next s
  | some d =>
    if s.boundaryDue d then
      let p := s.power
      .next { s.passTo (Nat.max s.cycle.toNat d) with
        power := { p with gated := setFld p.gated cluster 1 1, woken := setFld p.woken cluster 1 0 } }
    else .next s

/-- Every byte of the scratchpads of a cluster is zero, with no error, and no slot of them is armed. -/
def State.zeroCluster (s : State) (cl : Nat) : State :=
  let inside := fun a => match spCore a with
    | some c => c < 256 && clusterOf c == cl
    | none => false
  { s with
    mem := s.mem.filter fun c => !inside c.1
    errs := s.errs.filter fun e => !inside e
    kept := s.kept.filter fun x => !inside x.pa
    armed := s.armed.filter fun a => !inside (16 * a) }

/-- The cores of a cluster count as idle from now on. -/
def State.idleCluster (s : State) (cl : Nat) : State :=
  (List.range 8).foldl (fun t i => t.modCore (8 * cl + i) fun k => { k with idleFrom := s.cycle.toNat }) s

/-- 21 R421: the wake of a gated cluster ends.  Its 1,024 cycles without a node count from here (log 81, DEDUCED). -/
def execClusterWake (cluster : Nat) (s : State) : Out3 :=
  if cluster < 32 ∧ s.power.gated.getLsbD cluster then
    let p := s.power
    let p := { p with gated := setFld p.gated cluster 1 0, woken := setFld p.woken cluster 1 1,
                      rampDown := setFld p.rampDown cluster 1 0 }
    .next ((({ s with power := p } : State).zeroCluster cluster).idleCluster cluster)
  else .next s

/-! ## Every context at once (21 R427) -/

/-- Every context stops, as for a pre-emption by Gentar, and every cluster gates as it falls idle (log 110, DEDUCED). -/
def State.stopAll (s : State) : State :=
  let t := ((List.range 16).filter s.mayStop).foldl (fun t x => (t.requestStop x).setStopping x 1 false) s
  { t with power := { t.power with rampDown := BitVec.allOnes 32 } }

end Sys2Proof.Machine
end

