-- ==== Sys2Proof/Machine/Predicate.lean ====
section
/-! DEFINITION. Predicate ops of slot S (06 R139, R140). -/

namespace Sys2Proof.Machine

open Sys2Proof

/-- 06 R140. -/
def execPset (pd : PR) (sa sb : SR) (cond : BitVec 3) (s : State) : Out3 :=
  .next (s.dstPwin (setPred s.snap.pwin pd (condition cond (s.srcS sa) (s.srcS sb))))

/-- 06 R140: the immediate is sign-extended for every condition. -/
def execPseti (pd : PR) (sa : SR) (cond : BitVec 3) (imm : BitVec 20) (s : State) : Out3 :=
  .next (s.dstPwin (setPred s.snap.pwin pd (condition cond (s.srcS sa) (sx imm))))

/-- The combinations of plog (06 R140). -/
def plogOp (op : BitVec 2) (a b : Bool) : Bool :=
  match op.toNat with
  | 0 => a && b
  | 1 => a || b
  | 2 => a != b
  | _ => a && !b

/-- 06 R140. -/
def execPlog (pd pa pb : PR) (op : BitVec 2) (s : State) : Out3 :=
  .next (s.dstPwin (setPred s.snap.pwin pd (plogOp op (s.srcP pa) (s.srcP pb))))

/-- 06 R140: p0 stays 1. -/
def execPwr (sa : SR) (mask : BitVec 16) (s : State) : Out3 :=
  .next (s.dstPwin ((s.snap.pwin &&& ~~~mask) ||| ((s.srcS sa).setWidth 16 &&& mask)))

/-- 06 R140. -/
def execPrd (sd : SR) (s : State) : Out3 := .next (s.dstS sd ((s.snap.pwin ||| 1).setWidth 64))

end Sys2Proof.Machine
end

