-- ==== Sys2Proof/Machine/VectorInt.lean ====
section
/-! DEFINITION. Integer and bitwise vector ops, compares, selection and masks (09 R221 to R227). -/

namespace Sys2Proof.Machine

open Sys2Proof

/-- The width and signedness of an integer kind (09 R221). -/
def intKind (ty : BitVec 4) (uns : Bool) : Nat × Bool :=
  match ty.toNat with
  | 6 => (16, true)
  | 7 => (16, false)
  | 8 => (8, true)
  | 9 => (8, false)
  | _ => (32, !uns)

/-- An element as an integer. -/
def elemInt (w : Nat) (sgn : Bool) (x : Nat) : Int := if sgn then signed w x else ((x % 2 ^ w : Nat) : Int)

/-- A lane whose elements of w bits are made by f from the elements of two lanes, and whether one
saturated (09 R213). -/
def mapElems (w : Nat) (f : Nat → Nat → Nat × Bool) (a b : W32) : W32 × Bool :=
  let r := (List.range (32 / w)).map fun p => f (elemAt w p a) (elemAt w p b)
  (.ofNat 32 (r.foldr (fun e acc => e.1 + 2 ^ w * acc) 0), r.any (·.2))

/-- An exact integer result as an element: saturated or wrapped (03 R67). -/
def finishInt (w : Nat) (sgn sat : Bool) (x : Int) : Nat × Bool :=
  if sat then
    let (y, b) := satInt w sgn x
    (wrapInt w y, b)
  else (wrapInt w x, false)

/-- An integer op on two registers (09 R222). -/
def State.vecInt (s : State) (f : Int → Int → Int) (vd va vb : VR) (k : KR) (ty : BitVec 4)
    (uns sat : Bool) : Out3 :=
  let (w, sgn) := intKind ty uns
  let a := s.srcV va
  let b := s.srcV vb
  .next (s.vecSat vd k fun l =>
    mapElems w (fun x y => finishInt w sgn sat (f (elemInt w sgn x) (elemInt w sgn y))) (lane a l) (lane b l))

/-- 09 R222. -/
def execVaddI (vd va vb : VR) (k : KR) (ty : BitVec 4) (uns sat : Bool) (s : State) : Out3 :=
  s.vecInt (· + ·) vd va vb k ty uns sat
/-- 09 R222. -/
def execVsubI (vd va vb : VR) (k : KR) (ty : BitVec 4) (uns sat : Bool) (s : State) : Out3 :=
  s.vecInt (· - ·) vd va vb k ty uns sat
/-- 09 R222. -/
def execVmulI (vd va vb : VR) (k : KR) (ty : BitVec 4) (uns sat : Bool) (s : State) : Out3 :=
  s.vecInt (· * ·) vd va vb k ty uns sat
/-- 09 R222. -/
def execVminI (vd va vb : VR) (k : KR) (ty : BitVec 4) (uns : Bool) (s : State) : Out3 :=
  s.vecInt min vd va vb k ty uns false
/-- 09 R222. -/
def execVmaxI (vd va vb : VR) (k : KR) (ty : BitVec 4) (uns : Bool) (s : State) : Out3 :=
  s.vecInt max vd va vb k ty uns false

/-- A bitwise op on two registers (09 R223). -/
def State.vecBits (s : State) (f : W32 → W32 → W32) (vd va vb : VR) (k : KR) : Out3 :=
  let a := s.srcV va
  let b := s.srcV vb
  .next (s.vecOp vd k fun l => f (lane a l) (lane b l))

/-- 09 R223. -/
def execVand (vd va vb : VR) (k : KR) (s : State) : Out3 := s.vecBits (· &&& ·) vd va vb k
/-- 09 R223. -/
def execVor (vd va vb : VR) (k : KR) (s : State) : Out3 := s.vecBits (· ||| ·) vd va vb k
/-- 09 R223. -/
def execVxor (vd va vb : VR) (k : KR) (s : State) : Out3 := s.vecBits (· ^^^ ·) vd va vb k

/-- Shifts of an element of w bits by any count (09 R223). -/
def elemShl (w x c : Nat) : Nat := if w ≤ c then 0 else x * 2 ^ c % 2 ^ w
def elemShr (w x c : Nat) : Nat := if w ≤ c then 0 else x / 2 ^ c
def elemSar (w x c : Nat) : Nat := wrapInt w (signed w x / (2 ^ Nat.min c w : Nat))

/-- A vector shift: the count is immediate or comes from the matching element (09 R223). -/
def State.vecShift (s : State) (f : Nat → Nat → Nat → Nat) (vd va vb : VR) (k : KR) (ty : BitVec 4)
    (imm : Bool) (count : BitVec 5) : Out3 :=
  let w := (intKind ty false).1
  let a := s.srcV va
  let b := s.srcV vb
  .next (s.vecOp vd k fun l =>
    (mapElems w (fun x y => (f w x (if imm then count.toNat else y), false)) (lane a l) (lane b l)).1)

/-- 09 R223. -/
def execVshl (vd va vb : VR) (k : KR) (ty : BitVec 4) (imm : Bool) (count : BitVec 5) (s : State) : Out3 :=
  s.vecShift elemShl vd va vb k ty imm count
/-- 09 R223. -/
def execVshr (vd va vb : VR) (k : KR) (ty : BitVec 4) (imm : Bool) (count : BitVec 5) (s : State) : Out3 :=
  s.vecShift elemShr vd va vb k ty imm count
/-- 09 R223. -/
def execVsar (vd va vb : VR) (k : KR) (ty : BitVec 4) (imm : Bool) (count : BitVec 5) (s : State) : Out3 :=
  s.vecShift elemSar vd va vb k ty imm count

/-- The mask whose bit l is f l. -/
def maskOf (f : Nat → Bool) : W128 :=
  .ofNat 128 ((List.range 128).foldr (fun l acc => b2n (f l) + 2 * acc) 0)

/-- A comparison by code of values that are ordered or not, given less and equal (09 R224). -/
def compareBy (cond : Nat) (unordered less equal : Bool) : Bool :=
  match cond with
  | 0 => !unordered && equal
  | 1 => unordered || !equal
  | 2 => !unordered && less
  | 3 => !unordered && (less || equal)
  | 4 => !unordered && !less && !equal
  | 5 => !unordered && !less
  | _ => unordered

/-- a cond b of vcmp (09 R224). -/
def vcmpLane (kind : BitVec 2) (cond : BitVec 3) (a b : W32) : Bool :=
  match kind.toNat with
  | 0 => compareBy cond.toNat ((f32 a).isNan || (f32 b).isNan) ((f32 a).lt (f32 b)) ((f32 a).eq (f32 b))
  | 1 => compareBy cond.toNat false (a.slt b) (a == b)
  | _ => compareBy cond.toNat false (a.ult b) (a == b)

/-- 09 R224: the ungoverned bits of kd become 0. -/
def execVcmp (kd : KR) (va vb : VR) (k : KR) (kind : BitVec 2) (cond : BitVec 3) (s : State) : Out3 :=
  let m := s.srcK k
  let a := s.srcV va
  let b := s.srcV vb
  .next ((s.dstK kd (maskOf fun l => m.getLsbD l && vcmpLane kind cond (lane a l) (lane b l))).markK kd)

/-- 09 R225: the mask selects, so every lane is written. -/
def execVsel (vd va vb : VR) (k : KR) (s : State) : Out3 :=
  let m := s.srcK k
  let a := s.srcV va
  let b := s.srcV vb
  .next (s.vecPut vd (lanes fun l => if m.getLsbD l then lane a l else lane b l))

/-- The results of kop (09 R226). -/
def kopValue (op : BitVec 3) (a b : W128) : W128 :=
  match op.toNat with
  | 0 => a &&& b
  | 1 => a ||| b
  | 2 => a ^^^ b
  | 3 => a &&& ~~~b
  | 4 => ~~~a
  | _ => a

/-- 09 R226. -/
def execKop (kd ka kb : KR) (op : BitVec 3) (s : State) : Out3 :=
  .next ((s.dstK kd (kopValue op (s.srcK ka) (s.srcK kb))).markK kd)

/-- The results of kpop on a mask (09 R227). -/
def kpopValue (op : BitVec 2) (m : W128) : Nat :=
  let bits := (List.range 128).filter m.getLsbD
  match op.toNat with
  | 0 => bits.length
  | 1 => bits.head?.getD 128
  | _ => bits.getLast?.getD 128

/-- 09 R227. -/
def execKpop (sd : SR) (ka k : KR) (op : BitVec 2) (s : State) : Out3 :=
  .next ((s.dstS sd (.ofNat 64 (kpopValue op (s.srcK ka &&& s.srcK k)))).markS sd)

end Sys2Proof.Machine
end

