-- ==== Sys2Proof/Machine/VectorMove.lean ====
section
/-! DEFINITION. Moves and permutes of the vector engine (09 R233 to R239). -/

namespace Sys2Proof.Machine

open Sys2Proof

/-- 09 R233. -/
def execVmov (vd va : VR) (k : KR) (s : State) : Out3 :=
  let a := s.srcV va
  .next (s.vecOp vd k (lane a))

/-- The lanes of vbcast (09 R234). -/
def bcastLane (ty : BitVec 4) (iota : Bool) (x : W32) (l : Nat) : W32 :=
  match (intKind ty false).1 with
  | 16 => .ofNat 32 (fld x 0 16 * 0x10001)
  | 8 => .ofNat 32 (fld x 0 8 * 0x1010101)
  | _ => if iota then x + .ofNat 32 l else x

/-- 09 R234. -/
def execVbcast (vd : VR) (sb : SR) (k : KR) (ty : BitVec 4) (iota : Bool) (s : State) : Out3 :=
  let x := (s.srcS sb).setWidth 32
  .next (s.vecOp vd k (bcastLane ty iota x))

/-- 09 R235: sb is the destination. -/
def execVext (va : VR) (sb : SR) (sx : Bool) (ln : BitVec 7) (s : State) : Out3 :=
  let x := lane (s.srcV va) ln.toNat
  .next ((s.dstS sb (if sx then x.signExtend 64 else x.setWidth 64)).markS sb)

/-- 09 R236: within each lane group. -/
def execVperm (vd va vb : VR) (k : KR) (s : State) : Out3 :=
  let a := s.srcV va
  let b := s.srcV vb
  .next (s.vecOp vd k fun l => lane a (l / 16 * 16 + fld (lane b l) 0 4))

/-- The source group of vxg (09 R237). -/
def vxgGroup (mode c : BitVec 3) (g : Nat) (x : W32) : Nat :=
  match mode.toNat with
  | 0 => (g + c.toNat) % 8
  | 1 => g ^^^ c.toNat
  | 2 => c.toNat
  | _ => fld x 0 3

/-- 09 R237: across lane groups, at one position. -/
def execVxg (vd va vb : VR) (k : KR) (mode c : BitVec 3) (s : State) : Out3 :=
  let a := s.srcV va
  let b := s.srcV vb
  .next (s.vecOp vd k fun l => lane a (16 * vxgGroup mode c (l / 16) (lane b l) + l % 16))

/-- The positions of lane group g whose mask bit is 1, in rising order. -/
def groupPicks (m : W128) (g : Nat) : List Nat :=
  (List.range 16).filter fun i => m.getLsbD (16 * g + i)

/-- 09 R238: the mask selects. -/
def execVcmprs (vd va vc : VR) (k : KR) (s : State) : Out3 :=
  let m := s.srcK k
  let a := s.srcV va
  let s := s.vecPut vd (lanes fun l =>
    match (groupPicks m (l / 16))[l % 16]? with
    | some i => lane a (l / 16 * 16 + i)
    | none => 0)
  .next (s.vecPut vc (lanes fun l => .ofNat 32 (groupPicks m (l / 16)).length))

/-- 09 R239: the mask selects. -/
def execVexpd (vd va : VR) (k : KR) (s : State) : Out3 :=
  let m := s.srcK k
  let a := s.srcV va
  .next (s.vecPut vd (lanes fun l =>
    if m.getLsbD l then lane a (l / 16 * 16 + ((groupPicks m (l / 16)).filter (· < l % 16)).length) else 0))

end Sys2Proof.Machine
end

