-- ==== Sys2Proof/Machine/VectorReduce.lean ====
section
/-! DEFINITION. Reductions, prefix sums and the descent of a draw (09 R240 to R242). -/

namespace Sys2Proof.Machine

open Sys2Proof

/-- One step of a binary64 running sum (09 R240). -/
def sumStep (acc : Num) (x : Num) : Num := f64Fmt.decode (f64Fmt.round 0 (acc.add 0 x) 0).1

/-- The binary64 running sum of lanes in the given order: it starts from the first (09 R240, R241). -/
def runningSum : List Num → Num
  | [] => .fin false 0 0
  | x :: xs => xs.foldl sumStep x

/-- The value of an integer lane: kind 1 signed, kind 2 unsigned. -/
def laneInt (kind : BitVec 2) (x : W32) : Int := elemInt 32 (kind == 1) x.toNat

/-- An exact integer sum as a lane, saturated (09 R240, 03 R67). -/
def satSum (kind : BitVec 2) (x : Int) : W32 × Bool :=
  let (y, b) := satInt 32 (kind == 1) x
  (.ofNat 32 (wrapInt 32 y), b)

/-- The sum of a set of lanes (09 R240). -/
def redSum (kind : BitVec 2) (rm : Nat) (set : List W32) : W32 × Bool :=
  if kind = 0 then (toF32 rm (runningSum (set.map f32)) 0, false)
  else satSum kind ((set.map (laneInt kind)).sum)

/-- The largest and the smallest value of a kind as a lane. -/
def kindMax (kind : BitVec 2) : W32 := if kind = 0 then 0x7F800000 else if kind = 1 then 0x7FFFFFFF else 0xFFFFFFFF
def kindMin (kind : BitVec 2) : W32 := if kind = 0 then 0xFF800000 else if kind = 1 then 0x80000000 else 0

/-- The least or greatest of a set of lanes (09 R240). -/
def redExtreme (kind : BitVec 2) (smaller : Bool) (set : List W32) : W32 :=
  if set.isEmpty then (if smaller then kindMax kind else kindMin kind)
  else if kind = 0 then set.foldl (f32Pick smaller) nanF32
  else
    let v := set.map (laneInt kind)
    .ofNat 32 (wrapInt 32 (v.tail.foldl (if smaller then min else max) (v.headD 0)))

/-- What a lane counts as in argmin and argmax: a NaN is +∞ or −∞ (09 R240). -/
def argKey (kind : BitVec 2) (smaller : Bool) (x : W32) : Num :=
  if kind = 0 then (if (f32 x).isNan then .inf (!smaller) else f32 x) else .ofInt (laneInt kind x)

/-- The index of the least or greatest of a set of numbered lanes, ties to the lowest (09 R240). -/
def argBest (kind : BitVec 2) (smaller : Bool) (set : List (Nat × W32)) : Option (Nat × W32) :=
  set.foldl (fun best p => match best with
    | none => some p
    | some q =>
      let x := argKey kind smaller p.2
      let y := argKey kind smaller q.2
      if (if smaller then x.lt y else y.lt x) then some p else best) none

/-- The index, the value and whether the set has no candidate (09 R240). -/
def redArg (kind : BitVec 2) (smaller : Bool) (set : List (Nat × W32)) : W32 × W32 × Bool :=
  let empty := (0xFFFFFFFF, if smaller then kindMax kind else kindMin kind, true)
  match argBest kind smaller set with
  | none => empty
  | some p =>
    if kind = 0 ∧ argKey kind smaller p.2 = .inf (!smaller) then empty
    else (.ofNat 32 p.1, p.2, false)

/-- The governed lanes of a register, or of one of its lane groups, with their numbers. -/
def laneSet (m : W128) (a : List W32) (g : Option Nat) : List (Nat × W32) :=
  ((List.range 128).filter fun l => m.getLsbD l && match g with
    | some x => l / 16 == x
    | none => true).map fun l => (l, lane a l)

/-- Set a sticky bit of the current core's STATUS. -/
def State.sticky (s : State) (bit : Nat) (v : Bool) : State :=
  if v then s.modCur (·.setStatus bit true) else s

/-- 09 R240. -/
def execVred (vd va vc : VR) (k : KR) (rm : BitVec 2) (g : Bool) (kind : BitVec 2) (op : BitVec 3)
    (s : State) : Out3 :=
  let m := s.srcK k
  let a := s.srcV va
  let sets := if g then (List.range 8).map fun x => laneSet m a (some x) else [laneSet m a none]
  let pick := fun l => if g then l / 16 else 0
  let smaller := op == 1 || op == 3
  if op.toNat < 3 then
    let r := sets.map fun set =>
      if op = 0 then redSum kind rm.toNat (set.map (·.2))
      else (redExtreme kind smaller (set.map (·.2)), false)
    .next ((s.vecPut vd (lanes fun l => (r.getD (pick l) (0, false)).1)).setSat s.cur (r.any (·.2)))
  else
    let r := sets.map (redArg kind smaller)
    let s := s.vecPut vd (lanes fun l => (r.getD (pick l) (0, 0, false)).1)
    let s := s.vecPut vc (lanes fun l => (r.getD (pick l) (0, 0, false)).2.1)
    let s := s.sticky 2 (r.any (·.2.2))
    .next (s.sticky 1 (kind == 0 && sets.any fun set => set.any fun p => (f32 p.2).isNan))

/-- What a lane contributes to the sums of vpfx in the float kind (09 R241). -/
def prefixWeight (wts governed : Bool) (x : W32) : Num :=
  if !governed then .fin false 0 0
  else if wts && ((f32 x).isNan || (f32 x).lt (.fin false 0 0)) then .fin false 0 0
  else f32 x

/-- The sum of the contributions of lanes lo to hi (09 R241). -/
def prefixSum (kind : BitVec 2) (w : List Num) (v : List Int) (lo hi : Nat) : W32 × Bool :=
  if kind = 0 then (toF32 0 (runningSum ((w.take (hi + 1)).drop lo)) 0, false)
  else satSum kind (((v.take (hi + 1)).drop lo).sum)

/-- 09 R241: every lane of vd and vc is written. -/
def execVpfx (vd va vc : VR) (k : KR) (w : Bool) (kind : BitVec 2) (s : State) : Out3 :=
  let m := s.srcK k
  let a := s.srcV va
  let wt := lanes fun l => prefixWeight w (m.getLsbD l) (lane a l)
  let vs := lanes fun l => if m.getLsbD l then laneInt kind (lane a l) else 0
  let p := lanes fun l => prefixSum kind wt vs (l / 16 * 16) l
  let c := (List.range 8).map fun g => prefixSum kind wt vs 0 (16 * g + 15)
  let s := s.vecPut vd (p.map (·.1))
  let s := s.vecPut vc (lanes fun l => (c.getD (l / 16) (0, false)).1)
  let s := s.setSat s.cur (p.any (·.2) || c.any (·.2))
  .next (s.sticky 1 (w && (List.range 128).any fun l => m.getLsbD l && (f32 (lane a l)).isNan))

/-- −1.0, the empty mark of vdesc (09 R242). -/
def emptyMark : W32 := 0xBF800000

/-- The uniform draw of the top level, limited to [0, 1) (09 R242). -/
def drawOf (x : W32) : Num :=
  let u := f32 x
  if u.isNan || u.lt (.fin false 0 0) then .fin false 0 0
  else if u.lt (.fin false 1 0) then u
  else .fin false (2 ^ 24 - 1) (-24)

/-- The group and the rest of the top level; none when no weight is positive (09 R242).  A draw of −0 gives the rest −0 in
group 0, and any other zero rest is +0 (log 31, DEDUCED). -/
def descTop (c : List W32) (u : W32) : Option (Nat × W32) :=
  let cs := c.map f32
  let at_ := fun i => cs.getD i (.fin false 0 0)
  let total := at_ 7
  if !(Num.fin false 0 0).lt total then none
  else if total = .inf false then
    some (((List.range 8).find? fun i => at_ i == .inf false).getD 7, 0x7F800000)
  else
    let t := (drawOf u).mul total
    let g := ((List.range 8).find? fun i => t.lt (at_ i)).getD 7
    let base := if g = 0 then .fin false 0 0 else at_ (g - 1)
    some (g, toF32 3 (t.add 0 base.neg) 0)

/-- The lane within its group that the leaf level picks (09 R242). -/
def descLeaf (p : List W32) (rem : W32) : Nat :=
  let ps := p.map f32
  let at_ := fun i => ps.getD i (.fin false 0 0)
  if rem = 0x7F800000 then ((List.range 16).find? fun i => at_ i == .inf false).getD 15
  else match (List.range 16).find? fun i => (f32 rem).lt (at_ i) with
    | some i => i
    | none =>
      (((List.range 16).filter fun i =>
        (if i = 0 then Num.fin false 0 0 else at_ (i - 1)).lt (at_ i)).getLast?).getD 15

/-- 09 R242. -/
def execVdesc (vd va vb vc : VR) (leaf : Bool) (s : State) : Out3 :=
  let b := s.srcV vb
  let heads := (List.range 8).map fun g => lane b (16 * g)
  if leaf then
    match (List.range 8).find? fun g =>
        let x := f32 (heads.getD g 0)
        !x.isNan && !x.lt (.fin false 0 0) with
    | none => .next ((s.vecPut vd (lanes fun _ => 0xFFFFFFFF)).sticky 2 true)
    | some g =>
      let p := (List.range 16).map fun i => lane (s.srcV va) (16 * g + i)
      .next (s.vecPut vd (lanes fun _ => .ofNat 32 (16 * g + descLeaf p (heads.getD g 0))))
  else
    match descTop heads (lane (s.srcV vc) 0) with
    | none => .next (s.vecPut vd (lanes fun _ => emptyMark))
    | some (g, rem) => .next (s.vecPut vd (lanes fun l => if l / 16 = g then rem else emptyMark))

end Sys2Proof.Machine
end

