-- ==== Sys2Proof/Machine/VectorSpecial.lean ====
section
/-! DEFINITION. The special functions (09 R228) and keyed noise (R243).  Their values are computed in
fixed point with 256 bits after the point and a sticky last bit, and then rounded once (log 15, DESIGN CHOICE). -/

namespace Sys2Proof.Machine

open Sys2Proof

/-- Bits after the point. -/
def fixBits : Nat := 256

/-- Σ z^(2k+1)/(2k+1) for z below 1 in fixed point: the inverse hyperbolic tangent, by fuel. -/
def atanhSeries (zz : Nat) : Nat → Nat → Nat → Nat → Nat
  | 0, _, _, acc => acc
  | n + 1, pow, k, acc => atanhSeries zz n (pow * zz / 2 ^ fixBits) (k + 2) (acc + pow / k)

/-- ln of m / 2^fixBits for m in [1, 2) in fixed point. -/
def lnUnit (m : Nat) : Nat :=
  let one := 2 ^ fixBits
  let z := (m - one) * one / (m + one)
  2 * atanhSeries (z * z / one) 90 z 1 0

/-- ln 2 in fixed point. -/
def ln2Fix : Nat := lnUnit (2 * 2 ^ fixBits)

/-- ln of a positive x in fixed point. -/
def lnFix (x : Nat) : Int :=
  let e : Int := (Nat.log2 x : Int) - fixBits
  let m := if 0 ≤ e then x / 2 ^ e.toNat else x * 2 ^ (-e).toNat
  e * ln2Fix + lnUnit m

/-- Σ x^k/k! in fixed point, by fuel. -/
def expSeries (x : Nat) : Nat → Nat → Nat → Nat → Nat
  | 0, _, _, acc => acc
  | n + 1, term, k, acc => expSeries x n (term * x / 2 ^ fixBits / k) (k + 1) (acc + term)

/-- 2^f for f in [0, 1) in fixed point. -/
def exp2Unit (f : Nat) : Nat := expSeries (f * ln2Fix / 2 ^ fixBits) 70 (2 ^ fixBits) 1 0

/-- A value known to lie just above m / 2^fixBits, times 2^e, with its sticky bit. -/
def sticky (neg : Bool) (m : Nat) (e : Int) : Num := .fin neg (2 * m + 1) (e - fixBits - 1)

/-- The floor of the square root of a number below 2^(2n), bit by bit. -/
def sqrtBits (x : Nat) : Nat → Nat → Nat
  | 0, r => r
  | n + 1, r =>
    let t := r + 2 ^ n
    if t * t ≤ x then sqrtBits x n t else sqrtBits x n r

/-- The integer and fraction parts of a signed value m × 2^e in fixed point. -/
def splitFix (neg : Bool) (m : Nat) (e : Int) : Int × Nat :=
  let x : Int := if 0 ≤ e + fixBits then (m * 2 ^ (e + fixBits).toNat : Nat) else (m / 2 ^ (-(e + fixBits)).toNat : Nat)
  let y := if neg then -x else x
  (y / (2 ^ fixBits : Nat), (y % (2 ^ fixBits : Nat)).toNat)

/-- 2^a. -/
def exp2Num : Num → Num
  | .nan => .nan
  | .inf true => .fin false 0 0
  | .inf false => .inf false
  | .fin neg m e =>
    if (Num.fin false 1 10).lt (.fin false m e) then
      (if neg then .fin false 1 (-1000) else .fin false 1 1000)
    else
      let (n, f) := splitFix neg m e
      if f = 0 then .fin false 1 n else sticky false (exp2Unit f) n

/-- log2 a. -/
def log2Num : Num → Num
  | .nan => .nan
  | .inf true => .nan
  | .inf false => .inf false
  | .fin neg m e =>
    if m = 0 then .inf true
    else if neg then .nan
    else
      let t := Nat.log2 m
      let k : Int := (t : Int) + e
      if m = 2 ^ t then .ofInt k
      else
        let u := lnUnit (m * 2 ^ fixBits / 2 ^ t) * 2 ^ fixBits / ln2Fix
        let v : Int := k * (2 ^ fixBits : Nat) + u
        sticky (decide (v < 0)) v.natAbs 0

/-- 1/a. -/
def rcpNum : Num → Num
  | .nan => .nan
  | .inf neg => .fin neg 0 0
  | .fin neg m e => if m = 0 then .inf neg else quotDyadic neg 1 m (-e) 64

/-- 1/√a. -/
def rsqrtNum : Num → Num
  | .nan => .nan
  | .inf true => .nan
  | .inf false => .fin false 0 0
  | .fin neg m e =>
    if m = 0 then .inf neg
    else if neg then .nan
    else
      let (m, e) := if e % 2 = 0 then (m, e) else (2 * m, e - 1)
      let n := 2 ^ (2 * fixBits)
      let q := sqrtBits (n / m) (fixBits + 1) 0
      if q * q * m = n then .fin false q (-e / 2 - fixBits) else sticky false q (-e / 2)

/-- tanh a. -/
def tanhNum : Num → Num
  | .nan => .nan
  | .inf neg => .fin neg 1 0
  | .fin neg m e =>
    if m = 0 then .fin neg 0 0
    else if (Num.fin false m e).lt (.fin false 1 (-13)) then .fin neg (m * 2 ^ 64 - 1) (e - 64)
    else if (Num.fin false 1 6).lt (.fin false m e) then .fin neg (2 ^ 64 - 1) (-64)
    else
      let x := m * 2 ^ (e + 1 + fixBits).toNat
      let t := x * 2 ^ fixBits / ln2Fix
      let n := t / 2 ^ fixBits
      let y := exp2Unit (t % 2 ^ fixBits) * 2 ^ n
      quotDyadic neg (y - 2 ^ fixBits) (y + 2 ^ fixBits) 0 64

/-- A special function on every governed lane (09 R228). -/
def State.vecFun (s : State) (f : Num → Num) (vd va : VR) (k : KR) : Out3 :=
  let m := s.srcK k
  let a := s.srcV va
  .next (s.vecOp vd k fun l => if m.getLsbD l then toF32 0 (f (f32 (lane a l))) 0 else 0)

/-- 09 R228. -/
def execVexp2 (vd va : VR) (k : KR) (s : State) : Out3 := s.vecFun exp2Num vd va k
/-- 09 R228. -/
def execVlog2 (vd va : VR) (k : KR) (s : State) : Out3 := s.vecFun log2Num vd va k
/-- 09 R228. -/
def execVrcp (vd va : VR) (k : KR) (s : State) : Out3 := s.vecFun rcpNum vd va k
/-- 09 R228. -/
def execVrsqrt (vd va : VR) (k : KR) (s : State) : Out3 := s.vecFun rsqrtNum vd va k
/-- 09 R228. -/
def execVtanh (vd va : VR) (k : KR) (s : State) : Out3 := s.vecFun tanhNum vd va k

/-- The SplitMix64 finaliser (09 R243). -/
def splitMix (x : W64) : W64 :=
  let z := (x ^^^ (x >>> 30)) * 0xBF58476D1CE4E5B9
  let z := (z ^^^ (z >>> 27)) * 0x94D049BB133111EB
  z ^^^ (z >>> 31)

/-- The key of a draw (09 R243). -/
def noiseKey (seed pos : W64) (stream : BitVec 8) (a : W32) : W64 :=
  seed ^^^ .ofNat 64 (fld pos 0 32 * 2 ^ 32 + stream.toNat * 2 ^ 24 + fld a 0 24)

/-- −ln(−ln u) for u = n / 2^25 (09 R243). -/
def gumbel (n : Nat) : Num :=
  let v := lnFix (lnFix (n * 2 ^ (fixBits - 25))).natAbs
  sticky (decide (0 < v)) v.natAbs 0

/-- A draw from its key (09 R243). -/
def noiseLane (mode : BitVec 2) (key : W64) : W32 :=
  let z := splitMix key
  let n := 2 * fld z 40 24 + 1
  match mode.toNat with
  | 0 => toF32 1 (.fin false n (-25)) 0
  | 1 => toF32 0 (gumbel n) 0
  | _ => .ofNat 32 (fld z 48 16)

/-- 09 R243: sb names the pair of seed and position. -/
def execVnoise (vd va : VR) (sb : SR) (k : KR) (mode : BitVec 2) (stream : BitVec 8) (s : State) : Out3 :=
  let m := s.srcK k
  let a := s.srcV va
  let seed := s.srcS sb
  let pos := s.srcS1 sb
  .next (s.vecOp vd k fun l =>
    if m.getLsbD l then noiseLane mode (noiseKey seed pos stream (lane a l)) else 0)

end Sys2Proof.Machine
end

