-- ==== Sys2Proof/Machine/Dispatch.lean ====
section
/-! DEFINITION. One arm per constructor of Instr. -/

namespace Sys2Proof.Machine
open Sys2Proof

def exec (i : Instr) (s : State) : Host.Outcome State Fault Refusal :=
  match i with
  | .deviceReset => Sys2Proof.Machine.execDeviceReset s
  | .bringupStage2 => Sys2Proof.Machine.execBringupStage2 s
  | .bringupStage3 ok find => Sys2Proof.Machine.execBringupStage3 ok find s
  | .bringupStage4 => Sys2Proof.Machine.execBringupStage4 s
  | .heartbeatTick => Sys2Proof.Machine.execHeartbeatTick s
  | .bundleFetch core => Sys2Proof.Machine.execBundleFetch core s
  | .queuedOpDepart core queue => Sys2Proof.Machine.execQueuedOpDepart core queue s
  | .loadReturn core k => Sys2Proof.Machine.execLoadReturn core k s
  | .storePerform core k => Sys2Proof.Machine.execStorePerform core k s
  | .homeAnswer core => Sys2Proof.Machine.execHomeAnswer core s
  | .syncHoldRelease core => Sys2Proof.Machine.execSyncHoldRelease core s
  | .lockstepMismatch core egress => Sys2Proof.Machine.execLockstepMismatch core egress s
  | .nop => Sys2Proof.Machine.execNop s
  | .add sd sa sb => Sys2Proof.Machine.execAdd sd sa sb s
  | .sub sd sa sb => Sys2Proof.Machine.execSub sd sa sb s
  | .mul sd sa sb => Sys2Proof.Machine.execMul sd sa sb s
  | .mulh sd sa sb => Sys2Proof.Machine.execMulh sd sa sb s
  | .mulhu sd sa sb => Sys2Proof.Machine.execMulhu sd sa sb s
  | .div sd sa sb => Sys2Proof.Machine.execDiv sd sa sb s
  | .divu sd sa sb => Sys2Proof.Machine.execDivu sd sa sb s
  | .rem sd sa sb => Sys2Proof.Machine.execRem sd sa sb s
  | .remu sd sa sb => Sys2Proof.Machine.execRemu sd sa sb s
  | .and sd sa sb => Sys2Proof.Machine.execAnd sd sa sb s
  | .or sd sa sb => Sys2Proof.Machine.execOr sd sa sb s
  | .xor sd sa sb => Sys2Proof.Machine.execXor sd sa sb s
  | .shl sd sa sb => Sys2Proof.Machine.execShl sd sa sb s
  | .shr sd sa sb => Sys2Proof.Machine.execShr sd sa sb s
  | .sar sd sa sb => Sys2Proof.Machine.execSar sd sa sb s
  | .min sd sa sb => Sys2Proof.Machine.execMin sd sa sb s
  | .max sd sa sb => Sys2Proof.Machine.execMax sd sa sb s
  | .minu sd sa sb => Sys2Proof.Machine.execMinu sd sa sb s
  | .maxu sd sa sb => Sys2Proof.Machine.execMaxu sd sa sb s
  | .seq sd sa sb => Sys2Proof.Machine.execSeq sd sa sb s
  | .slt sd sa sb => Sys2Proof.Machine.execSlt sd sa sb s
  | .sltu sd sa sb => Sys2Proof.Machine.execSltu sd sa sb s
  | .sel sd sa sb inv pn => Sys2Proof.Machine.execSel sd sa sb inv pn s
  | .clz sd sa => Sys2Proof.Machine.execClz sd sa s
  | .ctz sd sa => Sys2Proof.Machine.execCtz sd sa s
  | .popc sd sa => Sys2Proof.Machine.execPopc sd sa s
  | .addi sd sa imm => Sys2Proof.Machine.execAddi sd sa imm s
  | .andi sd sa imm => Sys2Proof.Machine.execAndi sd sa imm s
  | .ori sd sa imm => Sys2Proof.Machine.execOri sd sa imm s
  | .xori sd sa imm => Sys2Proof.Machine.execXori sd sa imm s
  | .shli sd sa count => Sys2Proof.Machine.execShli sd sa count s
  | .shri sd sa count => Sys2Proof.Machine.execShri sd sa count s
  | .sari sd sa count => Sys2Proof.Machine.execSari sd sa count s
  | .slti sd sa imm => Sys2Proof.Machine.execSlti sd sa imm s
  | .sltui sd sa imm => Sys2Proof.Machine.execSltui sd sa imm s
  | .li sd imm => Sys2Proof.Machine.execLi sd imm s
  | .lix sd sa imm => Sys2Proof.Machine.execLix sd sa imm s
  | .pset pd sa sb cond => Sys2Proof.Machine.execPset pd sa sb cond s
  | .pseti pd sa cond imm => Sys2Proof.Machine.execPseti pd sa cond imm s
  | .plog pd pa pb op => Sys2Proof.Machine.execPlog pd pa pb op s
  | .pwr sa mask => Sys2Proof.Machine.execPwr sa mask s
  | .prd sd => Sys2Proof.Machine.execPrd sd s
  | .ldB sd sa off => Sys2Proof.Machine.execLdB sd sa off s
  | .ldH sd sa off => Sys2Proof.Machine.execLdH sd sa off s
  | .ldW sd sa off => Sys2Proof.Machine.execLdW sd sa off s
  | .ldD sd sa off => Sys2Proof.Machine.execLdD sd sa off s
  | .ldBu sd sa off => Sys2Proof.Machine.execLdBu sd sa off s
  | .ldHu sd sa off => Sys2Proof.Machine.execLdHu sd sa off s
  | .ldWu sd sa off => Sys2Proof.Machine.execLdWu sd sa off s
  | .ldQ sd sa off => Sys2Proof.Machine.execLdQ sd sa off s
  | .stB ss sa off => Sys2Proof.Machine.execStB ss sa off s
  | .stH ss sa off => Sys2Proof.Machine.execStH ss sa off s
  | .stW ss sa off => Sys2Proof.Machine.execStW ss sa off s
  | .stD ss sa off => Sys2Proof.Machine.execStD ss sa off s
  | .stQ ss sa off => Sys2Proof.Machine.execStQ ss sa off s
  | .splLd sd slot => Sys2Proof.Machine.execSplLd sd slot s
  | .splSt ss slot => Sys2Proof.Machine.execSplSt ss slot s
  | .amo sd sa sb width op => Sys2Proof.Machine.execAmo sd sa sb width op s
  | .cas sd sa sb width => Sys2Proof.Machine.execCas sd sa sb width s
  | .tkGet sd sa n => Sys2Proof.Machine.execTkGet sd sa n s
  | .tkNext sd sa n => Sys2Proof.Machine.execTkNext sd sa n s
  | .sqInit sd sa => Sys2Proof.Machine.execSqInit sd sa s
  | .sqRes sd sa sb => Sys2Proof.Machine.execSqRes sd sa sb s
  | .sqCmt sd sa sb => Sys2Proof.Machine.execSqCmt sd sa sb s
  | .sqRet sd sa sb => Sys2Proof.Machine.execSqRet sd sa sb s
  | .sqLen sd sa => Sys2Proof.Machine.execSqLen sd sa s
  | .sqLenCl sd n => Sys2Proof.Machine.execSqLenCl sd n s
  | .sqFork sd sa sb => Sys2Proof.Machine.execSqFork sd sa sb s
  | .sqDrop sd sa => Sys2Proof.Machine.execSqDrop sd sa s
  | .sqGrow sd sa sb => Sys2Proof.Machine.execSqGrow sd sa sb s
  | .sqBind sa n => Sys2Proof.Machine.execSqBind sa n s
  | .sqBindClr n => Sys2Proof.Machine.execSqBindClr n s
  | .sqAddr sd sa sb => Sys2Proof.Machine.execSqAddr sd sa sb s
  | .br off => Sys2Proof.Machine.execBr off s
  | .brLoop cnt stages off => Sys2Proof.Machine.execBrLoop cnt stages off s
  | .call off => Sys2Proof.Machine.execCall off s
  | .ret sa => Sys2Proof.Machine.execRet sa s
  | .jr sd sa => Sys2Proof.Machine.execJr sd sa s
  | .rep cnt b1 off => Sys2Proof.Machine.execRep cnt b1 off s
  | .lbPin n1 off => Sys2Proof.Machine.execLbPin n1 off s
  | .lbFree => Sys2Proof.Machine.execLbFree s
  | .trap imm => Sys2Proof.Machine.execTrap imm s
  | .rett => Sys2Proof.Machine.execRett s
  | .brk imm => Sys2Proof.Machine.execBrk imm s
  | .sysRd sd csr => Sys2Proof.Machine.execSysRd sd csr s
  | .sysWr sa csr => Sys2Proof.Machine.execSysWr sa csr s
  | .tlbInv sa => Sys2Proof.Machine.execTlbInv sa s
  | .halt => Sys2Proof.Machine.execHalt s
  | .yield => Sys2Proof.Machine.execYield s
  | .cmpt sa sb => Sys2Proof.Machine.execCmpt sa sb s
  | .cmptV va vb => Sys2Proof.Machine.execCmptV va vb s
  | .ndDone sd sa => Sys2Proof.Machine.execNdDone sd sa s
  | .ndSpawn sd sa => Sys2Proof.Machine.execNdSpawn sd sa s
  | .ndSel sd sa => Sys2Proof.Machine.execNdSel sd sa s
  | .vaddF vd va vb vc k rm => Sys2Proof.Machine.execVaddF vd va vb vc k rm s
  | .vsubF vd va vb vc k rm => Sys2Proof.Machine.execVsubF vd va vb vc k rm s
  | .vmulF vd va vb vc k rm => Sys2Proof.Machine.execVmulF vd va vb vc k rm s
  | .vfmaF vd va vb vc k rm => Sys2Proof.Machine.execVfmaF vd va vb vc k rm s
  | .vminF vd va vb k => Sys2Proof.Machine.execVminF vd va vb k s
  | .vmaxF vd va vb k => Sys2Proof.Machine.execVmaxF vd va vb k s
  | .vabsF vd va k => Sys2Proof.Machine.execVabsF vd va k s
  | .vaddI vd va vb k ty uns sat => Sys2Proof.Machine.execVaddI vd va vb k ty uns sat s
  | .vsubI vd va vb k ty uns sat => Sys2Proof.Machine.execVsubI vd va vb k ty uns sat s
  | .vmulI vd va vb k ty uns sat => Sys2Proof.Machine.execVmulI vd va vb k ty uns sat s
  | .vminI vd va vb k ty uns => Sys2Proof.Machine.execVminI vd va vb k ty uns s
  | .vmaxI vd va vb k ty uns => Sys2Proof.Machine.execVmaxI vd va vb k ty uns s
  | .vand vd va vb k => Sys2Proof.Machine.execVand vd va vb k s
  | .vor vd va vb k => Sys2Proof.Machine.execVor vd va vb k s
  | .vxor vd va vb k => Sys2Proof.Machine.execVxor vd va vb k s
  | .vshl vd va vb k ty imm count => Sys2Proof.Machine.execVshl vd va vb k ty imm count s
  | .vshr vd va vb k ty imm count => Sys2Proof.Machine.execVshr vd va vb k ty imm count s
  | .vsar vd va vb k ty imm count => Sys2Proof.Machine.execVsar vd va vb k ty imm count s
  | .vcmp kd va vb k kind cond => Sys2Proof.Machine.execVcmp kd va vb k kind cond s
  | .vsel vd va vb k => Sys2Proof.Machine.execVsel vd va vb k s
  | .kop kd ka kb op => Sys2Proof.Machine.execKop kd ka kb op s
  | .kpop sd ka k op => Sys2Proof.Machine.execKpop sd ka k op s
  | .vexp2 vd va k => Sys2Proof.Machine.execVexp2 vd va k s
  | .vlog2 vd va k => Sys2Proof.Machine.execVlog2 vd va k s
  | .vrcp vd va k => Sys2Proof.Machine.execVrcp vd va k s
  | .vrsqrt vd va k => Sys2Proof.Machine.execVrsqrt vd va k s
  | .vtanh vd va k => Sys2Proof.Machine.execVtanh vd va k s
  | .vcvt vd va vb dpos spos k from_ to_ rm => Sys2Proof.Machine.execVcvt vd va vb dpos spos k from_ to_ rm s
  | .vpackMx vd va vb => Sys2Proof.Machine.execVpackMx vd va vb s
  | .vunpk vd va k to_ h => Sys2Proof.Machine.execVunpk vd va k to_ h s
  | .vscl vd va vb k rm => Sys2Proof.Machine.execVscl vd va vb k rm s
  | .vmov vd va k => Sys2Proof.Machine.execVmov vd va k s
  | .vbcast vd sb k ty iota => Sys2Proof.Machine.execVbcast vd sb k ty iota s
  | .vext va sb sx lane => Sys2Proof.Machine.execVext va sb sx lane s
  | .vperm vd va vb k => Sys2Proof.Machine.execVperm vd va vb k s
  | .vxg vd va vb k mode c => Sys2Proof.Machine.execVxg vd va vb k mode c s
  | .vcmprs vd va vc k => Sys2Proof.Machine.execVcmprs vd va vc k s
  | .vexpd vd va k => Sys2Proof.Machine.execVexpd vd va k s
  | .vred vd va vc k rm g kind op => Sys2Proof.Machine.execVred vd va vc k rm g kind op s
  | .vpfx vd va vc k w kind => Sys2Proof.Machine.execVpfx vd va vc k w kind s
  | .vdesc vd va vb vc leaf => Sys2Proof.Machine.execVdesc vd va vb vc leaf s
  | .vnoise vd va sb k mode stream => Sys2Proof.Machine.execVnoise vd va sb k mode stream s
  | .vld vd sb k off => Sys2Proof.Machine.execVld vd sb k off s
  | .vst vd sb k off => Sys2Proof.Machine.execVst vd sb k off s
  | .vldx vd va sb k s1 => Sys2Proof.Machine.execVldx vd va sb k s1 s
  | .vstx vd va sb k s1 => Sys2Proof.Machine.execVstx vd va sb k s1 s
  | .mcall routine => Sys2Proof.Machine.execMcall routine s
  | .mpset n sa imm => Sys2Proof.Machine.execMpset n sa imm s
  | .mpget n sd => Sys2Proof.Machine.execMpget n sd s
  | .dsetMem n sa off => Sys2Proof.Machine.execDsetMem n sa off s
  | .dsetField n sa field => Sys2Proof.Machine.execDsetField n sa field s
  | .dget n sd h => Sys2Proof.Machine.execDget n sd h s
  | .dtag n v => Sys2Proof.Machine.execDtag n v s
  | .mzero sa anc kind m1 b => Sys2Proof.Machine.execMzero sa anc kind m1 b s
  | .msca sa n1 anc anchor => Sys2Proof.Machine.execMsca sa n1 anc anchor s
  | .cvRd cva sd q => Sys2Proof.Machine.execCvRd cva sd q s
  | .cvWr cvd sa q => Sys2Proof.Machine.execCvWr cvd sa q s
  | .cvAdd cvd cva cvb => Sys2Proof.Machine.execCvAdd cvd cva cvb s
  | .cvScl cvd cva sa => Sys2Proof.Machine.execCvScl cvd cva sa s
  | .mucode sa count1 n => Sys2Proof.Machine.execMucode sa count1 n s
  | .mucodeClr n => Sys2Proof.Machine.execMucodeClr n s
  | .ldw gr => Sys2Proof.Machine.execLdw gr s
  | .strm => Sys2Proof.Machine.execStrm s
  | .acc a imm => Sys2Proof.Machine.execAcc a imm s
  | .grade => Sys2Proof.Machine.execGrade s
  | .tail a => Sys2Proof.Machine.execTail a s
  | .bound => Sys2Proof.Machine.execBound s
  | .xmax => Sys2Proof.Machine.execXmax s
  | .blk => Sys2Proof.Machine.execBlk s
  | .seta planes => Sys2Proof.Machine.execSeta planes s
  | .loop pos => Sys2Proof.Machine.execLoop pos s
  | .brz pos => Sys2Proof.Machine.execBrz pos s
  | .uend => Sys2Proof.Machine.execUend s
  | .cp dst src len ch sync st wt fp bc => Sys2Proof.Machine.execCp dst src len ch sync st wt fp bc s
  | .cp2d dst src len ch sync st wt fp bc => Sys2Proof.Machine.execCp2d dst src len ch sync st wt fp bc s
  | .cpMc dst src len ch sync st wt fp bc => Sys2Proof.Machine.execCpMc dst src len ch sync st wt fp bc s
  | .cpChain sa ch => Sys2Proof.Machine.execCpChain sa ch s
  | .cpStat sd q => Sys2Proof.Machine.execCpStat sd q s
  | .agCfg sa n => Sys2Proof.Machine.execAgCfg sa n s
  | .cpAg dst src len ch sync st wt fp bc side gen => Sys2Proof.Machine.execCpAg dst src len ch sync st wt fp bc side gen s
  | .gqCfg sa q => Sys2Proof.Machine.execGqCfg sa q s
  | .gqPush sa q imm => Sys2Proof.Machine.execGqPush sa q imm s
  | .gqEnd q => Sys2Proof.Machine.execGqEnd q s
  | .acpyOut n sr sn upd cvc flag post raw wrap rm => Sys2Proof.Machine.execAcpyOut n sr sn upd cvc flag post raw wrap rm s
  | .acpyIn n sr flag accum post raw => Sys2Proof.Machine.execAcpyIn n sr flag accum post raw s
  | .cbInit sa b => Sys2Proof.Machine.execCbInit sa b s
  | .cbPush sa b ch core => Sys2Proof.Machine.execCbPush sa b ch core s
  | .cpSeq dst src len ch sync st wt fp => Sys2Proof.Machine.execCpSeq dst src len ch sync st wt fp s
  | .copyPiece core unit => Sys2Proof.Machine.execCopyPiece core unit s
  | .copyComplete core unit => Sys2Proof.Machine.execCopyComplete core unit s
  | .gatherRow core queue => Sys2Proof.Machine.execGatherRow core queue s
  | .landingCount k => Sys2Proof.Machine.execLandingCount k s
  | .slotFilled core b => Sys2Proof.Machine.execSlotFilled core b s
  | .wait l s1 c t => Sys2Proof.Machine.execWait l s1 c t s
  | .wtag mask => Sys2Proof.Machine.execWtag mask s
  | .wtagClr mask => Sys2Proof.Machine.execWtagClr mask s
  | .barInit sa sb imm => Sys2Proof.Machine.execBarInit sa sb imm s
  | .barArv sd sa sb na imm => Sys2Proof.Machine.execBarArv sd sa sb na imm s
  | .barMark sa sb imm => Sys2Proof.Machine.execBarMark sa sb imm s
  | .barWait sd sa sb => Sys2Proof.Machine.execBarWait sd sa sb s
  | .barPar sa par => Sys2Proof.Machine.execBarPar sa par s
  | .barRet sa => Sys2Proof.Machine.execBarRet sa s
  | .flPost sb flag imm => Sys2Proof.Machine.execFlPost sb flag imm s
  | .flPostR sa sb flag imm => Sys2Proof.Machine.execFlPostR sa sb flag imm s
  | .flagPostArrive k => Sys2Proof.Machine.execFlagPostArrive k s
  | .flWait sd flag n => Sys2Proof.Machine.execFlWait sd flag n s
  | .fenceX scope q p => Sys2Proof.Machine.execFenceX scope q p s
  | .fenceSc => Sys2Proof.Machine.execFenceSc s
  | .drain => Sys2Proof.Machine.execDrain s
  | .tkWait sa sb n => Sys2Proof.Machine.execTkWait sa sb n s
  | .cbPop sd b => Sys2Proof.Machine.execCbPop sd b s
  | .cbRel sa n b => Sys2Proof.Machine.execCbRel sa n b s
  | .step => Sys2Proof.Machine.execStep s
  | .seg => Sys2Proof.Machine.execSeg s
  | .segOff => Sys2Proof.Machine.execSegOff s
  | .rdv j => Sys2Proof.Machine.execRdv j s
  | .gBar j => Sys2Proof.Machine.execGBar j s
  | .gRed sd sa sb op j => Sys2Proof.Machine.execGRed sd sa sb op j s
  | .gInfo sd j => Sys2Proof.Machine.execGInfo sd j s
  | .bnLd sa n => Sys2Proof.Machine.execBnLd sa n s
  | .bnMap sd sa sb n => Sys2Proof.Machine.execBnMap sd sa sb n s
  | .bnMapx sd sa sb n => Sys2Proof.Machine.execBnMapx sd sa sb n s
  | .lkSend dst src len sync st wt fp cls => Sys2Proof.Machine.execLkSend dst src len sync st wt fp cls s
  | .lkRecv dst src len sync st wt fp bc r => Sys2Proof.Machine.execLkRecv dst src len sync st wt fp bc r s
  | .lkStat sd q kind => Sys2Proof.Machine.execLkStat sd q kind s
  | .lkTide sa q => Sys2Proof.Machine.execLkTide sa q s
  | .lkCirc sa => Sys2Proof.Machine.execLkCirc sa s
  | .lkPark sa q => Sys2Proof.Machine.execLkPark sa q s
  | .lkRate sa c => Sys2Proof.Machine.execLkRate sa c s
  | .frameBoundary => Sys2Proof.Machine.execFrameBoundary s
  | .tideBoundary => Sys2Proof.Machine.execTideBoundary s
  | .circuitSlotBoundary => Sys2Proof.Machine.execCircuitSlotBoundary s
  | .drawerRequest k => Sys2Proof.Machine.execDrawerRequest k s
  | .drawerResponse k => Sys2Proof.Machine.execDrawerResponse k s
  | .linkPieceArrive p => Sys2Proof.Machine.execLinkPieceArrive p s
  | .linkAck core ctx queue k piece fault => Sys2Proof.Machine.execLinkAck core ctx queue k piece fault s
  | .retrainStart strait => Sys2Proof.Machine.execRetrainStart strait s
  | .retrainEnd strait => Sys2Proof.Machine.execRetrainEnd strait s
  | .groupLit strait rx group => Sys2Proof.Machine.execGroupLit strait rx group s
  | .linkStall core strait => Sys2Proof.Machine.execLinkStall core strait s
  | .dispatch => Sys2Proof.Machine.execDispatch s
  | .preemptTimeout => Sys2Proof.Machine.execPreemptTimeout s
  | .contextSave ctx => Sys2Proof.Machine.execContextSave ctx s
  | .dispatcherRestore => Sys2Proof.Machine.execDispatcherRestore s
  | .restore ctx => Sys2Proof.Machine.execRestore ctx s
  | .clPush k => Sys2Proof.Machine.execClPush k s
  | .compactSubmit w => Sys2Proof.Machine.execCompactSubmit w s
  | .compactPage => Sys2Proof.Machine.execCompactPage s
  | .compactSwap => Sys2Proof.Machine.execCompactSwap s
  | .pageFree k => Sys2Proof.Machine.execPageFree k s
  | .groupEntryWrite gid w => Sys2Proof.Machine.execGroupEntryWrite gid w s
  | .ticketEntryWrite n word w => Sys2Proof.Machine.execTicketEntryWrite n word w s
  | .linkControlWrite w => Sys2Proof.Machine.execLinkControlWrite w s
  | .configWrite off w => Sys2Proof.Machine.execConfigWrite off w s
  | .controlPeriodEnd pkgW slope => Sys2Proof.Machine.execControlPeriodEnd pkgW slope s
  | .ballastStart microjoules => Sys2Proof.Machine.execBallastStart microjoules s
  | .clusterGate cluster => Sys2Proof.Machine.execClusterGate cluster s
  | .clusterWake cluster => Sys2Proof.Machine.execClusterWake cluster s
  | .launch r => Sys2Proof.Machine.execLaunch r s
  | .read r => Sys2Proof.Machine.execRead r s
  | .write r => Sys2Proof.Machine.execWrite r s
  | .status r => Sys2Proof.Machine.execStatus r s
  | .release r => Sys2Proof.Machine.execRelease r s
  | .open r => Sys2Proof.Machine.execOpen r s
  | .close r => Sys2Proof.Machine.execClose r s
  | .preempt r => Sys2Proof.Machine.execPreempt r s
  | .resume r => Sys2Proof.Machine.execResume r s
  | .connectionSetUp conn mode sendOnly security => Sys2Proof.Machine.execConnectionSetUp conn mode sendOnly security s
  | .peerLoadRequest chip pa => Sys2Proof.Machine.execPeerLoadRequest chip pa s

end Sys2Proof.Machine
end

