-- ==== Sys2Proof/Machine/Turns.lean ====
section
/-! DEFINITION. What a step does around exec: whose turn it is, the turns that no row of the opcode table
names, and the placing of a code stream (log 1, DESIGN CHOICE, log 2, DESIGN CHOICE). -/

namespace Sys2Proof

/-- A row of the table that is an event: not an op of a bundle, and not a micro-op. -/
def Instr.isEvent : Instr → Bool
  | .deviceReset | .bringupStage2 | .bringupStage3 .. | .bringupStage4 | .heartbeatTick => true
  | .bundleFetch _ | .queuedOpDepart .. | .loadReturn .. | .storePerform .. | .homeAnswer _ => true
  | .syncHoldRelease _ | .lockstepMismatch .. => true
  | .copyPiece .. | .copyComplete .. | .gatherRow .. | .landingCount _ | .slotFilled .. => true
  | .flagPostArrive _ => true
  | .frameBoundary | .tideBoundary | .circuitSlotBoundary | .drawerRequest _ | .drawerResponse _ => true
  | .linkPieceArrive _ | .linkAck .. | .retrainStart _ | .retrainEnd _ | .groupLit .. | .linkStall .. => true
  | .dispatch | .preemptTimeout | .contextSave _ | .dispatcherRestore | .restore _ => true
  | .clPush _ | .compactSubmit _ | .compactPage | .compactSwap | .pageFree _ => true
  | .groupEntryWrite .. | .ticketEntryWrite .. | .linkControlWrite _ | .configWrite .. => true
  | .controlPeriodEnd .. | .ballastStart _ | .clusterGate _ | .clusterWake _ => true
  | .launch _ | .read _ | .write _ | .status _ | .release _ | .open _ | .close _ | .preempt _ | .resume _ => true
  | .connectionSetUp .. | .peerLoadRequest .. => true
  | _ => false

/-- An event in which nothing walks for itself: time, the straits, and what arrives for an access that has been translated. -/
def Instr.walksNot : Instr → Bool
  | .heartbeatTick | .frameBoundary | .tideBoundary | .circuitSlotBoundary | .controlPeriodEnd .. => true
  | .drawerRequest _ | .drawerResponse _ | .retrainStart _ | .retrainEnd _ | .groupLit .. | .linkStall .. => true
  | .clusterGate _ | .clusterWake _ | .ballastStart _ | .loadReturn .. | .storePerform .. => true
  | .landingCount _ | .slotFilled .. | .flagPostArrive _ | .syncHoldRelease _ | .linkPieceArrive _ => true
  | _ => false

end Sys2Proof

namespace Sys2Proof.Machine

open Sys2Proof

/-- The next turn: the head of the agenda, or the free choice (log 1, DESIGN CHOICE). -/
def State.turnNext (s : State) : Turn :=
  match s.agenda with
  | t :: _ => t
  | [] => Config.turn s.turnNo

/-- The turn is taken. -/
def State.turnDone (s : State) : State :=
  match s.agenda with
  | _ :: l => { s with agenda := l }
  | [] => { s with turnNo := s.turnNo + 1 }

/-! ## Entries of page tables in drawers (19 R392)

A core's accesses read them before they go on (Machine/Drawers.lean).  Every other walk of an event, of the checks of a
start, a home, the dispatcher or the host, is met here: the event waits while what it does would be another without those
entries that have not arrived, which a walkRequest reads (log 56, DESIGN CHOICE). -/

/-- What a turn answers, tried with the entries of some flits alone. -/
def State.tried (s : State) (run : State → Out3) (v : Veil) : Out3 :=
  match run { s with veil := some v } with
  | .next t => .next { t with veil := none }
  | r => r

/-- Two answers are the same. -/
def sameAnswer : Out3 → Out3 → Bool
  | .next a, .next b => a == b
  | _, _ => false

/-- The entries of some flits are enough for a turn: it answers the same when a walk that needs another one faults, and when
that walk finds a page. -/
def State.enough (s : State) (run : State → Out3) (flits : List Nat) : Bool :=
  [false, true].all fun opens => sameAnswer (s.tried run { here := flits, opens := opens }) (run s)

/-- A turn runs when it needs no entry in a drawer, or has all that it needs; else it waits. -/
def State.withEntries (s : State) (run : State → Out3) : Out3 :=
  let r := run s
  if !s.hasDrawers || s.enough run [] then r
  else if s.enough run (s.entriesHere fun _ => true) then
    (match r with
    | .next t => .next t.entriesUsed
    | r => r)
  else .next s

/-- The matrix engine of core c has the turn. -/
def State.atEngine (s : State) (c : Nat) : State := { s with iss := { s.iss with core := c } }

/-- The matrix engine of core c has the turn and no micro-op: a word that is none, or the accumulator copy
that runs (12 R290, R294). -/
def State.engineElse (s : State) (c : Nat) : State :=
  if (s.core c).call.isSome then s.microBad c else s.acpyStep c

/-- What a view may keep: bytes of memory that is there (01 R18; log 125, DEDUCED). -/
def State.mayKeep (s : State) (pa : Nat) : Bool :=
  match s.region pa with
  | .shelf _ => true
  | .scratch _ => true
  | .drawer _ => true
  | _ => false

/-- A view keeps n bytes from pa on as it reads them now. -/
def State.keepBytes (s : State) (v : View) (pa n : Nat) : State :=
  let fresh := (List.range n).filter fun i =>
    s.mayKeep (pa + i) && !s.gatedAt (pa + i) && (s.keptAt v (pa + i)).isNone
  { s with kept := s.kept ++ fresh.map fun i => { view := v, pa := pa + i, byte := s.byte (pa + i), unseen := [] } }

/-- A byte that the wake of its cluster has set to zero and that holds no other value since takes no error (21 R421). -/
def State.wokenByte (s : State) (pa : Nat) : Bool :=
  match spCore pa with
  | some c => c < 256 && s.power.woken.getLsbD (c / 8) && s.byte pa == 0
  | none => false

/-- An uncorrectable error appears in a byte of memory (02 R29). -/
def State.softError (s : State) (pa : Nat) : State :=
  let hit := if s.errs.contains pa || s.wokenByte pa then s else { s with errs := s.errs ++ [pa] }
  match s.region pa with
  | .shelf _ => hit
  | .scratch _ => hit
  | .drawer _ => hit
  | _ => s

/-- The check of the continuation records of saved core k fails from now on (08 R191). -/
def State.recordError (s : State) (k : Nat) : State :=
  { s with saved := s.saved.zipIdx.map fun v => if v.2 = k then { v.1 with broken := true } else v.1 }

/-- A flit that the circuit switch has misrouted to this chip is discarded and counted (19 R394); no strait carries
traffic before the frames run (21 R428). -/
def State.misrouted (s : State) : State := if s.framesOn then { s with misroute := s.misroute + 1 } else s

/-- The far chip of a peer-facing strait sets its lit groups, which the receive direction follows at the next frame
boundary (19 R400).  Group 0 stays lit (19 R386). -/
def State.farPark (s : State) (strait : Nat) (mask : BitVec 8) : State :=
  let x := s.strait strait
  if strait < 16 && x.face then s.setStrait strait { x with parkRx := some (mask ||| 1) } else s

/-- Line k of the fabric caches makes room: a later load of its bytes asks their home again (02 R44). -/
def State.dropLine (s : State) (k : Nat) : State := { s with fabric := s.fabric.eraseIdx k }

/-- Entry k of a TLB of core c makes room (08 R196; log 11, DESIGN CHOICE). -/
def State.dropEntry (s : State) (c tlb k : Nat) : State :=
  s.modCore c fun x => match tlb with
    | 0 => { x with tlb := x.tlb.eraseIdx k }
    | 1 => { x with tlbMx := x.tlbMx.eraseIdx k }
    | 2 => { x with tlbCy := x.tlbCy.eraseIdx k }
    | 3 => { x with tlbGa := x.tlbGa.eraseIdx k }
    | _ => { x with tlbLk := x.tlbLk.eraseIdx k }

/-- Core 0 issues from pc 0 of a code stream, and has the next turn. -/
def State.placeCode (s : State) (words : List Nat) : State :=
  let s := s.modCore 0 fun k => { k with
    run := .running, code := words, dict := [], pc := 0, hold := none, homeReq := false, preReq := false
    rep := none, stallDue := none, cmptDue := none, uncorrDue := none }
  { s with agenda := [.event (.bundleFetch 0)] }

end Sys2Proof.Machine
end

