-- ==== Sys2Proof/Machine/Step.lean ====
section
/-! DEFINITION. One step of the machine, and the placing of an instruction where the next step fetches
it. -/

namespace Sys2Proof.Machine

open Sys2Proof

/-- One step: the next turn is taken from the agenda, or is a free value of Config (log 1, DESIGN CHOICE).  An event runs,
and a bundle that it presents settles in the same step (log 8, DESIGN CHOICE). -/
def step (s : State) : Host.Outcome State Fault Refusal :=
  let t := s.turnDone
  match s.turnNext with
  | .event i =>
    if i.isEvent then
      let run := fun t => match exec i t with
        | .next u => u.settle exec
        | r => r
      if i.walksNot then run t else t.withEntries run
    else .next t
  | .engine c =>
    match (t.core c).microOp with
    | some i => exec i (t.atEngine c)
    | none => .next (t.engineElse c)
  | .softError pa => .next (t.softError pa)
  | .energy ctx microjoules => .next (t.chargeEnergy ctx microjoules)
  | .misroute => .next t.misrouted
  | .walkRequest pa => .next (t.walkRequest pa)
  | .farPark strait mask => .next (t.farPark strait mask)
  | .resend c chip => .next (t.resendTo c chip)
  | .stopAll => .next t.stopAll
  | .connectionEnd conn => .next (t.endConnection conn)
  | .keepBytes v pa n => .next (t.keepBytes v pa n)
  | .seeBytes v pa n => .next (t.seeBytes v pa n)
  | .recordError k => .next (t.recordError k)
  | .dropLine k => .next (t.dropLine k)
  | .dropEntry c tlb k => .next (t.dropEntry c tlb k)

/-- The instruction w stands as a code stream at pc 0 of core 0, which runs and has the next turn (log 2, DESIGN CHOICE). -/
def State.withFetchWord (s : State) (nbits w : Nat) : State := s.placeCode (splitWords (Nat.max 25 ((nbits + 15) / 16)) w)

end Sys2Proof.Machine
end

