-- ==== Sys2Proof/Safety.lean ====
section
/-! DEFINITION. What a statement says of a step: that it goes on, which parts of the state it leaves alone,
and which registers, marks and bytes it sets. -/

namespace Sys2Proof.Machine

open Sys2Proof

/-- The machine goes on: a step answers a next state. -/
def State.goesOn (s : State) : Prop := ∃ t, step s = .next t

/-- Memory is in its canonical form. -/
def State.memOk (s : State) : Prop := Memory.wf s.mem = true

/-- Every byte of memory reads as before. -/
def SameBytes (s t : State) : Prop := ∀ a, t.byte a = s.byte a

/-- Every byte outside the n bytes from pa on reads as before. -/
def SameBytesBut (s t : State) (pa n : Nat) : Prop := ∀ a, (a < pa ∨ pa + n ≤ a) → t.byte a = s.byte a

/-- The bytes bs stand in memory from pa on. -/
def HoldsBytes (t : State) (pa : Nat) (bs : List Byte) : Prop :=
  ∀ (i : Nat) (b : Byte), bs[i]? = some b → t.byte (pa + i) = b

/-- The byte at a as a view reads it: the one that it keeps there, else the one of memory (01 R18; log 125, DEDUCED). -/
def State.seen (s : State) (v : View) (a : Nat) : Byte :=
  match s.keptAt v a with
  | some x => x.byte
  | none => s.byte a

/-- The n bytes from pa on as a view reads them. -/
def State.bytesSeen (s : State) (v : View) (pa n : Nat) : List Byte := (List.range n).map fun i => s.seen v (pa + i)

/-- What every view keeps after a writer has written the n bytes from pa on: its own view none of them, another view what
it kept, now over this write too; every other byte as before. -/
def KeptAfter (s t : State) (w : Writer) (pa n : Nat) : Prop :=
  ∀ v a, t.keptAt v a = (s.keptAt v a).bind (Kept.written w pa n)

/-- What a view goes on reading after writes of a writer: its own view keeps no byte that it did not keep before, and every
other view reads every byte that it keeps as before. -/
def WroteViews (s t : State) (w : Writer) : Prop :=
  (∀ a, t.keptAt w.view a = none ∨ t.keptAt w.view a = s.keptAt w.view a)
    ∧ ∀ v a, v ≠ w.view → (t.keptAt v a).map (·.byte) = (s.keptAt v a).map (·.byte)

/-- The same after writes of homes. -/
abbrev HomeViews (s t : State) : Prop := WroteViews s t .home

/-- Every view goes on reading every byte that it keeps. -/
def SameViews (s t : State) : Prop := ∀ v a, (t.keptAt v a).map (·.byte) = (s.keptAt v a).map (·.byte)

/-- fence.x P, Q of core c at a scope (02 R40, R42; log 125, DEDUCED): Q keeps no byte over a write of the core on P within the
scope, and for P = CP none over any write within it that CP accesses see; no other view changes. -/
def Fences (s t : State) (c : Nat) (p q : Path) (scope : Nat) : Prop :=
  (∀ v a, v ≠ viewOf c q → t.keptAt v a = s.keptAt v a)
    ∧ (p ≠ .cp → ∀ x ∈ t.kept, x.view = viewOf c q → ∀ y ∈ x.unseen, inScope scope c x.pa y = true → ¬(y.core = c ∧ y.path = p))
    ∧ (p = .cp → q ≠ .cp →
      (∀ x ∈ t.kept, x.view = viewOf c q → s.keptAt .cp x.pa = none → ∀ y ∈ x.unseen, inScope scope c x.pa y = false)
      ∧ ∀ a x z, s.keptAt (viewOf c q) a = some x → s.keptAt .cp a = some z →
          (∃ y ∈ x.unseen, inScope scope c x.pa y = true ∧ y.unit = 11) → t.seen (viewOf c q) a = s.seen .cp a)

/-- The MX reads of core c see what the ready tags of some descriptors have released (11 R276): the bytes of the ops that set
them, and every other byte that a view keeps stays. -/
def SeesTagged (s t : State) (c : Nat) (ds : List Nat) : Prop :=
  ∀ x, x ∈ t.kept ↔ x ∈ s.kept
    ∧ ¬(x.view = .engine c .mx ∧ ∃ y ∈ x.unseen, y.core = c ∧ ∃ d ∈ ds, y.tagged = some d)

/-- A release point of the writes of a kind at the addresses of a kind (02 R41): CP accesses keep no byte there over one of
them, and every other byte that a view keeps stays. -/
def Releases (s t : State) (who : Writer → Bool) (at_ : Nat → Bool) : Prop :=
  (∀ x ∈ t.kept, x.view = .cp → at_ x.pa = true → x.unseen.any who = false)
    ∧ ∀ x, x ∈ t.kept ↔ x ∈ s.kept ∧ ¬(x.view = .cp ∧ at_ x.pa = true ∧ x.unseen.any who = true)

/-- Only core c changes: every other core, every byte of memory and every other part of the device is as it
was. -/
def OnlyCore (c : Nat) (s t : State) : Prop :=
  t = { s with cores := t.cores } ∧ (∀ d, d ≠ c → t.core d = s.core d) ∧ SameBytes s t

/-- The scalar registers after a write of x to sd: s0 reads zero and discards the write. -/
def ScalarIs (k k' : Core) (sd : SR) (x : W64) : Prop :=
  ∀ r : SR, k'.getS r.toNat = if r = 0 then 0 else if r = sd then x else k.getS r.toNat

/-- The mark and the count of a result that is ready later: it joins the outstanding producers with the
registers that carry its mark, and counts in class L or not. -/
def Core.awaits (k : Core) (seq : Nat) (dst : List Reg) (inL : Bool) : Core :=
  { k with
    outs := k.outs ++ [{ id := k.nextId, seq := seq, kind := .done, dst := dst, inL := inL, pc := k.issPc
                         asked := none, since := k.issCycle }]
    nextId := k.nextId + 1 }

/-- The op completes; of the device only scalar register sd of the core that issues it changes, and it
receives x. -/
def SetsS (s : State) (i : Instr) (sd : SR) (x : W64) : Prop :=
  ∃ t, exec i s = .next t ∧ OnlyCore s.cur s t ∧ ScalarIs (s.core s.cur) (t.core s.cur) sd x
    ∧ t.core s.cur = { s.core s.cur with s := (t.core s.cur).s }

/-- The same for a result of longer latency: its register carries a pending mark, but s0 none. -/
def SetsSLate (s : State) (i : Instr) (sd : SR) (x : W64) : Prop :=
  ∃ t, exec i s = .next t ∧ OnlyCore s.cur s t ∧ ScalarIs (s.core s.cur) (t.core s.cur) sd x
    ∧ t.core s.cur =
      { (if sd = 0 then s.core s.cur else (s.core s.cur).awaits s.iss.seq [.s sd.toNat] false) with
        s := (t.core s.cur).s }

/-- The op completes; of the device only the predicate window of the core that issues it changes. -/
def SetsPwin (s : State) (i : Instr) (x : BitVec 16) : Prop :=
  ∃ t, exec i s = .next t ∧ OnlyCore s.cur s t ∧ t.core s.cur = { s.core s.cur with pwin := x }

/-- The op completes; of the device only vector register vd of the core that issues it changes, and carries a
pending mark: lane l receives f l where `governed` says so, and keeps its value elsewhere. -/
def SetsV (s : State) (i : Instr) (vd : VR) (governed : Nat → Bool) (f : Nat → W32) : Prop :=
  ∃ t, exec i s = .next t ∧ OnlyCore s.cur s t
    ∧ (∀ l, l < 128 → lane ((t.core s.cur).getV vd.toNat) l =
        if governed l then f l else lane ((s.core s.cur).getV vd.toNat) l)
    ∧ (∀ r : VR, r ≠ vd → (t.core s.cur).getV r.toNat = (s.core s.cur).getV r.toNat)
    ∧ t.core s.cur = { (s.core s.cur).awaits s.iss.seq [.v vd.toNat] false with v := (t.core s.cur).v }

/-- The same for an op whose governed lanes may saturate: STATUS.SAT is set when one does, and no other bit
of STATUS changes. -/
def SetsVSat (s : State) (i : Instr) (vd : VR) (governed : Nat → Bool) (f : Nat → W32 × Bool) : Prop :=
  ∃ t, exec i s = .next t ∧ OnlyCore s.cur s t
    ∧ (∀ l, l < 128 → lane ((t.core s.cur).getV vd.toNat) l =
        if governed l then (f l).1 else lane ((s.core s.cur).getV vd.toNat) l)
    ∧ (∀ r : VR, r ≠ vd → (t.core s.cur).getV r.toNat = (s.core s.cur).getV r.toNat)
    ∧ ((t.core s.cur).statusBit 3 = true ↔
        (s.core s.cur).statusBit 3 = true ∨ ∃ l, l < 128 ∧ governed l = true ∧ (f l).2 = true)
    ∧ (∀ b, b ≠ 3 → (t.core s.cur).statusBit b = (s.core s.cur).statusBit b)
    ∧ t.core s.cur = { (s.core s.cur).awaits s.iss.seq [.v vd.toNat] false with
        v := (t.core s.cur).v, status := (t.core s.cur).status }

/-- The op completes; of the device only mask register kd of the core that issues it changes, and bit l
receives f l; k0 keeps all ones and carries no mark. -/
def SetsK (s : State) (i : Instr) (kd : KR) (f : Nat → Bool) : Prop :=
  ∃ t, exec i s = .next t ∧ OnlyCore s.cur s t
    ∧ (kd ≠ 0 → ∀ l, l < 128 → ((t.core s.cur).getK kd.toNat).getLsbD l = f l)
    ∧ (∀ r : KR, r = 0 ∨ r ≠ kd → (t.core s.cur).getK r.toNat = (s.core s.cur).getK r.toNat)
    ∧ t.core s.cur =
      { (if kd = 0 then s.core s.cur else (s.core s.cur).awaits s.iss.seq [.k kd.toNat] false) with
        k := (t.core s.cur).k }

/-- The sticky bits of STATUS after an op: a bit is set when it was, or when `gain` says so; no bit is cleared
(08 R187). -/
def StatusGains (k k' : Core) (gain : Nat → Prop) : Prop :=
  ∀ b, k'.statusBit b = true ↔ k.statusBit b = true ∨ gain b

/-- The op completes; of the device only vector register vd and sticky bits of STATUS of the core that issues
it change: every lane of vd receives f. -/
def SetsVAll (s : State) (i : Instr) (vd : VR) (f : Nat → W32) (gain : Nat → Prop) : Prop :=
  ∃ t, exec i s = .next t ∧ OnlyCore s.cur s t
    ∧ (∀ l, l < 128 → lane ((t.core s.cur).getV vd.toNat) l = f l)
    ∧ (∀ r : VR, r ≠ vd → (t.core s.cur).getV r.toNat = (s.core s.cur).getV r.toNat)
    ∧ StatusGains (s.core s.cur) (t.core s.cur) gain
    ∧ t.core s.cur = { (s.core s.cur).awaits s.iss.seq [.v vd.toNat] false with
        v := (t.core s.cur).v, status := (t.core s.cur).status }

/-- The same for an op with two vector destinations. -/
def SetsVTwo (s : State) (i : Instr) (vd vc : VR) (f g : Nat → W32) (gain : Nat → Prop) : Prop :=
  ∃ t, exec i s = .next t ∧ OnlyCore s.cur s t
    ∧ (∀ l, l < 128 → lane ((t.core s.cur).getV vd.toNat) l = f l ∧ lane ((t.core s.cur).getV vc.toNat) l = g l)
    ∧ (∀ r : VR, r ≠ vd → r ≠ vc → (t.core s.cur).getV r.toNat = (s.core s.cur).getV r.toNat)
    ∧ StatusGains (s.core s.cur) (t.core s.cur) gain
    ∧ t.core s.cur =
      { ((s.core s.cur).awaits s.iss.seq [.v vd.toNat] false).awaits s.iss.seq [.v vc.toNat] false with
        v := (t.core s.cur).v, status := (t.core s.cur).status }

/-- The lanes that a mask register governs, as they stood before the bundle (09 R214). -/
def State.governs (s : State) (k : KR) (l : Nat) : Bool := (s.srcK k).getLsbD l

/-- The op completes by entering the queue of its slot with the registers that it read (01 R17); of the
device nothing else changes. -/
def Enqueues (s : State) (i : Instr) (slot : Nat) (vals : List W64) (dst : List Reg) : Prop :=
  ∃ t, exec i s = .next t ∧ OnlyCore s.cur s t
    ∧ (let e : QEntry := { instr := i, slot := slot, seq := s.iss.seq, vals := vals, dst := dst, pc := (s.core s.cur).issPc }
       t.core s.cur =
        if slot = 3 then { s.core s.cur with mq := (s.core s.cur).mq ++ [e] }
        else if slot = 4 then { s.core s.cur with c0q := (s.core s.cur).c0q ++ [e] }
        else { s.core s.cur with c1q := (s.core s.cur).c1q ++ [e] })

/-- The op completes by holding the front end after its bundle (06 R154): its first wait is for `mark` at
`addr`, with the registers a and b that it read. -/
def Holds (s : State) (i : Instr) (a b : W64) (dst : List Reg) (mark addr : Nat) : Prop :=
  ∃ t, exec i s = .next t ∧ OnlyCore s.cur s t
    ∧ t.core s.cur = { s.core s.cur with
        hold := some { instr := i, slot := s.iss.slot, seq := s.iss.seq, a := a, b := b, dst := dst, stage := 0
                       mark := mark, addr := addr, ended := none } }

/-- n bytes of memory from pa on. -/
def State.bytesAt (s : State) (pa n : Nat) : List Byte := (List.range n).map fun i => s.byte (pa + i)

/-- An aligned CP access of n bytes at va of the issuing core reaches physical address pa. -/
def State.reaches (s : State) (va : W64) (n : Nat) (acc : Acc) (pa : Nat) : Prop :=
  va.toNat % n = 0 ∧ s.resolve s.cur .cp va acc = .ok pa

/-- The core after a value that its own scratchpad gave at once: the destinations, counted in class L, and the
TLB, which may have cached the translation (06 R131, R132, 08 R196). -/
def LoadsNow (s : State) (i : Instr) (dst : List Reg) (regs : Core → Core → Prop) : Prop :=
  ∃ t, exec i s = .next t ∧ OnlyCore s.cur s t ∧ regs (s.core s.cur) (t.core s.cur)
    ∧ t.core s.cur = { (s.core s.cur).awaits s.iss.seq dst true with
        s := (t.core s.cur).s, tlb := (t.core s.cur).tlb }

/-- The scalar registers after a pair has been written: low half to sd, high half to sd + 1. -/
def PairIs (k k' : Core) (sd : SR) (lo hi : W64) : Prop :=
  ∀ r : SR, k'.getS r.toNat =
    if r = 0 then 0 else if r = sd then lo else if r = sd + 1 then hi else k.getS r.toNat

/-- The op completes: its load of n bytes at pa is outstanding and counts in class L, with its destinations
marked, and writes them when it returns (06 R130, R132).  A load of drawer memory may also have sent a request
(19 R392). -/
def LoadsLater (s : State) (i : Instr) (va pa n : Nat) (sgn : Bool) (dst : List Reg) : Prop :=
  ∃ t, exec i s = .next t
    ∧ t = { s with cores := t.cores, drawerReqs := t.drawerReqs, freeNo := t.freeNo }
    ∧ ((∀ d, s.region pa ≠ .drawer d) → t.drawerReqs = s.drawerReqs ∧ t.freeNo = s.freeNo)
    ∧ (∀ d, d ≠ s.cur → t.core d = s.core d) ∧ SameBytes s t
    ∧ t.core s.cur = { s.core s.cur with
        outs := (s.core s.cur).outs ++ [{
          id := (s.core s.cur).nextId, seq := s.iss.seq, kind := .load va pa n sgn, dst := dst, inL := true
          pc := (s.core s.cur).issPc, asked := none, since := (s.core s.cur).issCycle }]
        nextId := (s.core s.cur).nextId + 1
        tlb := (t.core s.cur).tlb }

/-- Register n of a checkpoint: the value that an op has just given the register, where it has changed it. -/
def Carried {α : Type} (d : α) (old new sh sh' : Tab α) (n : Nat) : Prop :=
  Tab.get d sh' n = Tab.get d new n ∧ Tab.get d new n ≠ Tab.get d old n
    ∨ Tab.get d sh' n = Tab.get d sh n ∧ Tab.get d new n = Tab.get d old n

/-- The checkpoint of the open segment after an op of bundle `seq` has written registers of its core: when the bundle
issued before the segment, a scalar, parameter or coverage register that it changed has its new value there too, and so has a flag
that a sync op (`held`) consumes (08 R201, R209; log 118, DEDUCED); else, and outside a segment, nothing of the segment changes. -/
def Checkpoints (k k' : Core) (seq : Nat) (held : Bool := false) : Prop :=
  let x := k.segment.shadow
  let y := k'.segment.shadow
  if k.seg = true ∧ seq ≤ k.segment.first then
    k'.segment = { k.segment with shadow := { x with s := y.s, mp := y.mp, cv := y.cv, f := y.f } }
    ∧ (if held then ∀ n : BitVec 4, Carried 0 k.f k'.f x.f y.f n.toNat else y.f = x.f)
    ∧ (∀ r : SR, Carried 0 k.s k'.s x.s y.s r.toNat) ∧ (∀ n : BitVec 3, Carried 0 k.mp k'.mp x.mp y.mp n.toNat)
    ∧ ∀ n : BitVec 2, Carried 0 k.cv k'.cv x.cv y.cv n.toNat
  else k'.segment = k.segment

/-- Byte a as a load with number id of core k reads it where b is read there: the last earlier store of the segment store
buffer that covers it gives it (02 R37, 08 R200). -/
def Core.laidOver (k : Core) (id a : Nat) (b : Byte) : Byte :=
  match (k.segment.buffer.filter fun x => x.id < id && x.pa ≤ a && a < x.pa + x.bytes.length).getLast? with
  | some x => x.bytes.getD (a - x.pa) 0
  | none => b

/-- The value of a load with number id of core k at pa, over the bytes that it reads there, lowest first. -/
def Core.laidValue (k : Core) (id pa : Nat) (bs : List Byte) : Nat :=
  leNat (bs.zipIdx.map fun q => k.laidOver id (pa + q.2) q.1)

/-- Outstanding op o of core c is over: its mark, its count and its request go, and of the core only its scalar registers
and the checkpoint of its segment may change; no other core, no byte and, but for `rest`, nothing of the device does. -/
def Ends (s t : State) (c : Nat) (o : Out) : Prop :=
  t = { s with cores := t.cores, fabric := t.fabric, freeNo := t.freeNo
               drawerReqs := s.drawerReqs.filter fun r => !(r.isOf c 0 && r.id == o.id) }
  ∧ SameBytes s t ∧ (∀ d, d ≠ c → t.core d = s.core d)
  ∧ Checkpoints (s.core c) (t.core c) o.seq
  ∧ t.core c = { s.core c with
      s := (t.core c).s, segment := (t.core c).segment, outs := (s.core c).outs.filter fun x => x.id != o.id }

/-- Outstanding load o, the k-th of core c, returns the number x: one destination receives it extended, a pair its
halves; s0 discards.  `rest` says what else the device does. -/
def LoadReturns (s : State) (c k : Nat) (o : Out) (n : Nat) (sgn : Bool) (x : Nat) (rest : State → Prop) : Prop :=
  ∃ t, exec (.loadReturn c k) s = .next t ∧ Ends s t c o ∧ rest t
    ∧ (∀ sd : SR, o.dst = [.s sd.toNat] → n ≤ 8 → ScalarIs (s.core c) (t.core c) sd
        (if sgn then (BitVec.ofNat (8 * n) x).signExtend 64 else .ofNat 64 x))
    ∧ (∀ sd : SR, o.dst = [.s sd.toNat, .s (sd.toNat + 1)] → n = 16 → sd.toNat % 2 = 0 →
        PairIs (s.core c) (t.core c) sd (.ofNat 64 x) (.ofNat 64 (x / 2 ^ 64)))

/-- The lines of the fabric caches stay. -/
def KeepsFabric (s t : State) : Prop := t.fabric = s.fabric ∧ t.freeNo = s.freeNo

/-- Outstanding op o, the k-th of core c, meets the error in byte e as it performs: no register changes, it is over, and
the error is due at the core's next boundary (02 R29; log 14, DEDUCED). -/
def MeetsError (s : State) (c k : Nat) (o : Out) (e : Nat) : Prop :=
  ∃ t, exec (.loadReturn c k) s = .next t ∧ SameBytes s t ∧ (∀ d, d ≠ c → t.core d = s.core d)
    ∧ t = { s with cores := t.cores
                   drawerReqs := s.drawerReqs.filter fun r => !(r.isOf c 0 && r.id == o.id) }
    ∧ t.core c = { s.core c with
        outs := (s.core c).outs.filter fun x => x.id != o.id
        uncorrDue := (s.core c).uncorrDue.orElse fun _ => some (e, o.seq) }

/-- A CP store of n bytes at va of the issuing core is allowed and reaches pa: no peer window, no armed barrier
slot, no marked word (02 R44, 14 R322, 16 R341). -/
def State.storeReaches (s : State) (va : W64) (n pa : Nat) : Prop :=
  s.reaches va n .write pa ∧ (∀ c, s.region pa ≠ .peer c) ∧ s.overlapsArmed pa n = false
    ∧ s.overlapsMark pa n = false

/-- The record of a CP store that the issuing core makes: it has not performed. -/
def State.newStore (s : State) (va pa : Nat) (bytes : List Byte) (lanes : List (Nat × W32)) : Sto :=
  { id := (s.core s.cur).nextId, seq := s.iss.seq, va := va, pa := pa, bytes := bytes, performed := false
    pc := (s.core s.cur).issPc, lanes := lanes }

/-- The op completes: its store to the own scratchpad is outstanding in class S, inside a segment too (06 R131, R132,
08 R200); no byte of memory has changed yet, and STORE_PERFORM writes its bytes, or its lanes. -/
def StoresOwn (s : State) (i : Instr) (va pa : Nat) (bytes : List Byte) (lanes : List (Nat × W32)) : Prop :=
  ∃ t, exec i s = .next t ∧ OnlyCore s.cur s t
    ∧ t.core s.cur = { s.core s.cur with
        stores := (s.core s.cur).stores ++ [s.newStore va pa bytes lanes]
        nextId := (s.core s.cur).nextId + 1
        tlb := (t.core s.cur).tlb }

/-- The op completes: its store is outstanding, in class S or inside a segment in the store buffer (06 R131,
08 R200); no byte of memory has changed yet. -/
def StoresLater (s : State) (i : Instr) (va pa : Nat) (bytes : List Byte) : Prop :=
  ∃ t, exec i s = .next t ∧ OnlyCore s.cur s t
    ∧ (let k := s.core s.cur
       let x := s.newStore va pa bytes []
       t.core s.cur =
        if k.seg then { k with segment := { k.segment with buffer := k.segment.buffer ++ [x] }
                               nextId := k.nextId + 1, tlb := (t.core s.cur).tlb }
        else { k with stores := k.stores ++ [x], nextId := k.nextId + 1, tlb := (t.core s.cur).tlb })

/-- A core may take a trap into its handler: it is not in handler state, and it has one (08 R183, R184). -/
def Core.handles (k : Core) : Prop := k.hs = false ∧ k.trapEntry ≠ 0xFFFFFFFF

/-- A home-decided op completes (17 R366): sd receives x, of the issuing core nothing else changes, no other core
changes, and `rest` says what the home has changed. -/
def Answers (s : State) (i : Instr) (sd : SR) (x : W64) (rest : State → Prop) : Prop :=
  ∃ t, exec i s = .next t ∧ rest t ∧ (∀ d, d ≠ s.cur → t.core d = s.core d)
    ∧ ScalarIs (s.core s.cur) (t.core s.cur) sd x
    ∧ t.core s.cur = { s.core s.cur with s := (t.core s.cur).s }

/-- Of the device outside its cores, only the bytes bs at pa change, and they hold no error any more. -/
def Writes (s : State) (pa : Nat) (bs : List Byte) (t : State) : Prop :=
  t = { s with cores := t.cores, mem := t.mem, errs := t.errs, kept := t.kept } ∧ HoldsBytes t pa bs
    ∧ SameBytesBut s t pa bs.length ∧ HomeViews s t

/-- The device outside its cores is as it was. -/
def NoRest (s t : State) : Prop := t = { s with cores := t.cores } ∧ SameBytes s t

/-- The descriptor that a sequence op names, as its home reads it (17 R367). -/
def State.names (s : State) (va : W64) (acc : Acc) (d : Desc) : Prop :=
  s.descOp (.core s.cur) va acc = .ok d

/-- A sequence in use that has not been dropped (16 R341). -/
def Desc.inUse (d : Desc) : Prop := seqLive d.w18 = true ∧ seqDropped d.w18 = false

/-- Core c of s enters its handler in t with the given trap, resume address and slot (08 R183): the trap
registers, hidden trap state with a pending sync op that will be evaluated afresh (06 R154), HS and the pc are set, an open segment ends (08 R201) with its buffered stores
issued, which the handler waits for (08 R200; the pc is even: log 97, DEDUCED), and no other register of the core, no other core, no byte of memory and nothing else of the device but the
model's record of the bundle in hand changes. -/
def EntersHandler (s t : State) (c : Nat) (code : TrapCode) (info : W64) (addr : W64) (pc slot : Nat) : Prop :=
  t = { s with cores := t.cores, iss := t.iss } ∧ (∀ d, d ≠ c → t.core d = s.core d) ∧ SameBytes s t
    ∧ (let k := s.core c
       let e := t.core c
       e = { k with
          trapCode := .ofNat 8 code.num, trapPc := .ofNat 32 pc, trapSlot := .ofNat 4 slot
          trapInfo := info, trapAddr := addr
          hidRep := k.rep, hidHold := k.hold.map Hold.afresh, hidSeg := k.segment.mode
          rep := none, hold := none, homeReq := false, pc := evenPc k.trapEntry
          stores := k.stores ++ k.segment.buffer
          segment := { k.segment with buffer := [], mode := false, closing := k.seg }
          status := e.status }
        ∧ e.hs = true ∧ e.seg = false ∧ ∀ b, b ≠ 5 → b ≠ 6 → e.statusBit b = k.statusBit b)

/-- A taken transfer of control (06 R135): the pc becomes `target`, two issue cycles are lost unless the target is
a captured bundle of the pinned region, `regs` says what else changes of the scalar registers and PWIN, and nothing
else changes. -/
def Transfers (s : State) (i : Instr) (target : Nat) (regs : Core → Core → Prop) : Prop :=
  ∃ t, exec i s = .next t ∧ OnlyCore s.cur s t ∧ regs (s.core s.cur) (t.core s.cur)
    ∧ t.core s.cur = { s.core s.cur with
        s := (t.core s.cur).s, pwin := (t.core s.cur).pwin, pc := target
        bubbleBr := if target ∈ (s.core s.cur).loopBuf.captured then (s.core s.cur).bubbleBr
                    else (s.core s.cur).bubbleBr + 2 }

/-- Core c runs with nothing pending, and a bundle that holds op o alone stands decoded at its pc, with the next bundle
at `next` (05 R102, R110). -/
def State.standsAt (s : State) (c next : Nat) (o : SlotOp) : Prop :=
  let k := s.core c
  k.run = .running ∧ k.stallDue = none ∧ k.cmptDue = none ∧ k.uncorrDue = none ∧ k.preReq = false ∧ k.hold = none ∧ k.rep = none
  ∧ k.segment.mode = false ∧ k.segment.closing = false ∧ k.seg = false ∧ k.efaults = [] ∧ k.brkMask.getLsbD 8 = false
  ∧ ∃ bits, decodeCodeWord k.code k.dict k.pc = .image bits next ∧ paddingZero bits = true
    ∧ bundleOps bits = [(o.slot, o.raw)] ∧ decodeOp (slotClass o.slot) o.raw = .ok (o.pg, o.instr)

/-- The bundle of core c is presented for issue with the ops that execute, on the registers as they stand (06 R129). -/
def State.offers (s : State) (c next : Nat) (ops : List SlotOp) (answered : Bool) : State :=
  let k := s.core c
  State.setCore { s with
    iss := { core := c, active := true, answered := answered, pcb := k.pc, npc := next, seq := k.seq + 1, slot := 8
             ops := ops, snap := k.snapshot, at_ := k.frontCycle } } c { k with homeReq := false }

/-- No stall holds back the ops of a bundle (06 R127, R130, R132, R133, 02 R34, R35), and no walk of its addresses has an
entry in a drawer to read (19 R392). -/
def State.flows (s : State) (c next : Nat) (ops : List SlotOp) : Prop :=
  let k := s.core c
  k.opWaits ops = false ∧ k.skewed = false ∧ k.pastLimit ops = false ∧ k.marked ops = false
  ∧ s.bundleWalks c ops next = false ∧ s.walking c 0 = false
  ∧ ∀ o ∈ ops, (s.offers c next ops false).opAwaits c o.instr = false

/-- The dispatcher has no context to restore (08 R193). -/
def State.restsPreempted (s : State) : Prop := ∀ z, z < 16 → s.mayRestore z = false

/-- Neither the scalar registers nor PWIN change. -/
def NoRegs (k k' : Core) : Prop := k'.s = k.s ∧ k'.pwin = k.pwin

/-- The op takes a precise trap with no effect of its own (08 R181). -/
def TrapsPrecisely (s : State) (i : Instr) (code : TrapCode) (info : W64) (addr : W64) : Prop :=
  ∃ t, exec i s = .next t ∧ EntersHandler s t s.cur code info addr s.iss.pcb s.iss.slot

end Sys2Proof.Machine
end

