-- ==== Sys2Proof/Certificates/Slice0/Obligations.lean ====
section
/-! DEFINITION. The statements for the provers, family by family. -/

open Sys2Proof Sys2Proof.Machine

/-- 06 R136 (the rows of latency 1) and 05 R112.  a and b are the source registers as they stood
before the bundle (06 R129). -/
def Obligations.ScalarOpsOfLatencyOneWriteOnlySd : Prop :=
  ∀ (s : State) (sd sa sb : SR) (pn : PR) (inv : Bool),
    let a := s.srcS sa
    let b := s.srcS sb
    exec .nop s = .next s
    ∧ SetsS s (.add sd sa sb) sd (.ofNat 64 (a.toNat + b.toNat))
    ∧ SetsS s (.sub sd sa sb) sd (.ofInt 64 (a.toInt - b.toInt))
    ∧ SetsS s (.and sd sa sb) sd (a &&& b)
    ∧ SetsS s (.or sd sa sb) sd (a ||| b)
    ∧ SetsS s (.xor sd sa sb) sd (a ^^^ b)
    ∧ SetsS s (.shl sd sa sb) sd (.ofNat 64 (a.toNat * 2 ^ (b.toNat % 64)))
    ∧ SetsS s (.shr sd sa sb) sd (.ofNat 64 (a.toNat / 2 ^ (b.toNat % 64)))
    ∧ SetsS s (.sar sd sa sb) sd (.ofInt 64 (a.toInt / 2 ^ (b.toNat % 64)))
    ∧ SetsS s (.min sd sa sb) sd (if a.toInt ≤ b.toInt then a else b)
    ∧ SetsS s (.max sd sa sb) sd (if a.toInt ≤ b.toInt then b else a)
    ∧ SetsS s (.minu sd sa sb) sd (if a.toNat ≤ b.toNat then a else b)
    ∧ SetsS s (.maxu sd sa sb) sd (if a.toNat ≤ b.toNat then b else a)
    ∧ SetsS s (.seq sd sa sb) sd (if a = b then 1 else 0)
    ∧ SetsS s (.slt sd sa sb) sd (if a.toInt < b.toInt then 1 else 0)
    ∧ SetsS s (.sltu sd sa sb) sd (if a.toNat < b.toNat then 1 else 0)
    ∧ SetsS s (.sel sd sa sb inv pn) sd (if s.srcP pn = !inv then a else b)
    ∧ (∃ n : Nat, SetsS s (.clz sd sa) sd (.ofNat 64 n)
      ∧ (if a = 0 then n = 64 else n < 64 ∧ a.getLsbD (63 - n) = true
          ∧ ∀ j, 63 - n < j → j < 64 → a.getLsbD j = false))
    ∧ (∃ n : Nat, SetsS s (.ctz sd sa) sd (.ofNat 64 n)
      ∧ (if a = 0 then n = 64 else n < 64 ∧ a.getLsbD n = true ∧ ∀ j, j < n → a.getLsbD j = false))
    ∧ SetsS s (.popc sd sa) sd (.ofNat 64 ((List.range 64).countP a.getLsbD))

/-- 06 R136 (mul to remu), R130, R131, 09 R216 and 15 R335: sd carries a pending mark until its latency has passed.  The model's
choices, and no rules of the spec: that a cycle of the front end is an issue, a counted stall or a bubble (log 6, DESIGN CHOICE),
and when nothing shares a bank (log 127, DESIGN CHOICE). -/
def Obligations.LongScalarOpsWriteSdUnderAMark : Prop :=
  (∀ (s : State) (sd sa sb : SR),
    let a := s.srcS sa
    let b := s.srcS sb
    SetsSLate s (.mul sd sa sb) sd (.ofNat 64 (a.toNat * b.toNat))
    ∧ SetsSLate s (.mulh sd sa sb) sd (.ofInt 64 (a.toInt * b.toInt / 2 ^ 64))
    ∧ SetsSLate s (.mulhu sd sa sb) sd (.ofNat 64 (a.toNat * b.toNat / 2 ^ 64))
    ∧ (b ≠ 0 →
        SetsSLate s (.div sd sa sb) sd (.ofInt 64 (a.toInt.tdiv b.toInt))
        ∧ SetsSLate s (.rem sd sa sb) sd (.ofInt 64 (a.toInt.tmod b.toInt))
        ∧ SetsSLate s (.divu sd sa sb) sd (.ofNat 64 (a.toNat / b.toNat))
        ∧ SetsSLate s (.remu sd sa sb) sd (.ofNat 64 (a.toNat % b.toNat))))
  ∧ (∀ (s : State) (first : Nat) (i : Instr) (o : Out),
      let c := s.iss.core
      let after := fun n => { o with ready := some (s.iss.at_ + n) } ∈ ((s.timed first i).core c).outs
      let near := fun n => ∃ w, after (n + w) ∧ w ≤ 8 ∧ (s.banksShared c = false → w = 0)
      o ∈ (s.core c).outs → first ≤ o.id →
      (o.kind = .done → match i with
        | .mul .. | .mulh .. | .mulhu .. => after 3
        | .div .. | .divu .. | .rem .. | .remu .. => after 20
        | .ldB .. | .ldH .. | .ldW .. | .ldD .. | .ldBu .. | .ldHu .. | .ldWu .. | .ldQ .. | .bnLd .. => near 4
        | .vld .. => near 6
        | .vldx .. => near 8
        | .vminF .. | .vmaxF .. | .vabsF .. | .vaddI .. | .vsubI .. | .vmulI .. | .vminI .. | .vmaxI .. => after 2
        | .vand .. | .vor .. | .vxor .. | .vshl .. | .vshr .. | .vsar .. => after 2
        | .vmov .. | .vsel .. | .vbcast .. | .vperm .. | .vcmp .. | .kop .. => after 2
        | .vcmprs .. | .vexpd .. | .kpop .. | .vext .. => after 3
        | .vaddF .. | .vsubF .. | .vmulF .. | .vfmaF .. | .vcvt .. | .vunpk .. | .vscl .. | .vxg .. => after 4
        | .vpackMx .. | .vdesc .. => after 6
        | .vexp2 .. | .vlog2 .. | .vrcp .. | .vrsqrt .. | .vtanh .. | .vred .. | .vpfx .. => after 8
        | .vnoise .. => after 10
        | _ => True)
      ∧ ∀ va pa n sgn, o.kind = .load va pa n sgn →
          (∀ isle, s.region pa = .shelf isle → after 60) ∧ (s.region pa = .config → after 120)
          ∧ ∀ d, s.region pa = .scratch d → after (if d / 8 = c / 8 then 24 else if isleOf d = isleOf c then 60 else 90))
  ∧ (∀ (s : State) (first : Nat) (i : Instr) (x : Sto), let c := s.iss.core
      let performs := fun n => { x with ready := some (s.iss.at_ + n) } ∈ ((s.timed first i).core c).stores
      x ∈ (s.core c).stores → first ≤ x.id →
      (∀ isle, s.region x.pa = .shelf isle → performs 60) ∧ (∀ d, s.region x.pa = .drawer d → performs 60)
      ∧ (s.region x.pa = .config → performs 120)
      ∧ ∀ d, s.region x.pa = .scratch d →
          performs (if d = c then 1 else if d / 8 = c / 8 then 24 else if isleOf d = isleOf c then 60 else 90))
  ∧ ∀ (k : Core) (o : Out) (n : Nat), k.outs = [o] → k.mq = [] → k.c0q = [] → k.c1q = [] → k.hold = none → k.hidHold = none →
      o.kind = .done → o.ready = some n →
      (k.frontCycle < n → k.marks = o.dst) ∧ (n ≤ k.frontCycle → k.marks = [])

/-- 06 R137, row by row. -/
def Obligations.DivisionTakesNoTrapInItsCorners : Prop :=
  ∀ (s : State) (sd sa sb : SR),
    let n := s.srcS sa
    let d := s.srcS sb
    (d = 0 →
      SetsSLate s (.div sd sa sb) sd (if 0 ≤ n.toInt then -1 else 1)
      ∧ SetsSLate s (.divu sd sa sb) sd 0xFFFFFFFFFFFFFFFF
      ∧ SetsSLate s (.rem sd sa sb) sd n
      ∧ SetsSLate s (.remu sd sa sb) sd n)
    ∧ (n = 0x8000000000000000 → d = 0xFFFFFFFFFFFFFFFF →
      SetsSLate s (.div sd sa sb) sd 0x8000000000000000
      ∧ SetsSLate s (.rem sd sa sb) sd 0
      ∧ SetsSLate s (.divu sd sa sb) sd (.ofNat 64 (n.toNat / d.toNat))
      ∧ SetsSLate s (.remu sd sa sb) sd (.ofNat 64 (n.toNat % d.toNat)))

/-- 06 R138.  x is sext(imm23). -/
def Obligations.ImmediateOpsUseTheExtendedImmediate : Prop :=
  ∀ (s : State) (sd sa : SR) (imm : BitVec 23) (count : BitVec 6),
    let a := s.srcS sa
    let x : W64 := .ofInt 64 imm.toInt
    SetsS s (.addi sd sa imm) sd (.ofInt 64 (a.toInt + imm.toInt))
    ∧ SetsS s (.andi sd sa imm) sd (a &&& x)
    ∧ SetsS s (.ori sd sa imm) sd (a ||| x)
    ∧ SetsS s (.xori sd sa imm) sd (a ^^^ x)
    ∧ SetsS s (.shli sd sa count) sd (.ofNat 64 (a.toNat * 2 ^ count.toNat))
    ∧ SetsS s (.shri sd sa count) sd (.ofNat 64 (a.toNat / 2 ^ count.toNat))
    ∧ SetsS s (.sari sd sa count) sd (.ofInt 64 (a.toInt / 2 ^ count.toNat))
    ∧ SetsS s (.slti sd sa imm) sd (if a.toInt < imm.toInt then 1 else 0)
    ∧ SetsS s (.sltui sd sa imm) sd (if a.toNat < x.toNat then 1 else 0)
    ∧ SetsS s (.li sd imm) sd x
    ∧ SetsS s (.lix sd sa imm) sd (.ofNat 64 (a.toNat * 2 ^ 23 + imm.toNat))

/-- 06 R139. -/
def Obligations.ConditionCodesCompareAsTheTableSays : Prop :=
  ∀ a b : W64,
    (condition 0 a b = true ↔ a = b)
    ∧ (condition 1 a b = true ↔ a ≠ b)
    ∧ (condition 2 a b = true ↔ a.toInt < b.toInt)
    ∧ (condition 3 a b = true ↔ a.toInt ≥ b.toInt)
    ∧ (condition 4 a b = true ↔ a.toNat < b.toNat)
    ∧ (condition 5 a b = true ↔ a.toNat ≥ b.toNat)
    ∧ (condition 6 a b = true ↔ a &&& b ≠ 0)
    ∧ (condition 7 a b = true ↔ a &&& b = 0)

/-- 06 R140 and R128. -/
def Obligations.PredicateOpsWriteOnlyThePredicateWindow : Prop :=
  ∀ (s : State) (sd sa sb : SR) (pd pa pb : PR) (cond : BitVec 3) (imm : BitVec 20) (op : BitVec 2)
    (mask : BitVec 16), pd ≠ 0 →
    let only := fun (w : BitVec 16) (v : Bool) =>
      ∀ n : Nat, n < 16 → w.getLsbD n = (if n = 0 then true else if n = pd.toNat then v else s.snap.pwin.getLsbD n)
    (∃ w, SetsPwin s (.pset pd sa sb cond) w ∧ only w (condition cond (s.srcS sa) (s.srcS sb)))
    ∧ (∃ w, SetsPwin s (.pseti pd sa cond imm) w ∧ only w (condition cond (s.srcS sa) (.ofInt 64 imm.toInt)))
    ∧ (∃ w, SetsPwin s (.plog pd pa pb op) w ∧ only w
        (match op.toNat with
          | 0 => s.srcP pa && s.srcP pb
          | 1 => s.srcP pa || s.srcP pb
          | 2 => s.srcP pa != s.srcP pb
          | _ => s.srcP pa && !s.srcP pb))
    ∧ SetsPwin s (.pwr sa mask) (((s.snap.pwin &&& ~~~mask) ||| ((s.srcS sa).setWidth 16 &&& mask)) ||| 1)
    ∧ SetsS s (.prd sd) sd ((s.snap.pwin ||| 1).setWidth 64)

/-- 06 R164.  Selector j is bits [8j + 7 : 8j] of the pattern. -/
def Obligations.BitNetworkMovesTheSelectedBits : Prop :=
  ∀ (s : State) (sd sa sb : SR) (n : BitVec 3),
    let p := s.curCore.bnet n.toNat
    let source : BitVec 128 := s.srcS sb ++ s.srcS sa
    (∃ x : W64, SetsS s (.bnMap sd sa sb n) sd x ∧ ∀ j : Nat, j < 64 →
      x.getLsbD j = (let t := p.toNat / 2 ^ (8 * j) % 256
        if t < 128 then source.getLsbD t else decide (t % 2 = 1)))
    ∧ (∃ x : W64, SetsS s (.bnMapx sd sa sb n) sd x ∧ ∀ j : Nat, j < 64 →
      x.getLsbD j = (let t := p.toNat / 2 ^ (8 * j) % 256
        if t < 128 then source.getLsbD t else (s.srcS sd).getLsbD j))

/-- 06 R165. -/
def Obligations.BitNetworkLoadReadsItsPattern : Prop :=
  ∀ (s : State) (sa : SR) (n : BitVec 3),
    let va := (s.srcS sa).toNat
    let pa := spBase s.cur + va
    va % 64 = 0 → va + 64 ≤ 0x200000 → poisoned s.errs pa 64 = none → s.gatedAt pa = false →
    ∃ t, exec (.bnLd sa n) s = .next t ∧ OnlyCore s.cur s t
      ∧ (∀ j : Nat, j < 64 →
          ((t.core s.cur).bnet n.toNat).toNat / 2 ^ (8 * j) % 256 = (s.seen .cp (pa + j)).toNat)
      ∧ (∀ m : BitVec 3, m ≠ n → (t.core s.cur).bnet m.toNat = (s.core s.cur).bnet m.toNat)
      ∧ t.core s.cur = { (s.core s.cur).awaits s.iss.seq [.bn n.toNat] true with bn := (t.core s.cur).bn }

/-- 06 R141 and 02 R34: the value is the one that bundle order defines, and it is there at issue, because a bundle
waits for the earlier stores that its loads from the own scratchpad must see.  That an error under a store that has
not performed is not read: log 14, DEDUCED.  What CP accesses see where an engine has written: log 125, DEDUCED. -/
def Obligations.LoadsFromTheOwnScratchpadExtendTheirBytes : Prop :=
  ∀ (s : State) (sd sa : SR) (off : BitVec 23) (pa : Nat),
    let va : W64 := .ofInt 64 ((s.srcS sa).toInt + off.toInt)
    let own := fun n : Nat => s.reaches va n .read pa ∧ inOwn s.cur pa = true
      ∧ s.loadPoison s.cur pa n = none
      ∧ s.gatedAt pa = false
    let x := fun n : Nat => leNat (s.bytesSeen .cp pa n)
    let one := fun (i : Instr) (v : W64) =>
      LoadsNow s i (if sd = 0 then [] else [.s sd.toNat]) (fun k k' => ScalarIs k k' sd v)
    (own 1 → one (.ldB sd sa off) ((BitVec.ofNat 8 (x 1)).signExtend 64)
      ∧ one (.ldBu sd sa off) (.ofNat 64 (x 1)))
    ∧ (own 2 → one (.ldH sd sa off) ((BitVec.ofNat 16 (x 2)).signExtend 64)
      ∧ one (.ldHu sd sa off) (.ofNat 64 (x 2)))
    ∧ (own 4 → one (.ldW sd sa off) ((BitVec.ofNat 32 (x 4)).signExtend 64)
      ∧ one (.ldWu sd sa off) (.ofNat 64 (x 4)))
    ∧ (own 8 → one (.ldD sd sa off) (.ofNat 64 (x 8)))
    ∧ (own 16 → sd.getLsbD 0 = false →
      LoadsNow s (.ldQ sd sa off) (if sd = 0 then [.s 1] else [.s sd.toNat, .s (sd.toNat + 1)])
        (fun k k' => PairIs k k' sd (.ofNat 64 (x 16)) (.ofNat 64 (x 16 / 2 ^ 64))))

/-- 06 R141, R130, R132: the value comes at LOAD_RETURN.  An uncorrectable error is met at issue (02 R29; log 14,
DEDUCED). -/
def Obligations.LoadsFromElsewhereStayOutstanding : Prop :=
  ∀ (s : State) (sd sa : SR) (off : BitVec 23) (pa : Nat),
    let va : W64 := .ofInt 64 ((s.srcS sa).toInt + off.toInt)
    let away := fun n : Nat => s.reaches va n .read pa ∧ inOwn s.cur pa = false
      ∧ s.loadPoison s.cur pa n = none ∧ ∀ c, s.region pa = .peer c → s.routed c = true
    let one := fun (i : Instr) (n : Nat) (sgn : Bool) => LoadsLater s i va.toNat pa n sgn [.s sd.toNat]
    (away 1 → one (.ldB sd sa off) 1 true ∧ one (.ldBu sd sa off) 1 false)
    ∧ (away 2 → one (.ldH sd sa off) 2 true ∧ one (.ldHu sd sa off) 2 false)
    ∧ (away 4 → one (.ldW sd sa off) 4 true ∧ one (.ldWu sd sa off) 4 false)
    ∧ (away 8 → one (.ldD sd sa off) 8 false)
    ∧ (away 16 → LoadsLater s (.ldQ sd sa off) va.toNat pa 16 false [.s sd.toNat, .s (sd.toNat + 1)])

/-- 06 R130 and R141, 02 R37, R44, 19 R392, R398.  When an error is found and taken: log 14, DEDUCED.  The checkpoint of an
open segment that the load issued before takes its registers (08 R201, R209): log 118, DEDUCED.  What a line of a peer
window holds when it is filled: log 9, DESIGN CHOICE.  Cycles: log 6, DESIGN CHOICE; views: log 125, DEDUCED. -/
def Obligations.ReturningLoadsWriteTheirRegisters : Prop :=
  ∀ (s : State) (c k : Nat) (o : Out), (s.core c).outs[k]? = some o →
    let due := (s.core c).live = false ∨ ∀ x, o.ready = some x → x ≤ (s.core c).frontCycle
    (¬due → exec (.loadReturn c k) s = .next s)
    ∧ (due → o.kind = .done →
      ∃ t, exec (.loadReturn c k) s = .next t
        ∧ t = { s with cores := t.cores, drawerReqs := t.drawerReqs } ∧ SameBytes s t
        ∧ (∀ d, d ≠ c → t.core d = s.core d)
        ∧ t.core c = { s.core c with outs := (s.core c).outs.filter (fun x => x.id != o.id) })
    ∧ (due → ∀ (va pa n : Nat) (sgn : Bool), o.kind = .load va pa n sgn →
        (∃ sd : SR, (o.dst = [.s sd.toNat] ∧ n ≤ 8)
          ∨ (o.dst = [.s sd.toNat, .s (sd.toNat + 1)] ∧ n = 16 ∧ sd.toNat % 2 = 0)) →
        (s.inOrder c o.id pa n = false → exec (.loadReturn c k) s = .next s)
        ∧ (s.inOrder c o.id pa n = true →
          (∀ e, s.readPoison c o.id pa n = some e → s.loadReady c o pa = true → MeetsError s c k o e)
          ∧ (s.readPoison c o.id pa n = none → s.gatedAt pa = false →
            let returns := fun (bs : List Byte) (rest : State → Prop) =>
              LoadReturns s c k o n sgn ((s.core c).laidValue o.id pa bs) rest
            let arrived := ∀ r ∈ s.drawerReqs, r.core = c → r.unit = 0 → r.id = o.id →
              ∃ f, r.frame = some f ∧ r.answered = true ∧ 48 * f + 404 ≤ s.linkCycle
            ((∃ i, s.region pa = .shelf i) ∨ (∃ i, s.region pa = .scratch i) ∨ (∃ i, s.region pa = .drawer i) ∧ arrived →
              returns (s.bytesSeen .cp pa n) (KeepsFabric s))
            ∧ (s.region pa = .config → returns (leBytes n (s.cfgRead pa n)) (KeepsFabric s))
            ∧ (∀ q, s.region pa = .peer q →
              (∀ f, s.fabricLine (isleOf c) pa = some f → returns ((f.bytes.drop (pa % 64)).take n) (KeepsFabric s))
              ∧ (s.fabricLine (isleOf c) pa = none →
                ((∀ f, o.asked = some f → s.linkCycle < 48 * f + 540) → exec (.loadReturn c k) s = .next s)
                ∧ ∀ f, o.asked = some f → 48 * f + 540 ≤ s.linkCycle →
                  let l := s.newLine (isleOf c) (pa / 64)
                  returns ((l.bytes.drop (pa % 64)).take n) fun t =>
                    t.fabric = s.fabric ++ [l] ∧ t.freeNo = s.freeNo + 1)))))

/-- 06 R141, R131 and 02 R34.  The stored bytes are those of the source, lowest first.  Cycles: log 6, DESIGN CHOICE;
views: log 125, DEDUCED. -/
def Obligations.StoresToTheOwnScratchpadWriteTheirBytes : Prop :=
  (∀ (s : State) (ss sa : SR) (off : BitVec 23) (pa : Nat),
    let va : W64 := .ofInt 64 ((s.srcS sa).toInt + off.toInt)
    let own := fun n : Nat => s.storeReaches va n pa ∧ inOwn s.cur pa = true
    let x := s.srcS ss
    let low := fun n : Nat => (List.range n).map fun i => BitVec.ofNat 8 (x.toNat / 2 ^ (8 * i))
    (own 1 → StoresOwn s (.stB ss sa off) va.toNat pa (low 1) [])
    ∧ (own 2 → StoresOwn s (.stH ss sa off) va.toNat pa (low 2) [])
    ∧ (own 4 → StoresOwn s (.stW ss sa off) va.toNat pa (low 4) [])
    ∧ (own 8 → StoresOwn s (.stD ss sa off) va.toNat pa (low 8) [])
    ∧ (own 16 → ss.getLsbD 0 = false → StoresOwn s (.stQ ss sa off) va.toNat pa
        (low 8 ++ (List.range 8).map fun i => BitVec.ofNat 8 ((s.srcS (ss + 1)).toNat / 2 ^ (8 * i))) []))
  ∧ (∀ (s : State) (c k : Nat) (x : Sto), (s.core c).stores[k]? = some x → x.performed = false → x.lanes = [] →
      inOwn c x.pa = true → ((s.core c).live = false ∨ ∀ n, x.ready = some n → n ≤ (s.core c).frontCycle) →
      (∀ y ∈ (s.core c).stores, y.id < x.id → y.performed = false →
        inOwn c y.pa = false ∧ meets x.pa x.bytes.length y.pa y.bytes.length = false) →
      (∀ o ∈ (s.core c).outs, ∀ q, o.kind.range = some q → o.id < x.id →
        inOwn c q.1 = false ∧ meets x.pa x.bytes.length q.1 q.2 = false) →
      (∀ o ∈ (s.core c).outs, o.seq = x.seq → ∀ va pa n sgn, o.kind ≠ .load va pa n sgn) →
      ∃ t, exec (.storePerform c k) s = .next t
        ∧ t = { s with cores := t.cores, mem := t.mem, errs := t.errs, kept := t.kept }
        ∧ HoldsBytes t x.pa x.bytes ∧ SameBytesBut s t x.pa x.bytes.length
        ∧ KeptAfter s t (.cp c) x.pa x.bytes.length
        ∧ (∀ d, d ≠ c → t.core d = s.core d)
        ∧ t.core c = { s.core c with stores := (s.core c).stores.eraseIdx k })

/-- 06 R131, R132, 02 R31 and 08 R200.  That a store in the segment store buffer is not in class S: log 96, DEDUCED.  That
a store which performs clears the errors of its bytes (the clause on t.errs): log 14, DEDUCED.  Cycles: log 6, DESIGN CHOICE;
views: log 125, DEDUCED. -/
def Obligations.StoresElsewherePerformLater : Prop :=
  (∀ (s : State) (ss sa : SR) (off : BitVec 23) (pa : Nat),
    let va : W64 := .ofInt 64 ((s.srcS sa).toInt + off.toInt)
    let away := fun n : Nat => s.storeReaches va n pa ∧ inOwn s.cur pa = false
    (away 1 → StoresLater s (.stB ss sa off) va.toNat pa (leBytes 1 (s.srcS ss).toNat))
    ∧ (away 2 → StoresLater s (.stH ss sa off) va.toNat pa (leBytes 2 (s.srcS ss).toNat))
    ∧ (away 4 → StoresLater s (.stW ss sa off) va.toNat pa (leBytes 4 (s.srcS ss).toNat))
    ∧ (away 8 → StoresLater s (.stD ss sa off) va.toNat pa (leBytes 8 (s.srcS ss).toNat))
    ∧ (away 16 → ss.getLsbD 0 = false → StoresLater s (.stQ ss sa off) va.toNat pa
        (leBytes 8 (s.srcS ss).toNat ++ leBytes 8 (s.srcS (ss + 1)).toNat)))
  ∧ (∀ (s : State) (c k : Nat) (x : Sto), (s.core c).stores[k]? = some x →
      let due := (s.core c).live = false ∨ ∀ n, x.ready = some n → n ≤ (s.core c).frontCycle
      (x.performed = true →
        ∃ t, exec (.storePerform c k) s = .next t ∧ OnlyCore c s t
          ∧ t.core c = { s.core c with stores := (s.core c).stores.eraseIdx k })
      ∧ (¬due → x.performed = false → exec (.storePerform c k) s = .next s)
      ∧ (due → x.performed = false → x.lanes = [] → s.storeReady c x = true →
          s.region x.pa ≠ .config →
        ∃ t, exec (.storePerform c k) s = .next t
          ∧ t = { s with cores := t.cores, mem := t.mem, errs := t.errs, kept := t.kept }
          ∧ KeptAfter s t (.cp c) x.pa x.bytes.length
          ∧ HoldsBytes t x.pa x.bytes ∧ SameBytesBut s t x.pa x.bytes.length
          ∧ t.errs = s.errs.filter (fun e => !(x.pa ≤ e && e < x.pa + x.bytes.length))
          ∧ (∀ d, d ≠ c → t.core d = s.core d)
          ∧ t.core c = { s.core c with stores := (s.core c).stores.eraseIdx k })
      ∧ (due → x.performed = false → x.lanes = [] → s.storeReady c x = true → s.region x.pa = .config →
          exec (.storePerform c k) s = .next (State.cfgStore
            (s.setCore c { s.core c with stores := (s.core c).stores.eraseIdx k }) x.pa x.bytes)))

/-- 02 R22.  An aligned scalar load at such an address enters the handler with XLATE: the statement
MisalignedAndUnmappedAccessesTrap. -/
def Obligations.AccessesWithHighAddressBitsTakeXlate : Prop :=
  ∀ (s : State) (c x : Nat) (p : Path) (va : W64) (acc : Acc), va.toNat / 2 ^ 57 ≠ 0 →
    (∃ t, s.resolve c p va acc = .error t ∧ t.code = .xlate ∧ t.addr = va)
    ∧ (∃ t, s.resolveRoot x va acc = .error t ∧ t.code = .xlate ∧ t.addr = va)

/-- 02 R22, R23, R29, 06 R141 and 08 R183.  The op of width 2^k is the one of the k-th row.  That a load finds an
uncorrectable error as it issues, wherever its bytes lie, and none under an earlier store of its core that has not
performed (loadPoison): log 14, DEDUCED. -/
def Obligations.MisalignedAndUnmappedAccessesTrap : Prop :=
  ∀ (s : State) (r sa : SR) (off : BitVec 23), (s.core s.cur).handles →
    let va : W64 := .ofInt 64 ((s.srcS sa).toInt + off.toInt)
    let row := fun (k : Nat) (i : Instr) =>
      (va.toNat % 2 ^ k ≠ 0 → ∃ t, exec i s = .next t
        ∧ EntersHandler s t s.cur .align (.ofNat 64 k) va s.iss.pcb s.iss.slot)
      ∧ (va.toNat % 2 ^ k = 0 → va.toNat / 2 ^ 57 ≠ 0 → ∃ t, exec i s = .next t
        ∧ EntersHandler s t s.cur .xlate (.ofNat 64 (7 + 8 * 3)) va s.iss.pcb s.iss.slot)
      ∧ (va.toNat % 2 ^ k = 0 →
          (0x200000 ≤ va.toNat ∧ va.toNat < 0x1000000 ∨ 0x2000000 ≤ va.toNat ∧ va.toNat < 0x40000000) →
        ∃ t, exec i s = .next t
          ∧ EntersHandler s t s.cur .xlate (.ofNat 64 (7 + 8 * 4)) va s.iss.pcb s.iss.slot)
    let bad := fun (k : Nat) (i : Instr) => ∀ pa e : Nat, (s.core s.cur).seg = false → s.reaches va (2 ^ k) .read pa →
      (∀ c, s.region pa = .peer c → s.routed c = true) → s.loadPoison s.cur pa (2 ^ k) = some e →
      ∃ t, exec i s = .next t ∧ EntersHandler s t s.cur .uncorr 0 (.ofNat 64 e) s.iss.pcb s.iss.slot
    bad 0 (.ldB r sa off) ∧ bad 0 (.ldBu r sa off) ∧ bad 1 (.ldH r sa off) ∧ bad 1 (.ldHu r sa off)
    ∧ bad 2 (.ldW r sa off) ∧ bad 2 (.ldWu r sa off) ∧ bad 3 (.ldD r sa off) ∧ bad 4 (.ldQ r sa off)
    ∧ row 0 (.ldB r sa off) ∧ row 0 (.ldBu r sa off) ∧ row 0 (.stB r sa off)
    ∧ row 1 (.ldH r sa off) ∧ row 1 (.ldHu r sa off) ∧ row 1 (.stH r sa off)
    ∧ row 2 (.ldW r sa off) ∧ row 2 (.ldWu r sa off) ∧ row 2 (.stW r sa off)
    ∧ row 3 (.ldD r sa off) ∧ row 3 (.stD r sa off)
    ∧ row 4 (.ldQ r sa off) ∧ row 4 (.stQ r sa off)

/-- 06 R142, R143. -/
def Obligations.SpillSlotsReadBack : Prop :=
  ∀ (s : State) (r : SR) (slot : BitVec 10),
    SetsS s (.splLd r slot) r ((s.core s.cur).spillAt slot.toNat)
    ∧ ∃ t, exec (.splSt r slot) s = .next t ∧ OnlyCore s.cur s t
      ∧ (∀ n : BitVec 10, (t.core s.cur).spillAt n.toNat =
          if n = slot then s.srcS r else (s.core s.cur).spillAt n.toNat)
      ∧ t.core s.cur = { s.core s.cur with spill := (t.core s.cur).spill }

/-- 06 R144 to R148.  PC_b is the address of the bundle in hand, npc that of the next bundle.  TRAP_SLOT of the CODE_RANGE of
a target out of range is the slot of the op (log 113, DEDUCED). -/
def Obligations.TransfersOfControlReachTheirTargets : Prop :=
  ∀ (s : State) (sd sa cnt n1 : SR) (stages : BitVec 4) (o35 : BitVec 35) (o25 : BitVec 25),
    let t35 : Int := s.iss.pcb + 2 * o35.toInt
    let t25 : Int := s.iss.pcb + 2 * o25.toInt
    let a := s.srcS sa
    let c := s.srcS cnt
    let shifted : BitVec 16 := ((s.snap.pwin <<< 1) &&& 0xFFFC) ||| (if c = 0 then 0 else 2) ||| 1
    let pwin' := if stages = 0 then (s.core s.cur).pwin else shifted
    let taken : Prop := if stages = 0 then c ≠ 0 else ∃ n : Nat, 1 ≤ n ∧ n ≤ stages.toNat ∧ shifted.getLsbD n = true
    let counted := fun k k' : Core => k'.pwin = pwin' ∧ if c = 0 then k'.s = k.s else ScalarIs k k' cnt (c - 1)
    (0 ≤ t35 → t35 ≤ 0xFFFFFFFE →
      Transfers s (.br o35) t35.toNat NoRegs
      ∧ Transfers s (.call o35) t35.toNat
          (fun k k' => k'.pwin = k.pwin ∧ ScalarIs k k' 63 (.ofNat 64 s.iss.npc)))
    ∧ (a.getLsbD 0 = false → a.toNat < 2 ^ 32 →
      Transfers s (.ret sa) a.toNat NoRegs
      ∧ Transfers s (.jr sd sa) a.toNat (fun k k' => k'.pwin = k.pwin ∧ ScalarIs k k' sd (.ofNat 64 s.iss.npc)))
    ∧ (taken → 0 ≤ t25 → t25 ≤ 0xFFFFFFFE → Transfers s (.brLoop cnt stages o25) t25.toNat counted)
    ∧ (¬taken → ∃ t, exec (.brLoop cnt stages o25) s = .next t ∧ OnlyCore s.cur s t
        ∧ counted (s.core s.cur) (t.core s.cur)
        ∧ t.core s.cur = { s.core s.cur with s := (t.core s.cur).s, pwin := (t.core s.cur).pwin })
    ∧ ((s.core s.cur).handles →
        let out := fun t : Int => t < 0 ∨ 0xFFFFFFFE < t
        let range := fun i : Instr => TrapsPrecisely s i .codeRange 0x10000 0
        (out t35 → range (.br o35) ∧ range (.call o35))
        ∧ (out t25 → range (.lbPin n1 o25) ∧ (c ≠ 0 → range (.brLoop cnt 0 o25)))
        ∧ (a.getLsbD 0 = true →
            TrapsPrecisely s (.ret sa) .align 1 a ∧ TrapsPrecisely s (.jr sd sa) .align 1 a)
        ∧ (a.getLsbD 0 = false → 2 ^ 32 ≤ a.toNat → range (.ret sa) ∧ range (.jr sd sa)))

/-- 06 R149, R152, R153. -/
def Obligations.RepeatsAndTheLoopBufferAreSet : Prop :=
  (∀ (s : State) (cnt n1 : SR) (b1 : BitVec 4) (off : BitVec 25),
    let r := if cnt = 0 then off.toNat else (s.srcS cnt).toNat
    let target : Int := s.iss.pcb + 2 * off.toInt
    (∃ t, exec (.rep cnt b1 off) s = .next t ∧ OnlyCore s.cur s t
      ∧ t.core s.cur =
        if r = 0 then { s.core s.cur with pc := (s.core s.cur).skipBundles (b1.toNat + 1) s.iss.npc }
        else { s.core s.cur with rep := some { start := s.iss.npc, len := b1.toNat + 1, left := r, pos := 0 } })
    ∧ (0 ≤ target → target ≤ 0xFFFFFFFE → ∃ t, exec (.lbPin n1 off) s = .next t ∧ OnlyCore s.cur s t
      ∧ t.core s.cur = { s.core s.cur with loopBuf := {
          pinned := (s.core s.cur).bundleRun (n1.toNat + 1) target.toNat, captured := [] } })
    ∧ ∃ t, exec .lbFree s = .next t ∧ OnlyCore s.cur s t
      ∧ t.core s.cur = { s.core s.cur with loopBuf := { pinned := [], captured := [] } })
  ∧ (∀ (k : Core) (next : Nat) (r : Rep), k.rep = some r →
      let k' := k.repAdvance next
      (r.pos + 1 < r.len → k'.pc = next ∧ k'.rep = some { r with pos := r.pos + 1 })
      ∧ (r.len ≤ r.pos + 1 → 1 < r.left →
          k'.pc = r.start ∧ k'.rep = some { r with pos := 0, left := r.left - 1 })
      ∧ (r.len ≤ r.pos + 1 → r.left ≤ 1 → k'.pc = next ∧ k'.rep = none))

/-- 08 R183, R200, R201.  Bit 0 of the pc is 0 (05 R101), also when software has put an odd value into TRAP_ENTRY (log 97,
DEDUCED). -/
def Obligations.TrapEntrySavesTheTrapAndEntersTheHandler : Prop :=
  ∀ (s : State) (c : Nat) (t : Trp) (pc slot : Nat),
    ((s.core c).handles →
      EntersHandler s (s.takeTrap c t pc slot) c t.code (.ofNat 64 t.info) t.addr pc slot)
    ∧ ((s.core c).hs = true ∨ (s.core c).trapEntry = 0xFFFFFFFF →
      s.takeTrap c t pc slot = s.contextFault c t.code pc)

/-- 08 R183, R184 and R188: the word at 0x18 of the CCB. -/
def Obligations.TrapsWithNoHandlerFaultTheContext : Prop :=
  ∀ (s : State) (imm : BitVec 23) (x : Ctx),
    let k := s.core s.cur
    (k.hs = true ∨ k.trapEntry = 0xFFFFFFFF) → s.ctx k.ctx = some x → s.gatedAt (k.ccb + 0x18) = false →
    ∃ t, exec (.trap imm) s = .next t
      ∧ t.core s.cur = { k with run := .halted, preReq := false }
      ∧ (∀ d, d ≠ s.cur → t.core d =
          if (s.core d).run = .running ∧ (s.core d).ctx = k.ctx then { s.core d with preReq := true }
          else s.core d)
      ∧ (∃ y, t.ctx k.ctx = some y ∧ ∃ why, y.stopping = some why ∧ 2 ≤ why)
      ∧ (let w := t.readW (k.ccb + 0x18)
         fld w 8 2 = 2 ∧ fld w 16 8 = TrapCode.trap.num ∧ fld w 24 8 = (coreId s.cur).toNat
          ∧ fld w 32 32 = k.pc % 2 ^ 32)
      ∧ SameBytesBut s t (k.ccb + 0x18) 8

/-- 08 R204, R201 and R185.  That the present hold stays when hidden trap state holds none is the model's choice (log 29,
DEDUCED), and so is bit 0 of an odd TRAP_PC (log 97, DEDUCED). -/
def Obligations.RettRestoresWhatTheTrapSaved : Prop :=
  ∀ s : State, (s.core s.cur).hs = true →
    ∃ t, exec .rett s = .next t ∧ OnlyCore s.cur s t
      ∧ (let k := s.core s.cur
         let e := t.core s.cur
         e = { k with
            rep := k.hidRep, hold := if k.hidHold.isSome then k.hidHold else k.hold
            hidRep := none, hidHold := none, hidSeg := false
            efaults := [], pc := evenPc k.trapPc
            segment := e.segment, status := e.status }
          ∧ e.hs = false ∧ (∀ b, b ≠ 5 → b ≠ 6 → e.statusBit b = k.statusBit b)
          ∧ (k.hidSeg = false → e.seg = k.seg ∧ e.segment = k.segment)
          ∧ (k.hidSeg = true → e.seg = true ∧ e.segment.mode = true ∧ e.segment.entryPc = evenPc k.trapPc
              ∧ e.segment.rep = k.hidRep ∧ e.segment.shadow = k.takeShadow))

/-- 08 R186, R204, R205. -/
def Obligations.PrivilegedWritesTrapOutsideHandlerState : Prop :=
  ∀ (s : State) (sa : SR) (csr : BitVec 12), (s.core s.cur).handles →
    TrapsPrecisely s .rett .priv 0 0
    ∧ TrapsPrecisely s (.tlbInv sa) .priv 0x18 0
    ∧ ((0x010 ≤ csr.toNat ∧ csr.toNat ≤ 0x013) ∨ csr = 0x015 ∨ csr = 0x018
        ∨ (0x040 ≤ csr.toNat ∧ csr.toNat ≤ 0x053) →
      TrapsPrecisely s (.sysWr sa csr) .priv (csr.setWidth 64) 0)

/-- 08 R205 and R186.  The link registers and the context registers are the rest of `State.csr`. -/
def Obligations.SysRdReadsTheNamedRegister : Prop :=
  ∀ (s : State) (sd : SR),
    let k := s.core s.cur
    let reads := fun (n : BitVec 12) (x : W64) => SetsS s (.sysRd sd n) sd x
    (∀ n : BitVec 12, ∃ x, reads n x)
    ∧ (s.cur < 256 → reads 0x000 (.ofNat 64 s.cur))
    ∧ reads 0x001 (.ofNat 64 k.ctx) ∧ reads 0x002 (.ofNat 64 k.ccb)
    ∧ reads 0x010 (k.trapCode.setWidth 64) ∧ reads 0x011 (k.trapPc.setWidth 64) ∧ reads 0x012 k.trapInfo
    ∧ reads 0x013 (k.trapSlot.setWidth 64) ∧ reads 0x014 (k.trapEntry.setWidth 64) ∧ reads 0x015 k.trapAddr
    ∧ reads 0x018 0
    ∧ reads 0x020 (k.brkPc.setWidth 64) ∧ reads 0x021 (k.brkMask.setWidth 64)
    ∧ reads 0x022 (k.brkCount.setWidth 64) ∧ reads 0x031 (k.rwCount.setWidth 64)
    ∧ reads 0x038 (s.power.scale.setWidth 64) ∧ reads 0x058 s.cycle ∧ reads 0x059 s.hbCount
    ∧ reads 0x060 (k.status.setWidth 64)
    ∧ reads 0x080 k.stallLoad ∧ reads 0x081 k.stallSkew ∧ reads 0x082 k.stallSync ∧ reads 0x083 k.bubbleBr
    ∧ reads 0x102 (k.stallLimit.setWidth 64)

/-- 08 R205, R186, R187, R196 and 00 R4. -/
def Obligations.SysWrWritesTheFieldsOfTheRegister : Prop :=
  ∀ (s : State) (sa : SR),
    let k := s.core s.cur
    let x := s.srcS sa
    let becomes := fun (n : BitVec 12) (k' : Core) =>
      ∃ t, exec (.sysWr sa n) s = .next t ∧ OnlyCore s.cur s t ∧ t.core s.cur = k'
    let stores := fun (n : BitVec 12) (a len : Nat) =>
      ∃ t, exec (.sysWr sa n) s = .next t ∧ t = { s with mem := t.mem, errs := t.errs, kept := t.kept }
        ∧ HoldsBytes t a (leBytes len x.toNat) ∧ SameBytesBut s t a len ∧ KeptAfter s t .home a len
    (k.hs = true →
      becomes 0x010 { k with trapCode := x.setWidth 8 } ∧ becomes 0x011 { k with trapPc := x.setWidth 32 }
      ∧ becomes 0x012 { k with trapInfo := x } ∧ becomes 0x013 { k with trapSlot := x.setWidth 4 }
      ∧ becomes 0x015 { k with trapAddr := x }
      ∧ ∃ t, exec (.tlbInv sa) s = .next t ∧ t = { s with cores := t.cores } ∧ SameBytes s t
        ∧ ∀ d, let keeps := fun e : TlbEntry => !(e.ctx == fld x 4 4 &&
                  (if fld x 0 3 = 1 ∧ fld x 3 1 = 0 ∧ fld x 8 8 = 0 ∧ fld x 57 7 = 0 then
                    decide (e.base ≤ fld x 16 41 * 65536 ∧ fld x 16 41 * 65536 < e.base + e.size) else true))
            t.core d = { s.core d with
              tlb := (s.core d).tlb.filter keeps, tlbMx := (s.core d).tlbMx.filter keeps
              tlbCy := (s.core d).tlbCy.filter keeps, tlbGa := (s.core d).tlbGa.filter keeps
              tlbLk := (s.core d).tlbLk.filter keeps })
    -- ENERGY_TABLE: format f's MAC and ROW; 1, 6 and 7 are those of 2, and 3 those of 4
    ∧ (k.hs = true → ∀ q ∈ [(0, 0), (1, 2), (2, 2), (3, 4), (4, 4), (5, 5), (6, 2), (7, 2), (8, 8), (9, 9)], ∀ row, row < 2 →
        stores (.ofNat 12 (0x40 + 2 * q.1 + row)) (k.ccb + 0x40 + 4 * q.2 + 2 * row) 2)
    ∧ becomes 0x014 { k with trapEntry := x.setWidth 32 }
    ∧ becomes 0x020 { k with brkPc := x.setWidth 32 } ∧ becomes 0x021 { k with brkMask := x.setWidth 9 }
    ∧ becomes 0x022 { k with brkCount := x.setWidth 32 } ∧ becomes 0x102 { k with stallLimit := x.setWidth 16 }
    ∧ becomes 0x060 { k with status := k.status &&& ~~~(x.setWidth 7 &&& 0x1F) }
    ∧ (∀ n : BitVec 12, (n ∈ [0x000, 0x001, 0x002, 0x031, 0x038, 0x039, 0x058, 0x059, 0x080, 0x081, 0x082, 0x083]
        ∨ (0x100 ≤ n.toNat ∧ n.toNat < 0x200 ∧ n ≠ 0x102 ∧ csrListed n.toNat = true)) → becomes n k)
    ∧ stores 0x070 (k.ccb + 0x68) 4 ∧ stores 0x071 (k.ccb + 0x6C) 2

/-- 08 R203, R206, R207, R208.  Step 3 of R206 is said through nd.done, whose own effect is NodeOpsReportTheirGraphEffect;
a node that has executed nd.done has made it (log 102, DEDUCED). -/
def Obligations.RequestedTrapsYieldCompareAndHaltEndAsTheSpecSays : Prop :=
  ∀ (s : State) (sa sb : SR) (va vb : VR) (imm : BitVec 23),
    ((s.core s.cur).handles →
      (∃ t, exec (.trap imm) s = .next t
        ∧ EntersHandler s t s.cur .trap (.ofNat 64 imm.toNat) 0 (s.core s.cur).pc s.iss.slot)
      ∧ ∃ t, exec (.brk imm) s = .next t
        ∧ EntersHandler s t s.cur .brk (.ofNat 64 imm.toNat) 0 (s.core s.cur).pc s.iss.slot) ∧
    (∃ t, exec .yield s = .next t ∧ OnlyCore s.cur s t
      ∧ t.core s.cur = if (s.core s.cur).preReq then { s.core s.cur with run := .halted, preReq := false }
          else s.core s.cur)
    ∧ (s.srcS sa = s.srcS sb → exec (.cmpt sa sb) s = .next s)
    ∧ ((∀ l, l < 128 → lane (s.srcV va) l = lane (s.srcV vb) l) → exec (.cmptV va vb) s = .next s)
    ∧ ((s.core s.cur).handles →
        (s.srcS sa ≠ s.srcS sb → TrapsPrecisely s (.cmpt sa sb) .cmpt 0 0)
        ∧ ∀ l : Nat, l < 128 → lane (s.srcV va) l ≠ lane (s.srcV vb) l →
            (∀ j, j < l → lane (s.srcV va) j = lane (s.srcV vb) j) →
            TrapsPrecisely s (.cmptV va vb) .cmpt (.ofNat 64 l) 0)
    ∧ ∃ t, exec .halt s = .next t
        ∧ (let e := t.core s.cur
           e.run = .free ∧ e.hold = none ∧ e.rep = none ∧ e.preReq = false ∧ e.seg = false ∧ e.segment = Segment.reset
            ∧ e.loopBuf = { pinned := [], captured := [] } ∧ e.recvs = [])
        ∧ ((s.core s.cur).ndDone = true → t.pool = s.pool
            ∧ ((∀ n, Tab.get none (s.core s.cur).clBind n = none) → SameBytes s t))
        ∧ ((s.core s.cur).ndDone = false → ∀ u, exec (.ndDone 0 0) s = .next u → t.pool = u.pool
            ∧ ((∀ n, Tab.get none (u.core s.cur).clBind n = none) → SameBytes u t ∧ t.errs = u.errs))

/-- 16 R339, 17 R378, R379.  `result` is the table of R339 over the w-bit values, with cas as op 10.  When UNCORR is found
and taken (02 R29): log 14, DEDUCED.  The checkpoint of an open segment that the atomic issued before takes sd (08 R201):
log 118, DEDUCED. -/
def Obligations.AtomicsReplaceOldByTheCombinedValue : Prop :=
  ∀ (s : State) (width : BitVec 2) (op : BitVec 4), width.toNat ≤ 1 → op.toNat ≤ 9 →
    let n := if width = 0 then 4 else 8
    let w := 8 * n
    let result := fun (code old a b : Nat) =>
      let x := a % 2 ^ w
      match code with
      | 0 => (old + x) % 2 ^ w
      | 1 => old &&& x
      | 2 => old ||| x
      | 3 => old ^^^ x
      | 4 => if (BitVec.ofNat w x).toInt < (BitVec.ofNat w old).toInt then x else old
      | 5 => if (BitVec.ofNat w old).toInt < (BitVec.ofNat w x).toInt then x else old
      | 6 => Nat.min old x
      | 7 => Nat.max old x
      | 8 => x
      | 9 => (f32Add 0 (.ofNat 32 old) (.ofNat 32 x) 0).toNat
      | _ => if old = x then b % 2 ^ w else old
    let extended := fun (code old : Nat) =>
      if code = 6 ∨ code = 7 ∨ code = 9 then BitVec.ofNat 64 old else (BitVec.ofNat w old).signExtend 64
    let out := fun (i : Instr) (sd : SR) (pa code : Nat) (a b : W64) =>
      ∃ t, exec i s = .next t ∧ OnlyCore s.cur s t
        ∧ t.core s.cur = { s.core s.cur with
            outs := (s.core s.cur).outs ++ [{
              id := (s.core s.cur).nextId, seq := s.iss.seq, kind := .atomic pa n code a b
              dst := if sd = 0 then [] else [.s sd.toNat], inL := true, pc := (s.core s.cur).issPc, asked := none
              since := (s.core s.cur).issCycle }]
            nextId := (s.core s.cur).nextId + 1, tlb := (t.core s.cur).tlb }
    (∀ (sd sa sb : SR) (pa : Nat),
      s.reaches (s.srcS sa) n .atomic pa → s.region pa ≠ .config → (∀ c, s.region pa ≠ .peer c) →
      (∀ e, s.loadPoison s.cur pa n = some e → (s.core s.cur).handles → (s.core s.cur).seg = false →
        TrapsPrecisely s (.amo sd sa sb width op) .uncorr 0 (.ofNat 64 e)
        ∧ TrapsPrecisely s (.cas sd sa sb width) .uncorr 0 (.ofNat 64 e))
      ∧ (s.loadPoison s.cur pa n = none →
        out (.amo sd sa sb width op) sd pa op.toNat (s.srcS sb) 0
        ∧ out (.cas sd sa sb width) sd pa 10 (s.srcS sb) (s.srcS (sb ||| 1))))
    ∧ ∀ (c k : Nat) (o : Out) (pa code : Nat) (a b : W64),
        (s.core c).outs[k]? = some o → o.kind = .atomic pa n code a b → code ≤ 10 →
        ((s.core c).live = false ∨ ∀ x, o.ready = some x → x ≤ (s.core c).frontCycle) →
        (s.inOrder c o.id pa n = false → exec (.loadReturn c k) s = .next s)
        ∧ (s.inOrder c o.id pa n = true →
          (∀ e, s.readPoison c o.id pa n = some e → MeetsError s c k o e)
          ∧ ∀ sd : SR, o.dst = (if sd = 0 then [] else [.s sd.toNat]) →
            s.readPoison c o.id pa n = none → s.gatedAt pa = false →
            let old := leNat (s.bytesAt pa n)
            ∃ t, exec (.loadReturn c k) s = .next t
              ∧ t = { s with cores := t.cores, mem := t.mem, errs := t.errs, kept := t.kept, drawerReqs := t.drawerReqs }
              ∧ KeptAfter s t .home pa n ∧ HoldsBytes t pa (leBytes n (result code old a.toNat b.toNat)) ∧ SameBytesBut s t pa n
              ∧ (∀ d, d ≠ c → t.core d = s.core d)
              ∧ ScalarIs (s.core c) (t.core c) sd (extended code old)
              ∧ Checkpoints (s.core c) (t.core c) o.seq
              ∧ t.core c = { s.core c with
                  s := (t.core c).s, segment := (t.core c).segment
                  outs := (s.core c).outs.filter (fun x => x.id != o.id) })

/-- 17 R380, R381. -/
def Obligations.TicketsCountByOne : Prop :=
  ∀ (s : State) (sd sa sb : SR) (n : BitVec 8),
    let da := s.srcS sa + n.setWidth 64
    let db := s.srcS sb + n.setWidth 64
    let good := fun d : W64 => d.toNat ≤ 255 ∧ (s.ticket d.toNat).valid = true
      ∧ (s.ticket d.toNat).ctx.toNat = (s.core s.cur).ctx
    let only := fun (x : Ticket) (t : State) => t = { s with cores := t.cores, tickets := t.tickets }
      ∧ t.ticket da.toNat = x ∧ ∀ j, j ≠ da.toNat → t.ticket j = s.ticket j
    let x := s.ticket da.toNat
    (good da →
      Answers s (.tkGet sd sa n) sd (x.next.setWidth 64) (only { x with next := x.next + 1 })
      ∧ Answers s (.tkNext sd sa n) sd ((x.serving + 1).setWidth 64) (only { x with serving := x.serving + 1 }))
    ∧ (good db → Holds s (.tkWait sa sb n) (s.srcS sa) (s.srcS sb) [] ((s.srcS sa).toNat % 2 ^ 32) db.toNat)
    ∧ ((s.core s.cur).handles →
        (¬good da → TrapsPrecisely s (.tkGet sd sa n) .prot 4 da ∧ TrapsPrecisely s (.tkNext sd sa n) .prot 4 da)
        ∧ (¬good db → TrapsPrecisely s (.tkWait sa sb n) .prot 4 db))

/-- 16 R343, 17 R370. -/
def Obligations.ReservationIsOneStepAtTheHome : Prop :=
  ∀ (s : State) (sd sa sb : SR) (d : Desc),
    s.names (s.srcS sa) .atomic d → d.inUse → (∀ i, i < 128 → s.gatedAt (d.pa + i) = false) →
    let n := (s.srcS sb).toNat
    (d.cap < d.lr + n → Answers s (.sqRes sd sa sb) sd 0xFFFFFFFFFFFFFFFF (NoRest s))
    ∧ (d.lr + n ≤ d.cap → Answers s (.sqRes sd sa sb) sd (.ofNat 64 d.lr) (Writes s (d.pa + 8) (leBytes 8 (d.lr + n))))

/-- 16 R344, 17 R371. -/
def Obligations.CommitClosesTheHoleAtTheCommittedLength : Prop :=
  ∀ (s : State) (sd sa sb : SR) (d : Desc),
    s.names (s.srcS sa) .atomic d → d.inUse → (∀ i, i < 128 → s.gatedAt (d.pa + i) = false) →
    let i := (s.srcS sb).toNat
    let set := d.lc ≤ i ∧ d.window.getLsbD (i - d.lc) = true
    ((s.core s.cur).handles →
      (d.lr ≤ i → TrapsPrecisely s (.sqCmt sd sa sb) .seqRange (.ofNat 64 i) d.va)
      ∧ (i < d.lr → (i < d.lc ∨ set) → TrapsPrecisely s (.sqCmt sd sa sb) .seqDouble (.ofNat 64 i) d.va))
    ∧ (i < d.lr → d.lc + 256 ≤ i → Answers s (.sqCmt sd sa sb) sd 1 (NoRest s))
    ∧ (i < d.lr → d.lc ≤ i → i < d.lc + 256 → ¬set →
      let w := d.window ||| (1#256 <<< (i - d.lc))
      ∃ k : Nat, k ≤ 256 ∧ (∀ j, j < k → w.getLsbD j = true) ∧ w.getLsbD k = false
        ∧ Answers s (.sqCmt sd sa sb) sd 0 (fun t =>
          t = { s with cores := t.cores, mem := t.mem, errs := t.errs, kept := t.kept, pushes := t.pushes, saved := t.saved }
          ∧ HomeViews s t
          ∧ HoldsBytes t d.pa (leBytes 8 (d.lc + k)) ∧ HoldsBytes t (d.pa + 0x40) (leBytes 32 (w >>> k).toNat)
          ∧ (∀ a, (a < d.pa ∨ d.pa + 8 ≤ a) → (a < d.pa + 0x40 ∨ d.pa + 0x60 ≤ a) → t.byte a = s.byte a)
          ∧ (k = 0 → t.pushes = s.pushes ∧ t.saved = s.saved)
          ∧ (0 < k → ∃ sent, t.pushes = s.pushes ++ sent ∧ ∀ (c r g : Nat) (p : Push),
              p = { core := c, reg := r, gen := g, lc := .ofNat 64 (d.lc + k) } →
              r < 8 → (∃ va, Tab.get none (s.core c).clBind r = some (va, d.pa, g)) → p ∈ sent)))

/-- 16 R346, 17 R372. -/
def Obligations.RetractCancelsTheReservedTail : Prop :=
  ∀ (s : State) (sd sa sb : SR) (d : Desc),
    s.names (s.srcS sa) .atomic d → d.inUse → (∀ i, i < 128 → s.gatedAt (d.pa + i) = false) →
    let n := (s.srcS sb).toNat
    let pending := ∃ j : Nat, j < 256 ∧ d.window.getLsbD j = true ∧ n ≤ d.lc + j
    (n < d.lc → Answers s (.sqRet sd sa sb) sd 2 (NoRest s))
    ∧ (d.lc ≤ n → d.lr ≤ n → Answers s (.sqRet sd sa sb) sd 0 (NoRest s))
    ∧ (d.lc ≤ n → n < d.lr → pending → Answers s (.sqRet sd sa sb) sd 2 (NoRest s))
    ∧ (d.lc ≤ n → n < d.lr → ¬pending → Answers s (.sqRet sd sa sb) sd 0 (Writes s (d.pa + 8) (leBytes 8 n)))

/-- 17 R368, R373, R374 and 16 R350.  That the template is valid is `templateOk` (17 R368). -/
def Obligations.SequencesAreCreatedReadAndAddressed : Prop :=
  ∀ (s : State) (sd sa sb : SR) (n : BitVec 3) (d : Desc),
    (s.names (s.srcS sa) .atomic d → seqLive d.w18 = false →
      templateOk d.w18 d.map (seqSlot d.w18) = true →
      Answers s (.sqInit sd sa) sd 0 (fun t =>
        t = { s with cores := t.cores, mem := t.mem, errs := t.errs, kept := t.kept, marks := t.marks } ∧ HomeViews s t
        ∧ t.marks = s.marks ++ (List.range 16).map (fun j => d.pa / 8 + j)
        ∧ HoldsBytes t d.pa (leBytes 24 0
            ++ leBytes 8 (setFld (setFld (setFld d.w18 0 6 (seqSlot d.w18)) 8 3 0) 16 1 1).toNat
            ++ leBytes 24 0 ++ leBytes 8 d.map.toNat ++ leBytes 64 0)
        ∧ SameBytesBut s t d.pa 128))
    ∧ (s.names (s.srcS sa) .homeRead d → seqLive d.w18 = true →
      Answers s (.sqLen sd sa) sd (.ofNat 64 d.lc) (NoRest s))
    ∧ SetsS s (.sqLenCl sd n) sd (Tab.get 0 (s.core s.cur).cl n.toNat)
    ∧ (s.names (s.srcS sa) .homeRead d → d.inUse →
      let i := (s.srcS sb).toNat
      (i < d.cap → d.fork ≤ i → ∀ e : W64,
        s.homeWord (.core s.cur) (d.map + .ofNat 64 (8 * ((i - d.fork) / seqP d.w18))) = .ok e →
        Answers s (.sqAddr sd sa sb) sd
          (.ofNat 64 (fld e 0 41 * 65536) + .ofNat 64 ((i - d.fork) % seqP d.w18 * 2 ^ seqSlot d.w18)) (NoRest s))
      ∧ (i < d.cap → i < d.fork → ∀ (up : Desc) (a : W64), s.descFor (.core s.cur) d.parent .homeRead = .ok up →
        s.slotAddr (.core s.cur) up i 7 = .ok a → Answers s (.sqAddr sd sa sb) sd a (NoRest s))
      ∧ (d.cap ≤ i → (s.core s.cur).handles → TrapsPrecisely s (.sqAddr sd sa sb) .seqRange (.ofNat 64 i) d.va))

/-- 17 R369, R375, R377 and 16 R352 to R356. -/
def Obligations.SequencesGrowForkAndDrop : Prop :=
  ∀ (s : State) (sd sa sb : SR) (d : Desc),
    (s.names (s.srcS sa) .atomic d → d.inUse →
      let k := (s.srcS sb).toNat
      let x := (s.core s.cur).ctx
      let l := s.slab x (seqClass d.w18)
      let j0 := (d.cap - d.fork) / seqP d.w18
      (l.count.toNat < k ∨ seqMapn d.w18 < j0 + k →
        Answers s (.sqGrow sd sa sb) sd 0xFFFFFFFFFFFFFFFF (NoRest s))
      ∧ (k ≤ l.count.toNat → j0 + k ≤ seqMapn d.w18 → ∀ (ps : List W64) (head : W64) (es : List Nat),
          s.takePages (.core s.cur) (seqClass d.w18) (slabAddr x (seqClass d.w18)) l.head k = .ok (ps, head) →
          (List.range k).mapM (fun m => s.homeAddr (.core s.cur) (d.map + .ofNat 64 (8 * (j0 + m))) .atomic)
            = .ok es →
          Answers s (.sqGrow sd sa sb) sd (.ofNat 64 (d.cap + k * seqP d.w18)) (fun t =>
            t.slab x (seqClass d.w18) = { l with head := head, count := l.count - .ofNat 32 k }
            ∧ HoldsBytes t (d.pa + 0x10) (leBytes 8 (d.cap + k * seqP d.w18))
            ∧ ∀ e ∈ es, e / 8 ∈ t.marks)))
    ∧ (∀ (cpa dpa : Nat) (c : Desc) (es : List (Nat × Nat × Bool)),
      let cva := s.srcS sa
      let dva := s.srcS sb
      let f := s.srcS (sb ||| 1)
      cva.toNat % 128 = 0 → dva.toNat % 128 = 0 →
      s.homeAddr (.core s.cur) cva .atomic = .ok cpa → s.homeAddr (.core s.cur) dva .atomic = .ok dpa →
      s.descAt cva cpa = .ok c → s.descAt dva dpa = .ok d →
      seqLive c.w18 = false → templateOk c.w18 c.map (seqSlot d.w18) = true → d.inUse → seqDepth d.w18 ≠ 7 →
      f.toNat ≤ d.lc →
      (if f = 0 then es = [] else s.prefixEntries (.core s.cur) d f.toNat 8 = .ok es) →
      ((∃ q ∈ es, entryPrc (s.readW q.1) = 255) → Answers s (.sqFork sd sa sb) sd 2 (NoRest s))
      ∧ ((∀ q ∈ es, entryPrc (s.readW q.1) ≠ 255) →
        Answers s (.sqFork sd sa sb) sd 0 (fun t =>
          HoldsBytes t cpa (leBytes 8 f.toNat ++ leBytes 8 f.toNat ++ leBytes 8 f.toNat)
          ∧ HoldsBytes t (cpa + 0x20) (leBytes 8 f.toNat ++ leBytes 8 dva.toNat ++ leBytes 8 0)
          ∧ (dpa + 128 ≤ cpa ∨ cpa + 128 ≤ dpa → HoldsBytes t (dpa + 0x30) (leBytes 4 (d.children + 1)))
          ∧ t.marks = s.marks ++ (List.range 16).map (fun j => cpa / 8 + j))))
    ∧ (s.names (s.srcS sa) .atomic d → seqLive d.w18 = true →
      (seqDropped d.w18 = true → Answers s (.sqDrop sd sa) sd 3 (NoRest s))
      ∧ (seqDropped d.w18 = false → d.pins ≠ 0 → Answers s (.sqDrop sd sa) sd 2 (NoRest s))
      ∧ (seqDropped d.w18 = false → d.pins = 0 → d.parent = 0 → d.cap = d.fork →
        Answers s (.sqDrop sd sa) sd 0 (fun t =>
          HoldsBytes t (d.pa + 0x18)
            (leBytes 8 (if d.children = 0 then setFld (setFld d.w18 17 1 1) 16 1 0 else setFld d.w18 17 1 1).toNat)
          ∧ t.marks = (if d.children = 0 then
              s.marks.filter (fun m => decide (m < d.pa / 8) || decide (d.pa / 8 + 16 ≤ m)) else s.marks)
          ∧ t.job = s.job.map fun j => if j.swap ≠ none ∧ j.desc = d.pa then { j with lost := true } else j)))

/-- 17 R376 and 16 R347, R348. -/
def Obligations.BindingsPinTheirSequencesAndTakePushes : Prop :=
  (∀ (s : State) (sa : SR) (n : BitVec 3) (d : Desc),
    s.names (s.srcS sa) .atomic d → d.inUse → s.gatedAt (d.pa + 0x30) = false →
    Tab.get none (s.core s.cur).clBind n.toNat = none →
    ∃ t, exec (.sqBind sa n) s = .next t
      ∧ t = { s with cores := t.cores, mem := t.mem, errs := t.errs, kept := t.kept, nextBind := s.nextBind + 1 }
      ∧ HomeViews s t
      ∧ fld (t.readW (d.pa + 0x30)) 32 32 = (fld (s.readW (d.pa + 0x30)) 32 32 + 1) % 2 ^ 32
      ∧ fld (t.readW (d.pa + 0x30)) 0 32 = fld (s.readW (d.pa + 0x30)) 0 32
      ∧ SameBytesBut s t (d.pa + 0x30) 8 ∧ (∀ c, c ≠ s.cur → t.core c = s.core c)
      ∧ Tab.get 0 (t.core s.cur).cl n.toNat = .ofNat 64 d.lc
      ∧ Tab.get none (t.core s.cur).clBind n.toNat = some (s.srcS sa, d.pa, s.nextBind)
      ∧ t.core s.cur = { s.core s.cur with cl := (t.core s.cur).cl, clBind := (t.core s.cur).clBind })
  ∧ (∀ (s : State) (n : BitVec 3),
    (Tab.get none (s.core s.cur).clBind n.toNat = none → exec (.sqBindClr n) s = .next s)
    ∧ (∀ (va : W64) (pa g : Nat), Tab.get none (s.core s.cur).clBind n.toNat = some (va, pa, g) →
        s.gatedAt (pa + 0x30) = false →
        ∃ t, exec (.sqBindClr n) s = .next t
          ∧ fld (t.readW (pa + 0x30)) 32 32 = (fld (s.readW (pa + 0x30)) 32 32 - 1) % 2 ^ 32
          ∧ SameBytesBut s t (pa + 0x30) 8
          ∧ Tab.get 0 (t.core s.cur).cl n.toNat = 0
          ∧ Tab.get none (t.core s.cur).clBind n.toNat = none
          ∧ t.core s.cur = { s.core s.cur with cl := (t.core s.cur).cl, clBind := (t.core s.cur).clBind }))
  ∧ (∀ (s : State) (k : Nat) (p : Push), s.pushes[k]? = some p →
    (∀ (j : Nat) (q : Push), j < k → s.pushes[j]? = some q → q.core ≠ p.core ∨ q.reg ≠ p.reg) →
    ∃ t, exec (.clPush k) s = .next t
      ∧ t = { s with cores := t.cores, pushes := s.pushes.eraseIdx k } ∧ (∀ c, c ≠ p.core → t.core c = s.core c)
      ∧ ((∃ va pa, Tab.get none (s.core p.core).clBind p.reg = some (va, pa, p.gen)) →
          Tab.get 0 (t.core p.core).cl p.reg = p.lc
          ∧ t.core p.core = { s.core p.core with cl := (t.core p.core).cl })
      ∧ ((∀ va pa, Tab.get none (s.core p.core).clBind p.reg ≠ some (va, pa, p.gen)) →
          t.core p.core = s.core p.core))

/-- 07 R170.  The words are those of the record at 0x08, 0x18, 0x20 and 0x28 and of its launch at 0x10, 0x18.  The LINK of
the pool's last node beyond 4,096 nodes is the model's choice (log 16, DEDUCED). -/
def Obligations.ADecrementCountsEntersOrIsRefused : Prop :=
  ∀ (s : State) (x : Nat) (parent n launch st w20 w28 w18 : W64), n.toNat % 256 = 0 →
    s.rootWord x (n + 8) = .ok launch → s.rootWord x (launch + 0x18) = .ok st →
    s.rootWord x (n + 0x20) = .ok w20 → s.rootWord x (n + 0x28) = .ok w28 → s.rootWord x (n + 0x18) = .ok w18 →
    let failed := 0x10 ≤ st.toNat % 256
    let pred := w20.toNat % 2 ^ 32
    let active := fld w28 32 2 = 1 ∨ fld w28 32 2 = 2
    (failed → s.decrement x parent n = (.refused, s))
    ∧ (¬failed → pred = 0 → s.decrement x parent n = (.refused, s.failLaunch x launch 0x12 n))
    ∧ (¬failed → ∀ t, s.rootPut x (n + 0x20) (setFld w20 0 32 (pred - 1)) = .ok t →
        (1 < pred → s.decrement x parent n = (.counted, t))
        ∧ (pred = 1 → active → s.decrement x parent n = (.refused, t.failLaunch x launch 0x13 n))
        ∧ (pred = 1 → ¬active → ∀ (t1 t2 t3 : State) (live : W64),
            t.rootPut x (n + 0x20) (setFld w20 0 32 (fld w20 32 32)) = .ok t1 → t1.groupCheck x w18 = none →
            t1.rootPut x (n + 0x28) (setFld w28 32 2 1) = .ok t2 → t2.rootWord x (launch + 0x10) = .ok live →
            t2.rootPut x (launch + 0x10) (live + 1) = .ok t3 →
            let enters := fun t4 : State => launchFailed (t4.rootPeek x (launch + 0x18)) = false →
              ∃ u, s.decrement x parent n = (.entered, u) ∧ u = { t4 with pool := u.pool, nextRun := t4.nextRun + 1 }
                ∧ (∃ p ∈ u.pool, p.ctx = x ∧ p.node = n.toNat ∧ p.launch = launch.toNat
                    ∧ p.service = w18.getLsbD 16 ∧ p.prio = fld w18 17 2)
                ∧ (∀ p ∈ t4.pool, p ∈ u.pool) ∧ u.pool.length = t4.pool.length + 1
            (t3.pool.length ≤ 4096 → enters t3)
            ∧ (4096 < t3.pool.length → ∀ (p : PoolNode) (t4 : State), lastEntered t3.pool = some p →
                t3.rootPut p.ctx (.ofNat 64 (p.node + 0x38)) n = .ok t4 → enters t4)))

/-- 07 R179, R180.  A node has executed nd.done from then on (log 102, DEDUCED).  What a release point ends: log 125,
DEDUCED; S[sd] of nd.sel for a ROOT that is not aligned: log 134, DEDUCED. -/
def Obligations.NodeOpsReportTheirGraphEffect : Prop :=
  ∀ (s : State) (sd sa : SR),
    let k := s.core s.cur
    let n := k.node
    let r := s.releaseAll s.cur
    let givesK := fun (i : Instr) (u : State) (x : W64) (ended : Bool) =>
      ∃ t, exec i s = .next t ∧ t = { u with cores := t.cores } ∧ (∀ c, c ≠ s.cur → t.core c = u.core c)
        ∧ ScalarIs (u.core s.cur) (t.core s.cur) sd x
        ∧ t.core s.cur = { (u.core s.cur).awaits s.iss.seq (if sd = 0 then [] else [.s sd.toNat]) true with
            s := (t.core s.cur).s, ndDone := ended }
    let gives := fun (i : Instr) (u : State) (x : W64) => givesK i u x (u.core s.cur).ndDone
    let ends := fun (u : State) (x : W64) => u.iss = s.iss → givesK (.ndDone sd sa) u x true
    let num := fun d : Decr => match d with
      | .counted => (0 : W64)
      | .entered => 1
      | .refused => 2
    let spawned := fun (i : Instr) (s0 : State) (root : W64) (x : Nat) (base : W64) =>
      (x ≠ k.ctx → gives i s0 (base ||| 3))
      ∧ (x = k.ctx → ∀ (d : Decr) (u : State), s0.decrement k.ctx k.launch root = (d, u) → u.iss = s.iss →
          gives i u (base ||| num d))
    let fills := fun t : State => t = { r with fabric := t.fabric } ∧ ∃ l, t.fabric = s.fabric ++ l
    r = { s with kept := r.kept } ∧ Releases s r (·.core == s.cur) (fun _ => true)
    ∧ (∀ w28 : W64, r.rootWord k.ctx (n + 0x28) = .ok w28 →
      (fld w28 32 2 = 3 → ends r 1)
      ∧ (fld w28 32 2 ≠ 3 → ∀ (t1 t2 : State) (w18 succ : W64),
          r.rootPut k.ctx (n + 0x30) (s.srcS sa) = .ok t1 →
          t1.rootPut k.ctx (n + 0x28) (setFld w28 32 2 3) = .ok t2 →
          t2.rootWord k.ctx (n + 0x18) = .ok w18 → t2.rootWord k.ctx (n + 0x10) = .ok succ →
          ends ((t2.decrementList k.ctx k.launch n succ (w18.toNat % 2 ^ 16)).endLive k.ctx k.launch n) 0))
    ∧ (∀ e : Trp, r.rootWord k.ctx (n + 0x28) = .error e → k.ndDone = false →
        ends ((r.failLaunch k.ctx k.launch 0x16 n).endLive k.ctx k.launch n) 0)
    ∧ (∀ x : Nat, s.spawnFault s.cur (s.srcS sa) = .ok x →
        spawned (.ndSpawn sd sa) (r.spawnFills s.cur (s.srcS sa)) (s.srcS sa) x 0)
    ∧ (s.selFault s.cur (s.srcS sa) = .ok none → gives (.ndSel sd sa) (r.bucketFills s.cur (s.srcS sa)) 4)
    ∧ (∀ (root : W64) (x : Nat), s.selFault s.cur (s.srcS sa) = .ok (some (root, x)) →
        spawned (.ndSel sd sa) ((r.bucketFills s.cur (s.srcS sa)).spawnFills s.cur root) root x root)
    ∧ ∀ root : W64, fills (r.spawnFills s.cur root) ∧ fills (r.bucketFills s.cur root)

/-- 09 R219, R220 and R214.  `toF32` is RoundTo(f32) of 03 R62; `v` counts a value in steps of 2^h. -/
def Obligations.FloatVectorOpsRoundTheExactValueOnce : Prop :=
  (∀ (s : State) (vd va vb vc : VR) (k : KR) (rm : BitVec 3),
    let x := fun l => lane (s.srcV va) l
    let y := fun l => lane (s.srcV vb) l
    let z := fun l => lane (s.srcV vc) l
    let noise := fun l => (z l).toNat % 65536
    let m := rm.toNat
    let picks := fun (smaller : Bool) (l : Nat) =>
      if (f32 (x l)).isNan ∧ (f32 (y l)).isNan then 0x7FC00000
      else if (f32 (x l)).isNan then y l
      else if (f32 (y l)).isNan then x l
      else
        let below := fun a b : W32 =>
          (f32 a).lt (f32 b) = true ∨ ((f32 a).eq (f32 b) = true ∧ a.msb = true ∧ b.msb = false)
        if smaller then (if below (y l) (x l) then y l else x l) else (if below (x l) (y l) then y l else x l)
    SetsV s (.vaddF vd va vb vc k rm) vd (s.governs k) (fun l => toF32 m ((f32 (x l)).add m (f32 (y l))) (noise l))
    ∧ SetsV s (.vsubF vd va vb vc k rm) vd (s.governs k)
        (fun l => toF32 m ((f32 (x l)).add m (f32 (y l)).neg) (noise l))
    ∧ SetsV s (.vmulF vd va vb vc k rm) vd (s.governs k) (fun l => toF32 m ((f32 (x l)).mul (f32 (y l))) (noise l))
    ∧ SetsV s (.vfmaF vd va vb vc k rm) vd (s.governs k)
        (fun l => toF32 m (((f32 (x l)).mul (f32 (y l))).add m (f32 (z l))) 0)
    ∧ SetsV s (.vminF vd va vb k) vd (s.governs k) (picks true)
    ∧ SetsV s (.vmaxF vd va vb k) vd (s.governs k) (picks false)
    ∧ SetsV s (.vabsF vd va k) vd (s.governs k)
        (fun l => if (f32 (x l)).isNan then 0x7FC00000 else x l &&& 0x7FFFFFFF))
  ∧ (let v := fun (n : Bool) (m : Nat) (e h : Int) => (if n then -1 else 1 : Int) * (m * 2 ^ (e - h).toNat)
     ∀ (mode : Nat) (n p : Bool) (m q : Nat) (e f : Int),
      (∃ r t g, (Num.fin n m e).add mode (.fin p q f) = .fin r t g
        ∧ ∀ h, h ≤ e → h ≤ f → h ≤ g → v r t g h = v n m e h + v p q f h)
      ∧ (∃ r t g, (Num.fin n m e).mul (.fin p q f) = .fin r t g
        ∧ ∀ h j, h ≤ e → j ≤ f → h + j ≤ g → v r t g (h + j) = v n m e h * v p q f j)
      ∧ (Num.fin n m e).add mode (.fin (!n) m e) = .fin (mode == 3) 0 0
      ∧ ((∃ r g, (Num.fin n 0 e).add mode (.fin n 0 f) = .fin r 0 g ∧ r = n))
      ∧ (Num.inf n).add mode (.inf (!n)) = .nan
      ∧ (Num.inf n).mul (.fin p 0 f) = .nan)

/-- 09 R228 to R232.  `special` is the table of R228, op by op; the values between are those of `exp2Num` and
its like, rounded once (log 15, DESIGN CHOICE). -/
def Obligations.ConversionsAndSpecialFunctionsRoundOnce : Prop :=
  (∀ (s : State) (vd va vb : VR) (k : KR) (rm : BitVec 3),
    let x := fun l => lane (s.srcV va) l
    let y := fun l => lane (s.srcV vb) l
    let nan : W32 := 0x7FC00000
    let pinf : W32 := 0x7F800000
    let ninf : W32 := 0xFF800000
    let pzero : W32 := 0
    let nzero : W32 := 0x80000000
    let one : W32 := 0x3F800000
    let by_ := fun (atNinf atNeg atNzero atPzero atPinf : Option W32) (f : Machine.Num → Machine.Num) (l : Nat) =>
      let other := toF32 0 (f (f32 (x l))) 0
      if (f32 (x l)).isNan then nan
      else if x l = ninf then atNinf.getD other
      else if x l = nzero then atNzero.getD other
      else if x l = pzero then atPzero.getD other
      else if x l = pinf then atPinf.getD other
      else if (x l).msb then atNeg.getD other
      else other
    SetsV s (.vexp2 vd va k) vd (s.governs k) (by_ (some pzero) none (some one) (some one) (some pinf) exp2Num)
    ∧ SetsV s (.vlog2 vd va k) vd (s.governs k)
        (by_ (some nan) (some nan) (some ninf) (some ninf) (some pinf) log2Num)
    ∧ SetsV s (.vrcp vd va k) vd (s.governs k) (by_ (some nzero) none (some ninf) (some pinf) (some pzero) rcpNum)
    ∧ SetsV s (.vrsqrt vd va k) vd (s.governs k)
        (by_ (some nan) (some nan) (some ninf) (some pinf) (some pzero) rsqrtNum)
    ∧ SetsV s (.vtanh vd va k) vd (s.governs k)
        (by_ (some 0xBF800000) none (some nzero) (some pzero) (some one) tanhNum)
    ∧ SetsV s (.vscl vd va vb k rm) vd (s.governs k) (fun l =>
        let e := (y l).toNat % 256
        if e = 255 then nan else toF32 rm.toNat ((f32 (x l)).scale ((e : Int) - 127)) 0)
    ∧ (∀ (from_ to_ : BitVec 4) (dpos spos : BitVec 2) (f t : Fmt),
        fmtOf from_.toNat = some f → fmtOf to_.toNat = some t → (spos.toNat + 1) * f.width ≤ 32 →
        (dpos.toNat + 1) * t.width ≤ 32 →
        ∃ g : Nat → W32 × Bool, SetsVSat s (.vcvt vd va vb dpos spos k from_ to_ rm) vd (s.governs k) g
          ∧ ∀ l, l < 128 →
            let r := t.round rm.toNat (f.decode ((x l).toNat / 2 ^ (f.width * spos.toNat) % 2 ^ f.width))
              ((y l).toNat % 65536)
            (g l).2 = r.2 ∧ (g l).1.toNat / 2 ^ (t.width * dpos.toNat) % 2 ^ t.width = r.1 % 2 ^ t.width
            ∧ ∀ b, (b < t.width * dpos.toNat ∨ t.width * (dpos.toNat + 1) ≤ b) →
                (g l).1.getLsbD b = (lane ((s.core s.cur).getV vd.toNat) l).getLsbD b)
    ∧ (∀ (to_ : BitVec 4) (h : Bool) (t : Fmt), (to_ = 3 ∨ to_ = 4) → fmtOf to_.toNat = some t →
        ∃ g : Nat → W32, SetsV s (.vunpk vd va k to_ h) vd (s.governs k) g
          ∧ ∀ (l b : Nat), l < 128 → b < 4 →
            let e := 4 * (l % 16) + b
            let src := 16 * (l / 16) + (if h then 8 else 0) + e / 8
            (g l).toNat / 2 ^ (8 * b) % 256
              = (t.round 0 (e2m1Fmt.decode ((x src).toNat / 2 ^ (4 * (e % 8)) % 16)) 0).1)
    ∧ ∃ g : Nat → W32, SetsV s (.vpackMx vd va vb) vd (fun _ => true) g ∧ ∀ gr, gr < 8 →
        let block := (List.range 32).map fun j => if j < 16 then x (16 * gr + j) else y (16 * gr + j - 16)
        (∀ j, j < 32 → (g (16 * gr + j / 8)).toNat / 2 ^ (4 * (j % 8)) % 16 = (mxPack block).2.getD j 0 % 16)
        ∧ g (16 * gr + 4) = .ofNat 32 (mxPack block).1 ∧ ∀ i, 5 ≤ i → i < 16 → g (16 * gr + i) = 0)
  ∧ ∀ (mode noise : Nat) (x : W32), (f32 x).isNan = false → toF32 mode (f32 x) noise = x

/-- 09 R221 to R223: what each element of each governed lane receives. -/
def Obligations.IntegerVectorOpsActOnEachElement : Prop :=
  ∀ (s : State) (vd va vb : VR) (k : KR) (ty : BitVec 4) (uns sat imm : Bool) (count : BitVec 5),
    ty ∈ [0#4, 6#4, 7#4, 8#4, 9#4] →
    let w := if ty = 0 then 32 else if ty.toNat ≤ 7 then 16 else 8
    let sgn := decide ((ty = 0 ∧ uns = false) ∨ ty = 6 ∨ ty = 8)
    let bits := fun (r : W32) (p : Nat) => r.toNat / 2 ^ (w * p) % 2 ^ w
    let x := fun l => lane (s.srcV va) l
    let y := fun l => lane (s.srcV vb) l
    let val := fun e : Nat => if sgn then (BitVec.ofNat w e).toInt else (e : Int)
    let lo : Int := if sgn then -(2 ^ (w - 1)) else 0
    let hi : Int := if sgn then 2 ^ (w - 1) - 1 else 2 ^ w - 1
    let makes := fun (i : Instr) (clamp : Bool) (f : Int → Int → Int) =>
      ∃ g : Nat → W32 × Bool, SetsVSat s i vd (s.governs k) g ∧ ∀ l, l < 128 →
        ((g l).2 = true ↔ clamp = true ∧ ∃ p, p < 32 / w ∧
          (f (val (bits (x l) p)) (val (bits (y l) p)) < lo ∨ hi < f (val (bits (x l) p)) (val (bits (y l) p))))
        ∧ ∀ p, p < 32 / w →
          let e := f (val (bits (x l) p)) (val (bits (y l) p))
          let c := if clamp then min hi (max lo e) else e
          (bits (g l).1 p : Int) = c % 2 ^ w
    let shifts := fun (i : Instr) (f : Nat → Nat → Nat) =>
      ∃ g : Nat → W32, SetsV s i vd (s.governs k) g ∧ ∀ l p, l < 128 → p < 32 / w →
        bits (g l) p = f (bits (x l) p) (if imm then count.toNat else bits (y l) p)
    makes (.vaddI vd va vb k ty uns sat) sat (· + ·)
    ∧ makes (.vsubI vd va vb k ty uns sat) sat (· - ·)
    ∧ makes (.vmulI vd va vb k ty uns sat) sat (· * ·)
    ∧ makes (.vminI vd va vb k ty uns) false min
    ∧ makes (.vmaxI vd va vb k ty uns) false max
    ∧ SetsV s (.vand vd va vb k) vd (s.governs k) (fun l => x l &&& y l)
    ∧ SetsV s (.vor vd va vb k) vd (s.governs k) (fun l => x l ||| y l)
    ∧ SetsV s (.vxor vd va vb k) vd (s.governs k) (fun l => x l ^^^ y l)
    ∧ shifts (.vshl vd va vb k ty imm count) (fun e c => e * 2 ^ c % 2 ^ w)
    ∧ shifts (.vshr vd va vb k ty imm count) (fun e c => e / 2 ^ c)
    ∧ shifts (.vsar vd va vb k ty imm count) (fun e c => ((BitVec.ofNat w e).toInt / 2 ^ c % 2 ^ w).toNat)

/-- 09 R224 to R227. -/
def Obligations.MaskOpsWriteMasksAndCounts : Prop :=
  ∀ (s : State) (vd va vb : VR) (kd ka kb k : KR) (sd : SR),
    let x := fun l => lane (s.srcV va) l
    let y := fun l => lane (s.srcV vb) l
    let cmp := fun (kind : BitVec 2) (cond : BitVec 3) (f : Nat → Bool) =>
      SetsK s (.vcmp kd va vb k kind cond) kd (fun l => s.governs k l && f l)
    let num := fun l => !(f32 (x l)).isNan && !(f32 (y l)).isNan
    let lt := fun l => (f32 (x l)).lt (f32 (y l))
    let gt := fun l => (f32 (y l)).lt (f32 (x l))
    let m := s.srcK ka &&& s.srcK k
    let pop := fun (op : BitVec 2) (good : Nat → Prop) => ∃ n, good n ∧ SetsSLate s (.kpop sd ka k op) sd (.ofNat 64 n)
    cmp 0 0 (fun l => num l && !lt l && !gt l)
    ∧ cmp 0 1 (fun l => !num l || lt l || gt l)
    ∧ cmp 0 2 (fun l => num l && lt l)
    ∧ cmp 0 3 (fun l => num l && !gt l)
    ∧ cmp 0 4 (fun l => num l && gt l)
    ∧ cmp 0 5 (fun l => num l && !lt l)
    ∧ cmp 0 6 (fun l => !num l)
    ∧ cmp 1 0 (fun l => x l == y l) ∧ cmp 1 1 (fun l => x l != y l)
    ∧ cmp 1 2 (fun l => decide ((x l).toInt < (y l).toInt)) ∧ cmp 1 3 (fun l => decide ((x l).toInt ≤ (y l).toInt))
    ∧ cmp 1 4 (fun l => decide ((x l).toInt > (y l).toInt)) ∧ cmp 1 5 (fun l => decide ((x l).toInt ≥ (y l).toInt))
    ∧ cmp 2 0 (fun l => x l == y l) ∧ cmp 2 1 (fun l => x l != y l)
    ∧ cmp 2 2 (fun l => decide ((x l).toNat < (y l).toNat)) ∧ cmp 2 3 (fun l => decide ((x l).toNat ≤ (y l).toNat))
    ∧ cmp 2 4 (fun l => decide ((x l).toNat > (y l).toNat)) ∧ cmp 2 5 (fun l => decide ((x l).toNat ≥ (y l).toNat))
    ∧ SetsK s (.kop kd ka kb 0) kd (fun l => (s.srcK ka).getLsbD l && (s.srcK kb).getLsbD l)
    ∧ SetsK s (.kop kd ka kb 1) kd (fun l => (s.srcK ka).getLsbD l || (s.srcK kb).getLsbD l)
    ∧ SetsK s (.kop kd ka kb 2) kd (fun l => (s.srcK ka).getLsbD l != (s.srcK kb).getLsbD l)
    ∧ SetsK s (.kop kd ka kb 3) kd (fun l => (s.srcK ka).getLsbD l && !(s.srcK kb).getLsbD l)
    ∧ SetsK s (.kop kd ka kb 4) kd (fun l => !(s.srcK ka).getLsbD l)
    ∧ SetsK s (.kop kd ka kb 5) kd (fun l => (s.srcK ka).getLsbD l)
    ∧ SetsV s (.vsel vd va vb k) vd (fun _ => true) (fun l => if s.governs k l then x l else y l)
    ∧ pop 0 (fun n => n = ((List.range 128).filter m.getLsbD).length)
    ∧ pop 1 (fun n => if m = 0 then n = 128 else m.getLsbD n = true ∧ ∀ j, j < n → m.getLsbD j = false)
    ∧ pop 2 (fun n => if m = 0 then n = 128 else m.getLsbD n = true ∧ ∀ j, n < j → m.getLsbD j = false)

/-- 09 R233 to R239.  `set` are the positions of group g that the mask selects, in rising order. -/
def Obligations.VectorMovesPermuteLanes : Prop :=
  ∀ (s : State) (vd va vb vc : VR) (k : KR) (sb : SR) (ln : BitVec 7) (c : BitVec 3),
    let x := fun l => lane (s.srcV va) l
    let y := fun l => lane (s.srcV vb) l
    let low : W32 := (s.srcS sb).setWidth 32
    let set := fun g => (List.range 16).filter fun i => s.governs k (16 * g + i)
    let moves := fun (mode : BitVec 3) (grp : Nat → Nat) =>
      SetsV s (.vxg vd va vb k mode c) vd (s.governs k) (fun l => x (16 * grp l + l % 16))
    SetsV s (.vmov vd va k) vd (s.governs k) x
    ∧ SetsV s (.vbcast vd sb k 0 false) vd (s.governs k) (fun _ => low)
    ∧ SetsV s (.vbcast vd sb k 0 true) vd (s.governs k) (fun l => .ofNat 32 (low.toNat + l))
    ∧ (∀ ty : BitVec 4, ty = 6 ∨ ty = 7 → ∃ f : Nat → W32, SetsV s (.vbcast vd sb k ty false) vd (s.governs k) f
        ∧ ∀ l b, b < 32 → (f l).getLsbD b = low.getLsbD (b % 16))
    ∧ (∀ ty : BitVec 4, ty = 8 ∨ ty = 9 → ∃ f : Nat → W32, SetsV s (.vbcast vd sb k ty false) vd (s.governs k) f
        ∧ ∀ l b, b < 32 → (f l).getLsbD b = low.getLsbD (b % 8))
    ∧ SetsSLate s (.vext va sb false ln) sb (.ofNat 64 (x ln.toNat).toNat)
    ∧ SetsSLate s (.vext va sb true ln) sb (.ofInt 64 (x ln.toNat).toInt)
    ∧ SetsV s (.vperm vd va vb k) vd (s.governs k) (fun l => x (16 * (l / 16) + (y l).toNat % 16))
    ∧ moves 0 (fun l => (l / 16 + c.toNat) % 8)
    ∧ moves 1 (fun l => l / 16 ^^^ c.toNat)
    ∧ moves 2 (fun _ => c.toNat)
    ∧ moves 3 (fun l => (y l).toNat % 8)
    ∧ (vc ≠ vd → SetsVTwo s (.vcmprs vd va vc k) vd vc
        (fun l => match (set (l / 16))[l % 16]? with
          | some i => x (16 * (l / 16) + i)
          | none => 0)
        (fun l => .ofNat 32 (set (l / 16)).length) (fun _ => False))
    ∧ SetsV s (.vexpd vd va k) vd (fun _ => true) (fun l =>
        if s.governs k l then x (16 * (l / 16) + ((set (l / 16)).filter (· < l % 16)).length) else 0)

/-- 09 R240 to R243.  The sign of a zero remainder of vdesc top is the model's choice (log 31, DEDUCED).  `inSet g l` says that lane l is in the set that the result of group g comes from; `run` is
the binary64 running sum of R240, and `fits` saturates an exact sum. -/
def Obligations.ReductionsCombineTheGovernedLanes : Prop :=
  ∀ (s : State) (vd va vb vc : VR) (k : KR) (rm : BitVec 2) (grp : Bool) (kind : BitVec 2) (sb : SR)
    (mode : BitVec 2) (stream : BitVec 8), kind.toNat ≤ 2 →
    let x := fun l => lane (s.srcV va) l
    let y := fun l => lane (s.srcV vb) l
    let set := fun l => (List.range 128).filter fun j => s.governs k j && (!grp || j / 16 == l / 16)
    let val := fun l => if kind = 1 then (x l).toInt else ((x l).toNat : Int)
    let lo : Int := if kind = 1 then -(2 ^ 31) else 0
    let hi : Int := if kind = 1 then 2 ^ 31 - 1 else 2 ^ 32 - 1
    let fits := fun v : Int => BitVec.ofInt 32 (min hi (max lo v))
    let outside := fun v : Int => v < lo ∨ hi < v
    let zero := Num.fin false 0 0
    let d := fun r : Machine.Num => f64Fmt.decode (f64Fmt.round 0 r 0).1
    let run := fun (l : List Machine.Num) => match l with
      | [] => zero
      | a :: rest => rest.foldl (fun acc b => d (acc.add 0 b)) a
    let sumOf := fun (m : Nat) (l : Nat) =>
      if kind = 0 then toF32 m (run ((set l).map fun j => f32 (x j))) 0 else fits ((set l).map val).sum
    (SetsVAll s (.vred vd va vc k rm grp kind 0) vd (sumOf rm.toNat)
        (fun b => b = 3 ∧ kind ≠ 0 ∧ ∃ l, l < 128 ∧ outside ((set l).map val).sum))
    ∧ (∀ (op : BitVec 3), op = 1 ∨ op = 2 → kind ≠ 0 →
        ∃ f : Nat → Int, SetsVAll s (.vred vd va vc k rm grp kind op) vd (fun l => BitVec.ofInt 32 (f l)) (fun _ => False)
          ∧ ∀ l, l < 128 →
            if set l = [] then f l = (if op = 1 then hi else lo)
            else (∃ j ∈ set l, f l = val j) ∧ ∀ j ∈ set l, if op = 1 then f l ≤ val j else val j ≤ f l)
    ∧ (∀ (op : BitVec 3), op = 1 ∨ op = 2 → kind = 0 →
        ∃ f : Nat → W32, SetsVAll s (.vred vd va vc k rm grp kind op) vd f (fun _ => False) ∧ ∀ l, l < 128 →
          let nums := (set l).filter fun j => !(f32 (x j)).isNan
          let below := fun a b : W32 =>
            (f32 a).lt (f32 b) = true ∨ ((f32 a).eq (f32 b) = true ∧ a.msb = true ∧ b.msb = false)
          if set l = [] then f l = (if op = 1 then 0x7F800000 else 0xFF800000)
          else if nums = [] then f l = 0x7FC00000
          else (∃ j ∈ nums, f l = x j) ∧ ∀ j ∈ nums, if op = 1 then ¬below (x j) (f l) else ¬below (f l) (x j))
    ∧ ((∀ op : BitVec 3, op = 3 ∨ op = 4 → (Instr.vred vd va vd k rm grp kind op).wellFormed = false)
        ∧ ∀ w : Bool, (Instr.vpfx vd va vd k w kind).wellFormed = false)
    ∧ (∀ (op : BitVec 3), op = 3 ∨ op = 4 → vc ≠ vd →
        let key := fun j =>
          if kind ≠ 0 then Num.ofInt (val j) else if (f32 (x j)).isNan then .inf (op == 4) else f32 (x j)
        let better := fun i j => if op = 3 then (key i).lt (key j) = true else (key j).lt (key i) = true
        let hopeless := fun l => ∀ j ∈ set l, kind = 0 ∧ key j = .inf (op == 4)
        let none_ : W32 := if kind = 0 then (if op = 3 then 0x7F800000 else 0xFF800000)
          else BitVec.ofInt 32 (if op = 3 then hi else lo)
        ∃ idx : Nat → Nat, SetsVTwo s (.vred vd va vc k rm grp kind op) vd vc
            (fun l => if idx l = 128 then 0xFFFFFFFF else .ofNat 32 (idx l))
            (fun l => if idx l = 128 then none_ else x (idx l))
            (fun b => (b = 2 ∧ ∃ l, l < 128 ∧ idx l = 128)
              ∨ (b = 1 ∧ kind = 0 ∧ ∃ l, l < 128 ∧ ∃ j ∈ set l, (f32 (x j)).isNan = true))
          ∧ ∀ l, l < 128 → (idx l = 128 ∧ hopeless l) ∨ (¬hopeless l ∧ idx l ∈ set l
              ∧ (∀ j ∈ set l, ¬better j (idx l)) ∧ ∀ j ∈ set l, j < idx l → better (idx l) j))
    ∧ (∀ w : Bool, (w = true → kind = 0) → vc ≠ vd →
        let part := fun j =>
          if s.governs k j = false then zero
          else if w = true ∧ ((f32 (x j)).isNan = true ∨ (f32 (x j)).lt zero = true) then zero else f32 (x j)
        let whole := fun j => if s.governs k j then val j else 0
        let outs := fun (js : List Nat) => if kind = 0 then toF32 0 (run (js.map part)) 0 else fits (js.map whole).sum
        let upTo := fun l => (List.range (l + 1)).filter fun j => j / 16 == l / 16
        let groups := fun l => List.range (16 * (l / 16) + 16)
        SetsVTwo s (.vpfx vd va vc k w kind) vd vc (fun l => outs (upTo l)) (fun l => outs (groups l))
          (fun b => (b = 3 ∧ kind ≠ 0 ∧ ∃ l, l < 128 ∧ (outside ((upTo l).map whole).sum ∨ outside ((groups l).map whole).sum))
            ∨ (b = 1 ∧ w = true ∧ ∃ l, l < 128 ∧ s.governs k l = true ∧ (f32 (x l)).isNan = true)))
    ∧ (let c := fun g => y (16 * g)
       let v := fun g => f32 (c g)
       (zero.lt (v 7) = false → SetsVAll s (.vdesc vd va vb vc false) vd (fun _ => 0xBF800000) (fun _ => False))
       ∧ (v 7 = .inf false → ∃ g, g < 8 ∧ v g = .inf false ∧ (∀ j, j < g → v j ≠ .inf false)
          ∧ SetsVAll s (.vdesc vd va vb vc false) vd (fun l => if l / 16 = g then 0x7F800000 else 0xBF800000)
              (fun _ => False))
       ∧ (zero.lt (v 7) = true → v 7 ≠ .inf false →
          let u0 := f32 (lane (s.srcV vc) 0)
          let u := if u0.isNan = true ∨ u0.lt zero = true then zero
            else if u0.lt (.fin false 1 0) = true then u0 else .fin false (2 ^ 24 - 1) (-24)
          let t := u.mul (v 7)
          ∃ g, g < 8 ∧ t.lt (v g) = true ∧ (∀ j, j < g → t.lt (v j) = false)
            ∧ SetsVAll s (.vdesc vd va vb vc false) vd
                (fun l => if l / 16 = g then toF32 3 (t.add 0 (if g = 0 then zero else v (g - 1)).neg) 0
                  else 0xBF800000) (fun _ => False))
       ∧ (let open_ := fun g => (v g).isNan = false ∧ (v g).lt zero = false
          ((∀ g, g < 8 → ¬open_ g) →
            SetsVAll s (.vdesc vd va vb vc true) vd (fun _ => 0xFFFFFFFF) (fun b => b = 2))
          ∧ ∀ g, g < 8 → open_ g → (∀ j, j < g → ¬open_ j) →
            let p := fun i => f32 (x (16 * g + i))
            let before := fun i => if i = 0 then zero else p (i - 1)
            let rem := v g
            ∃ i, i < 16 ∧ SetsVAll s (.vdesc vd va vb vc true) vd (fun _ => .ofNat 32 (16 * g + i)) (fun _ => False)
              ∧ (if c g = 0x7F800000 then
                  (p i = .inf false ∧ ∀ j, j < i → p j ≠ .inf false) ∨ (i = 15 ∧ ∀ j, j < 16 → p j ≠ .inf false)
                else
                  (rem.lt (p i) = true ∧ ∀ j, j < i → rem.lt (p j) = false)
                  ∨ ((∀ j, j < 16 → rem.lt (p j) = false)
                    ∧ (((before i).lt (p i) = true ∧ ∀ j, i < j → j < 16 → (before j).lt (p j) = false)
                      ∨ (i = 15 ∧ ∀ j, j < 16 → (before j).lt (p j) = false))))))
    ∧ (let mix := fun l =>
         let z0 := s.srcS sb ^^^ (((s.srcS (sb ||| 1)) <<< 32) ||| ((stream.setWidth 64 : W64) <<< 24)
           ||| ((x l).setWidth 64 &&& 0xFFFFFF))
         let z1 := (z0 ^^^ (z0 >>> 30)) * 0xBF58476D1CE4E5B9
         let z2 := (z1 ^^^ (z1 >>> 27)) * 0x94D049BB133111EB
         z2 ^^^ (z2 >>> 31)
       let top := fun l => (mix l).toNat / 2 ^ 40
       (mode = 0 → SetsV s (.vnoise vd va sb k mode stream) vd (s.governs k)
          (fun l => toF32 1 (.fin false (2 * top l + 1) (-25)) 0))
       ∧ (mode = 1 → SetsV s (.vnoise vd va sb k mode stream) vd (s.governs k)
          (fun l => toF32 0 (gumbel (2 * top l + 1)) 0))
       ∧ (mode = 2 → SetsV s (.vnoise vd va sb k mode stream) vd (s.governs k)
          (fun l => .ofNat 32 ((mix l).toNat / 2 ^ 48))))

/-- 09 R245 and R246.  `loads` and `stores` are the two effects over the lanes' local offsets, and the last clause is
STORE_PERFORM of a store of lanes.  Cycles: log 6, DESIGN CHOICE; views: log 125, DEDUCED. -/
def Obligations.VectorLoadsAndStoresUseTheOwnScratchpad : Prop :=
  (∀ (s : State) (vd va : VR) (sb : SR) (k : KR) (off : BitVec 12) (sh : BitVec 2),
    s.gatedAt (spBase s.cur) = false → s.cur < 260 →
    let base := spBase s.cur
    let a : W64 := .ofNat 64 ((s.srcS sb).toNat + (.ofInt 64 (64 * off.toInt) : W64).toNat)
    let dense := fun l => a.toNat + 4 * l
    let at_ : Nat → W64 := fun l => .ofNat 64 ((s.srcS sb).toNat + (lane (s.srcV va) l).toNat * 2 ^ sh.toNat)
    let sum := fun l => (s.srcS sb).toNat + (lane (s.srcV va) l).toNat * 2 ^ sh.toNat
    let spread := fun l => (at_ l).toNat
    let gov := fun l => l < 128 ∧ s.governs k l = true
    let loads := fun (i : Instr) (f : Nat → Nat) =>
      (∀ l, gov l → poisoned s.errs (base + f l) 4 = none) →
      ∃ t, exec i s = .next t ∧ OnlyCore s.cur s t
        ∧ (∀ l, l < 128 → lane ((t.core s.cur).getV vd.toNat) l =
            if s.governs k l then .ofNat 32 (leNat (s.bytesSeen .cp (base + f l) 4))
            else lane ((s.core s.cur).getV vd.toNat) l)
        ∧ (∀ r : VR, r ≠ vd → (t.core s.cur).getV r.toNat = (s.core s.cur).getV r.toNat)
        ∧ t.core s.cur = { (s.core s.cur).awaits s.iss.seq [.v vd.toNat] true with v := (t.core s.cur).v }
    let free := fun (f : Nat → Nat) => ∀ l, gov l →
      s.overlapsArmed (base + f l) 4 = false ∧ s.overlapsMark (base + f l) 4 = false
    let stores := fun (i : Instr) (first : Nat) (f : Nat → Nat) => free f →
      ∃ t, exec i s = .next t ∧ OnlyCore s.cur s t
        ∧ t.core s.cur = { s.core s.cur with
            stores := (s.core s.cur).stores ++ [s.newStore first base []
              (((List.range 128).filter (s.governs k)).map fun l => (base + f l, lane (s.srcV vd) l))]
            nextId := (s.core s.cur).nextId + 1 }
    let denseOk := a.toNat % 64 = 0 ∧ a.toNat ≤ 0x1FFE00
    let laneOk := fun l => spread l % 4 = 0 ∧ sum l + 3 ≤ 0x1FFFFF
    let both := fun (p q : Instr) (code : TrapCode) (info : W64) (addr : W64) =>
      (s.core s.cur).handles → TrapsPrecisely s p code info addr ∧ TrapsPrecisely s q code info addr
    let guarded := fun (i : Instr) (f : Nat → Nat) => (s.core s.cur).handles →
      let armed := ∃ l, gov l ∧ s.overlapsArmed (base + f l) 4 = true
      let marked := ∃ l, gov l ∧ s.overlapsMark (base + f l) 4 = true
      (armed → ¬marked → ∃ addr, TrapsPrecisely s i .barState 4 addr)
      ∧ (¬armed → marked → ∃ addr, TrapsPrecisely s i .seqState 6 addr)
    (denseOk → loads (.vld vd sb k off) dense ∧ stores (.vst vd sb k off) a.toNat dense)
    ∧ (a.toNat % 64 ≠ 0 → both (.vld vd sb k off) (.vst vd sb k off) .align 6 a)
    ∧ (a.toNat % 64 = 0 → 0x1FFE00 < a.toNat → both (.vld vd sb k off) (.vst vd sb k off) .xlate 39 a)
    ∧ ((∀ l, gov l → laneOk l) →
        loads (.vldx vd va sb k sh) spread ∧ stores (.vstx vd va sb k sh) (s.srcS sb).toNat spread)
    ∧ (∀ l, gov l → (∀ j, gov j → j < l → laneOk j) → ¬laneOk l →
        (spread l % 4 ≠ 0 → both (.vldx vd va sb k sh) (.vstx vd va sb k sh) .align 2 (at_ l))
        ∧ (spread l % 4 = 0 → both (.vldx vd va sb k sh) (.vstx vd va sb k sh) .xlate 39 (at_ l)))
    ∧ (denseOk → guarded (.vst vd sb k off) dense)
    ∧ ((∀ l, gov l → laneOk l) → guarded (.vstx vd va sb k sh) spread))
  ∧ ∀ (s : State) (c j : Nat) (x : Sto), (s.core c).stores[j]? = some x → x.performed = false → x.bytes = [] →
      s.region x.pa ≠ .config → s.storeReady c x = true →
      ((s.core c).live = false ∨ ∀ n, x.ready = some n → n ≤ (s.core c).frontCycle) →
      (∀ q r, q ∈ x.lanes → r ∈ x.lanes → q.1 = r.1 ∨ q.1 + 4 ≤ r.1 ∨ r.1 + 4 ≤ q.1) →
      ∃ t, exec (.storePerform c j) s = .next t ∧ t = { s with cores := t.cores, mem := t.mem, errs := t.errs, kept := t.kept }
        ∧ WroteViews s t (.cp c) ∧ (∀ q ∈ x.lanes, ∀ i, i < 4 → t.keptAt .cp (q.1 + i) = none)
        ∧ (∀ (n : Nat) (q : Nat × W32), x.lanes[n]? = some q →
            (∀ (m : Nat) (r : Nat × W32), n < m → x.lanes[m]? = some r → r.1 ≠ q.1) →
            HoldsBytes t q.1 (leBytes 4 q.2.toNat))
        ∧ (∀ a, (∀ q ∈ x.lanes, a < q.1 ∨ q.1 + 4 ≤ a) → t.byte a = s.byte a)
        ∧ (∀ d, d ≠ c → t.core d = s.core d)
        ∧ t.core c = { s.core c with stores := (s.core c).stores.eraseIdx j }

/-- 01 R17 and the entries of the queued ops.  `out` is a destination register; s0 is none. -/
def Obligations.QueuedOpsEnterTheirQueue : Prop :=
  ∀ (s : State) (sd sa sb sc : SR) (n q : BitVec 4) (n3 b3 ch c3 : BitVec 3) (n2 q2 m2 : BitVec 2) (n6 r6 : BitVec 6)
    (off : BitVec 20) (imm : BitVec 25) (h st wt fp bc upd raw wrap : Bool) (m1 b8 : BitVec 8) (n7 : BitVec 7)
    (anchor : BitVec 11) (rm : BitVec 3),
    let slot := s.iss.slot
    let a := s.srcS sa
    let b := s.srcS sb
    let c := s.srcS sc
    let pair := fun r : SR => [s.srcS r, s.srcS (r ||| 1)]
    let out := fun r : SR => if r = 0 then [] else [Reg.s r.toNat]
    let goes := fun (i : Instr) (vals : List W64) (dst : List Reg) => Enqueues s i slot vals dst
    let x : W64 := .ofNat 64 (a.toNat + (.ofInt 64 (16 * off.toInt) : W64).toNat)
    let len := 8 * (n6.toNat + 1)
    let traps := fun (i : Instr) (code : TrapCode) (info addr : W64) =>
      (s.core s.cur).handles → TrapsPrecisely s i code info addr
    (∃ t, exec (.mcall r6) s = .next t ∧ OnlyCore s.cur s t
      ∧ t.core s.cur = { (s.core s.cur).enqueue slot
          { instr := .mcall r6, slot := slot, seq := s.iss.seq, vals := [], dst := [], pc := (s.core s.cur).issPc } with
          lastMcall := some s.iss.seq })
    ∧ goes (.mpset n3 sa imm) [a] [] ∧ goes (.mpget n3 sd) [] (out sd)
    ∧ goes (.dsetField n sa q) [a] [] ∧ goes (.dget n sd h) [] (out sd) ∧ goes (.dtag n h) [] []
    ∧ goes (.mzero sa h raw m1 b8) [a] [] ∧ goes (.msca sa n7 h anchor) (pair sa) []
    ∧ goes (.cvRd n2 sd q2) [] (out sd) ∧ goes (.cvWr n2 sa q2) [a] [] ∧ goes (.cvAdd n2 q2 m2) [] []
    ∧ goes (.cvScl n2 q2 sa) [a] [] ∧ goes (.mucodeClr n6) [] []
    ∧ goes (.cp sa sb sc ch q st wt fp bc) [a, b, c] []
    ∧ goes (.cp2d sa sb sc ch q st wt fp bc) ([a, b] ++ pair sc) []
    ∧ goes (.cpMc sa sb sc ch q st wt fp bc) [a, b, c] [] ∧ goes (.cpChain sa ch) [a] []
    ∧ goes (.cpStat sd q) [] (out sd) ∧ goes (.agCfg sa n2) [a] []
    ∧ goes (.cpAg sa sb sc ch q st wt fp bc h n2) [a, b, c] []
    ∧ goes (.gqCfg sa n2) [a] [] ∧ goes (.gqPush sa n2 imm) [a] [] ∧ goes (.gqEnd n2) [] []
    ∧ goes (.cbInit sa b3) [a] [] ∧ goes (.cbPush sa b3 ch c3) [a] []
    ∧ goes (.cpSeq sa sb sc ch q st wt fp) ([a, b] ++ pair sc) []
    ∧ goes (.lkSend sa sb sc q st wt fp n2) [a, b, c] [] ∧ goes (.lkRecv sa sb sc q st wt fp bc ch) [a, b, c] []
    ∧ goes (.lkStat sd q n2) [] (out sd) ∧ goes (.lkTide sa q) [a] [] ∧ goes (.lkCirc sa) [a] []
    ∧ goes (.lkPark sa q) [a] [] ∧ goes (.lkRate sa n2) [a] []
    ∧ (x.toNat % 16 = 0 → x.toNat ≤ 0x1FFFF0 → goes (.dsetMem n sa off) [a] [])
    ∧ (x.toNat % 16 ≠ 0 → traps (.dsetMem n sa off) .align 4 x)
    ∧ (x.toNat % 16 = 0 → 0x1FFFF0 < x.toNat → traps (.dsetMem n sa off) .xlate 39 x)
    ∧ (a.toNat % 8 = 0 → a.toNat + len ≤ 0x200000 → goes (.mucode sa n6 r6) [a] [])
    ∧ (a.toNat % 8 ≠ 0 → traps (.mucode sa n6 r6) .align 3 a)
    ∧ (a.toNat % 8 = 0 → 0x200000 < a.toNat + len → traps (.mucode sa n6 r6) .xlate 39 a)
    ∧ (let o := Instr.acpyOut n sa sb upd n2 q st raw wrap rm
       let i := Instr.acpyIn n sa q upd st raw
       (255 < a.toNat → traps o .illegalOp (.ofNat 64 s.slotWord) 0 ∧ traps i .illegalOp (.ofNat 64 s.slotWord) 0)
       ∧ (a.toNat ≤ 255 → goes i [a] []
          ∧ ((rm = 4 → b.toNat % 4 = 0 ∧ b.toNat ≤ 0x1FFFFC) → goes o [a, b] [])
          ∧ (rm = 4 → b.toNat % 4 ≠ 0 → traps o .align 2 b)
          ∧ (rm = 4 → b.toNat % 4 = 0 → 0x1FFFFC < b.toNat → traps o .xlate 39 b)))

/-- 12 R277 to R298.  The model's choices, and no rules of the spec: that an op whose start checks fail stays as the op to
retry, out of its queue (log 24, DEDUCED), the address of an engine fault (log 38, DEDUCED), the anchor of an operation with
a non-zero finite element on one side alone (log 45, DEDUCED), that eb of an anchor skips scales of 0xFF and ea partials
under one (log 46, DEDUCED), that acpy.out meets an armed slot only with the bytes that it writes (log 49, DEDUCED), the
check of KIND for acpy.out (log 106, DEDUCED), what a path sees (log 125, DEDUCED), and what the checkpoint of an open segment takes of an op that issued before
it (log 118, DEDUCED).
`leaves f` says what the core is after the op; s0 discards writes. -/
def Obligations.MatrixOpsActAsTheyLeaveTheirQueue : Prop :=
  (∀ (s : State) (c : Nat) (e : QEntry) (rest : List QEntry),
    let k := s.core c
    k.engineOn = true → k.mq = e :: rest → k.c0q = [] → k.c1q = [] → k.call = none → k.acpy = none →
    k.stopped 0 0 = false → e.left = false → (∀ x ∈ rest, x.left = false ∧ e.seq < x.seq) →
    let go := exec (.queuedOpDepart c 0) s
    let v := e.vals.getD 0 0
    let becomes := fun (views : State → Prop) (good : Core → Prop) => ∃ t, go = .next t
      ∧ t = { s with cores := t.cores, kept := t.kept } ∧ (∀ d, d ≠ c → t.core d = s.core d) ∧ SameBytes s t
      ∧ views t ∧ good (t.core c)
    let leaves := becomes fun t => t.kept = s.kept
    let faulted := fun (f : Trp) (t : Core) => t = { k with
      mq := { e with left := true, mps := (List.range 8).map k.param, ds := (List.range 16).map k.desc } :: rest
      efaults := k.efaults ++ [{
        unit := 0, queue := 0, cause := f.code.num, detail := f.info % 2 ^ 48
        addr := if f.code = .uncorr then 0 else f.addr, taken := false }] }
    let faults := fun f => leaves (faulted f)
    let gives := fun (sd : SR) (x : W64) => leaves fun t =>
      ScalarIs k t sd x ∧ Checkpoints k t e.seq ∧ t = { k with mq := rest, s := t.s, segment := t.segment }
    let covers := fun (d : BitVec 2) (r : BitVec 256) => leaves fun t =>
      (∀ j, t.cover j = if j = d.toNat then r else k.cover j)
      ∧ (∀ b, t.statusBit b = (k.statusBit b || (b == 4 && cvThrottled r)))
      ∧ Checkpoints k t e.seq ∧ t = { k with mq := rest, cv := t.cv, status := t.status, segment := t.segment }
    let describes := fun (n : BitVec 4) (good : BitVec 128 → Prop) => becomes (SameViews s) fun t =>
      good (t.desc n.toNat) ∧ (∀ j, j ≠ n.toNat → t.desc j = k.desc j) ∧ t = { k with mq := rest, d := t.d }
    let outside := fun (lo len : Nat) (x y : BitVec 128) => ∀ b, (b < lo ∨ lo + len ≤ b) → x.getLsbD b = y.getLsbD b
    (∀ n sa imm, e.instr = .mpset n sa imm → leaves fun t =>
      (∀ j, t.param j = if j = n.toNat then .ofInt 64 (v.toInt + imm.toInt) else k.param j)
      ∧ Checkpoints k t e.seq ∧ t = { k with mq := rest, mp := t.mp, segment := t.segment })
    ∧ (∀ n sd, e.instr = .mpget n sd → gives sd (k.param n.toNat))
    ∧ (∀ n sd h, e.instr = .dget n sd h → gives sd ((k.desc n.toNat).extractLsb' (if h then 64 else 0) 64))
    ∧ (∀ a sd q, e.instr = .cvRd a sd q → gives sd ((k.cover a.toNat).extractLsb' (64 * q.toNat) 64))
    ∧ (∀ n w, e.instr = .dtag n w →
        describes n fun x => x.getLsbD 81 = w ∧ outside 81 1 x (k.desc n.toNat))
    ∧ (∀ n sa (f : BitVec 4), e.instr = .dsetField n sa f → f.toNat ≤ 6 →
        let at_ : Nat × Nat := [(0, 21), (21, 3), (24, 9), (33, 12), (45, 12), (57, 20), (77, 4)].getD f.toNat (0, 0)
        describes n fun x => x.toNat / 2 ^ at_.1 % 2 ^ at_.2 = v.toNat % 2 ^ at_.2
          ∧ outside at_.1 at_.2 x (k.desc n.toNat))
    ∧ (∀ n sa off, e.instr = .dsetMem n sa off →
        let a := (v + .ofInt 64 (16 * off.toInt)).toNat
        let w := leNat (s.bytesSeen (.engine c .mx) (spBase c + a) 16)
        a + 16 ≤ 0x200000 → s.gatedAt (spBase c + a) = false → poisoned s.errs (spBase c + a) 16 = none →
        w < 2 ^ 82 → describes n fun x => x = .ofNat 128 w)
    ∧ (∀ sa anc kind m1 b, e.instr = .mzero sa anc kind m1 b → leaves fun t =>
        (∀ r, let x := t.accRow r
          if b.toNat ≤ r ∧ r ≤ b.toNat + m1.toNat then
            x.kind = kind ∧ x.words = [] ∧ x.anchored = anc ∧ (anc = true → x.anchor = v.setWidth 11)
          else x = k.accRow r)
        ∧ t = { k with mq := rest, acc := t.acc })
    ∧ (∀ d sa q, e.instr = .cvWr d sa q → ∃ r : BitVec 256, covers d r
        ∧ ∀ b, b < 256 → r.getLsbD b =
          if 232 ≤ b ∨ (181 ≤ b ∧ b ≤ 183) then false
          else if b / 64 = q.toNat then v.getLsbD (b % 64) else (k.cover d.toNat).getLsbD b)
    ∧ (∀ d a b, e.instr = .cvAdd d a b → ∃ r, covers d r ∧ r = cvAdd (k.cover a.toNat) (k.cover b.toNat)
        ∧ cvRes r = bAdd (cvRes (k.cover a.toNat)) (cvRes (k.cover b.toNat))
        ∧ cvFull r = bAdd (cvFull (k.cover a.toNat)) (cvFull (k.cover b.toNat)))
    ∧ (∀ d a sa, e.instr = .cvScl d a sa → ∃ r, covers d r ∧ r = cvScale (k.cover a.toNat) (v.setWidth 32)
        ∧ cvRes r = bMul (v.setWidth 32) (cvRes (k.cover a.toNat))
        ∧ cvFull r = bMul (v.setWidth 32) (cvFull (k.cover a.toNat)))
    ∧ (∀ n, e.instr = .mucodeClr n → leaves fun t =>
        (∀ j, Tab.get [] t.ucode j = if j = n.toNat then [] else Tab.get [] k.ucode j)
        ∧ t = { k with mq := rest, ucode := t.ucode })
    ∧ (∀ sa count n, e.instr = .mucode sa count n →
        let len := 8 * (count.toNat + 1)
        let bs := s.bytesSeen (.engine c .mx) (spBase c + v.toNat) len
        v.toNat + len ≤ 0x200000 → s.gatedAt (spBase c + v.toNat) = false →
        poisoned s.errs (spBase c + v.toNat) len = none → leaves fun t =>
          (∀ i, i < 64 → (Tab.get [] t.ucode n.toNat).getD i 0 = .ofNat 64 (leNat ((bs.drop (8 * i)).take 8)))
          ∧ (∀ j, j ≠ n.toNat → Tab.get [] t.ucode j = Tab.get [] k.ucode j)
          ∧ t = { k with mq := rest, ucode := t.ucode })
    ∧ (∀ r, e.instr = .mcall r → k.tag ((k.param 0).toNat % 16) = true → k.tag ((k.param 1).toNat % 16) = true →
        let u := s.seeTagged c (k.namedTags e)
        let x := u.callState c e r.toNat
        SeesTagged s u c (k.namedTags e) ∧ u = { s with kept := u.kept } ∧ match u.callFault c x with
        | none => becomes (fun t => t.kept = u.kept) fun t => t = { k with mq := rest, call := some x }
        | some f => becomes (fun t => t.kept = u.kept) (faulted f))
    -- 12 R288: S[sa] and S[sa + 1] name the partials, the destination rows and the scales
    ∧ (∀ sa n1 anc anchor, e.instr = .msca sa n1 anc anchor →
        let q := e.vals.getD 1 0
        let n := n1.toNat + 1
        let src := v.toNat % 2 ^ 8
        let dst := v.toNat / 2 ^ 8 % 2 ^ 8
        let rows := v.toNat / 2 ^ 16 % 2 ^ 8 + 1
        let blocks := v.toNat / 2 ^ 24 % 2 ^ 8 + 1
        let xo := q.toNat % 2 ^ 21
        let wo := q.toNat / 2 ^ 32 % 2 ^ 21
        let scale := fun a : Nat => e8m0 (s.seen (.engine c .mx) (spBase c + a)).toNat
        let bad := v.toNat / 2 ^ 32 ≠ 0 ∨ q.toNat / 2 ^ 21 % 2 ^ 11 ≠ 0 ∨ q.toNat / 2 ^ 53 ≠ 0 ∨ 256 < src + rows * blocks
          ∨ 256 < dst + rows ∨ (∃ i, i < rows * blocks ∧ (k.accRow (src + i)).kind = true)
          ∨ ∃ i, i < rows ∧ (k.accRow (dst + i)).kind = false
        let beyond := fun lo n : Nat => 0x200000 < lo + n
        (bad → faults ⟨.illegalOp, 0, 0⟩)
        ∧ (¬bad → beyond xo (rows * blocks) → faults ⟨.xlate, 7 + 8 * 4, .ofNat 64 xo⟩)
        ∧ (¬bad → ¬beyond xo (rows * blocks) → beyond wo (blocks * n) → faults ⟨.xlate, 7 + 8 * 4, .ofNat 64 wo⟩)
        ∧ (¬bad → ¬beyond xo (rows * blocks) → ¬beyond wo (blocks * n) →
            poisoned s.errs (spBase c + xo) (rows * blocks) = none → poisoned s.errs (spBase c + wo) (blocks * n) = none →
            (∀ i, i < 0x200000 → s.gatedAt (spBase c + i) = false) →
            let part := fun m j i => (k.accRow (src + j * rows + m)).value i
            let x := fun m j => scale (xo + m * blocks + j)
            let w := fun j i => scale (wo + j * n + i)
            let ea := fun m => topExp ((List.range blocks).flatMap fun j => (List.range n).map fun i => (part m j i).mul (x m j))
            let eb := fun m => if ea m = none then none else topExp ((List.range (blocks * n)).map fun i => scale (wo + i))
            let row := fun m => (k.accRow (dst + m)).addColumns (if anc then some anchor.toNat else none) (ea m) (eb m)
              ((List.range n).map fun i => (List.range blocks).map fun j => ((part m j i).mul (x m j)).mul (w j i))
            leaves fun t =>
              (∀ m, m < rows → t.accRow (dst + m) = (row m).1)
              ∧ (∀ r, ¬(dst ≤ r ∧ r < dst + rows) → t.accRow r = k.accRow r)
              ∧ StatusGains k t (fun b => b = 3 ∧ ∃ m, m < rows ∧ (row m).2 = true)
              ∧ t = { k with mq := rest, acc := t.acc, status := t.status })))
  -- 12 R290: the start of an accumulator copy
  ∧ (∀ (s : State) (c : Nat) (e : QEntry) (rest : List QEntry) (o : AcpyOp), let k := s.core c
    k.engineOn = true → k.c0q = e :: rest → k.mq = [] → k.c1q = [] → k.call = none → k.acpy = none →
    k.stopped 0 0 = false → k.stopped 11 0 = false → e.left = false → (∀ x ∈ rest, x.left = false ∧ e.seq < x.seq) →
    acpyOp e = some o → k.tag o.n = true →
    let d := k.desc o.n
    let base := (e.vals.getD 0 0).toNat % 2 ^ 8
    let u := s.seeTagged c [o.n]
    let becomes := fun (x : Core) => ∃ t, exec (.queuedOpDepart c 1) s = .next t ∧ t = { s with cores := t.cores, kept := t.kept }
      ∧ (∀ d, d ≠ c → t.core d = s.core d) ∧ SameBytes s t ∧ SeesTagged s t c [o.n] ∧ t.core c = x
    let faults := fun (f : Trp) => becomes { k with
      c0q := { e with left := true, mps := (List.range 8).map k.param, ds := (List.range 16).map k.desc } :: rest
      efaults := k.efaults ++ [{
        unit := 0, queue := 0, cause := f.code.num, detail := f.info % 2 ^ 48
        addr := if f.code = .uncorr then 0 else f.addr, taken := false }] }
    let runs := fun imgs => becomes { k with
      c0q := rest, acpy := some { entry := e, d := d, images := imgs, row := 0, rho := none, rhoInf := false } }
    ((256 < base + dRows d ∨ 128 < dCols d ∨ 10 ≤ dFmt d ∨ dMc d = true
        ∨ (dFmt d = 5 ∧ (o.raw = false ∨ dCols d % 2 = 1))
        ∨ (o.raw = false ∧ ∃ r, r < dRows d ∧ (k.accRow (base + r)).kind ≠ decide (dFmt d ≤ 1))
        ∨ (o.out = false ∧ o.raw = true ∧ dStride d < 2112)) → faults ⟨.illegalOp, 0, 0⟩)
    ∧ (∀ f, u.acpyStartFault c e o d = some f → faults f)
    ∧ (u.acpyStartFault c e o d = none →
        ((o.out = true ∨ o.raw = false) → runs [])
        ∧ (∀ imgs, u.acpyImages c e o d = .ok imgs → runs imgs)
        ∧ (∀ f, u.acpyImages c e o d = .error f → faults f)))
  -- 12 R290 to R292: its rows
  ∧ ∀ (s : State) (c : Nat) (l : List Turn) (r : AcpyRun) (o : AcpyOp), let k := s.core c
    s.agenda = .engine c :: l → k.call = none → k.acpy = some r → k.engineOn = true → k.stopped 0 0 = false →
    acpyOp r.entry = some o →
    let d := r.d
    let n := dCols d
    let base := (r.entry.vals.getD 0 0).toNat % 2 ^ 8
    let pa := tilePa c d r.row
    let row := k.accRow (base + r.row)
    let inMem := fun (good : State → Prop) => ∃ t, step s = .next t
      ∧ t = { s with agenda := l, cores := t.cores, mem := t.mem, errs := t.errs, kept := t.kept } ∧ (∀ x, x ≠ c → t.core x = s.core x)
      ∧ good t
    let inRow := fun (x : AccRow) (sat : Bool) => inMem fun t => SameBytes s t ∧ t.errs = s.errs ∧ t.kept = s.kept
      ∧ (∀ i, (t.core c).accRow i = if i = base + r.row then x else k.accRow i)
      ∧ StatusGains k (t.core c) (fun b => b = 3 ∧ sat = true)
      ∧ t.core c = { k with
          acc := (t.core c).acc, status := (t.core c).status, acpy := some { r with row := r.row + 1 } }
    let takes := fun len : Nat => s.overlapsArmed pa len = false ∧ s.overlapsMark pa len = false
      ∧ ∀ i, i < len → s.gatedAt (pa + i) = false
    (r.row < dRows d →
      (∀ (dn : BitVec 4) (sr sn : SR) (upd : Bool) (cvc : BitVec 2) (flag : BitVec 4) (post wrap : Bool) (rm : BitVec 3) (f : Fmt)
          (z : Nat → Nat), r.entry.instr = .acpyOut dn sr sn upd cvc flag post false wrap rm → fmtOf (dFmt d) = some f →
        (o.noise = none → ∀ i, z i = 0) →
        (∀ a, o.noise = some a → ∀ i, i < n → let b := spBase c + a + 4 * (r.row * n + i)
          z i = leNat (s.bytesSeen (.engine c .mx) b 4) % 2 ^ 16 ∧ poisoned s.errs b 4 = none ∧ s.gatedAt b = false) →
        let y := fun i => roundOut f rm.toNat wrap (row.value i) (z i)
        let bytes := (List.range n).flatMap fun i => leBytes (f.width / 8) (y i).1
        takes bytes.length → inMem fun t => HoldsBytes t pa bytes ∧ SameBytesBut s t pa bytes.length
          ∧ KeptAfter s t (r.writer c) pa bytes.length
          ∧ StatusGains k (t.core c) (fun b => b = 3 ∧ ∃ i, i < n ∧ (y i).2.1 = true)
          ∧ ∃ rho, t.core c = { k with
              status := (t.core c).status
              acpy := some { r with row := r.row + 1, rho := rho, rhoInf := r.rhoInf || (List.range n).any fun i => (y i).2.2 } }
            ∧ (∀ i, i < n → (y i).2.2 = false → ∃ b, rho = some b ∧
                f.stepExp (row.value i) - (if rm = 0 then 1 else 0) ≤ b)
            ∧ (rho = r.rho ∨ ∃ i, i < n ∧ rho = some (f.stepExp (row.value i) - (if rm = 0 then 1 else 0))))
      ∧ (o.out = true → o.raw = true → n ≤ 128 → takes 2112 → inMem fun t => WroteViews s t (r.writer c) ∧
          HoldsBytes t pa ((List.range n).flatMap fun i => leBytes 16 (row.word i).2.toNat)
          ∧ (∀ i, i < n → leNat (t.bytesAt (pa + 2048) 32) / 4 ^ i % 4 = (row.word i).1.toNat)
          ∧ HoldsBytes t (pa + 2080) (leBytes 8 ((if row.kind then 1 else 0) + 2 * row.anchor.toNat
              + 4096 * (if row.anchored then 1 else 0)) ++ List.replicate 24 0)
          ∧ (∀ a, (a < pa ∨ pa + 16 * n ≤ a) → (a < pa + 2048 ∨ pa + 2112 ≤ a) → t.byte a = s.byte a)
          ∧ t.core c = { k with acpy := some { r with row := r.row + 1 } })
      ∧ (∀ xs, o.out = false → o.raw = false → s.tileElems c pa (dFmt d) 0 n = .ok xs →
          let vs := xs.map (elemValue (dFmt d))
          let y := row.addColumns none (topExp vs) (some 0) (vs.map fun v => [v])
          inRow y.1 y.2)
      ∧ (o.out = false → o.raw = true →
          let y := row.takeImage (r.images.getD r.row []) n o.accum
          inRow y.1 y.2))
    ∧ (dRows d ≤ r.row → inMem fun t => SameBytes s t ∧ t.errs = s.errs
        ∧ (r.posts = false → t.kept = s.kept) ∧ (r.posts = true → Releases s t (r.writer c).sameOp fun _ => true)
        ∧ t.core c = { k with
        acpy := none, cv := (t.core c).cv, f := (t.core c).f, status := (t.core c).status, segment := (t.core c).segment }
        ∧ Checkpoints k (t.core c) r.entry.seq
        ∧ (∀ (dn : BitVec 4) (sr sn : SR) (upd : Bool) (cvc : BitVec 2) (flag : BitVec 4) (post raw wrap : Bool) (rm : BitVec 3),
          r.entry.instr = .acpyOut dn sr sn upd cvc flag post raw wrap rm →
          (∀ i, (t.core c).cover i = if upd = true ∧ i = cvc.toNat then cvRound (k.cover i) r.term else k.cover i)
          ∧ ∀ i, (t.core c).flag i = if post = true ∧ i = flag.toNat then
              .ofNat 16 (min 0xFFFF ((k.flag i).toNat + 1)) else k.flag i)
        ∧ (∀ (dn : BitVec 4) (sr : SR) (flag : BitVec 4) (accum post raw : Bool),
          r.entry.instr = .acpyIn dn sr flag accum post raw →
          (t.core c).cv = k.cv ∧ ∀ i, (t.core c).flag i = if post = true ∧ i = flag.toNat then
              .ofNat 16 (min 0xFFFF ((k.flag i).toNat + 1)) else k.flag i))

/-- 14 R302, R313, R319, R329 and 19 R410, R414.  What the checkpoint of an open segment takes of an op that issued before
it: log 118, DEDUCED. -/
def Obligations.CopyGatherAndLinkOpsLeaveForTheirUnits : Prop :=
  ∀ (s : State) (c : Nat) (e : QEntry) (rest : List QEntry),
    let k := s.core c
    k.engineOn = true → k.c0q = e :: rest → k.c1q = [] → k.stopped 11 0 = false → e.left = false →
    (∀ d, waitTag e.instr = some d → k.tag d = true) → (∀ x ∈ rest, x.left = false ∧ x.seq ≠ e.seq) →
    let v := e.vals.getD 0 0
    let leaves := fun (good : Core → Prop) =>
      ∃ t, exec (.queuedOpDepart c 1) s = .next t ∧ OnlyCore c s t ∧ good (t.core c)
    let gives := fun (sd : SR) (x : W64) => leaves fun t => ScalarIs k t sd x ∧ Checkpoints k t e.seq
      ∧ t = { k with c0q := rest, s := t.s, segment := t.segment }
    let joins := fun (q : BitVec 2) (item : GItem) => k.stopped 9 q.toNat = false → leaves fun t =>
      (∀ j, t.gqueue j = if j = q.toNat then { k.gqueue j with items := (k.gqueue j).items ++ [item] } else k.gqueue j)
      ∧ t = { k with c0q := rest, gq := t.gq }
    (∀ ch : BitVec 3, chanOf e.instr = some ch.toNat → acpyDesc e.instr = none → k.stopped (1 + ch.toNat) 0 = false →
      ((k.chan ch.toNat).fifo.filter fun r => !r.started).length < 8 → leaves fun t =>
        (∀ j, t.chan j = if j = ch.toNat then { k.chan j with fifo := (k.chan j).fifo ++ [.enter e] } else k.chan j)
        ∧ t = { k with c0q := rest, chans := t.chans })
    ∧ (∀ dst src len ch d st wt fp bc, e.instr = .cp dst src len ch d st wt fp bc → chanOf e.instr = some ch.toNat)
    ∧ (∀ dst src len ch d st wt fp bc, e.instr = .cp2d dst src len ch d st wt fp bc → chanOf e.instr = some ch.toNat)
    ∧ (∀ dst src len ch d st wt fp bc, e.instr = .cpMc dst src len ch d st wt fp bc → chanOf e.instr = some ch.toNat)
    ∧ (∀ dst src len ch d st wt fp, e.instr = .cpSeq dst src len ch d st wt fp → chanOf e.instr = some ch.toNat)
    ∧ (∀ dst src len ch d st wt fp bc x g, e.instr = .cpAg dst src len ch d st wt fp bc x g →
        chanOf e.instr = some ch.toNat)
    ∧ (∀ sa ch, e.instr = .cpChain sa ch → chanOf e.instr = some ch.toNat)
    ∧ (∀ sa b ch x, e.instr = .cbPush sa b ch x → chanOf e.instr = some ch.toNat)
    ∧ (∀ sa q, e.instr = .gqCfg sa q → joins q (.cfg e))
    ∧ (∀ q, e.instr = .gqEnd q → joins q (.done e))
    ∧ (∀ sa q imm, e.instr = .gqPush sa q imm → (k.gqueue q.toNat).indices < 64 →
        joins q (.idx ((v.toNat + imm.toNat) % 2 ^ 32) e.seq e.pc))
    ∧ (∀ sd (n : BitVec 4), e.instr = .cpStat sd n → n.toNat < 8 → gives sd (k.chanStatus n.toNat))
    ∧ (∀ sd (n : BitVec 4), e.instr = .cpStat sd n → 8 ≤ n.toNat → gives sd (k.cbuf (n.toNat - 8)).status)
    ∧ (∀ sd q kind, e.instr = .lkStat sd q kind → gives sd (s.linkStatus c q.toNat kind.toNat))
    ∧ (∀ sa b, e.instr = .cbInit sa b → v.toNat / 2 ^ 21 % 8 = 0 → v.toNat / 2 ^ 36 % 16 = 0 → v.toNat < 2 ^ 48 →
        let base := v.toNat % 2 ^ 21
        let slot := 64 * (v.toNat / 2 ^ 24 % 2 ^ 12 + 1)
        let n := v.toNat / 2 ^ 40 % 2 ^ 8 + 1
        base % 64 = 0 → base + slot * n ≤ 0x200000 → (k.cbuf b.toNat).init = false → leaves fun t =>
          (∀ j, t.cbuf j = if j = b.toNat then { init := true, base := base, slot := slot, nslot := n, reserved := 0
                                                 filled := 0, popped := 0, released := 0, landed := [] }
            else k.cbuf j)
          ∧ t = { k with c0q := rest, cb := t.cb })
    ∧ (∀ sa q, e.instr = .lkRate sa q → k.linkStopped 2 0 = false → v.toNat < 2 ^ 16 → leaves fun t =>
        (∀ j, Tab.get none t.rateNext j = if j = q.toNat then some (v.setWidth 16) else Tab.get none k.rateNext j)
        ∧ t = { k with c0q := rest, rateNext := t.rateNext })

/-- 14 R302 to R320 and R328, R329.  `faulted` says that the unit has the fault pending, `step` is the next piece of an
element of n bytes from src to each of dsts, and the step after its last.  That TRAP_ADDR of an ENGINE fault is 0 for
ILLEGAL_OP and UNCORR is the model's choice (log 38, DEDUCED), and so is the base of a service core's cluster window,
which cp.mc and cb.push use (log 12, DESIGN CHOICE).  `calm` says that the unit has no entry of a walk in a drawer to read
and has read none (19 R392; log 56, DESIGN CHOICE).  What a path sees and a release point ends: log 125, DEDUCED. -/
def Obligations.CopyAndGatherUnitsMoveBytes : Prop :=
  ∀ (s : State) (c : Nat),
    let k := s.core c
    let faulted := fun (unit queue : Nat) (t : Trp) (i : Instr) =>
      ∃ u, exec i s = .next u ∧ OnlyCore c s u ∧ u.core c = { k with
        efaults := k.efaults ++ [{ unit := unit, queue := queue, cause := t.code.num, detail := t.info % 2 ^ 48
                                   addr := if t.code = .uncorr then 0 else t.addr, taken := false }] }
    let only := fun (i : Instr) (good : Core → Prop) =>
      ∃ u, exec i s = .next u ∧ OnlyCore c s u ∧ good (u.core c)
    let sees := fun (i : Instr) (views : State → Prop) (good : Core → Prop) =>
      ∃ u, exec i s = .next u ∧ u = { s with cores := u.cores, kept := u.kept } ∧ SameBytes s u
        ∧ (∀ d, d ≠ c → u.core d = s.core d) ∧ views u ∧ good (u.core c)
    let moves := fun (i : Instr) (w : Writer) (pas : List Nat) (bytes : List Byte) (good : Core → Prop) =>
      ∃ u, exec i s = .next u
        ∧ u = { s with cores := u.cores, mem := u.mem, errs := u.errs, kept := u.kept, freeNo := u.freeNo, fabric := u.fabric }
        ∧ WroteViews s u w ∧ (∀ pa ∈ pas, ∀ j, j < bytes.length → u.keptAt w.view (pa + j) = none)
        ∧ (∀ pa ∈ pas, HoldsBytes u pa bytes)
        ∧ (∀ a, (∀ pa ∈ pas, a < pa ∨ pa + bytes.length ≤ a) → u.byte a = s.byte a)
        ∧ (∀ d, d ≠ c → u.core d = s.core d) ∧ good (u.core c)
    let calm := fun (unit : Nat) (p : Path) (vas : List W64) =>
      s.walkPending c unit p vas = none ∧ s.walking c unit = false
    let chanIs := fun (t : Core) (ch : Nat) (l : List CopyRun) =>
      ∀ j, t.chan j = if j = ch then { k.chan ch with fifo := l } else k.chan j
    let step := fun (ch : Nat) (r : CopyRun) (rest : List CopyRun) (n : Nat) (src : W64) (dsts : List W64) =>
      let m := Nat.min (n - r.off) (4096 - ((dsts.headD 0).toNat + r.off) % 4096)
      (∀ (bytes : List Byte) (pas : List Nat), r.off < n → r.down = some false → r.snap = none →
        s.drawerFlits (s.readsOf c .cy (src + .ofNat 64 r.off) m) = [] →
        s.memRead c .cy (src + .ofNat 64 r.off) m = .ok bytes → bytes.length = m → pas.length = dsts.length →
        (∀ (i : Nat) (d : W64) (pa : Nat), dsts[i]? = some d → pas[i]? = some pa →
          s.writeCheck c .cy (d + .ofNat 64 r.off) m = .ok [(pa, m)]) →
        pas.Pairwise (fun a b => a + m ≤ b ∨ b + m ≤ a) →
        moves (.copyPiece c ch) (r.writer c ch) pas bytes fun t =>
          (∃ r', chanIs t ch (r' :: rest) ∧ r' = { r with off := r.off + m, ind := r'.ind, spans := r'.spans })
          ∧ t = { k with chans := t.chans, tlb := t.tlb, tlbCy := t.tlbCy })
      ∧ (n ≤ r.off → r.whole = false → (∀ a b n x y st wt z, r.entry.instr ≠ .cpSeq a b n x y st wt z) →
        only (.copyPiece c ch) fun t =>
          chanIs t ch ({ r with elem := r.elem + 1, off := 0, down := none, snap := none } :: rest)
          ∧ t = { k with chans := t.chans })
    let queueIs := fun (t : Core) (q : Nat) (g : GQueue) => ∀ j, t.gqueue j = if j = q then g else k.gqueue j
    k.engineOn = true →
    (∀ (ch : Nat) (r : CopyRun) (rest : List CopyRun) (dst src len : SR) (chn : BitVec 3) (d : BitVec 4)
        (st wt fp bc : Bool),
      ch < 8 → k.stopped (1 + ch) 0 = false → (k.chan ch).fifo = r :: rest →
      r.entry.instr = .cp dst src len chn d st wt fp bc →
      let va := r.entry.vals.getD 0 0
      let from_ := r.entry.vals.getD 1 0
      let w := (r.entry.vals.getD 2 0).toNat
      let n := w % 2 ^ 32
      let good := w < 2 ^ 53 ∧ (bc = false → w / 2 ^ 36 = 0) ∧ (fp = false → w / 2 ^ 32 % 16 = 0)
      let flag := w / 2 ^ 32 % 16
      (calm (1 + ch) .cy (s.stepVas c r) → (r.landed = false → r.started = false → ¬good → faulted (1 + ch) 0 ⟨.illegalOp, 0, 0⟩ (.copyPiece c ch))
      ∧ (r.landed = false → r.started = false → good → 0 < n → s.landCheck c .cy va n = .ok () →
          only (.copyPiece c ch) fun t =>
            chanIs t ch ({ r with started := true, snap := none, whole := false } :: rest)
            ∧ t = { k with chans := t.chans })
      ∧ (r.landed = false → r.started = true → r.elem = 0 → 0 < n → step ch r rest n from_ [va])
      ∧ (r.landed = false → r.started = true → 0 < n → 1 ≤ r.elem → bc = false →
          only (.copyPiece c ch) fun t =>
            chanIs t ch ({ r with landed := true } :: rest) ∧ t = { k with chans := t.chans }))
      ∧ (r.landed = true → s.owes c (1 + ch) 0 = false → fp = false → sees (.copyComplete c ch)
          (fun u => SameViews s u ∧ (st = true → ∀ x ∈ u.kept, ∀ y ∈ x.unseen, (r.writer c ch).sameOp y = true → y.tagged = some d.toNat))
          fun t => chanIs t ch rest
          ∧ (∀ j, t.tag j = if st = true ∧ j = d.toNat then true else k.tag j)
          ∧ t = { k with chans := t.chans, d := t.d })
      ∧ (∀ (a b o : Nat), r.landed = true → s.owes c (1 + ch) 0 = false → fp = true → st = false → r.spans = [(a, b)] →
          a < b → spCore (64 * a) = some o → spCore (64 * (b - 1)) = some o → s.runsCtx o k.ctx = true →
          ∃ u, exec (.copyComplete c ch) s = .next u ∧ u = { s with cores := u.cores, kept := u.kept }
            ∧ Releases s u (r.writer c ch).sameOp (fun _ => true)
            ∧ (∀ x, x ≠ c → x ≠ o → u.core x = s.core x)
            ∧ (∀ j, (u.core o).flag j = if j = flag then .ofNat 16 (min 0xFFFF (((s.core o).flag j).toNat + 1))
                else (s.core o).flag j)
            ∧ chanIs (u.core c) ch rest))
    ∧ (∀ (ch : Nat) (r : CopyRun) (rest : List CopyRun),
      ch < 8 → k.stopped (1 + ch) 0 = false → (k.chan ch).fifo = r :: rest → r.landed = false → r.started = true →
      calm (1 + ch) .cy (s.stepVas c r) →
      let v := fun i => r.entry.vals.getD i 0
      let n := (v 2).toNat % 2 ^ 32
      let i := r.elem
      let steps := step ch r rest
      (∀ a b l chn d st wt fp bc, r.entry.instr = .cp2d a b l chn d st wt fp bc → 0 < n →
        let w := (v 3).toNat
        i ≤ w % 2 ^ 16 → steps n (v 1 + .ofNat 64 (i * (w / 2 ^ 16 % 2 ^ 24))) [v 0 + .ofNat 64 (i * (w / 2 ^ 40 % 2 ^ 24))])
      ∧ (∀ a b l chn d st wt fp bc, r.entry.instr = .cpMc a b l chn d st wt fp bc → 0 < n → i = 0 →
        let cores := (List.range 8).filter fun j => (v 0).getLsbD (56 + j)
        cores ≠ [] → steps n (v 1) (cores.map fun j => .ofNat 64 (0x1000000 + 0x200000 * j + (v 0).toNat % 2 ^ 21)))
      ∧ (∀ a b l chn d st wt fp bc side g, r.entry.instr = .cpAg a b l chn d st wt fp bc side g → i < agCount r.words →
        let blk := r.words
        let at_ := fun e : Nat => i / ((List.range e).map (agCnt blk)).prod % agCnt blk e
        ∀ held : Option (Nat × W64), s.agEntry c blk r.ind i = .ok held →
        let x := blk.getD 0 0 + .ofInt 64 (((List.range 4).map fun e =>
          (if e = agInd blk then (held.map fun q => (q.2.toNat : Int)).getD 0 else (at_ e : Int)) * agStr blk e).sum)
        let line := fun base : W64 => base + .ofNat 64 (i * agElem blk)
        (side = false → steps (agElem blk) (v 1 + x) [line (v 0)])
        ∧ (side = true → (∀ off m, s.landCheck c .cy (v 0 + x + .ofNat 64 off) m = .ok ()) →
            steps (agElem blk) (line (v 1)) [v 0 + x]))
      ∧ (∀ sa chn, r.entry.instr = .cpChain sa chn → r.words.length = 8 → 0 < (r.words.getD 3 0).toNat % 2 ^ 32 → i = 0 →
        steps ((r.words.getD 3 0).toNat % 2 ^ 32) (r.words.getD 1 0) [r.words.getD 2 0])
      ∧ (∀ sa chn, r.entry.instr = .cpChain sa chn → r.words = [] →
        let va := BitVec.ofNat 64 r.record
        s.drawerFlits (s.readsOf c .cy va 64) = [] →
        (r.record = 0 → only (.copyPiece c ch) fun t =>
          chanIs t ch ({ r with landed := true } :: rest) ∧ t = { k with chans := t.chans })
        ∧ (∀ bs : List Byte, r.record ≠ 0 → r.record % 64 = 0 →
          s.memRead c .cy va 64 = .ok bs →
          let w := (List.range 8).map fun j => BitVec.ofNat 64 (leNat ((bs.drop (8 * j)).take 8))
          (w.getD 3 0).getLsbD 32 = false →
          ∃ u, exec (.copyPiece c ch) s = .next u ∧ u = { s with cores := u.cores, freeNo := u.freeNo, fabric := u.fabric }
            ∧ (∀ d, d ≠ c → u.core d = s.core d)
            ∧ (∀ j, (u.core c).chan j =
                if j = ch then { fifo := { r with landed := true } :: rest, ended := true, last := va } else k.chan j)))
      ∧ (∀ sa b chn x, r.entry.instr = .cbPush sa b chn x → i = 0 →
        let f := (s.core (8 * (c / 8) + x.toNat)).cbuf b.toNat
        0 < f.slot → steps f.slot (v 0)
          [.ofNat 64 (0x1000000 + 0x200000 * x.toNat + (f.base + r.slotNo % f.nslot * f.slot))])
      ∧ (∀ a b l chn d st wt fp, r.entry.instr = .cpSeq a b l chn d st wt fp → i < (v 3).toNat % 2 ^ 16 →
        let size := 2 ^ ((r.words.getD 0 0).toNat % 64)
        let slot := (v 2).toNat + i
        (∀ (dst : W64) (e : Desc), (v 1).toNat + i * size + size ≤ 0x200000 → s.descFor (.core c) (v 0) .homeRead = .ok e →
          s.slotAddr (.core c) e slot 8 = .ok dst → steps size (.ofNat 64 ((v 1).toNat + i * size)) [dst])
        ∧ (∀ (e : Desc) (busy : Bool) (t : State), size ≤ r.off → r.whole = false →
          s.descOp (.core c) (v 0) .atomic = .ok e → e.inUse → s.commitSlot e slot = .ok (busy, t) →
          ∃ u, exec (.copyPiece c ch) s = .next u ∧ u = { t with cores := u.cores, kept := u.kept }
            ∧ (if busy then u.kept = t.kept else Releases t u (r.writer c ch).sameOp fun _ => true) ∧ (∀ d, d ≠ c → u.core d = t.core d)
            ∧ chanIs (u.core c) ch ((if busy then r else
                { r with elem := r.elem + 1, off := 0, down := none, snap := none }) :: rest))))
    ∧ (∀ (q : Nat), q < 4 → k.stopped 9 q = false → (k.gqueue q).landed = false → (k.gqueue q).closing = false →
      calm (9 + q) .ga (s.gVas c (k.gqueue q)) →
      let g := k.gqueue q
      let i := Instr.gatherRow c q
      (∀ r sq pc l, g.items = .idx r sq pc :: l → g.cfg = none → faulted 9 q ⟨.illegalOp, 0, 0⟩ i)
      ∧ (∀ e l, g.items = .done e :: l → g.writes = none → only i fun t =>
          queueIs t q { g with closing := true } ∧ t = { k with gq := t.gq })
      ∧ (∀ e l b, g.items = .cfg e :: l → g.rows = [] → s.gLoad c (e.vals.getD 0 0) = .ok b → only i fun t =>
          queueIs t q { g with cfg := some b, items := l } ∧ t = { k with gq := t.gq })
      ∧ (∀ r sq pc l b, g.items = .idx r sq pc :: l → g.cfg = some b → gCombine b = false → gTocb b = false →
          g.oneSp = false → g.done = g.rows.length → only i fun t =>
          queueIs t q { g with items := l, rows := g.rows ++ [r], pcs := g.pcs ++ [pc] } ∧ t = { k with gq := t.gq })
      ∧ (∀ r b (bytes : List Byte) (pa : Nat), g.rows[g.done]? = some r → g.cfg = some b → gCombine b = false →
          gTocb b = false → g.oneSp = false → g.waits = false → g.off = 0 → g.pre = [] → g.preErrs = [] →
          let n := gRowb b
          let table := gTbase b + .ofNat 64 (r * gRstride b)
          let data := gDbase b + .ofNat 64 (g.done * n)
          let from_ := if gScatter b then data else table
          let dest := if gScatter b then table else data
          let m := Nat.min n (4096 - dest.toNat % 4096)
          s.drawerFlits (s.readsOf c .ga from_ m) = [] → s.memRead c .ga from_ m = .ok bytes → bytes.length = m →
          s.landCheck c .ga dest m = .ok () → s.writeCheck c .ga dest m = .ok [(pa, m)] → moves i (gWriter c q) [pa] bytes fun t =>
            (∃ g', queueIs t q g' ∧
              g' = if m < n then { g with off := m, spans := g'.spans, pre := g'.pre, preErrs := g'.preErrs }
                else { g with done := g.done + 1, spans := g'.spans })
            ∧ t = { k with gq := t.gq, tlb := t.tlb, tlbGa := t.tlbGa }))
    ∧ (∀ b : Nat, let x := k.cbuf b
      let lo := spBase c + (x.base + x.filled % x.nslot * x.slot)
      sees (.slotFilled c b) (fun u => if x.filled ∈ x.landed then Releases s u (fun _ => true) (fun pa => lo ≤ pa && pa < lo + x.slot)
          else u.kept = s.kept) fun t =>
        (∀ j, t.cbuf j = if j = b ∧ x.filled ∈ x.landed then
            { x with filled := x.filled + 1, landed := x.landed.filter (· != x.filled) } else k.cbuf j)
        ∧ t = { k with cb := t.cb })

/-- 12 R295.  `goes y` says that the call in hand is y and nothing else has changed.  The model's choices, and no rules of
the spec: that seta with rows above 255 faults with ILLEGAL_OP (log 47, DEDUCED), that BIN takes the bits of
bx_res as they come (log 111, DEDUCED), the address that a fault reports (log
38, DEDUCED), and what the checkpoint of an open segment takes of a call that issued before it (log 118, DEDUCED). -/
def Obligations.MicroOpsActOnTheCallInHand : Prop :=
  ∀ (s : State) (x : Call) (gr planes : Bool) (a : BitVec 3) (imm : BitVec 8) (pos : BitVec 6),
    let c := s.cur
    let k := s.core c
    k.call = some x → k.run = .running → k.preReq = false → k.stopped 0 0 = false →
    let next := { x with pos := x.pos + 1 }
    let does := fun (i : Instr) (good : Core → Prop) =>
      ∃ t, exec i s = .next t ∧ OnlyCore c s t ∧ good (t.core c)
    let goes := fun (i : Instr) (y : Option Call) => does i fun t => t = { k with call := y }
    let faults := fun (i : Instr) (f : Trp) => does i fun t => t = { k with
      efaults := k.efaults ++ [{ unit := 0, queue := 0, cause := f.code.num, detail := f.info % 2 ^ 48
                                 addr := if f.code = .uncorr then 0 else f.addr, taken := false }] }
    let ma := fun i => x.ma.getD i 0
    let word := fun off => leNat (s.bytesSeen (.engine c .mx) (spBase c + off) 4)
    let readable := fun off => poisoned s.errs (spBase c + off) 4 = none ∧ s.gatedAt (spBase c + off) = false
    let covers := fun (good : BitVec 256 → Prop) => does .bound fun t =>
      let d := (ma 7).toNat % 4
      good (t.cover d) ∧ (∀ j, j ≠ d → t.cover j = k.cover j)
      ∧ (∀ b, t.statusBit b = (k.statusBit b || (b == 4 && cvThrottled (t.cover d))))
      ∧ Checkpoints k t x.entry.seq
      ∧ t = { k with call := some next, cv := t.cv, status := t.status, segment := t.segment }
    goes (.acc a imm) (some { next with tgt := (ma a.toNat).toNat % 256 + imm.toNat, pl := false })
    ∧ goes .uend none
    ∧ (x.g < x.k → goes (.loop pos) (some { x with pos := pos.toNat }))
    ∧ (x.k ≤ x.g → goes (.loop pos) (some next))
    ∧ (x.z = true → goes (.brz pos) (some { x with pos := pos.toNat }))
    ∧ (x.z = false → goes (.brz pos) (some next))
    ∧ (x.k % 32 = 0 → goes .blk (some { next with pl := true }))
    ∧ (x.k % 32 ≠ 0 → faults .blk ⟨.illegalOp, 0, 0⟩)
    ∧ (let want := min 128 (x.k - x.g)
       let n := if x.gc = 0 then want else min want (x.e / x.gc)
       goes .grade (some { next with ng := n, e := x.e - n * x.gc, z := n == 0, graded := true }))
    ∧ (∀ tile : List (List Nat), tile.length = (if gr then min x.ng (min 128 (x.k - x.g)) else min 128 (x.k - x.g)) →
        (∀ i e, tile[i]? = some e → s.gradeElems c x (x.g + i) = .ok e) →
        goes (.ldw gr) (some { next with
          first := x.g, latch := tile, g := x.g + tile.length, ng := tile.length }))
    ∧ (let off := (ma a.toNat).toNat % 2 ^ 21
       (off % 4 ≠ 0 → faults (.tail a) ⟨.align, 2, .ofNat 64 off⟩)
       ∧ (off % 4 = 0 → 0x200000 < off + 4 * x.k + 4 → faults (.tail a) ⟨.xlate, 39, .ofNat 64 off⟩)
       ∧ (off % 4 = 0 → off + 4 * x.k + 4 ≤ 0x200000 → readable off → readable (off + 4 * x.g) →
          goes (.tail a) (some { next with t0 := .ofNat 32 (word off), tg := .ofNat 32 (word (off + 4 * x.g)) })))
    ∧ (let inc := k.incoming x
       let xm := if x.fresh then x.xmax else cvXmax inc
       let bin := if x.fresh then cvRes inc else cvBin inc
       covers fun r =>
        cvRes r = (if (x.fresh && x.nan || cvNan inc) then 0x7F800000 else bAdd (bMul x.t0 bin) (bMul x.tg xm))
        ∧ cvFull r = (if x.fresh then bMul x.t0 (bAdd (cvFull inc) xm) else cvFull inc)
        ∧ cvXmax r = xm ∧ cvBin r = bin ∧ cvCursor r = x.g % 65536 ∧ cvK r = x.k % 65536
        ∧ cvDone r = (x.g == x.k) ∧ cvFresh r = x.fresh ∧ cvEleft r = x.e % 2 ^ 48)
    ∧ (x.fresh = false → goes .xmax (some next))
    ∧ (∀ rows : List (List Nat), x.fresh = true → rows.length = x.m →
        (∀ i e, rows[i]? = some e → s.tileElems c (tilePa c x.x i) (dFmt x.x) 0 x.k = .ok e) →
        let vals := rows.flatten.map (elemValue (dFmt x.x))
        goes .xmax (some { next with xmax := inputMax (ma 0) vals, nan := vals.any Num.isNan }))
    ∧ (let rows := x.m * (if planes then x.k / 32 else 1)
       let y := { next with anchor := if (ma 3).getLsbD 16 then some ((ma 3).toNat / 2 ^ 17 % 2 ^ 11) else none }
       (256 < x.b + rows → faults (.seta planes) ⟨.illegalOp, 0, 0⟩)
       ∧ (x.b + rows ≤ 256 → x.fresh = true → does (.seta planes) fun t =>
          (∀ r, if x.b ≤ r ∧ r < x.b + rows then
              (t.accRow r).kind = x.kind ∧ (t.accRow r).words = [] ∧ (t.accRow r).anchored = false
            else t.accRow r = k.accRow r)
          ∧ t = { k with call := some y, acc := t.acc })
       ∧ (x.b + rows ≤ 256 → x.fresh = false → (∀ r, x.b ≤ r → r < x.b + rows → (k.accRow r).kind = x.kind) →
          goes (.seta planes) (some y)))
    ∧ (x.latch = [] → goes .strm (some { next with pass := 0 }))
    ∧ (∀ elems : List (List Nat), x.latch ≠ [] → x.pl = false → x.kind = false → x.pass = 0 → x.m ≤ x.block →
        0 < x.m → elems.length = x.m → x.tgt + x.m ≤ 256 → (∀ m, m < x.m → (k.accRow (x.tgt + m)).kind = false) →
        (∀ i e, elems[i]? = some e → s.tileElems c (tilePa c x.x i) (dFmt x.x) x.first x.latch.length = .ok e) →
        does .strm fun t =>
          (∀ r j, let old := (k.accRow r).word j
            let products := (x.latch.zip (elems.getD (r - x.tgt) [])).map fun q =>
              (elemValue (dFmt x.x) q.2).mul ((q.1.map (elemValue (dFmt x.w))).getD j .nan)
            if x.tgt ≤ r ∧ r < x.tgt + x.m ∧ j < x.n then
              ((t.accRow r).word j).2 = .ofInt 128 (min (2 ^ 127 - 1) (max (-(2 ^ 127))
                (old.2.toInt + (products.map aqSteps).sum)))
            else (t.accRow r).word j = old)
          ∧ (∀ b, b ≠ 3 → t.statusBit b = k.statusBit b)
          ∧ t = { k with call := some { next with pass := 0 }, acc := t.acc, status := t.status })

/-- 06 R154 to R162, 08 R209, R210, 14 R324, R326, R330 and 17 R381.  `frees cond good` says that a release does nothing
while `cond` is false, and else ends the hold with the core as `good` says; `abandons` that the hold is ended without its
condition, with BAR_STATE, reason 1, pending at the boundary.  The model's choices, and no rules of the spec: that drain,
step and fence.sc wait for the accesses of their own bundle (log 52, DEDUCED), that the ops which wtag.clr waits for include
those of the link engine (log 53, DEDUCED), what the checkpoint of an open segment takes of a sync op that issued before it
(log 118, DEDUCED), that rdv ends the mark of a rewind on the slots of its own group alone (log 119, DEDUCED), that fl.wait
gives its flag as it is after the subtraction (log 122, DEDUCED), what a path sees (log 125, DEDUCED), and TRAP_ADDR of the PROT of fl.post.r (log 114, DESIGN
CHOICE). -/
def Obligations.SyncOpsHoldUntilTheirCondition : Prop :=
  (∀ (s : State) (sd sa sb : SR) (l t x m flag : BitVec 4) (mask : BitVec 16) (p q sc : BitVec 3) (n imm : BitVec 12)
      (n14 : BitVec 14) (b : BitVec 3) (j : BitVec 2),
    let k := s.core s.cur
    let out := if sd = 0 then [] else [Reg.s sd.toNat]
    let plain := fun i : Instr => Holds s i 0 0 [] 0 0
    let seg := fun (i : Instr) (mode : Bool) (rewinding : BitVec 4) (addr : Nat) => ∃ t, exec i s = .next t ∧ OnlyCore s.cur s t
      ∧ (t.core s.cur).seg = false ∧ (∀ b, b ≠ 6 → (t.core s.cur).statusBit b = k.statusBit b)
      ∧ t.core s.cur = { k with
          stores := k.stores ++ k.segment.buffer, status := (t.core s.cur).status
          segment := { k.segment with buffer := [], mode := mode, rewinding := rewinding }
          hold := some { instr := i, slot := s.iss.slot, seq := s.iss.seq, a := 0, b := 0, dst := [], stage := 0
                         mark := 0, addr := addr, ended := none } }
    let amount := (s.srcS sb).toNat + imm.toNat
    plain (.wait l t x m) ∧ plain (.wtag mask) ∧ plain (.wtagClr mask) ∧ plain (.fenceX sc q p) ∧ plain .fenceSc
    ∧ plain .drain ∧ plain .step ∧ Holds s (.flWait sd flag n) 0 0 out 0 0
    ∧ ((k.cbuf b.toNat).init = true → Holds s (.cbPop sd b) 0 0 out 0 0)
    ∧ (k.handles → (k.cbuf b.toNat).init = false →
        TrapsPrecisely s (.cbPop sd b) .cbState (.ofNat 64 b.toNat) (.ofNat 64 (k.cbuf b.toNat).base))
    ∧ (let x := k.cbuf b.toNat
       let out := (s.srcS sa).toNat + n14.toNat
       (x.init = true → out ≤ x.popped - x.released → ∃ t, exec (.cbRel sa n14 b) s = .next t ∧ OnlyCore s.cur s t
          ∧ (∀ i, (t.core s.cur).cbuf i = if i = b.toNat then { x with released := x.released + out } else k.cbuf i)
          ∧ t.core s.cur = { k with cb := (t.core s.cur).cb })
       ∧ (k.handles → (x.init = false ∨ x.popped - x.released < out) →
          TrapsPrecisely s (.cbRel sa n14 b) .cbState (.ofNat 64 b.toNat) (.ofNat 64 x.base)))
    ∧ seg .seg true k.segment.rewinding 0 ∧ seg .segOff false k.segment.rewinding 0
    ∧ (k.gvalid.getLsbD j.toNat = true → (s.group (k.gidAt j.toNat)).valid = true →
        (s.group (k.gidAt j.toNat)).ctx.toNat = k.ctx → seg (.rdv j) true (k.segment.rewinding &&& ~~~k.slotsOf (k.gidAt j.toNat)) (k.gidAt j.toNat))
    ∧ (∃ t, exec (.flPost sb flag imm) s = .next t ∧ OnlyCore s.cur s t
        ∧ (∀ i, (t.core s.cur).flag i = if i = flag.toNat then .ofNat 16 (min 0xFFFF ((k.flag i).toNat + amount))
            else k.flag i)
        ∧ (∀ i, (t.core s.cur).statusBit i = (k.statusBit i || (i == 3 && decide (0xFFFF < (k.flag flag.toNat).toNat + amount))))
        ∧ t.core s.cur = { k with f := (t.core s.cur).f, status := (t.core s.cur).status })
    ∧ ((s.srcS sa).toNat ≤ 255 → exec (.flPostR sa sb flag imm) s = .next { s with
        posts := s.posts ++ [{
          src := s.cur, dst := (s.srcS sa).toNat, ctx := k.ctx, flag := flag.toNat, amt := amount, pc := k.issPc }] })
    ∧ (k.handles → 255 < (s.srcS sa).toNat → TrapsPrecisely s (.flPostR sa sb flag imm) .prot (s.srcS sa) 0))
  ∧ (∀ (s : State) (i : Nat) (p : Post), s.posts[i]? = some p →
      (∀ (j : Nat) (q : Post), j < i → s.posts[j]? = some q → ¬(q.src = p.src ∧ q.dst = p.dst)) →
      ∃ t, exec (.flagPostArrive i) s = .next t ∧ t = { s with cores := t.cores, posts := s.posts.eraseIdx i }
        ∧ (∀ d, d ≠ p.dst → t.core d = s.core d)
        ∧ (if s.runsCtx p.dst p.ctx then
            ∀ j, (t.core p.dst).flag j = if j = p.flag then
              .ofNat 16 (min 0xFFFF (((s.core p.dst).flag j).toNat + p.amt)) else (s.core p.dst).flag j
          else t.core p.dst = s.core p.dst))
  ∧ ∀ (s : State) (c : Nat) (h : Hold), let k := s.core c
    k.hold = some h → k.run = .running → h.ended = none →
    let go := exec (.syncHoldRelease c) s
    let frees := fun (cond : Prop) (good : Core → Prop) =>
      (¬cond → go = .next s) ∧ (cond → ∃ t, go = .next t ∧ OnlyCore c s t ∧ good (t.core c))
    let free : Core := { k with hold := none }
    let turns := fun (cond : Prop) (views : State → Prop) (good : Core → Prop) =>
      (¬cond → go = .next s) ∧ (cond → ∃ t, go = .next t ∧ t = { s with cores := t.cores, kept := t.kept } ∧ SameBytes s t
        ∧ (∀ d, d ≠ c → t.core d = s.core d) ∧ views t ∧ good (t.core c))
    let within := fun (f : BitVec 4) (n : Nat) => f = 15 ∨ n ≤ f.toNat
    let tagged := fun mask : BitVec 16 => ∀ i, i < 16 → mask.getLsbD i = true → k.tag i = true
    let done := ∀ x ∈ k.stores, x.seq ≤ h.seq → x.performed = true
    let stands := s.armed.contains (h.addr / 16) = true ∧ leNat (s.bytesAt h.addr 16) / 2 ^ 108 % 2 ^ 20 = 0x5A5A5
    let abandons := ∃ t, go = .next t ∧ OnlyCore c s t
      ∧ t.core c = { k with hold := some { h with ended := some (TrapCode.barState.num, 1, h.a) } }
    let opens := fun t : Core => t = { (if k.hs then free else free.openSegment k.pc) with hold := none }
    (∀ l t x m, h.instr = .wait l t x m →
        frees (within l k.countL ∧ within t k.countS ∧ within x k.countC ∧ within m k.countT) (· = free))
    ∧ (∀ mask, h.instr = .wtag mask → frees (tagged mask) (· = free))
    ∧ (∀ mask, h.instr = .wtagClr mask →
        let held := h.stage = 0 ∧ ¬tagged mask
        (held → go = .next s)
        ∧ (¬held → k.tagsNamed mask h.seq = true → ∃ t, go = .next t ∧ OnlyCore c s t
            ∧ t.core c = { k with hold := some { h with stage := 1 } })
        ∧ (¬held → k.tagsNamed mask h.seq = false → turns True
            (fun t => SameViews s t
              ∧ ∀ x ∈ t.kept, ∀ y ∈ x.unseen, y.core = c → ∀ i, i < 16 → mask.getLsbD i = true → y.tagged ≠ some i)
            fun t => (∀ i, i < 16 → t.tag i = (k.tag i && !mask.getLsbD i)) ∧ t = { free with d := t.d }))
    ∧ (∀ sd f n, h.instr = .flWait sd f n →
        let left := k.flag f.toNat - n.setWidth 16
        frees (n.toNat ≤ (k.flag f.toNat).toNat) fun t =>
          (∀ j, t.flag j = if j = f.toNat then left else k.flag j) ∧ ScalarIs k t sd (left.setWidth 64)
          ∧ Checkpoints k t h.seq true ∧ t = { free with f := t.f, s := t.s, segment := t.segment })
    ∧ (∀ sc q p, h.instr = .fenceX sc q p →
        let path := fun n : Nat => match n with
          | 0 => Path.cp
          | 1 => .cy
          | 2 => .mx
          | 3 => .ga
          | _ => .lk
        turns (k.pathIdle p.toNat h.seq = true) (fun t => Fences s t c (path p.toNat) (path q.toNat) sc.toNat) (· = free))
    ∧ (h.instr = .fenceSc → h.stage = 0 → turns (k.cpIdle (h.seq + 1) = true ∧ ∀ p, p < 5 → k.pathIdle p h.seq = true)
        (fun t => (∀ x ∈ t.kept, ∀ y ∈ x.unseen, y.core = c → x.view ≠ .cp ∧ y.fenced = true)
          ∧ ∀ v a, v ≠ .cp → (t.keptAt v a).map (·.byte) = (s.keptAt v a).map (·.byte))
        (· = { k with hold := some { h with stage := 1, mark := s.hbCount.toNat } }))
    ∧ (h.instr = .fenceSc → h.stage ≠ 0 → turns (h.mark < s.hbCount.toNat)
        (fun t => ∀ x, x ∈ t.kept ↔ x ∈ s.kept ∧ ¬((∃ p, x.view = .engine c p) ∧ ∃ y ∈ x.unseen, y.fenced = true)) (· = free))
    ∧ (h.instr = .drain → frees (k.cpIdle (h.seq + 1) = true) (· = free))
    ∧ (h.instr = .step → (k.cpIdle (h.seq + 1) = false → go = .next s) ∧ (k.cpIdle (h.seq + 1) = true →
        ∃ t, go = .next t ∧ t = { s with cores := t.cores, fabric := s.fabric.filter fun f => f.isle != isleOf c }
          ∧ (∀ d, d ≠ c → t.core d = s.core d) ∧ t.core c = { free with epoch := k.epoch + 1 }))
    ∧ (∀ sa sb n, h.instr = .tkWait sa sb n →
        frees (((s.ticket h.addr).serving - .ofNat 32 h.mark).toNat < 2 ^ 31) (· = free))
    ∧ (∀ sd b, h.instr = .cbPop sd b → let x := k.cbuf b.toNat
        frees (0 < x.filled - x.popped) fun t =>
          ScalarIs k t sd (.ofNat 64 (x.base + x.popped % x.nslot * x.slot))
          ∧ (∀ j, t.cbuf j = if j = b.toNat then { x with popped := x.popped + 1 } else k.cbuf j)
          ∧ Checkpoints k t h.seq true ∧ t = { free with s := t.s, cb := t.cb, segment := t.segment })
    -- 14 R326: phase v[3:0] is past when the slot's phase is another, in the next one with 0 and beyond it with 1
    ∧ (∀ sd sa sb, h.instr = .barWait sd sa sb →
        let ph := leNat (s.bytesAt h.addr 16) % 16
        let past := (ph + 16 - h.mark % 16) % 16
        let gives := fun stale : Bool => fun t : Core => ScalarIs k t sd (if stale then 1 else 0)
          ∧ (∀ b, t.statusBit b = (k.statusBit b || (b == 0 && stale)))
          ∧ Checkpoints k t h.seq true
          ∧ t = { free with s := t.s, status := t.status, segment := t.segment }
        (h.stage = 2 → frees True (gives false))
        ∧ (h.stage ≠ 2 → stands → s.gatedAt h.addr = false → frees (past ≠ 0) (gives (past != 1)))
        ∧ (h.stage ≠ 2 → ¬stands → s.gatedAt h.addr = false → abandons))
    ∧ (∀ sa par, h.instr = .barPar sa par →
        (h.stage = 2 → frees True (· = free))
        ∧ (h.stage ≠ 2 → s.gatedAt h.addr = false →
          (stands → frees (leNat (s.bytesAt h.addr 16) % 2 ≠ h.mark) (· = free)) ∧ (¬stands → abandons)))
    ∧ (h.instr = .seg → frees done opens)
    ∧ (h.instr = .segOff → frees done (· = free))
    ∧ (∀ j, h.instr = .rdv j → frees (done ∧ s.groupRewinding k.ctx h.addr = false) opens)

/-- 14 R306, R321 to R326.  A slot is the tuple of its fields; `after` is the phase test of R323.  Which sector a landing
count releases: log 126, DESIGN CHOICE. -/
def Obligations.BarriersCountArrivalsAndLandings : Prop :=
  let field := fun (w lo n : Nat) => w / 2 ^ lo % 2 ^ n
  let short := fun (mark land : Nat) => (BitVec.ofNat 24 mark - BitVec.ofNat 24 land).toInt
  -- PH, DUE, QUOTA, MARK, LAND, OCORE, OCTX
  let is := fun (w ph due quota mark land ocore octx : Nat) =>
    field w 0 4 = ph ∧ field w 4 4 = 0xB ∧ field w 8 20 = due ∧ field w 28 20 = quota ∧ field w 48 24 = mark
    ∧ field w 72 24 = land ∧ field w 96 8 = ocore ∧ field w 104 4 = octx ∧ field w 108 20 = 0x5A5A5
  let after := fun (w v due mark land : Nat) =>
    if due = 0 ∧ short mark land ≤ 0 then
      is v ((field w 0 4 + 1) % 16) (field w 28 20) (field w 28 20) mark land (field w 96 8) (field w 104 4)
    else is v (field w 0 4) due (field w 28 20) mark land (field w 96 8) (field w 104 4)
  (∀ (s : State) (sd sa sb : SR) (n17 : BitVec 17) (n16 : BitVec 16) (par : Bool) (pa : Nat),
    let k := s.core s.cur
    let va := s.srcS sa
    let v := s.srcS sb
    let w := leNat (s.bytesAt pa 16)
    let ph := field w 0 4
    let due := field w 8 20
    let mark := field w 48 24
    let land := field w 72 24
    let n := v.toNat + n17.toNat
    let tx := v.toNat + n16.toNat
    let armed := s.armed.contains (pa / 16) = true ∧ field w 108 20 = 0x5A5A5
    let room := tx < 2 ^ 23 ∧ short mark land + tx < 2 ^ 23
    let holds := fun (t : State) (f : Hold → Hold) => ∀ d h, (s.core d).hold = some h →
      (t.core d).hold = some (if h.waitsOn pa = true then f h else h)
    let wakes := fun (t : State) (due mark : Nat) =>
      holds t fun h => if due = 0 ∧ short mark land ≤ 0 then { h with stage := 2 } else h
    let traps := fun (i : Instr) (reason : Nat) =>
      k.handles → TrapsPrecisely s i .barState (.ofNat 64 reason) va
    let slotOnly := fun (t : State) => SameBytesBut s t pa 16 ∧ HomeViews s t
      ∧ t = { s with cores := t.cores, mem := t.mem, errs := t.errs, kept := t.kept, armed := t.armed }
      ∧ (∀ d, d ≠ s.cur → t.core d = { s.core d with hold := (t.core d).hold })
    va.toNat % 16 = 0 → s.resolve s.cur .cp va .homeRead = .ok pa → s.scratchRuns pa k.ctx = true →
    s.gatedAt pa = false →
    (¬s.armed.contains (pa / 16) → 1 ≤ n → n ≤ 0xFFFFF → ∃ t, exec (.barInit sa sb n17) s = .next t ∧ slotOnly t
        ∧ is (leNat (t.bytesAt pa 16)) 0 n n 0 0 (coreId s.cur).toNat (k.ctx % 16)
        ∧ t.armed = s.armed ++ [pa / 16] ∧ t.core s.cur = k)
    ∧ (s.armed.contains (pa / 16) → traps (.barInit sa sb n17) 2)
    ∧ (¬s.armed.contains (pa / 16) → (n = 0 ∨ 0xFFFFF < n) → traps (.barInit sa sb n17) 3)
    ∧ (armed → room → due ≠ 0 → ∃ t, exec (.barArv sd sa sb false n16) s = .next t ∧ slotOnly t ∧ t.armed = s.armed
        ∧ after w (leNat (t.bytesAt pa 16)) (due - 1) ((mark + tx) % 2 ^ 24) land ∧ wakes t (due - 1) ((mark + tx) % 2 ^ 24)
        ∧ ScalarIs k (t.core s.cur) sd (.ofNat 64 ph)
        ∧ t.core s.cur = { k.awaits s.iss.seq (if sd = 0 then [] else [.s sd.toNat]) true with
            s := (t.core s.cur).s, hold := (t.core s.cur).hold })
    ∧ (∀ i, i = .barMark sa sb n16 ∨ i = .barArv sd sa sb true n16 → armed → room → ∃ t, exec i s = .next t ∧ slotOnly t ∧ t.armed = s.armed
        ∧ after w (leNat (t.bytesAt pa 16)) due ((mark + tx) % 2 ^ 24) land ∧ wakes t due ((mark + tx) % 2 ^ 24)
        ∧ t.core s.cur = { k with hold := (t.core s.cur).hold })
    ∧ (armed → 2 ^ 23 ≤ tx → ∀ na, traps (.barArv sd sa sb na n16) 7 ∧ traps (.barMark sa sb n16) 7)
    ∧ (armed → tx < 2 ^ 23 → due = 0 → traps (.barArv sd sa sb false n16) 8)
    ∧ (armed → tx < 2 ^ 23 → 2 ^ 23 ≤ short mark land + tx → traps (.barMark sa sb n16) 7 ∧ traps (.barArv sd sa sb true n16) 7
        ∧ (due ≠ 0 → traps (.barArv sd sa sb false n16) 7))
    ∧ (let d := (BitVec.ofNat 4 ph - v.setWidth 4).toNat
       armed → (d = 0 → Holds s (.barWait sd sa sb) va v (if sd = 0 then [] else [.s sd.toNat]) (v.toNat % 16) pa)
        ∧ (d ≠ 0 → ∃ t, exec (.barWait sd sa sb) s = .next t ∧ OnlyCore s.cur s t
            ∧ ScalarIs k (t.core s.cur) sd (if d = 1 then 0 else 1)
            ∧ (∀ b, (t.core s.cur).statusBit b = (k.statusBit b || (b == 0 && d != 1)))
            ∧ t.core s.cur = { k.awaits s.iss.seq (if sd = 0 then [] else [.s sd.toNat]) true with
                s := (t.core s.cur).s, status := (t.core s.cur).status }))
    ∧ (armed → (ph % 2 = (if par then 1 else 0) → Holds s (.barPar sa par) va 0 [] (if par then 1 else 0) pa)
        ∧ (ph % 2 ≠ (if par then 1 else 0) → exec (.barPar sa par) s = .next s))
    ∧ (armed → field w 96 8 = (coreId s.cur).toNat → due = field w 28 20 → land = mark →
        ∃ t, exec (.barRet sa) s = .next t ∧ slotOnly t ∧ HoldsBytes t pa (leBytes 16 0)
          ∧ t.armed = s.armed.filter (· != pa / 16) ∧ t.core s.cur = { k with hold := (t.core s.cur).hold }
          ∧ holds t fun h => { h with ended := some (TrapCode.barState.num, 1, h.a) })
    ∧ (armed → field w 96 8 ≠ (coreId s.cur).toNat → traps (.barRet sa) 6)
    ∧ (armed → field w 96 8 = (coreId s.cur).toNat → (due ≠ field w 28 20 ∨ land ≠ mark) → traps (.barRet sa) 5)
    ∧ (¬armed → (∀ na, traps (.barArv sd sa sb na n16) 1) ∧ traps (.barMark sa sb n16) 1 ∧ traps (.barWait sd sa sb) 1
        ∧ traps (.barPar sa par) 1 ∧ traps (.barRet sa) 1))
  ∧ ∀ (s : State) (i : Nat) (o : Owed), s.owed[i]? = some o → (s.core o.core).stopped o.unit o.queue = false →
    let pa := spBase o.land + o.off
    let w := leNat (s.bytesAt pa 16)
    let armed := s.armed.contains (pa / 16) = true ∧ field w 108 20 = 0x5A5A5
    let faults := fun reason : Nat => ∃ t, exec (.landingCount i) s = .next t ∧ OnlyCore o.core s t
      ∧ t.core o.core = { s.core o.core with efaults := (s.core o.core).efaults ++ [{
          unit := o.unit, queue := o.queue, cause := TrapCode.barState.num, detail := reason
          addr := .ofNat 64 o.off, taken := false }] }
    s.gatedAt pa = false →
    (armed → -(2 ^ 23) ≤ short (field w 48 24) (field w 72 24) - 1 → ∃ t, exec (.landingCount i) s = .next t
        ∧ t = { s with cores := t.cores, mem := t.mem, errs := t.errs, kept := t.kept, owed := t.owed }
        ∧ SameBytesBut s t pa 16
        ∧ (let mine := fun x : Kept => x.view = .cp ∧ o.at_ x.pa = true ∧ x.unseen.any o.writer.sameOp = true
           ∃ r : State, r = { s with kept := r.kept } ∧ HomeViews r t ∧ (∀ x ∈ s.kept, x ∉ r.kept → mine x)
            ∧ (∀ x ∈ r.kept, x ∈ s.kept ∧ (o.left = 1 → ¬mine x))
            ∧ ∀ x ∈ r.kept, mine x → ∃ y ∈ s.kept, mine y ∧ y.pa / 64 < x.pa / 64)
        ∧ after w (leNat (t.bytesAt pa 16)) (field w 8 20) (field w 48 24) ((field w 72 24 + 1) % 2 ^ 24)
        ∧ (∀ d, t.core d = { s.core d with hold := (t.core d).hold }
            ∧ ∀ h, (s.core d).hold = some h → (t.core d).hold = some
                (if h.waitsOn pa = true ∧ field w 8 20 = 0 ∧ short (field w 48 24) ((field w 72 24 + 1) % 2 ^ 24) ≤ 0 then
                  { h with stage := 2 } else h))
        ∧ t.owed = (if o.left = 1 then s.owed.eraseIdx i else s.owed.set i { o with left := o.left - 1 }))
    ∧ (¬armed → faults 1)
    ∧ (armed → short (field w 48 24) (field w 72 24) - 1 < -(2 ^ 23) → faults 7)

/-- 07 R177 and R178.  The model's choices, and no rules of the spec: TRAP_INFO of a slot that is not valid (log 107,
DEDUCED), RIDX of a phase that is no argmin or argmax (log 116, DESIGN CHOICE), and where a save slot holds s0 to s63 (log
30, DEDUCED). -/
def Obligations.GroupsCompleteWithTheirLastMember : Prop :=
  (∀ (s : State) (sd sa sb : SR) (op : BitVec 3) (j : BitVec 2), op.toNat ≤ 6 →
    let k := s.core s.cur
    let g := k.gidAt j.toNat
    let e := s.group g
    let good := k.gvalid.getLsbD j.toNat = true ∧ e.valid = true ∧ e.ctx.toNat = k.ctx
    let same := e.ract = true → e.rop.toNat = op.toNat
    let out := fun r : SR => if r = 0 then [] else [Reg.s r.toNat]
    let a := s.srcS sa
    let b := s.srcS sb
    let first : Bool := match op.toNat with
      | 1 => decide (a.toInt < e.rval.toInt)
      | 2 => decide (e.rval.toInt < a.toInt)
      | 3 => decide (a.toNat < e.rval.toNat)
      | 4 => decide (e.rval.toNat < a.toNat)
      | 5 => decide (a.toInt < e.rval.toInt ∨ (a = e.rval ∧ b.toNat < e.ridx.toNat))
      | _ => decide (e.rval.toInt < a.toInt ∨ (a = e.rval ∧ b.toNat < e.ridx.toNat))
    let val := if e.ract = false then a else if op = 0 then e.rval + a else if first then a else e.rval
    let idx := if e.ract = false then b else if op = 0 then e.ridx else if first then b else e.ridx
    let hold : Instr → List Reg → Hold := fun i dst =>
      { instr := i, slot := s.iss.slot, seq := s.iss.seq, a := 0, b := 0, dst := dst, stage := 0, mark := 0, addr := g
        ended := none }
    let arrives := fun (i : Instr) (dst : List Reg) (x : GroupEntry) (v w : W64) =>
      ∃ t, exec i s = .next t ∧ t = { s with
          cores := t.cores, groups := t.groups, saved := t.saved, mem := t.mem, errs := t.errs, kept := t.kept }
        ∧ HomeViews s t
        ∧ (∀ y, y ≠ g → t.group y = s.group y)
        ∧ (∀ d, d ≠ s.cur → t.core d = { s.core d with hold := (t.core d).hold, hidHold := (t.core d).hidHold })
        ∧ t.core s.cur = { k with hold := (t.core s.cur).hold, hidHold := (t.core s.cur).hidHold }
        ∧ (e.arr.toNat + 1 < e.count.toNat + 1 → t.group g = { x with arr := e.arr + 1 }
            ∧ (t.core s.cur).hold = some (hold i dst) ∧ t.saved = s.saved ∧ t.mem = s.mem ∧ t.errs = s.errs ∧ t.kept = s.kept
            ∧ ∀ d, d ≠ s.cur → t.core d = s.core d)
        ∧ (e.count.toNat + 1 = e.arr.toNat + 1 → t.group g = { x with arr := 0, ract := false, ph := !e.ph }
            ∧ (t.core s.cur).hold = some { hold i dst with stage := 2, a := v, b := w }
            ∧ (∀ (d : Nat) (h : Hold), d ≠ s.cur → (s.core d).hold = some h → h.onGroup g = true →
                (t.core d).hold = some { h with stage := 2, a := v, b := w })
            ∧ (s.saved = [] → t.saved = [] ∧ SameBytes s t ∧ t.kept = s.kept)
            ∧ ∀ (y : SavedCore) (c : Ctx) (h : Hold) (rd ra rb : SR) (o : BitVec 3) (m : BitVec 2),
                s.saved = [y] → s.ctx y.ctx = some c → y.regs.hold = some h → y.regs.hidHold = none →
                h.onGroup g = true → h.instr = .gRed rd ra rb o m → o.toNat < 5 → rd ≠ 0 →
                let slot := s.saveSlot y.ctx c.ccb y.core
                let a := slot + 0x28BC00 + 8 * rd.toNat
                s.saveable slot = true → s.gatedAt a = false →
                HoldsBytes t a (leBytes 8 v.toNat) ∧ SameBytesBut s t a 8
                ∧ ∃ k', t.saved = [{ y with regs := k' }] ∧ ScalarIs y.regs k' rd v
                  ∧ k' = { y.regs with s := k'.s, hold := some { h with stage := 3, a := v, b := w } })
    (good → e.arr.toNat ≤ e.count.toNat → arrives (.gBar j) [] e e.rval e.ridx)
    ∧ (good → same → e.arr.toNat ≤ e.count.toNat → arrives (.gRed sd sa sb op j)
        (if 5 ≤ op.toNat then out sd ++ out (sd + 1) else out sd)
        { e with rval := val, ridx := idx, rop := op.setWidth 4, ract := true } val idx)
    ∧ (good → SetsSLate s (.gInfo sd j) sd (.ofNat 64 (2 ^ 32 * (e.count.toNat + 1) + k.midxAt j.toNat)))
    ∧ (k.handles → ¬good →
        let trap := fun i : Instr => TrapsPrecisely s i .group (.ofNat 64 (g + 256 * j.toNat)) 0
        trap (.gBar j) ∧ trap (.gRed sd sa sb op j) ∧ trap (.gInfo sd j) ∧ trap (.rdv j))
    ∧ (k.handles → good → ¬same → TrapsPrecisely s (.gRed sd sa sb op j) .group (.ofNat 64 (g + 256 * j.toNat)) 0))
  ∧ ∀ (s : State) (c : Nat) (h : Hold), let k := s.core c
    k.hold = some h → k.run = .running → h.ended = none →
    (∀ j, h.instr = .gBar j → exec (.syncHoldRelease c) s =
      .next (if 2 ≤ h.stage then s.setCore c { k with hold := none } else s))
    ∧ (∀ sd sa sb op j, h.instr = .gRed sd sa sb op j →
        (h.stage ≠ 2 → h.stage ≠ 3 → exec (.syncHoldRelease c) s = .next s)
        ∧ (h.stage = 3 → exec (.syncHoldRelease c) s = .next (s.setCore c { k with hold := none }))
        ∧ (h.stage = 2 → ∃ t, exec (.syncHoldRelease c) s = .next t ∧ OnlyCore c s t
            ∧ Checkpoints k (t.core c) h.seq true
            ∧ (op.toNat < 5 → ScalarIs k (t.core c) sd h.a)
            ∧ (5 ≤ op.toNat → sd.toNat % 2 = 0 → sd ≠ 0 → PairIs k (t.core c) sd h.a h.b)
            ∧ t.core c = { k with hold := none, s := (t.core c).s, segment := (t.core c).segment }))

/-- 19 R390, R395 to R398, R407 to R409, R411 to R413 and 02 R44.  `faults kind q f` says that the op stops queue q of its
kind (0 sends, 1 receives, 2 the settings) of the link engine with start fault f, to be tried again after rett.  The
model's choices, and no rules of the spec: that the faulting op has left its slot queue (log 24, DEDUCED), what a cancelled
receive reads as (log 25, DEDUCED), the refusal of a piece outside the shelf (log 27, DEDUCED), the address that a fault
reports (log 38, DEDUCED), the queue and its kind (log 89, DEDUCED), the level and reason of a send without a route (log
55, DEDUCED), the cause and detail of a refusal, its record and the time of an acknowledgement (log 63, DEDUCED), the
detail of PROT for want of ownership (log 64, DEDUCED). -/
def Obligations.LinkOpsActAtTheirQueueAndPiecesAreAcknowledged : Prop :=
  (∀ (s : State) (c : Nat) (e : QEntry) (rest : List QEntry),
    let k := s.core c
    k.engineOn = true → k.c0q = e :: rest → k.c1q = [] → k.stopped 11 0 = false → e.left = false →
    (∀ d, waitTag e.instr = some d → k.tag d = true) → (∀ x ∈ rest, x.left = false ∧ x.seq ≠ e.seq) →
    let go := exec (.queuedOpDepart c 1) s
    let a := e.vals.getD 0 0
    let b := e.vals.getD 1 0
    let w := e.vals.getD 2 0
    let n := w.toNat % 2 ^ 32
    let bad := fun fp bc : Bool => w.toNat / 2 ^ 53 ≠ 0 ∨ (bc = false ∧ w.toNat / 2 ^ 36 % 2 ^ 17 ≠ 0)
      ∨ (fp = false ∧ w.toNat / 2 ^ 32 % 2 ^ 4 ≠ 0)
    let msg := a.getLsbD 63 = true
    let leaves := fun (good : State → Prop) => ∃ t, go = .next t ∧ SameBytes s t ∧ good t
    let coreOnly := fun (x : Core) (t : State) => t = { s with cores := t.cores }
      ∧ (∀ d, d ≠ c → t.core d = s.core d) ∧ t.core c = x
    let faults := fun (kind q : Nat) (code : TrapCode) (detail : Nat) (addr : W64) => leaves (coreOnly { k with
      c0q := { e with left := true, mps := (List.range 8).map k.param, ds := (List.range 16).map k.desc } :: rest
      efaults := k.efaults ++ [{
        unit := 10, kind := kind, queue := q, cause := code.num, detail := detail, addr := addr, taken := false }] })
    let reports := fun (kind q : Nat) (t : Trp) =>
      faults kind q t.code (t.info % 2 ^ 48) (if t.code = .uncorr then 0 else t.addr)
    let owns := s.linkCtl.getLsbD 4 = true ∧ s.linkCtl.toNat % 16 = k.ctx
    -- 19 R409: the send queue and the receive
    (∀ dst src len d st wt fp cls, e.instr = .lkSend dst src len d st wt fp cls →
      let wrong := bad fp false ∨ (msg ∧ (a.toNat / 2 ^ 60 % 8 ≠ 0 ∨ a.toNat / 2 ^ 32 % 2 ^ 13 ≠ 0))
      let q := (s.sendChip c a).getD 0
      let enters := fun chip : Nat =>
        ((k.sends chip).length < 16 → leaves fun t =>
          t = { s with cores := t.cores } ∧ (∀ x, x ≠ c → t.core x = s.core x)
          ∧ (∀ j, (t.core c).sends j =
              if j = chip then k.sends j ++ [{ entry := e, sent := 0, acked := [] }] else k.sends j)
          ∧ t.core c = { k with c0q := rest, sendq := (t.core c).sendq })
        ∧ (16 ≤ (k.sends chip).length → go = .next s)
      (msg → s.sendChip c a = some (a.toNat / 2 ^ 56 % 16))
      ∧ (¬msg → ∀ pa, s.resolve c .lk a .write = .ok pa →
          s.sendChip c a = match s.region pa with
            | .peer chip => some chip
            | _ => none)
      ∧ (k.linkStopped 0 q = false →
        (wrong → faults 0 q .illegalOp 0 0)
        ∧ (∀ chip, ¬wrong → s.sendChip c a = some chip →
            ((chip = s.chip.toNat ∨ s.routed chip = false) → faults 0 chip .xlate (7 + 8 * 2) (if a.getLsbD 63 then 0 else a))
            ∧ (chip ≠ s.chip.toNat → s.routed chip = true → msg → enters chip)
            ∧ (∀ l, chip ≠ s.chip.toNat → s.routed chip = true → ¬msg →
                s.resolveRange c .lk a (max n 1) .write = .ok l →
                (s.peerOf l = some chip → enters chip)
                ∧ (s.peerOf l ≠ some chip → faults 0 chip .prot 1 a))
            ∧ (∀ t, chip ≠ s.chip.toNat → s.routed chip = true → ¬msg →
                s.resolveRange c .lk a (max n 1) .write = .error t → reports 0 chip t))
        ∧ (¬wrong → s.sendChip c a = none →
            (∀ l, s.resolveRange c .lk a (max n 1) .write = .ok l → faults 0 0 .prot 1 a)
            ∧ (∀ t, s.resolveRange c .lk a (max n 1) .write = .error t → reports 0 0 t))))
    ∧ (∀ dst src len d st wt fp bc (r : BitVec 3), e.instr = .lkRecv dst src len d st wt fp bc r →
        k.linkStopped 1 r.toNat = false →
        (¬bad fp bc → a.toNat % 64 = 0 → b.toNat < 16 → a.toNat + n ≤ 0x200000 → leaves fun t =>
            t = { s with cores := t.cores } ∧ (∀ x, x ≠ c → t.core x = s.core x)
            ∧ (∀ j, (t.core c).recv j = if j = r.toNat then
                { posted := n != 0, base := a.toNat, n := n, chip := if n = 0 then 0 else b.toNat
                  bar := w.toNat / 2 ^ 36 % 2 ^ 17, flag := w.toNat / 2 ^ 32 % 16, bc := bc, fp := fp, landed := 0
                  gen := (k.recv j).gen + 1 } else k.recv j)
            ∧ (∀ j, (t.core c).tag j = (k.tag j || (st && j == d.toNat)))
            ∧ t.core c = { k with c0q := rest, recvs := (t.core c).recvs, d := (t.core c).d })
        ∧ (bad fp bc → faults 1 r.toNat .illegalOp 0 0)
        ∧ (¬bad fp bc → a.toNat % 64 ≠ 0 → faults 1 r.toNat .align 6 a)
        ∧ (¬bad fp bc → a.toNat % 64 = 0 → 16 ≤ b.toNat → faults 1 r.toNat .illegalOp 0 0)
        ∧ (¬bad fp bc → a.toNat % 64 = 0 → b.toNat < 16 → 0x200000 < a.toNat + n →
            faults 1 r.toNat .xlate (7 + 8 * 4) a))
    -- 19 R390, R411: tide tables
    ∧ (∀ sa (q : BitVec 4), e.instr = .lkTide sa q → k.linkStopped 2 0 = false →
        let x := s.strait q.toNat
        (¬owns → faults 2 0 .prot 0 0)
        ∧ (owns → a.toNat % 128 ≠ 0 → faults 2 0 .align 7 a)
        ∧ (owns → a.toNat % 128 = 0 → 0x200000 < a.toNat + 128 → faults 2 0 .xlate (7 + 8 * 4) a)
        ∧ ∀ bs, owns → a.toNat % 128 = 0 → a.toNat + 128 ≤ 0x200000 → s.memRead c .cy a 128 = .ok bs →
          let entry := fun i => leNat ((bs.drop (2 * i)).take 2)
          let ok := (∀ i, i < 64 →
              let kind := entry i / 2 ^ 14
              entry i / 4 % 2 ^ 12 = 0 ∧ (kind ≠ 1 → entry i % 4 = 0)
              ∧ (if i = 0 then kind = 3
                 else if x.face = true then kind = 0 ∨ kind = 2
                 else kind = 0 ∨ (kind = 1 ∧ (Tab.get 0 s.dstraits (entry i % 4)).getLsbD q.toNat = true)))
            ∧ s.drawersServed q.toNat (entries16 bs) = true
          (ok → leaves fun t => t = { s with cores := t.cores, straits := t.straits }
            ∧ (∀ j, t.strait j = if j = q.toNat then { x with accepted := some (entries16 bs) } else s.strait j)
            ∧ (∀ d, t.core d = if d = c then { k with c0q := rest } else s.core d))
          ∧ (¬ok → faults 2 0 .illegalOp 0 0)
        ∧ ∀ t, owns → a.toNat % 128 = 0 → a.toNat + 128 ≤ 0x200000 → s.memRead c .cy a 128 = .error t → reports 2 0 t)
    -- 19 R412: schedules
    ∧ (∀ sa, e.instr = .lkCirc sa → k.linkStopped 2 0 = false →
        (¬owns → faults 2 0 .prot 0 0)
        ∧ (owns → 0x200000 < a.toNat + 192 → if a.toNat % 64 ≠ 0 then faults 2 0 .align 6 a else faults 2 0 .xlate (7 + 8 * 4) a)
        ∧ (∀ t, owns → a.toNat + 192 ≤ 0x200000 → s.memRead c .cy a 192 = .error t →
            if a.toNat % 64 ≠ 0 then faults 2 0 .align 6 a else reports 2 0 t)
        ∧ ∀ bs, owns → a.toNat + 192 ≤ 0x200000 → s.memRead c .cy a 192 = .ok bs →
          let word := fun i => leNat ((bs.drop (8 * i)).take 8)
          let ok := word 16 < 16 ∧ (∀ i, i < 7 → word (17 + i) = 0)
            ∧ ∀ i t, i ≤ word 16 → t < 16 → (s.strait t).face = false → word i / 2 ^ (4 * t) % 16 = s.chip.toNat
          (ok → a.toNat % 64 ≠ 0 → faults 2 0 .align 6 a)
          ∧ (ok → a.toNat % 64 = 0 → leaves fun t => t = { s with cores := t.cores, schedNext := t.schedNext }
            ∧ t.schedNext = some ((List.range 16).map fun i => .ofNat 64 (word i), word 16)
            ∧ (∀ d, t.core d = if d = c then { k with c0q := rest } else s.core d))
          ∧ (¬ok → faults 2 0 .illegalOp 0 0))
    -- 19 R413: parking
    ∧ (∀ sa (q : BitVec 4), e.instr = .lkPark sa q → k.linkStopped 2 0 = false →
        let x := s.strait q.toNat
        let rx := a.getLsbD 8
        let ok := a.getLsbD 0 = true ∧ a.toNat < 2 ^ 9 ∧ ¬(rx = true ∧ x.face = true)
        let m : BitVec 8 := a.setWidth 8
        (¬ok → faults 2 0 .illegalOp 0 0)
        ∧ (ok → ¬owns → faults 2 0 .prot 0 0)
        ∧ (ok → owns → leaves fun t => t = { s with cores := t.cores, straits := t.straits }
            ∧ (∀ j, t.strait j = if j = q.toNat then
                (if rx then { x with parkRx := some m } else { x with parkTx := some m }) else s.strait j)
            ∧ (∀ d, t.core d = if d = c then { k with c0q := rest } else s.core d))))
  -- 19 R397: acknowledgements
  ∧ (∀ (s : State) (c ctx q i piece d : Nat) (x : SendOp) (f : Option (Nat × Nat)), let k := s.core c
      let first := ((x.pieces.take piece).map fun p => (p.2.2 + 255) / 256).sum
      let past := ((x.pieces.take (piece + 1)).map fun p => (p.2.2 + 255) / 256).sum
      let back := piece ∉ x.acked ∧ past ≤ x.sent ∧ (∀ a ∈ x.again, ¬(first ≤ a.1 ∧ a.1 < past))
        ∧ Tab.get 0 x.leftIn piece + 2 ≤ s.frame
      let y : SendOp := { x with acked := x.acked ++ [piece] }
      let go := exec (.linkAck c ctx q i piece f) s
      let becomes := fun (good : Core → Prop) => ∃ t, go = .next { t.passTo d with turning := true }
        ∧ t = { s with cores := t.cores } ∧ SameBytes s t
        ∧ (∀ x, x ≠ c → t.core x = s.core x) ∧ good (t.core c)
      let queue := fun (l : List SendOp) (t : Core) => ∀ j, t.sends j = if j = q then l else k.sends j
      s.runsCtx c ctx = true → (k.sends q)[i]? = some x → piece < x.pieces.length →
      ((s.nextFrame = none ∨ s.hears q = false ∨ ¬back) → go = .next s)
      ∧ (s.nextFrame = some d → s.hears q = true → back →
        (f = none → ((k.sends q).head?.all fun z => !z.done) = true → (i = 0 → y.done = false) → becomes fun t =>
          queue ((k.sends q).set i y) t ∧ t = { k with sendq := t.sendq })
        ∧ (∀ l dst src len d st wt fp cls, f = none → k.sends q = x :: l → i = 0 → y.done = true →
          k.linkStopped 0 q = false → (l.head?.all fun z => !z.done) = true →
          x.entry.instr = .lkSend dst src len d st wt fp cls →
          let flag := (x.entry.vals.getD 2 0).toNat / 2 ^ 32 % 16
          becomes fun t => queue l t ∧ (∀ j, t.tag j = (k.tag j || (st && j == d.toNat)))
            ∧ (∀ j, t.flag j = if fp = true ∧ j = flag then .ofNat 16 (min 0xFFFF ((k.flag j).toNat + 1)) else k.flag j)
            ∧ t = { k with sendq := t.sendq, d := t.d, f := t.f, status := t.status })
        ∧ (∀ cause detail, f = some (cause, detail) → becomes fun t =>
          queue ((k.sends q).set i
            (if (x.entry.vals.getD 0 0).getLsbD 63 = true ∧ cause = TrapCode.prot.num then
              { x with sent := 0, again := [], leftIn := [], acked := [] }
             else { x with again := x.again ++ (List.range (past - first)).map fun j => (first + j, s.frame) })) t
          ∧ t = { k with sendq := t.sendq, efaults := k.efaults ++ [{
              unit := 10, kind := 0, queue := q, cause := cause, detail := detail, addr := x.entry.vals.getD 0 0
              taken := false }] })))
  -- 14 R303, 19 R397: the acknowledgement that completes a send of a saved core sets its tag and its flag in the save slot
  ∧ (∀ (s : State) (c ctx q piece d : Nat) (v : SavedCore) (cx : Ctx) (x : SendOp) (l : List SendOp) (dst src len : SR) (ds : BitVec 4)
        (st wt fp : Bool) (cls : BitVec 2),
      s.saved = [v] → v.core = c → v.ctx = ctx → s.ctx ctx = some cx → s.runsCtx c ctx = false → s.nextFrame = some d →
      s.hears q = true →
      let k := s.heldRegs v
      let first := ((x.pieces.take piece).map fun p => (p.2.2 + 255) / 256).sum
      let past := ((x.pieces.take (piece + 1)).map fun p => (p.2.2 + 255) / 256).sum
      let y : SendOp := { x with acked := x.acked ++ [piece] }
      k.sends q = x :: l → piece < x.pieces.length → piece ∉ x.acked → past ≤ x.sent →
      (∀ a ∈ x.again, ¬(first ≤ a.1 ∧ a.1 < past)) → Tab.get 0 x.leftIn piece + 2 ≤ s.frame → y.done = true →
      k.linkStopped 0 q = false → (l.head?.all fun z => !z.done) = true → x.entry.instr = .lkSend dst src len ds st wt fp cls →
      let flag := (x.entry.vals.getD 2 0).toNat / 2 ^ 32 % 16
      let a := s.saveSlot ctx cx.ccb c
      ∃ t, exec (.linkAck c ctx q 0 piece none) s = .next { t.passTo d with turning := true }
        ∧ t = { s with mem := t.mem, errs := t.errs, kept := t.kept, saved := t.saved } ∧ HomeViews s t
        ∧ ∃ k', t.saved = [{ v with regs := k' }] ∧ (∀ j, k'.sends j = if j = q then l else k.sends j)
          ∧ (∀ j, k'.tag j = (k.tag j || (st && j == ds.toNat)))
          ∧ (∀ j, k'.flag j = if fp = true ∧ j = flag then .ofNat 16 (min 0xFFFF ((k.flag j).toNat + 1)) else k.flag j)
          ∧ k' = { k with sendq := k'.sendq, d := k'.d, f := k'.f, status := k'.status }
          ∧ SameBytesBut s t (a + 0x28BC00) 0x750
          ∧ (s.saveable a = true → ∀ (i w : Nat), k'.regWords[i]? = some w → k.regWords[i]? ≠ some w →
              HoldsBytes t (a + 0x28BC00 + 8 * i) (leBytes 8 w)))
  -- 19 R396, R397, R408: pieces of a peer
  ∧ (∀ (s : State) (p : LinkPiece),
      p.chip.toNat ≤ s.dsize.toNat → p.data ≠ [] → p.pos + p.data.length ≤ p.total →
      let go := exec (.linkPieceArrive p) s
      let n := p.data.length
      let answers := fun (f : Option (Nat × Nat)) (t : State) =>
        t.linkWait = s.linkWait ++ [(s.linkCycle + 48, .ack p.chip.toNat f)]
      let refused := fun (cause detail : Nat) => ∃ t, go = .next t ∧ t = { s with linkWait := t.linkWait }
        ∧ answers (some (cause, detail)) t
      let pa := p.base + p.pos
      let c := p.core.toNat
      let k := s.core c
      let r := k.recv p.recv.toNat
      let fits := r.posted = true ∧ r.chip = p.chip.toNat ∧ p.base + p.total ≤ r.n ∧ (p.chip.toNat, p.op) ∉ k.refused
      let fresh := ∀ m ∈ k.inbound, ¬(m.chip = p.chip.toNat ∧ m.op = p.op)
      let target := spBase c + r.base + p.base + p.pos
      ((s.framesOn = false ∨ s.hears p.chip.toNat = false) → go = .next s)
      ∧ (s.framesOn = true → s.hears p.chip.toNat = true →
        (p.msg = false → (∃ isle, s.region pa = .shelf isle ∧ s.region (pa + n - 1) = .shelf isle) →
          (s.overlapsMark pa n = false → ∃ t, go = .next t
            ∧ t = { s with mem := t.mem, errs := t.errs, kept := t.kept, linkWait := t.linkWait }
            ∧ KeptAfter s t .home pa n ∧ HoldsBytes t pa p.data ∧ SameBytesBut s t pa n ∧ answers none t)
          ∧ (s.overlapsMark pa n = true → refused TrapCode.seqState.num 6))
        ∧ (p.msg = false → (∀ isle, s.region pa ≠ .shelf isle) → refused TrapCode.prot.num 1)
        ∧ (p.msg = true → k.run = .halted → go = .next s)
        ∧ (p.msg = true → k.run ≠ .halted → (∀ v ∈ s.saved, v.core ≠ c) → fresh → ¬fits → ∃ t, go = .next t
          ∧ t = { s with cores := t.cores, linkWait := t.linkWait } ∧ answers (some (TrapCode.prot.num, 1)) t
          ∧ (∀ d, d ≠ c → t.core d = s.core d)
          ∧ t.core c = { k with refused := k.refused ++ [(p.chip.toNat, p.op)] })
        ∧ (p.msg = true → k.run ≠ .halted → fresh → fits →
          (s.overlapsArmed target n = true → refused TrapCode.barState.num 4)
          ∧ (s.overlapsArmed target n = false → s.overlapsMark target n = true → refused TrapCode.seqState.num 6)
          ∧ (r.bc = false → s.overlapsArmed target n = false → s.overlapsMark target n = false → ∃ t, go = .next t
            ∧ t = { s with cores := t.cores, mem := t.mem, errs := t.errs, kept := t.kept, linkWait := t.linkWait }
            ∧ KeptAfter s t .home target n ∧ HoldsBytes t target p.data ∧ SameBytesBut s t target n ∧ answers none t
            ∧ (∀ d, d ≠ c → t.core d = s.core d)
            ∧ (∀ j, (t.core c).recv j = if j = p.recv.toNat then { r with landed := r.landed + n } else k.recv j)
            ∧ (if p.total ≤ n then (t.core c).inbound = k.inbound
                ∧ (∀ j, (t.core c).flag j = if r.fp = true ∧ j = r.flag then
                    .ofNat 16 (min 0xFFFF ((k.flag j).toNat + 1)) else k.flag j)
              else (∃ spans, (t.core c).inbound = k.inbound ++ [{ chip := p.chip.toNat, op := p.op, recv := p.recv.toNat
                                                                  post := r, got := n, spans := spans }])
                ∧ (t.core c).f = k.f)))))
  ∧ ∀ (s : State) (chip : BitVec 4) (pa isle : Nat), s.region (pa / 64 * 64) = .shelf isle →
      chip.toNat ≤ s.dsize.toNat → exec (.peerLoadRequest chip pa) s = .next (
        if s.framesOn = true ∧ s.hears chip.toNat = true then { s with
          linkWait := s.linkWait ++ [(s.linkCycle, .answer chip.toNat (s.bytesAt (pa / 64 * 64) 64))] }
        else s)

/-- 19 R388, R390, R392, R394, R399, R400, R403 to R405, R412, R413 and 08 R199.  The model's choices, and no rules of the
spec: what a lockstep mismatch concerns and what it discards (log 62, DEDUCED), that a service core runs its nodes alone (log 128, DEDUCED), the width of the frame of a response as
it is known when its request leaves (log 57, DEDUCED), what delays an access and when a cycle counts as held (log 121,
DEDUCED), and a window load whose answer a retraining meets (log 120, DESIGN CHOICE). -/
def Obligations.FramesTidesSlotsAndRetrainingFollowTheClock : Prop :=
  let retrains := fun (x : Strait) (n : Nat) => ∃ a b, x.retrain = some (a, b) ∧ a ≤ n ∧ n ≤ b
  -- 19 R400: the groups of a direction when a mask is accepted, at boundary n
  let parked := fun (old new : Tab Group) (m : Option (BitVec 8)) (n : Nat) => ∀ g, g < 8 →
    groupAt new g = match m with
      | none => groupAt old g
      | some m => if m.getLsbD g = false then .parked
        else if groupAt old g = .parked then .waking n else groupAt old g
  -- 19 R388, R392, R412: the frame that is due next, at cycle d
  let due := fun (s : State) (d : Nat) => s.framesOn = true ∧ d = s.frameBase.toNat + 48 * (s.frame + 1) ∧ d ≤ s.due
    ∧ d < s.frameBase.toNat + s.slotDue ∧ ∀ r ∈ s.drawerReqs, s.requestLeaves r = none
  let frame := fun (e : Instr) (tide : Bool) => ∀ (s : State) (d : Nat), let n := s.frame + 1
    due s d → d < 2 ^ 64 → (n % 64 = 0 ↔ tide = true) → s.frameReady n = true → let u := s.passTo d
    ∃ t, exec e s = .next t ∧ t.frame = n ∧ t.turning = false
      ∧ t = { u with
          frame := t.frame, turning := t.turning, cores := t.cores, straits := t.straits
          linkOut := t.linkOut, linkWait := t.linkWait, freeNo := t.freeNo, drawerReqs := t.drawerReqs
          readsAsked := t.readsAsked, fabric := t.fabric }
      ∧ t.drawerReqs.filter (fun r => r.unit < 32) = u.drawerReqs.filter (fun r => r.unit < 32 &&
          (r.core != 260 || match r.frame with
            | some f => n ≤ f + 8
            | none => true))
      ∧ (∀ c j, j < 4 → Tab.get 0 (t.core c).rate j = match Tab.get none (u.core c).rateNext j with
          | some r => r
          | none => Tab.get 0 (u.core c).rate j)
      ∧ (∀ p ∈ u.cores, (t.core p.1).rateNext = [])
      ∧ (∀ i, i < 16 → let x := u.strait i
          let y := t.strait i
          (retrains x n → y.tx = x.tx ∧ y.rx = x.rx ∧ y.parkTx = x.parkTx ∧ y.parkRx = x.parkRx)
          ∧ (¬retrains x n →
              parked x.tx y.tx x.parkTx n ∧ parked x.rx y.rx x.parkRx n ∧ y.parkTx = none ∧ y.parkRx = none)
          ∧ (if tide then y.table = x.coming.table ∧ y.accepted = none
             else y.table = x.table ∧ y.accepted = x.accepted)
          ∧ y.face = x.face ∧ y.retrain = x.retrain)
      ∧ ((∀ c q, (u.core c).sends q = []) → (∀ c q, (t.core c).sends q = [])
          ∧ (tide = true → ∀ p ∈ u.cores, (t.core p.1).rateSent = []))
  -- 01 R13, 19 R404: time passes to cycle d
  (∀ (s : State) (d : Nat), d < 2 ^ 64 →
      let t := s.countTo d
      t = { s with cycle := .ofNat 64 d, cores := t.cores }
      ∧ ((s.retraining = [] ∨ d ≤ s.cycle.toNat) → t.cores = s.cores)
      ∧ (s.retraining ≠ [] → s.cycle.toNat < d → ∀ p ∈ s.cores, let k := s.core p.1
          let y := t.core p.1
          y = { k with heldFor := y.heldFor }
          ∧ ∀ q, q < 16 → Tab.get 0 y.heldFor q =
              if s.heldBy p.1 q = true then
                Tab.get 0 k.heldFor q + (d - max s.cycle.toNat (k.issCycle + 1)) else 0)
      ∧ (s.retraining = [] → s.passTo d = t))
  ∧ frame .frameBoundary false ∧ frame .tideBoundary true
  ∧ (∀ s : State, let d := s.frameBase.toNat + s.slotDue
      s.framesOn = true → d ≤ s.due →
      let t : State := { s.passTo d with slotDue := s.slotDue + 15750 }
      let go := exec .circuitSlotBoundary s
      (s.schedNext = none → go = .next t)
      ∧ (∀ w n, s.schedNext = some (w, n) →
          let starts := ∀ x, s.sched = some x → (s.slotDue - x.start) % (15750 * (x.nslot + 1)) = 0
          (starts → go = .next { t with sched := some { slots := w, nslot := n, start := s.slotDue }
                                        schedNext := none })
          ∧ (¬starts → go = .next t)))
  ∧ (∀ (s : State) (q : BitVec 4), let x := s.strait q.toNat
      s.framesOn = true → x.retrain = none → ∃ t, exec (.retrainStart q) s = .next t
        ∧ t = { s with cores := t.cores, straits := t.straits, retrains := s.retrains + 1, drawerReqs := t.drawerReqs }
        ∧ (∀ j, t.strait j = if j = q.toNat then { x with retrain := some (s.frame + 1, s.frame + 38) } else s.strait j)
        ∧ t.drawerReqs = s.drawerReqs.map (fun r => match r.frame with
            | some f => if r.strait = q.toNat ∧ r.answered = false ∧ s.frame < f + 7 then { r with frame := none } else r
            | none => r)
        ∧ (∀ p ∈ s.cores, t.core p.1 = { s.core p.1 with
            stallTaken := (s.core p.1).stallTaken.filter (· != q.toNat)
            heldFor := Tab.put 0 (s.core p.1).heldFor q.toNat 0
            outs := (s.core p.1).outs.map fun o => if s.strandsLoad q.toNat o then { o with asked := none } else o }))
  ∧ (∀ (s : State) (q : BitVec 4) (a b : Nat), let x := s.strait q.toNat
      x.retrain = some (a, b) →
      ((s.frame + 1 ≤ b ∨ ∀ d, ¬due s d) → exec (.retrainEnd q) s = .next s)
      ∧ (∀ d, b < s.frame + 1 → due s d → ∃ t : State, exec (.retrainEnd q) s = .next { t.passTo d with turning := true }
          ∧ t = { s with straits := t.straits }
          ∧ (∀ j, t.strait j = if j = q.toNat then { x with retrain := none } else s.strait j)))
  ∧ (∀ (s : State) (q : BitVec 4) (rx : Bool) (g : BitVec 3) (b : Nat), let x := s.strait q.toNat
      let n := s.frame + 1
      groupAt (if rx then x.rx else x.tx) g.toNat = .waking b →
      ((n < b + 50 ∨ retrains x n ∨ ∀ d, ¬due s d) → exec (.groupLit q rx g) s = .next s)
      ∧ (∀ d, b + 50 ≤ n → ¬retrains x n → due s d →
          ∃ t : State, exec (.groupLit q rx g) s = .next { t.passTo d with turning := true }
          ∧ t = { s with straits := t.straits }
          ∧ (∀ j, j ≠ q.toNat → t.strait j = s.strait j)
          ∧ (let y := t.strait q.toNat
             y = (if rx then { x with rx := y.rx } else { x with tx := y.tx })
             ∧ ∀ h, groupAt (if rx then y.rx else y.tx) h =
                if h = g.toNat then .lit else groupAt (if rx then x.rx else x.tx) h)))
  ∧ (∀ (s : State) (i : Nat) (r : DrawerReq), s.drawerReqs[i]? = some r →
      (∀ q, s.requestLeaves r = some q → (∀ (j : Nat) (y : DrawerReq), s.drawerReqs[j]? = some y →
          (y.ready < r.ready ∨ (y.ready = r.ready ∧ j < i)) → s.requestLeaves y ≠ some q) →
        exec (.drawerRequest i) s = .next { s with
          drawerReqs := s.drawerReqs.set i { r with strait := q, frame := some s.frame } })
      ∧ (s.requestLeaves r = none → exec (.drawerRequest i) s = .next s)
      ∧ (∀ f, r.frame = some f → exec (.drawerResponse i) s = .next
          (if 48 * f + 384 ≤ s.linkCycle then
            { s with drawerReqs := s.drawerReqs.set i { r with answered := true } } else s)))
  ∧ (∀ (s : State) (c : Nat) (q : BitVec 4), let k := s.core c
      let may := k.run = .running ∧ k.stallLimit ≠ 0 ∧ q.toNat ∉ k.stallTaken ∧ k.stallDue = none
        ∧ s.heldBy c q.toNat = true
      let d := max s.cycle.toNat (k.issCycle + 1) + (k.stallLimit.toNat - Tab.get 0 k.heldFor q.toNat)
      let info : W64 := .ofNat 64 (q.toNat + if ({ s with veil := none } : State).delaysAccess c q.toNat then 0 else 16)
      let u := s.countTo d
      let y : Core := { u.core c with stallTaken := k.stallTaken ++ [q.toNat] }
      let alone := s.stallsDue.filter (fun x => x.1 ≤ d) = [(d, c, q.toNat)]
      ((¬may ∨ s.due < d) → exec (.linkStall c q) s = .next s)
      ∧ (may → d ≤ s.due → exec (.linkStall c q) s = .next (s.passTo d))
      ∧ (may → alone → k.handles → ∃ v, OnlyCore c u v ∧ v.core c = y
        ∧ EntersHandler v (s.passTo d) c .linkStall info 0 k.pc 8)
      ∧ (may → alone → k.hs = true → OnlyCore c u (s.passTo d) ∧ (s.passTo d).core c = { y with stallDue := some info }))
  ∧ ∀ (s : State) (c : Nat), let k := s.core c
      let mismatch := fun (e : Egress) (t : State) (pc : Nat) => exec (.lockstepMismatch c e) s = .next (t.setCore c { t.core c with
        cmptDue := match (t.core c).cmptDue with
          | some x => some x
          | none => some (.ofNat 64 (2 ^ 63 + pc % 2 ^ 32)) })
      exec (.lockstepMismatch c .same) s = .next s ∧ (256 ≤ c → ∀ e, exec (.lockstepMismatch c e) s = .next s)
      ∧ (k.run = .running → c < 256 → s.lockstep k.ctx = true → k.seg = false →
          (∀ id pc pa, k.egress c id = some (pc, pa) → ∃ t, mismatch (.cp id) t pc
            ∧ t = { s with
                cores := t.cores
                drawerReqs := s.drawerReqs.filter fun r => !(r.core == c && r.unit == 0 && r.id == id) }
            ∧ SameBytes s t ∧ (∀ d, d ≠ c → t.core d = s.core d)
            ∧ t.core c = { k with
                stores := k.stores.filter (·.id != id), outs := k.outs.filter (·.id != id) })
          ∧ (∀ (i : Nat) (p : Post), s.posts[i]? = some p → p.src = c → p.dst / 8 ≠ c / 8 →
            mismatch (.post i) { s with posts := s.posts.eraseIdx i } p.pc)
          -- a landing count at a core of another cluster is not applied
          ∧ (∀ (i : Nat) (o : Owed) (r : CopyRun) (rest : List CopyRun), s.owed[i]? = some o → o.core = c → o.land / 8 ≠ c / 8 →
            o.unit ≠ 9 → (k.chan (o.unit - 1)).fifo = r :: rest → mismatch (.count i) { s with
              owed := if o.left = 1 then s.owed.eraseIdx i else s.owed.set i { o with left := o.left - 1 } } r.entry.pc)
          -- an op whose flag posts leave the cluster completes without them
          ∧ (∀ (ch : Nat) (r : CopyRun) (rest : List CopyRun), ch < 8 → s.completing c ch = some r → r.inRecord = false →
            r.noticed = false → s.noticeLeaves c r.notice (s.copyLands c r) = true → (k.chan ch).fifo = r :: rest →
            ∃ t, mismatch (.notice ch) t r.entry.pc ∧ t = { s with cores := t.cores, kept := t.kept } ∧ SameBytes s t
              ∧ (∀ d, d / 8 ≠ c / 8 → t.core d = s.core d)
              ∧ (∀ j, (t.core c).chan j = if j = ch then { k.chan ch with fifo := rest } else k.chan j)
              ∧ ∀ j, (t.core c).tag j = (k.tag j || (r.notice.st && j == r.notice.desc)))
          ∧ (∀ u pc t, (if u < 8 then s.chanEgress c u else s.gEgress c (u - 8)) = some (pc, t) → mismatch (.engine u) t pc)
          -- a piece of a channel that would be written outside the cluster is passed over
          ∧ (∀ (ch n : Nat) (r x : CopyRun) (rest : List CopyRun) (writes : List (Nat × Nat)),
            (k.chan ch).fifo = r :: rest → s.pieceInHand c r = some (x, n, writes) →
            (∃ w ∈ writes, leavesCluster c w.1 = true) →
            ∃ t, s.chanEgress c ch = some (r.entry.pc, t) ∧ SameBytes s t
              ∧ t = { s with cores := t.cores, drawerReqs := t.drawerReqs, readsAsked := t.readsAsked }
              ∧ (∀ d, d ≠ c → t.core d = s.core d)
              ∧ (∀ j, (t.core c).chan j = if j = ch then { k.chan ch with fifo := { x with off := x.off + n } :: rest }
                  else k.chan j)
              ∧ t.core c = { k with chans := (t.core c).chans })
          -- the flit that a send queue sends next leaves again
          ∧ (∀ (q i f : Nat) (x : SendOp), (k.sends q)[i]? = some x → x.next s.frame = some f →
            (∀ (j : Nat) (y : SendOp), j < i → (k.sends q)[j]? = some y → y.next s.frame = none) →
            ∃ t, mismatch (.send q) t x.entry.pc ∧ OnlyCore c s t
              ∧ (∀ j, (t.core c).sends j = if j = q then (k.sends q).set i
                  { x with sent := max x.sent (f + 1)
                           again := x.again.filter (fun a => a.1 != f) ++ [(f, s.frame)] } else k.sends j)
              ∧ t.core c = { k with sendq := (t.core c).sendq })
          ∧ (k.homeReq = true → mismatch .home (s.setCore c { k with homeReq := false }) k.pc)
          -- an op of the bundle that issues: the bundle issues without it
          ∧ (∀ (slot : Nat) (o : SlotOp), let t := s.boundary c
            k.homeReq = false → t.iss.active = true → t.iss.core = c → o ∈ t.iss.ops → o.slot = slot →
            t.opLeaves c o.instr = true →
            exec (.lockstepMismatch c (.issue slot)) s = .next { t with iss := { t.iss with lost := some slot } }
            ∧ ∀ x ∈ { t with iss := { t.iss with lost := some slot } : State }.issuing, x.slot ≠ slot)
          ∧ (k.ndDone = false → s.opLeaves c .halt = true))

/-- 07 R172 to R174, R176, 08 R189 to R193, 21 R432 and R433.  The model's choices, and no rules of the spec: that a record is checked before
step 1 of its dispatch (log 117, DEDUCED), the words of a save slot and what a restore reads back of it (log 30, DEDUCED),
what the dispatcher does between a stop and a restore (log 77, DEDUCED), the moment of its events to the host (log 78,
DEDUCED), the failures of a save area (log 79, DEDUCED), that the engines of a core that takes a node keep no old byte (log 125,
DEDUCED), and ANCHOR of its accumulator rows (log 137, DESIGN CHOICE). -/
def Obligations.DispatchStopSaveAndRestoreOfContexts : Prop :=
  -- the event of a stop or a restore that the dispatcher made, and the answers to the requests that waited for it
  let reports := fun (s t : State) (ctx : Nat) (x : Ctx) (code opc : Nat) =>
    let waits := fun q : Nat × HostReq => decide (q.1 = ctx ∧ q.2.w0.toNat % 2 ^ 8 = opc)
    t.owedAnswers = s.owedAnswers.filter (fun q => !waits q)
    ∧ t.hostOut = s.hostOut
      ++ (match x.byDispatcher, x.conn with
          | true, some conn => [{ conn := conn, w0 := .ofNat 64 (0x80 + 2 ^ 8 * code + 2 ^ 16 * ctx)
                                  value := t.ccbWord x.ccb 0x18, len := 0, payload := [] }]
          | _, _ => [])
      ++ (s.owedAnswers.filter waits).map fun q => {
          conn := q.2.conn, w0 := .ofNat 64 (opc + 2 ^ 32 * (q.2.w0.toNat / 2 ^ 32)), value := 0, len := 0, payload := [] }
  (∀ s : State, s.restsPreempted → s.placeNext = none → exec .dispatch s = .next s)
  -- a dispatch step begins with the restore that is due, and goes on from there
  ∧ (∀ (s : State) (ctx : Nat) (x : Ctx), ctx < 16 → s.ctx ctx = some x → s.mayRestore ctx = true →
      (∀ z, z ≠ ctx → s.mayRestore z = false) → (∃ v ∈ s.saved, v.ctx = ctx) →
      ∃ u, u = { s with ctxs := u.ctxs } ∧ exec .dispatch s = exec .dispatch u ∧ u.restsPreempted
        ∧ ∀ z, u.ctx z = if z = ctx then some { x with restoring := true } else s.ctx z)
  ∧ (∀ (s u : State) (p : PoolNode) (c : Nat), s.restsPreempted → s.placeNext = some ([(p, c)], u) →
      p ∈ s.pool ∧ s.ctxRuns p.ctx = true ∧ s.seatOpen p.ctx c = true
      ∧ (let v : State := { u with pool := u.pool.filter (· != p), freeNo := u.freeNo + 1 }
         let n : W64 := .ofNat 64 p.node
         let l : W64 := .ofNat 64 p.launch
         let fails := fun code => exec .dispatch s = .next ((v.failLaunch p.ctx l code n).leaveLive p.ctx n l)
         (∀ e, v.readNode p.ctx n = .error e → fails 0x16)
         ∧ (∀ r, v.readNode p.ctx n = .ok r → r.ok = false → fails 0x11)
         ∧ ∀ (r : NodeRec) (v1 w : State) (h : KernelHeader) (dict code : List Nat),
            v.readNode p.ctx n = .ok r → r.ok = true →
            v.rootPut p.ctx (n + 0x28) (setFld (setFld (r.word 0x28) 32 2 2) 34 8 (coreId c).toNat) = .ok v1 →
            v1.fetchKernel p.ctx (r.word 0) = .ok (h, dict, code) →
            (let old := v.core c
             let ccb := (v1.ctx p.ctx).elim 0 (·.ccb)
             let x := (v1.disarmAll c).setCore c (old.dispatched p ccb)
             (x.copyImages c p r h = (w, false) → exec .dispatch s = .next
               (((w.setCore c { old with cb := [], ag := [], gq := [], chans := [] }).failLaunch p.ctx l 0x16 n).leaveLive
                 p.ctx n l))
             ∧ (x.copyImages c p r h = (w, true) →
             ∃ t, exec .dispatch s = .next t ∧ p ∉ t.pool ∧ (∀ y ∈ t.kept, ∀ q, y.view ≠ .engine c q)
              ∧ (∀ bs, (∀ q ∈ r.operands, q.2.2 = 0) → x.rootRead p.ctx (r.word 0 + .ofNat 64 h.imgOff) h.imgLen = .ok bs →
                  HoldsBytes t (spBase c) bs)
              ∧ (∀ i : SR, (t.core c).getS i.toNat =
                  if i = 0 then 0 else if i.toNat ≤ 6 then r.word (0x40 + 16 * (i.toNat - 1))
                  else if i = 7 then n else if i = 8 then l else 0)
              ∧ t.core c = { Core.reset with
                  run := .running, s := (t.core c).s, pc := h.entry, code := code, dict := dict
                  node := n, launch := l, ctx := p.ctx, ccb := ccb, service := p.service
                  gvalid := .ofNat 4 ((r.word 0x18).toNat / 2 ^ 20 % 16)
                  gid := .ofNat 32 ((r.word 0x18).toNat / 2 ^ 32)
                  midx := (r.word 0x28).setWidth 32, trapEntry := (w.ccbWord ccb 8).setWidth 32
                  runId := (t.core c).runId, nextId := old.nextId, refused := old.refused, tlb := old.tlb, tlbMx := old.tlbMx
                  tlbCy := old.tlbCy, tlbGa := old.tlbGa, tlbLk := old.tlbLk }))))
  ∧ (∀ (s : State) (p : PoolNode) (l : List PoolNode) (x : Nat) (y : Ctx), s.pool = p :: l → s.starved p = true →
      x < 16 → s.isRunning x = true → s.ctx x = some y → s.ctxPrio p.ctx < s.ctxPrio x →
      (∀ z, z < 16 → s.isRunning z = true → s.ctxPrio z < s.ctxPrio x ∨ (s.ctxPrio z = s.ctxPrio x ∧ z ≤ x)) →
      ∃ t, exec .preemptTimeout s = .next t ∧ t = { s with cores := t.cores, ctxs := t.ctxs }
        ∧ (∀ z, t.ctx z = if z = x then some { y with stopping := some 1, byDispatcher := true, restoring := false }
            else s.ctx z)
        ∧ ∀ c, t.core c = if (s.core c).run = .running ∧ (s.core c).ctx = x then { s.core c with preReq := true }
            else s.core c)
  ∧ (∀ (s : State) (ctx : Nat) (x : Ctx), s.ctx ctx = some x →
      (s.ctxRests ctx = false ∨ x.stopping = none → exec (.contextSave ctx) s = .next s)
      ∧ ∀ c, x.stopping = some 1 → s.ctxRests ctx = true → s.ctxCores ctx = [c] → c < 256 → s.memOk →
        (let a := (s.ccbWord x.ccb 0x10).toNat % 2 ^ 52 + c * 0x400000
         s.saveable a = true → (x.ccb + 0x20 ≤ a ∨ a + 0x400000 ≤ x.ccb) → s.gatedAt (x.ccb + 0x18) = false →
         Tab.wf 0 (s.core c).s = true → Tab.wf 0 (s.core c).f = true →
         ∃ t, exec (.contextSave ctx) s = .next t
          ∧ (∀ i, i < 0x200000 → t.byte (a + i) = s.byte (spBase c + i))
          ∧ (∀ i, i < 64 → t.bytesAt (a + 0x28BC00 + 8 * i) 8 = leBytes 8 (Tab.get 0 (s.core c).s i).toNat)
          ∧ (let word := fun (i x : Nat) => t.bytesAt (a + 0x28BC00 + 8 * i) 8 = leBytes 8 x
             let k := s.core c
             word 64 k.pwin.toNat ∧ word 201 k.trapCode.toNat ∧ word 202 k.trapPc.toNat ∧ word 203 k.trapInfo.toNat
             ∧ word 206 k.trapAddr.toNat ∧ word 210 k.status.toNat ∧ word 211 k.pc
             ∧ ∀ i, i < 16 → word (65 + i) (k.flag i).toNat)
          ∧ (t.core c).run = .free
          ∧ (∃ v ∈ t.saved, v.ctx = ctx ∧ v.core = c ∧ v.broken = false
              ∧ v.owed = s.owed.filter (fun o => o.core == c)
              ∧ v.regs = { s.core c with code := [], dict := [], hold := (s.core c).hold.map Hold.afresh })
          ∧ t.ctx ctx = some { x with stopping := none }
          ∧ reports s t ctx x 2 8
          ∧ (t.ccbWord x.ccb 0x18).toNat / 2 ^ 8 % 4 = 1))
  ∧ (∀ (s : State) (ctx c : Nat) (x : Ctx) (v : SavedCore),
      s.ctx ctx = some x → s.saved = [v] → v.ctx = ctx → v.core = c → c < 256 →
      (x.restoring = false → exec (.restore ctx) s = .next s)
      ∧ (s.coreFree c = false → exec (.restore ctx) s = .next s)
      ∧ (let a := (s.ccbWord x.ccb 0x10).toNat % 2 ^ 52 + c * 0x400000
         let old := s.core c
         let k : Core := { s.readSlot a v.regs with
          run := .running, preReq := false, idleFrom := old.idleFrom, nextId := max old.nextId v.regs.nextId
          tlb := old.tlb, tlbMx := old.tlbMx, tlbCy := old.tlbCy, tlbGa := old.tlbGa, tlbLk := old.tlbLk
          refused := old.refused, issCycle := s.cycle.toNat }
         let u := State.setCore (State.freshViews { s.copyCells a (spBase c) 0x200000 with
          saved := [], armed := s.armed ++ v.arms, owed := s.owed ++ v.owed } c) c k
         ∀ (n : NodeRec) (h : KernelHeader) (dict code : List Nat),
          x.restoring = true → s.coreFree c = true → v.lock = false → u.lockstep ctx = false → s.savedGangs v = [] →
          s.saveable a = true → s.savedBroken v a = false → s.memOk →
          (x.ccb + 0x20 ≤ spBase c ∨ spBase c + 0x200000 ≤ x.ccb) → s.gatedAt (x.ccb + 0x18) = false →
          u.readNode ctx k.node = .ok n → u.fetchKernel ctx (n.word 0) = .ok (h, dict, code) →
          ∃ t, exec (.restore ctx) s = .next t ∧ t.saved = [] ∧ t.core c = { k with code := code, dict := dict }
            ∧ (∀ i, i < 0x200000 → t.byte (spBase c + i) = s.byte (a + i))
            ∧ (∀ y ∈ t.kept, (∀ q, y.view ≠ .engine c q) ∧ (y.pa < spBase c ∨ spBase c + 0x200000 ≤ y.pa))
            ∧ t.armed = s.armed ++ v.arms ∧ t.owed = s.owed ++ v.owed
            ∧ t.ctx ctx = some { x with restoring := false, byDispatcher := false }
            ∧ reports s t ctx x 3 9
            ∧ (t.ccbWord x.ccb 0x18).toNat / 2 ^ 8 % 4 = 0))
  ∧ ∀ (s : State) (ctx : Nat) (x : Ctx), ctx < 16 → s.ctx ctx = some x → s.mayRestore ctx = true →
      (∀ z, z < ctx → s.mayRestore z = false) → (∃ v ∈ s.saved, v.ctx = ctx) →
      ∃ t, exec .dispatcherRestore s = .next t ∧ t = { s with ctxs := t.ctxs }
        ∧ ∀ z, t.ctx z = if z = ctx then some { x with restoring := true } else s.ctx z

/-- 16 R351, R357 to R359, R362, 07 R175, R177, 19 R394, R407 and 21 R422.  `ends st moved` says that the job at pa
has ended with STATE and MOVED, and the other bits of that word are as they were.  The model's choices, and no rules of the
spec: the STATE of each end beside those of R357 and the page that a gone sequence gives back (log 80, DEDUCED), the holders
of a page that waits (log 85, DEDUCED), and that a write to other words of configuration space is discarded (log 19, DESIGN
CHOICE). -/
def Obligations.CompactionFreeingAndConfigurationWrites : Prop :=
  let word := fun (s : State) (a : Nat) => leNat (s.bytesAt a 8)
  let ends := fun (s : State) (pa st moved : Nat) (t : State) =>
    SameBytesBut s t (pa + 0x18) 8 ∧ word t (pa + 0x18) % 2 ^ 8 = st ∧ word t (pa + 0x18) / 2 ^ 32 = moved % 2 ^ 32
    ∧ word t (pa + 0x18) / 2 ^ 8 % 2 ^ 24 = word s (pa + 0x18) / 2 ^ 8 % 2 ^ 24 ∧ t.job = none
    ∧ KeptAfter s t .home (pa + 0x18) 8
  (∀ (s : State) (w : W64), let pa := w.toNat % 2 ^ 52
      (s.jobReadable pa = false ∨ poisoned s.errs pa 64 ≠ none →
        exec (.compactSubmit w) s = .next { s with jobs := s.jobs ++ [pa] })
      ∧ (s.jobReadable pa = true → poisoned s.errs pa 64 = none → s.gatedAt (pa + 0x18) = false →
        ∃ t, exec (.compactSubmit w) s = .next t ∧ t = { s with
            mem := t.mem, errs := t.errs, kept := t.kept, jobs := s.jobs ++ [pa] }
          ∧ KeptAfter s t .home (pa + 0x18) 8 ∧ SameBytesBut s t (pa + 0x18) 8 ∧ word t (pa + 0x18) = word s (pa + 0x18) / 2 ^ 8 % 2 ^ 24 * 2 ^ 8))
  ∧ (∀ (s : State) (pa : Nat) (l : List Nat), s.job = none → s.jobs = pa :: l → s.jobReadable pa = true →
      s.gatedAt (pa + 0x18) = false → poisoned s.errs pa 64 = none →
      (s.jobReserved pa = false → exec .compactPage s = .next { s with
        jobs := l, job := some { pa := pa, pos := 0, moved := 0, swap := none, desc := 0, cls := 0, lost := false } })
      ∧ (s.jobReserved pa = true → ∃ t, exec .compactPage s = .next t ∧ ends s pa 5 0 t
          ∧ t = { s with mem := t.mem, errs := t.errs, kept := t.kept, jobs := l }))
  ∧ (∀ (s : State) (j : Job), s.job = some j → j.swap = none → s.gatedAt (j.pa + 0x18) = false →
      let ctx := s.jobCtx j.pa
      let stops := fun st => ∃ t, exec .compactPage s = .next t ∧ ends s j.pa st j.moved t
        ∧ t = { s with mem := t.mem, errs := t.errs, kept := t.kept, job := none }
      let desc := s.descOp (.root ctx) (s.jobDesc j.pa) .homeRead
      let i := s.jobFirst j.pa + j.pos
      (s.jobPages j.pa ≤ j.pos → stops 1)
      ∧ (j.pos < s.jobPages j.pa → (∀ e, desc = .error e → stops 4)
        ∧ ∀ d, desc = .ok d → let cls := seqClass d.w18
          let movable := i < d.pages ∧ d.fork + (i + 1) * seqP d.w18 ≤ d.lc
          (¬d.inUse → stops 3)
          ∧ (d.inUse → ¬movable → exec .compactPage s = .next { s with job := some { j with pos := j.pos + 1 } })
          ∧ (d.inUse → movable → (s.slab ctx cls).count = 0 → stops 2)
          ∧ (d.inUse → movable → (s.slab ctx cls).count ≠ 0 →
              (∀ e, s.copyPage ctx d i = .error e → stops 4)
              ∧ ∀ q u, s.copyPage ctx d i = .ok (q, u) →
                exec .compactPage s = .next { u with job := some { j with
                    swap := some q, desc := d.pa, cls := cls, lost := false } }
                ∧ HomeViews s u ∧ (u.slab ctx cls).count = (s.slab ctx cls).count - 1)))
  ∧ (∀ (s : State) (j : Job) (entry old new : Nat), s.job = some j → j.swap = some (entry, old, new) →
      let desc := s.descOp (.root (s.jobCtx j.pa)) (s.jobDesc j.pa) .homeRead
      s.gatedAt (j.pa + 0x18) = false → s.gatedAt entry = false →
      let waiting : Nat → FreePage := fun va =>
        { ctx := s.jobCtx j.pa, cls := j.cls, va := va % 2 ^ 64, waits := s.holders (s.jobCtx j.pa) }
      let gone := j.lost = true ∨ ∃ d, desc = .ok d ∧ ¬d.inUse
      (gone → ∃ t, exec .compactSwap s = .next t ∧ ends s j.pa 3 j.moved t
          ∧ t = { s with
              mem := t.mem, errs := t.errs, kept := t.kept, job := none, frees := s.frees ++ [waiting new] })
      ∧ (∀ e, j.lost = false → desc = .error e → ∃ t, exec .compactSwap s = .next t ∧ ends s j.pa 4 j.moved t
          ∧ t = { s with mem := t.mem, errs := t.errs, kept := t.kept, job := none })
      ∧ (∀ d e, j.lost = false → desc = .ok d → d.inUse → poisoned s.errs entry 8 = some e →
          ∃ t, exec .compactSwap s = .next t ∧ ends s j.pa 4 j.moved t
            ∧ t = { s with mem := t.mem, errs := t.errs, kept := t.kept, job := none })
      ∧ (∀ d, j.lost = false → desc = .ok d → d.inUse → poisoned s.errs entry 8 = none →
          (entry + 8 ≤ j.pa + 0x18 ∨ j.pa + 0x20 ≤ entry) → ∃ t, exec .compactSwap s = .next t
          ∧ t = { s with
              mem := t.mem, errs := t.errs, kept := t.kept, frees := s.frees ++ [waiting old]
              job := some { j with pos := j.pos + 1, moved := j.moved + 1, swap := none } }
          ∧ HomeViews s t
          ∧ word t entry = word s entry / 2 ^ 41 * 2 ^ 41 + new / 65536 % 2 ^ 41
          ∧ word t (j.pa + 0x18) = word s (j.pa + 0x18) % 2 ^ 32 + (j.moved + 1) % 2 ^ 32 * 2 ^ 32
          ∧ ∀ a, (a < entry ∨ entry + 8 ≤ a) → (a < j.pa + 0x18 ∨ j.pa + 0x20 ≤ a) → t.byte a = s.byte a))
  ∧ (∀ (s : State) (i : Nat) (f : FreePage), s.frees[i]? = some f →
      let waits := ∃ w ∈ f.waits, s.stillHolds w = true
      let u : State := { s with frees := s.frees.eraseIdx i }
      let x := s.slab f.ctx f.cls
      (waits → exec (.pageFree i) s = .next s)
      ∧ (¬waits → ∀ v, u.rootPut f.ctx (.ofNat 64 f.va) x.head = .ok v → ∃ t, exec (.pageFree i) s = .next t
          ∧ t = { v with slabs := t.slabs }
          ∧ t.slab f.ctx f.cls = { x with head := .ofNat 64 f.va, count := x.count + 1 })
      ∧ (¬waits → ∀ e, u.rootPut f.ctx (.ofNat 64 f.va) x.head = .error e → ∃ t, exec (.pageFree i) s = .next t
          ∧ t = { u with slabs := t.slabs, hostOut := t.hostOut }
          ∧ t.slab f.ctx f.cls = { x with lost := x.lost + 1 }))
  -- configuration space
  ∧ (∀ (s : State) (g : BitVec 8) (w : W64), ∃ t, exec (.groupEntryWrite g w) s = .next t
      ∧ t = { s with cores := t.cores, groups := t.groups, saved := t.saved }
      ∧ (∀ y, t.group y = if y = g.toNat then
          { s.group y with
            valid := w.getLsbD 0, gang := w.getLsbD 1, ctx := .ofNat 4 (w.toNat / 2 ^ 4)
            count := .ofNat 8 (w.toNat / 2 ^ 8), arr := 0, ract := false, rval := 0, ridx := 0 }
          else s.group y)
      ∧ ∀ c, t.core c = { s.core c with hold := (t.core c).hold, hidHold := (t.core c).hidHold }
        ∧ ∀ h, (s.core c).hold = some h → (t.core c).hold = some (if h.onGroup g.toNat = true then
            { h with ended := some (TrapCode.group.num, .ofNat 64 (g.toNat + 256 * h.groupSlot), 0) } else h))
  ∧ (∀ (s : State) (n : BitVec 8) (second : Bool) (w : W64), ∃ t, exec (.ticketEntryWrite n second w) s = .next t
      ∧ t = { s with tickets := t.tickets }
      ∧ ∀ y, t.ticket y = if y = n.toNat then
          (if second then { s.ticket y with valid := w.getLsbD 4, ctx := w.setWidth 4 }
           else { s.ticket y with next := w.setWidth 32, serving := .ofNat 32 (w.toNat / 2 ^ 32) })
          else s.ticket y)
  ∧ (∀ (s : State) (w : W64), ∃ t, exec (.linkControlWrite w) s = .next t
      ∧ t = { s with linkCtl := w &&& 0xFFFFFFFF0000001F, slotDue := t.slotDue }
      ∧ (s.framesOn = false ∨ s.sched ≠ none → t.slotDue = s.slotDue)
      ∧ (s.framesOn = true → s.sched = none → t.slotDue % 2 ^ 32 = w.toNat / 2 ^ 32 ∧ s.linkCycle ≤ t.slotDue
          ∧ t.slotDue < s.linkCycle + 2 ^ 32))
  ∧ ∀ (s : State) (off : BitVec 24) (w : W64), let a := off.toNat / 8 * 8
      let go := exec (.configWrite off w) s
      (a < 0x10000 → go = .next s)
      ∧ (a = 0x10000 → go = .next { s with dispCtl := w.setWidth 12 &&& 0xF0F })
      ∧ (∀ g : BitVec 8, a = 0x20000 + 32 * g.toNat → go = exec (.groupEntryWrite g w) s)
      ∧ (∀ n : BitVec 8, a = 0x31000 + 16 * n.toNat → go = exec (.ticketEntryWrite n false w) s)
      ∧ (∀ n : BitVec 8, a = 0x31008 + 16 * n.toNat → go = exec (.ticketEntryWrite n true w) s)
      ∧ (a = 0x30400 → go = exec (.compactSubmit w) s)
      ∧ (a = 0x40000 → go = exec (.linkControlWrite w) s)
      ∧ (a = 0x50000 → go = .next { s with power := { s.power with
          step := .ofNat 16 (w.toNat / 2 ^ 16), capW := w.setWidth 16 } })
      ∧ (∀ ctx cls, ctx < 16 → cls < 4 → a = 0x30000 + 64 * ctx + 16 * cls → ∃ t, go = .next t
          ∧ t = { s with slabs := t.slabs } ∧ t.slab ctx cls = { s.slab ctx cls with head := w })
      ∧ (∀ ctx cls, ctx < 16 → cls < 4 → a = 0x30008 + 64 * ctx + 16 * cls → ∃ t, go = .next t
          ∧ t = { s with slabs := t.slabs } ∧ t.slab ctx cls = { s.slab ctx cls with
              lost := .ofNat 32 (w.toNat / 2 ^ 32), count := w.setWidth 32 })

/-- 01 R13, 19 R388, R389, R406 and 21 R421 to R428.  The model's choices, and no rules of the spec: that reset memory lists
nothing (log 4, DESIGN CHOICE), the values of log 3 (DESIGN CHOICE), the comparison with 15/16 of the cap (log 69, DEDUCED),
what SLOPE, CAP_EXCESS, the gating and the wake of a cluster follow (log 81, DEDUCED), what of the model goes on over a
reset (log 82, DESIGN CHOICE), that a failure at stage 3 leaves that stage (log 83, DEDUCED), and the gating at once after
every context was stopped (log 110, DEDUCED). -/
def Obligations.PowerBringUpAndResetLeaveTheStatedValues : Prop :=
  (∀ s : State, let d := 64 * (s.hbCount.toNat + 1)
    d ≤ s.due → exec .heartbeatTick s = .next { s.passTo d with hbCount := s.hbCount + 1 })
  ∧ (∀ (s : State) (pkg : BitVec 16) (slope : Bool), let p := s.power
      let d := 4096 * (p.periods + 1)
      d ≤ s.due → ∃ t, exec (.controlPeriodEnd pkg slope) s = .next t
        ∧ t = { s.passTo d with power := t.power }
        ∧ t.power = { p with
            pkgW := pkg, scale := t.power.scale, slope := t.power.slope, capExcess := t.power.capExcess
            ballastRan := false, periods := p.periods + 1 }
        ∧ t.power.scale.toNat =
          (if p.capW ≠ 0 ∧ p.capW.toNat < pkg.toNat then min (p.scale.toNat + p.step.toNat) 0xFFFF
           else if p.capW = 0 ∨ 16 * pkg.toNat < 15 * p.capW.toNat then max (p.scale.toNat - p.step.toNat) 0x100
           else p.scale.toNat)
        ∧ (p.ballastRan = true → t.power.slope = true)
        ∧ t.power.capExcess = (if p.ballastRan = true ∧ p.capW ≠ 0 ∧ p.capW.toNat < pkg.toNat then
            p.capExcess + .ofNat 64 ((pkg.toNat - p.capW.toNat) * 4096 / 1500) else p.capExcess))
  ∧ (∀ (s : State) (e : Nat), exec (.ballastStart e) s = .next { s with power := { s.power with
      ballast := s.power.ballast + .ofNat 64 e, ballastRan := true } })
  ∧ (∀ (s : State) (cl last : Nat), cl < 32 → s.power.gated.getLsbD cl = false →
      let free := ∀ i, i < 8 → (s.core (8 * cl + i)).run = .free
      (∀ i, i < 8 → (s.core (8 * cl + i)).idleFrom ≤ last) → (∃ i, i < 8 ∧ (s.core (8 * cl + i)).idleFrom = last) →
      let gates := s.power.rampDown.getLsbD cl = true ∨ s.dispCtl.getLsbD 3 = false
      let d := if s.power.rampDown.getLsbD cl then last else last + 1024
      (free → gates → d ≤ s.due → ∃ t, exec (.clusterGate cl) s = .next t
        ∧ t = { s.passTo (max s.cycle.toNat d) with power := t.power }
        ∧ t.power = { s.power with gated := t.power.gated, woken := t.power.woken }
        ∧ ∀ i, t.power.gated.getLsbD i = (s.power.gated.getLsbD i || i == cl)
          ∧ t.power.woken.getLsbD i = (s.power.woken.getLsbD i && i != cl))
      ∧ (¬(free ∧ gates ∧ d ≤ s.due) → exec (.clusterGate cl) s = .next s))
  ∧ (∀ (s : State) (cl : Nat), cl < 32 → s.power.gated.getLsbD cl = true →
      let inside := fun a => ∃ i, i < 8 ∧ spBase (8 * cl + i) ≤ a ∧ a < spBase (8 * cl + i) + 0x200000
      ∃ t, exec (.clusterWake cl) s = .next t
        ∧ t = { s with cores := t.cores, power := t.power, mem := t.mem, errs := t.errs, armed := t.armed
                       kept := t.kept }
        ∧ (∀ x, x ∈ t.kept ↔ x ∈ s.kept ∧ ¬inside x.pa)
        ∧ t.power = { s.power with gated := t.power.gated, woken := t.power.woken, rampDown := t.power.rampDown }
        ∧ (∀ i, t.power.gated.getLsbD i = (s.power.gated.getLsbD i && i != cl)
            ∧ t.power.woken.getLsbD i = (s.power.woken.getLsbD i || i == cl)
            ∧ t.power.rampDown.getLsbD i = (s.power.rampDown.getLsbD i && i != cl))
        ∧ (∀ a, (inside a → t.byte a = 0 ∧ a ∉ t.errs)
            ∧ (¬inside a → t.byte a = s.byte a ∧ (a ∈ t.errs ↔ a ∈ s.errs)))
        ∧ (∀ a, a ∈ t.armed ↔ a ∈ s.armed ∧ ¬inside (16 * a))
        ∧ ∀ c, t.core c = if c / 8 = cl then { s.core c with idleFrom := s.cycle.toNat } else s.core c)
  ∧ (∀ s : State, exec .bringupStage2 s = .next (if s.stage = 1 then { s with stage := 2, service := 0 } else s))
  ∧ (∀ (s : State) (f : BringUpFind), s.stage = 2 →
      exec (.bringupStage3 false f) s = .next { s with stage := 3, service := 2 }
      ∧ ∃ t, exec (.bringupStage3 true f) s = .next t
        ∧ t = { s with stage := 3, chip := f.chip, dsize := f.dsize, gib := t.gib, dstraits := t.dstraits
                       straits := t.straits }
        ∧ (∀ d, d < 4 → Tab.get 0 t.gib d = f.gib.getD d 0 ∧ Tab.get 0 t.dstraits d = f.straits.getD d 0)
        ∧ ∀ i, i < 16 → let x := t.strait i
          let found := (List.range 4).filter fun d => f.gib.getD d 0 != 0 && (f.straits.getD d 0).getLsbD i
          x = { s.strait i with face := f.faces.getLsbD i, table := x.table }
          ∧ Tab.get 0 x.table 0 = 0xC000
          ∧ ∀ n, 1 ≤ n → n < 64 → Tab.get 0 x.table n =
            if f.faces.getLsbD i = true then 0x8000
            else if found = [] then 0 else .ofNat 16 (0x4000 + found.getD (n % found.length) 0))
  ∧ (∀ s : State, s.stage = 3 → s.service = 0 →
      (s.runningCtxs = [] → s.anyStopping = false → s.clockStop = [] → ∃ t, exec .bringupStage4 s = .next t
        ∧ t.stage = 4 ∧ t.service = 0 ∧ t.framesOn = true ∧ t.frameBase = s.cycle ∧ t.frame = 0 ∧ t.cycle = s.cycle
        ∧ t.slotDue = (if s.linkCtl.toNat / 2 ^ 32 = 0 then 15750 else s.linkCtl.toNat / 2 ^ 32) ∧ t.mem = s.mem
        ∧ ∀ i, i < 16 → (t.strait i).table = (s.strait i).coming.table ∧ (t.strait i).accepted = none)
      ∧ (∀ x y, s.runningCtxs = [x] → s.ctx x = some y → ∃ t, exec .bringupStage4 s = .next t
          ∧ t = { s with cores := t.cores, ctxs := t.ctxs, clockStop := s.clockStop ++ [x] }
          ∧ (∀ z, t.ctx z = if z = x then some { y with
              stopping := some (max 1 (y.stopping.getD 0)), byDispatcher := false, restoring := false } else s.ctx z)
          ∧ ∀ c, t.core c = if (s.core c).run = .running ∧ (s.core c).ctx = x then { s.core c with preReq := true }
              else s.core c))
  ∧ (∀ s : State, s.stage = 4 → s.service = 0 →
      let waits := ∃ x ∈ s.clockStop, ∃ y, s.ctx x = some y ∧ y.restoring = true
      (waits → exec .bringupStage4 s = .next s)
      ∧ (¬waits → exec .bringupStage4 s = .next { s with service := 1, clockStop := [] }))
  ∧ (∀ s : State, exec .deviceReset s = .next { State.reset with
      agenda := s.agenda, turnNo := s.turnNo, freeNo := s.freeNo })
  ∧ (let s := State.reset
     s.memOk ∧ (∀ a, s.byte a = 0) ∧ s.kept = [] ∧ s.veil = none ∧ s.stage = 1 ∧ s.cycle = 0 ∧ s.hbCount = 0 ∧ s.frame = 0 ∧ s.linkCtl = 0 ∧ s.dispCtl = 0x402
     ∧ s.misroute = 0 ∧ s.retrains = 0 ∧ s.sched = none ∧ s.framesOn = false
     ∧ s.power.step = 0x10 ∧ s.power.capW = 0xC80 ∧ s.power.pkgW = 0 ∧ s.power.scale = 0x100 ∧ s.power.slope = false
     ∧ s.power.gated = 0 ∧ s.power.capExcess = 0 ∧ s.power.ballast = 0 ∧ (∀ i, Tab.get 0 s.power.ectr i = 0)
     ∧ (∀ n, s.group n = GroupEntry.reset ∧ s.ticket n = Ticket.reset ∧ s.slab n 0 = Slab.reset)
     ∧ (∀ i, let x := s.strait i
        litMask x.tx = 1 ∧ litMask x.rx = 1 ∧ Tab.get 0 x.table 0 = 0xC000 ∧ ∀ n, n ≠ 0 → Tab.get 0 x.table n = 0)
     ∧ ∀ c, let k := s.core c
        k.run = .free ∧ k.stallLimit = 1500 ∧ k.status = 0 ∧ k.trapCode = 0 ∧ k.trapPc = 0 ∧ k.trapInfo = 0
        ∧ k.trapSlot = 0 ∧ k.trapAddr = 0 ∧ k.brkPc = 0 ∧ k.brkMask = 0 ∧ k.brkCount = 0 ∧ k.rwCount = 0
        ∧ k.stallLoad = 0 ∧ k.stallSkew = 0 ∧ k.stallSync = 0 ∧ k.bubbleBr = 0)

/-- 07 R169 and 21 R430 to R433.  The model's choices, and no rules of the spec: that mode 0 stands for RUD and mode 1 for
ROD (log 21, DEDUCED), BAD of a launch record that is misaligned or breaks its form, whatever its access would give
(log 26, DESIGN CHOICE), FULL before BUSY (log 70, DEDUCED), the RESULT of an OPEN for each ARG and its CSTATE (log 71, DESIGN
CHOICE), PROT of a WRITE to an armed or a marked byte (log 73, DEDUCED), what CLOSE ends beside R431 (log 74, DEDUCED), when
a request is taken and answered (log 76, DEDUCED), an OPC of another operation (log 86, DEDUCED), the energy table that an
OPEN fills (log 108, DEDUCED), what a RELEASE leaves alone (log 109, DEDUCED), and
the responses that are owed on a connection that ends (log 90, DESIGN CHOICE). -/
def Obligations.HostRequestsAreAnsweredWithTheirResult : Prop :=
  let answer := fun (r : HostReq) (result : Nat) (payload : List Byte) => ({
    conn := r.conn, w0 := .ofNat 64 (r.w0.toNat % 2 ^ 8 + 2 ^ 8 * result + 2 ^ 32 * (r.w0.toNat / 2 ^ 32))
    value := 0, len := payload.length, payload := payload } : HostMsg)
  let ops : List ((HostReq → Instr) × Nat) := [
    (.launch, 1), (.read, 2), (.write, 3), (.status, 4), (.release, 5), (.open, 6), (.close, 7), (.preempt, 8), (.resume, 9)]
  (∀ (s : State) (r : HostReq), ∀ op ∈ ops,
    let gives := fun result => exec (op.1 r) s = .next { s with hostOut := s.hostOut ++ [answer r result []] }
    (s.takesRequest r = false → exec (op.1 r) s = .next s)
    ∧ (s.takesRequest r = true → r.bad op.2 = true → gives 1)
    ∧ (s.takesRequest r = true → r.bad op.2 = false → s.resident r.ctx = false →
        (op.2 ∈ [1, 4, 5, 7, 8, 9] ∨ (op.2 ∈ [2, 3] ∧ r.phys = false)) → gives 7))
  ∧ ∀ (s : State) (r : HostReq), s.takesRequest r = true →
    let gives := fun (i : Instr) result => exec i s = .next { s with hostOut := s.hostOut ++ [answer r result []] }
    let there := s.resident r.ctx = true
    let okFor := fun n => r.bad n = false
    (∀ pa, okFor 2 → (r.phys = true ∨ there) → s.hostRuns r r.addr r.len .read = .ok [(pa, r.len)] →
      (∃ isle, s.region pa = .shelf isle) → s.gatedAt pa = false → poisoned s.errs pa r.len = none →
      exec (.read r) s = .next { s with
        hostOut := s.hostOut ++ [answer r 0 (s.bytesSeen .cp pa r.len)], freeNo := s.freeNo + 1 })
    ∧ (∀ e, okFor 2 → (r.phys = true ∨ there) → s.hostRuns r r.addr r.len .read = .error e →
        gives (.read r) (s.resultOf e))
    ∧ (∀ pa, okFor 3 → (r.phys = true ∨ there) → s.hostRuns r r.addr r.payload.length .write = .ok [(pa, r.payload.length)] →
        (∃ isle, s.region pa = .shelf isle) →
        let n := r.payload.length
        (s.overlapsArmed pa n = false → s.overlapsMark pa n = false → ∃ t, exec (.write r) s = .next t
          ∧ t = { s with mem := t.mem, errs := t.errs, kept := t.kept, hostOut := s.hostOut ++ [answer r 0 []] }
          ∧ HoldsBytes t pa r.payload ∧ SameBytesBut s t pa n ∧ KeptAfter s t .home pa n)
        ∧ (s.overlapsArmed pa n = true ∨ s.overlapsMark pa n = true → gives (.write r) 4))
    ∧ (∀ bs x, okFor 4 → there → s.ctx r.ctx = some x → s.hostRead r (r.addr + 0x10) 24 = .ok bs →
        exec (.status r) s = .next { s with hostOut := s.hostOut ++ [answer r 0
          ((bs.drop 8).take 1 ++ List.replicate 7 0 ++ bs.take 8 ++ bs.drop 16 ++ leBytes 8 (s.ccbWord x.ccb 0x18).toNat)] })
    ∧ (okFor 1 → there → r.addr.toNat % 64 ≠ 0 → gives (.launch r) 1)
    ∧ (∀ bs, okFor 1 → there → r.addr.toNat % 64 = 0 → s.hostRead r r.addr 64 = .ok bs →
        let word := fun off => leNat ((bs.drop off).take 8)
        let good := word 8 % 2 ^ 16 ≠ 0 ∧ word 8 / 2 ^ 20 = 0 ∧ word 0x18 / 2 ^ 8 = 0 ∧ ∀ b ∈ bs.drop 0x28, b = 0
        (¬good → gives (.launch r) 1)
        ∧ (good → r.phys = false → ∀ t, s.acceptLaunch r (.ofNat 64 (word 8)) (.ofNat 64 (word 0x18)) = .ok t →
            exec (.launch r) s = .next (
              let u := t.decrementList r.ctx r.addr r.addr (.ofNat 64 (word 0)) (word 8 % 2 ^ 16)
              { u with hostOut := u.hostOut ++ [answer r 0 []] })))
    ∧ (okFor 6 →
        (s.residents = 16 → gives (.open r) 8)
        ∧ (s.residents ≠ 16 → (s.ctx r.ctx).isSome = true → gives (.open r) 6)
        ∧ (s.residents ≠ 16 → s.ctx r.ctx = none → r.arg.toNat % 256 ≠ 0 → gives (.open r) 1)
        ∧ (∀ isle, s.residents ≠ 16 → s.ctx r.ctx = none → r.arg.toNat % 256 = 0 → r.arg.toNat < 2 ^ 52 →
            s.region r.arg.toNat = .shelf isle → poisoned s.errs r.arg.toNat 256 = none →
            s.gatedAt (r.arg.toNat + 0x18) = false → ∃ t, exec (.open r) s = .next t
              ∧ t = { s with
                  mem := t.mem, errs := t.errs, kept := t.kept, ctxs := t.ctxs, hostOut := s.hostOut ++ [answer r 0 []] }
              ∧ HomeViews s t
              ∧ (∀ z, t.ctx z = if z = r.ctx then some { ccb := r.arg.toNat, conn := some r.conn, byDispatcher := false
                                                         stopping := none, restoring := false } else s.ctx z)
              ∧ (t.ccbWord r.arg.toNat 0x18).toNat / 2 ^ 8 % 4 = 0
              ∧ (let a := r.arg.toNat
                 let empty := ∀ i, i < 40 → s.byte (a + 0x40 + i) = 0
                 (¬empty → SameBytesBut s t (a + 0x18) 8)
                 ∧ (empty → (∀ b, (b < a + 0x18 ∨ a + 0x20 ≤ b) → (b < a + 0x40 ∨ a + 0x68 ≤ b) → t.byte b = s.byte b)
                    ∧ ∀ q ∈ [(0, 1152, 128), (2, 288, 64), (4, 144, 32), (5, 72, 16), (8, 96, 32), (9, 96, 32)],
                      HoldsBytes t (a + 0x40 + 4 * q.1) (leBytes 2 q.2.1 ++ leBytes 2 q.2.2)))))
    ∧ (∀ x, there → s.ctx r.ctx = some x →
        let cstate := (s.ccbWord x.ccb 0x18).toNat / 2 ^ 8 % 4
        let stops := fun (i : Instr) (why : Nat) (more : State → Prop) => ∃ t, exec i s = .next t
          ∧ t.owedAnswers = s.owedAnswers ++ [(r.ctx, r)] ∧ t.hostOut = s.hostOut
          ∧ (∀ z, t.ctx z = if z = r.ctx then some { x with
              stopping := some (max why (x.stopping.getD 0)), byDispatcher := false, restoring := false } else s.ctx z)
          ∧ (∀ c, t.core c = if (s.core c).run = .running ∧ (s.core c).ctx = r.ctx then { s.core c with preReq := true }
              else s.core c)
          ∧ more t
        let gone := fun t : State => (∀ p ∈ t.pool, p.ctx ≠ r.ctx)
          ∧ ∀ n, (t.group n).ctx.toNat = r.ctx → (s.group n).valid = true → (t.group n).valid = false
        (okFor 7 → stops (.close r) 3 gone)
        ∧ (okFor 5 → cstate = 2 → stops (.release r) 4 fun t => t = { s with
            cores := t.cores, ctxs := t.ctxs, owedAnswers := t.owedAnswers })
        ∧ (okFor 5 → cstate ≠ 2 → gives (.release r) 6)
        ∧ (okFor 8 → cstate = 0 → stops (.preempt r) 1 fun t => t = { s with
            cores := t.cores, ctxs := t.ctxs, owedAnswers := t.owedAnswers })
        ∧ (okFor 8 → cstate ≠ 0 → gives (.preempt r) 6)
        ∧ (okFor 9 → cstate ≠ 1 → gives (.resume r) 6)
        ∧ (okFor 9 → cstate = 1 → x.restoring = false → (∃ v ∈ s.saved, v.ctx = r.ctx) →
            ∃ t, exec (.resume r) s = .next t
              ∧ t = { s with ctxs := t.ctxs, owedAnswers := s.owedAnswers ++ [(r.ctx, r)] }
              ∧ ∀ z, t.ctx z = if z = r.ctx then some { x with byDispatcher := false, restoring := true } else s.ctx z))
  ∧ (∀ (s : State) (conn : Nat) (l : List Turn), s.agenda = .connectionEnd conn :: l → ∃ t, step s = .next t
      ∧ t = { s with agenda := l, conns := t.conns, owedAnswers := t.owedAnswers, ctxs := t.ctxs }
      ∧ (∀ c, Tab.get none t.conns c = if c = conn then none else Tab.get none s.conns c)
      ∧ (∀ q, q ∈ t.owedAnswers ↔ q ∈ s.owedAnswers ∧ q.2.conn ≠ conn)
      ∧ (∀ z, t.ctx z = (s.ctx z).map fun x => if x.conn = some conn then { x with conn := none } else x)
      -- 21 R433: an event travels on the connection of its context, while that stands
      ∧ ∀ (z : Nat) (x : Ctx) (code : Nat), s.ctx z = some x → t.hostEvent z code =
          if x.conn = some conn then t else { t with hostOut := t.hostOut ++ (match x.conn with
            | some n => [{ conn := n, w0 := .ofNat 64 (0x80 + 2 ^ 8 * code + 2 ^ 16 * z), value := s.ccbWord x.ccb 0x18
                           len := 0, payload := [] }]
            | none => []) })
  ∧ ∀ (s : State) (conn : Nat) (mode : BitVec 4) (sendOnly security : Bool),
      let good := 2 ≤ s.stage ∧ mode.toNat < 2 ∧ sendOnly = true ∧ security = false
      (¬good → exec (.connectionSetUp conn mode sendOnly security) s = .next s)
      ∧ (good → ∃ t, exec (.connectionSetUp conn mode sendOnly security) s = .next t ∧ t = { s with conns := t.conns }
          ∧ ∀ c, Tab.get none t.conns c = if c = conn then some (mode == 1) else Tab.get none s.conns c)

/-- 05 R102, R109, R110, 06 R126, R127, R130, R134, 17 R366, 01 R18 and 19 R392.  The model's choices, and no rules of the spec: that one step is one
bundle, event or micro-op (log 1, DESIGN CHOICE, log 8, DESIGN CHOICE), the count of a stall at the home request (log 6,
DESIGN CHOICE), the steps that ask the home and take its answer (log 91, DEDUCED), how a step
waits for entries in drawers (log 56, DESIGN CHOICE), and what a view keeps (log 125, DEDUCED). -/
def Obligations.StepRunsTheDecodedInstruction : Prop :=
  -- an event and the bundle that it presents, and that it needs no entry of a page table in a drawer
  let whole := fun (i : Instr) (s : State) => match exec i s with
    | .next u => u.settle exec
    | r => r
  let alone := fun (walksNot : Bool) (s : State) (run : State → Out3) =>
    walksNot = true ∨ s.hasDrawers = false ∨ s.enough run [] = true
  (∀ (s : State) (i : Instr) (l : List Turn) (u : State), s.agenda = .event i :: l → i.isEvent = true →
    exec i { s with agenda := l } = .next u →
    let v : State := { s with agenda := l }
    (alone i.walksNot v (whole i) → (u.iss.active = false → step s = .next u) ∧ step s = u.settle exec)
    ∧ (¬alone i.walksNot v (whole i) →
        (v.enough (whole i) (v.entriesHere fun _ => true) = false → step s = .next v)
        ∧ ∀ t, v.enough (whole i) (v.entriesHere fun _ => true) = true →
            u.settle exec = .next t → step s = .next t.entriesUsed))
  ∧ (∀ (s : State) (c : Nat) (l : List Turn) (i : Instr), s.agenda = .engine c :: l → (s.core c).microOp = some i →
      step s = exec i { s with agenda := l, iss := { s.iss with core := c } })
  ∧ (∀ (s : State) (c : Nat) (l : List Turn) (next : Nat) (o : SlotOp) (answer : Bool),
    let k := s.core c
    let e := if answer then Instr.homeAnswer c else .bundleFetch c
    let v : State := { s with agenda := l }
    s.agenda = .event e :: l → k.homeReq = answer → s.standsAt c next o → alone false v (whole e) →
    let holds := k.pwin.getLsbD (o.pg.toNat % 16) = true ∨ o.pg.toNat % 16 = 0
    let runs := holds ↔ o.pg.getLsbD 4 = false
    let u := v.offers c next [o] answer
    let t := u.issue none
    (runs → v.flows c next [o] → u.bundleFault exec = none → (answer = true ∨ homeDecided o.instr = false) →
      (∀ x, exec o.instr { t with iss := { t.iss with slot := o.slot } } = .next x →
        step s = .next (if x.iss.active then (x.timed (t.core c).nextId o.instr).clearIssue x.iss.core else x))
      ∧ (t.core c).pc = next ∧ (t.core c).seq = k.seq + 1 ∧ (t.core c).s = k.s ∧ (t.core c).pwin = k.pwin
      ∧ t.mem = s.mem ∧ t.iss.snap = { s := k.s, pwin := k.pwin, v := k.v, k := k.k } ∧ t.iss.pcb = k.pc
      ∧ (s.cycle.toNat < u.due → u.due ≤ 2 ^ 64 → s.cycle.toNat ≤ t.cycle.toNat ∧ t.cycle.toNat < u.due))
    ∧ (runs → v.flows c next [o] → u.bundleFault exec = none → answer = false → homeDecided o.instr = true →
        ∃ t, step s = .next t ∧ t.core c = { k with homeReq := true, stallSync := k.stallSync + 1 } ∧ t.mem = s.mem
          ∧ ∀ d, d ≠ c → t.core d = s.core d)
    ∧ (runs → k.opWaits [o] = false → k.skewed = false → k.pastLimit [o] = false → k.marked [o] = true → answer = false →
        step s = .next (v.setCore c { k with stallLoad := k.stallLoad + 1 }))
    ∧ (¬runs → v.flows c next [] → step s = .next (((v.offers c next [] answer).issue none).clearIssue c)))
  -- 01 R18: a view keeps bytes as it reads them, and sees them later
  ∧ (∀ (s : State) (v : View) (pa n : Nat) (l : List Turn), let u : State := { s with agenda := l }
      (s.agenda = .keepBytes v pa n :: l → ∃ t, step s = .next t ∧ t = { u with kept := t.kept }
        ∧ ∀ w a, t.seen w a = s.seen w a)
      ∧ (s.agenda = .seeBytes v pa n :: l → ∃ t, step s = .next t ∧ t = { u with kept := t.kept }
        ∧ ∀ w a, t.keptAt w a = if w = v ∧ pa ≤ a ∧ a < pa + n then none else s.keptAt w a))
  -- 17 R366: the home answers, and the bundle is presented
  ∧ ∀ (s : State) (c next : Nat) (o : SlotOp), let k := s.core c
    let holds := k.pwin.getLsbD (o.pg.toNat % 16) = true ∨ o.pg.toNat % 16 = 0
    ((k.run ≠ .running ∨ k.homeReq = false) → exec (.homeAnswer c) s = .next s)
    ∧ (k.homeReq = true → s.standsAt c next o → (holds ↔ o.pg.getLsbD 4 = false) → s.flows c next [o] →
        exec (.homeAnswer c) s = .next (s.offers c next [o] true))

/-- 05 R102 to R125 and the example words of chapters 05, 12, 13, 17, 19 and 20. -/
def Obligations.WrittenOutWordsDecodeToTheirInstructions : Prop :=
  decodeOp .s 0x200041000001 = .ok (0, .addi 2 2 1)
  ∧ decodeOp .s 0x5A00A5160000 = .ok (0, .sqCmt 5 10 11)
  ∧ decodeOp .v 0x0C0042000800 = .ok (0, .vmaxI 1 1 0 0 8 false)
  ∧ decodeOp .m 0x010020000000 = .ok (0, .mcall 1)
  ∧ decodeOp .m 0x0B0520000000 = .ok (0, .cvAdd 2 2 1)
  ∧ decodeOp .c 0x180145980001 = .ok (0, .lkSend 10 11 12 0 false false false 1)
  ∧ decodeOp .c 0x1D00B8000000 = .ok (0, .lkPark 5 12)
  ∧ decodeOp .y 0x0107FFF80000 = .ok (0, .wait 15 15 15 15)
  ∧ decodeMicro (3 * 2 ^ 60 + 5 * 2 ^ 57 + 9) = some (.acc 5 9)
  ∧ decodeCodeWord [0xFFFF, 0x0101, 0x0000, 0x0041, 0x0020] [] 0 = .image 0x0020004100000101 10
  ∧ decodeCodeWord [0x0000] [0x0020004100000101] 0 = .image 0x0020004100000101 2
  ∧ bundleOps 0x0020004100000101 = [(0, 0x200041000001)]
  ∧ (∀ op ∈ [0x1B, 0x2B, 0x35, 0x4D, 0x54, 0x62, 0x7B], decodeOp .s (op * 2 ^ 40) = .error .unlisted)
  ∧ (∀ op ∈ [0x00, 0x13, 0x1C, 0x25, 0x2C, 0x37, 0x3C, 0x44], decodeOp .v (op * 2 ^ 40) = .error .unlisted)
  ∧ (∀ op ∈ [0x00, 0x0E], decodeOp .m (op * 2 ^ 40) = .error .unlisted)
  ∧ (∀ op ∈ [0x00, 0x10, 0x1F], decodeOp .c (op * 2 ^ 40) = .error .unlisted)
  ∧ (∀ op ∈ [0x00, 0x13, 0x1B], decodeOp .y (op * 2 ^ 40) = .error .unlisted)
  ∧ (∀ op ∈ [0x00, 0x04], decodeOp .x (op * 2 ^ 40) = .error .unlisted)
  ∧ decodeOp .s (0x01 * 2 ^ 40 + 16 * 2 ^ 35) = .error .guard
  ∧ decodeOp .s (0x01 * 2 ^ 40 + 1) = .error .reserved

/-- 05 R104 to R124 and 12 R294: no bit of an encoding is dropped. -/
def Obligations.EncodedInstructionsDecodeToThemselves : Prop :=
  ∀ i : Instr, i.wellFormed = true →
    (∀ (pg : BitVec 5) (cls : SlotClass) (op : Nat) (r : List (Nat × Nat)), pg ≠ 16 → opFields i = some (cls, op, r) →
      decodeOp cls (encodeOp pg i) = .ok (pg, i))
    ∧ (∀ r, microFields i = some r → decodeMicro (encodeMicro i) = some i)
    ∧ ((opFields i).isSome = true → soleInstr (decodeCodeWord (encode i) [] 0) = some i)

/-- The invariant of memory over every step (its form is the model's: log 4, DESIGN CHOICE). -/
def Obligations.EveryStepGoesOnAndKeepsMemoryCanonical : Prop :=
  ∀ s : State, s.memOk → ∃ t, step s = .next t ∧ t.memOk
end

