-- ==== Sys2Proof/Laws/Table.lean ====
section
/-! SUPPORT. Laws of tables by number and of memory: a read after a write, and the canonical form that
every write keeps. -/

namespace Sys2Proof

namespace Tab

variable {α : Type}

@[simp] theorem get_nil (d : α) (k : Nat) : get d [] k = d := rfl

theorem get_cons (d : α) (p : Nat × α) (t : Tab α) (k : Nat) :
    get d (p :: t) k = if p.1 = k then p.2 else get d t k := rfl

/-- The entry that an insertion sets. -/
@[simp] theorem get_insert_same (d : α) (t : Tab α) (k : Nat) (v : α) : get d (insert t k v) k = v := by
  induction t with
  | nil => simp [insert, get]
  | cons p t ih =>
    obtain ⟨i, a⟩ := p
    unfold insert
    split
    · simp [get]
    · split
      · simp [get]
      · simp [get, *]

/-- An insertion leaves every other entry. -/
theorem get_insert_other (d : α) (t : Tab α) {k j : Nat} (v : α) (h : j ≠ k) :
    get d (insert t k v) j = get d t j := by
  induction t with
  | nil => simp [insert, get, Ne.symm h]
  | cons p t ih =>
    obtain ⟨i, a⟩ := p
    unfold insert
    split
    · subst_vars; simp [get, Ne.symm h]
    · split
      · simp [get, Ne.symm h]
      · simp [get, ih]

/-- A table cut down to the numbers that satisfy p. -/
theorem get_filter (d : α) (p : Nat → Bool) (t : Tab α) (k : Nat) :
    get d (t.filter fun c => p c.1) k = if p k then get d t k else d := by
  induction t with
  | nil => simp
  | cons c t ih =>
    obtain ⟨i, a⟩ := c
    by_cases hp : p i
    · by_cases hk : i = k
      · subst hk; simp [hp, get]
      · simp [hp, get, hk, ih]
    · by_cases hk : i = k
      · subst hk; simp [hp, ih]
      · simp [hp, get, hk, ih]

theorem get_erase (d : α) (t : Tab α) (k j : Nat) :
    get d (erase t k) j = if j = k then d else get d t j := by
  have h := get_filter d (fun i => i != k) t j
  simp only [erase]
  rw [h]
  by_cases hj : j = k <;> simp [hj]

variable [DecidableEq α]

/-- Read after write at one number. -/
@[simp] theorem get_put_same (d : α) (t : Tab α) (k : Nat) (v : α) : get d (put d t k v) k = v := by
  unfold put
  split
  · simp [get_erase, *]
  · simp

/-- A write leaves every other number alone. -/
theorem get_put_other (d : α) (t : Tab α) {k j : Nat} (v : α) (h : j ≠ k) :
    get d (put d t k v) j = get d t j := by
  unfold put
  split
  · simp [get_erase, h]
  · exact get_insert_other d t v h

/-- Both at once. -/
theorem get_put (d : α) (t : Tab α) (k j : Nat) (v : α) :
    get d (put d t k v) j = if j = k then v else get d t j := by
  split
  · subst_vars; simp
  · exact get_put_other d t v ‹_›

theorem wf_iff (d : α) (t : Tab α) :
    wf d t = true ↔ t.Pairwise (fun a b => a.1 < b.1) ∧ ∀ p ∈ t, p.2 ≠ d := by
  simp [wf]

@[simp] theorem wf_nil (d : α) : wf d ([] : Tab α) = true := by simp [wf_iff]

/-- Any part of a table in canonical form is in canonical form. -/
theorem wf_filter (d : α) (t : Tab α) (p : Nat × α → Bool) (h : wf d t = true) :
    wf d (t.filter p) = true := by
  rw [wf_iff] at h ⊢
  exact ⟨h.1.filter _, fun q hq => h.2 q (List.mem_filter.mp hq).1⟩

omit [DecidableEq α] in
theorem mem_insert_of (t : Tab α) (k : Nat) (v : α) (p : Nat × α) (h : p ∈ insert t k v) :
    p = (k, v) ∨ p ∈ t := by
  induction t with
  | nil => simpa [insert] using h
  | cons c t ih =>
    obtain ⟨i, a⟩ := c
    unfold insert at h
    split at h
    · grind
    · split at h
      · grind
      · grind

theorem wf_insert (d : α) (t : Tab α) (k : Nat) (v : α) (hv : v ≠ d) (h : wf d t = true) :
    wf d (insert t k v) = true := by
  rw [wf_iff] at h ⊢
  refine ⟨?_, fun p hp => ?_⟩
  · induction t with
    | nil => simp [insert]
    | cons c t ih =>
      obtain ⟨i, a⟩ := c
      have hc := List.pairwise_cons.mp h.1
      have ih := ih ⟨hc.2, fun p hp => h.2 p (List.mem_cons_of_mem _ hp)⟩
      unfold insert
      split
      · subst_vars; exact List.pairwise_cons.mpr ⟨fun b hb => hc.1 b hb, hc.2⟩
      · split
        · rename_i hlt
          refine List.pairwise_cons.mpr ⟨fun b hb => ?_, h.1⟩
          rcases List.mem_cons.mp hb with rfl | hb
          · exact hlt
          · exact Nat.lt_trans hlt (hc.1 b hb)
        · rename_i hne hlt
          refine List.pairwise_cons.mpr ⟨fun b hb => ?_, ih⟩
          rcases mem_insert_of t k v b hb with rfl | hb
          · show i < k
            have : i ≠ k := hne
            omega
          · exact hc.1 b hb
  · rcases mem_insert_of t k v p hp with rfl | hp
    · exact hv
    · exact h.2 p hp

/-- A write keeps the canonical form. -/
theorem wf_put (d : α) (t : Tab α) (k : Nat) (v : α) (h : wf d t = true) : wf d (put d t k v) = true := by
  unfold put
  split
  · exact wf_filter d t _ h
  · exact wf_insert d t k v ‹_› h

end Tab

namespace Machine

open Tab

theorem get_run (a : Nat) (bs : List Byte) (x : Nat) :
    Tab.get unlistedByte (Memory.run a bs) x =
      if a ≤ x ∧ x < a + bs.length then bs.getD (x - a) unlistedByte else unlistedByte := by
  induction bs generalizing a with
  | nil => simp [Memory.run]
  | cons b bs ih =>
    unfold Memory.run
    by_cases hx : x = a
    · subst hx
      split
      · rw [ih, if_neg (by omega)]; simp [*]
      · simp [Tab.get]
    · have hget : Tab.get unlistedByte (Memory.run (a + 1) bs) x =
          if a ≤ x ∧ x < a + (b :: bs).length then (b :: bs).getD (x - a) unlistedByte
          else unlistedByte := by
        rw [ih]
        by_cases h1 : a + 1 ≤ x ∧ x < a + 1 + bs.length
        · have h2 : a ≤ x ∧ x < a + (b :: bs).length := by simp; omega
          rw [if_pos h1, if_pos h2]
          obtain ⟨n, rfl⟩ : ∃ n, x = a + 1 + n := ⟨x - (a + 1), by omega⟩
          have e1 : a + 1 + n - (a + 1) = n := by omega
          have e2 : a + 1 + n - a = n + 1 := by omega
          rw [e1, e2]; simp
        · have h2 : ¬(a ≤ x ∧ x < a + (b :: bs).length) := by simp; omega
          rw [if_neg h1, if_neg h2]
      split
      · exact hget
      · simp only [Tab.get, Ne.symm hx, if_false]; exact hget

theorem get_append_low (l r : Memory) (x a : Nat) (hx : x < a) (hr : ∀ c ∈ r, a ≤ c.1) :
    Tab.get unlistedByte (l ++ r) x = Tab.get unlistedByte l x := by
  induction l with
  | nil =>
    induction r with
    | nil => rfl
    | cons c r ih =>
      have hc := hr c (by simp)
      have : c.1 ≠ x := by omega
      simpa [get_cons, this] using ih (fun c hc => hr c (by simp [hc]))
  | cons c l ih => simp [get_cons, ih]

theorem get_append_high (l r : Memory) (x : Nat) (hl : ∀ c ∈ l, c.1 ≠ x) :
    Tab.get unlistedByte (l ++ r) x = Tab.get unlistedByte r x := by
  induction l with
  | nil => rfl
  | cons c l ih =>
    have hc := hl c (by simp)
    simpa [get_cons, hc] using ih (fun c hc => hl c (by simp [hc]))

theorem run_key (a : Nat) (bs : List Byte) (c : Host.Cell) (h : c ∈ Memory.run a bs) :
    a ≤ c.1 ∧ c.1 < a + bs.length ∧ c.2 ≠ unlistedByte := by
  induction bs generalizing a with
  | nil => simp [Memory.run] at h
  | cons b bs ih =>
    unfold Memory.run at h
    split at h
    · have := ih (a + 1) h; rw [List.length_cons]; exact ⟨by omega, by omega, this.2.2⟩
    · rcases List.mem_cons.mp h with rfl | h
      · simp; assumption
      · have := ih (a + 1) h; rw [List.length_cons]; exact ⟨by omega, by omega, this.2.2⟩

/-- One byte after a write: the written byte inside the range, the old one outside. -/
theorem Memory.get_write (m : Memory) (a : Nat) (bs : List Byte) (x : Nat) :
    Memory.get (Memory.write m a bs) x =
      if a ≤ x ∧ x < a + bs.length then bs.getD (x - a) unlistedByte else Memory.get m x := by
  unfold Memory.get Memory.write
  have f1 := get_filter unlistedByte (fun i => decide (i < a)) m x
  have f2 := get_filter unlistedByte (fun i => decide (a + bs.length ≤ i)) m x
  by_cases h1 : x < a
  · rw [get_append_low _ _ x a h1, f1]
    · have : ¬(a ≤ x ∧ x < a + bs.length) := by omega
      simp [h1, this]
    · intro c hc
      rcases List.mem_append.mp hc with hc | hc
      · exact (run_key a bs c hc).1
      · have := (List.mem_filter.mp hc).2; simp at this; omega
  · rw [get_append_high _ _ x]
    · by_cases h2 : x < a + bs.length
      · have h3 : a ≤ x ∧ x < a + bs.length := by omega
        rw [get_append_low _ _ x (a + bs.length) h2, get_run, if_pos h3, if_pos h3]
        intro c hc
        have := (List.mem_filter.mp hc).2; simpa using this
      · have h3 : ¬(a ≤ x ∧ x < a + bs.length) := by omega
        rw [get_append_high _ _ x, f2]
        · have : a + bs.length ≤ x := by omega
          rw [if_neg h3]; simp [this]
        · intro c hc; have := run_key a bs c hc; omega
    · intro c hc
      have := (List.mem_filter.mp hc).2; simp at this; omega

theorem run_pairwise (a : Nat) (bs : List Byte) : (Memory.run a bs).Pairwise (fun x y => x.1 < y.1) := by
  induction bs generalizing a with
  | nil => simp [Memory.run]
  | cons b bs ih =>
    unfold Memory.run
    split
    · exact ih _
    · refine List.pairwise_cons.mpr ⟨fun c hc => ?_, ih _⟩
      have := (run_key (a + 1) bs c hc).1
      show a < c.1
      omega

/-- A write keeps memory's canonical form. -/
theorem Memory.wf_write (m : Memory) (a : Nat) (bs : List Byte) (h : Memory.wf m = true) :
    Memory.wf (Memory.write m a bs) = true := by
  unfold Memory.wf at *
  rw [wf_iff] at h ⊢
  unfold Memory.write
  refine ⟨List.pairwise_append.mpr ⟨h.1.filter _, List.pairwise_append.mpr
      ⟨run_pairwise a bs, h.1.filter _, ?_⟩, ?_⟩, ?_⟩
  · intro x hx y hy
    have h1 := run_key a bs x hx
    have h2 := (List.mem_filter.mp hy).2
    simp at h2; omega
  · intro x hx y hy
    have h1 := (List.mem_filter.mp hx).2
    simp at h1
    rcases List.mem_append.mp hy with hy | hy
    · have := (run_key a bs y hy).1; omega
    · have := (List.mem_filter.mp hy).2; simp at this; omega
  · intro p hp
    rcases List.mem_append.mp hp with hp | hp
    · exact h.2 p (List.mem_filter.mp hp).1
    · rcases List.mem_append.mp hp with hp | hp
      · exact (run_key a bs p hp).2.2
      · exact h.2 p (List.mem_filter.mp hp).1

@[simp] theorem Memory.wf_nil : Memory.wf [] = true := Tab.wf_nil _

theorem Memory.wf_filter (m : Memory) (p : Host.Cell → Bool) (h : Memory.wf m = true) :
    Memory.wf (m.filter p) = true := Tab.wf_filter _ m p h

@[simp] theorem leBytes_length (n x : Nat) : (leBytes n x).length = n := by
  induction n generalizing x with
  | zero => rfl
  | succ n ih => simp [leBytes, ih]

/-- The number of n little-endian bytes of x is x modulo 2^(8n). -/
theorem leNat_leBytes (n x : Nat) : leNat (leBytes n x) = x % 2 ^ (8 * n) := by
  induction n generalizing x with
  | zero => simp [leBytes, leNat, Nat.mod_one]
  | succ n ih =>
    simp only [leBytes, leNat, ih, BitVec.toNat_ofNat]
    have : 2 ^ (8 * (n + 1)) = 2 ^ 8 * 2 ^ (8 * n) := by rw [← Nat.pow_add]; congr 1; omega
    rw [this, Nat.mod_mul]
    all_goals rfl

/-- Reading a range is reading its bytes. -/
theorem Memory.read_eq (m : Memory) (a n : Nat) :
    Memory.read m a n = (List.range n).map fun i => Memory.get m (a + i) := by
  unfold Memory.read Memory.get
  apply List.map_congr_left
  intro i hi
  have hi := List.mem_range.mp hi
  have f := get_filter unlistedByte (fun x => decide (a ≤ x) && decide (x < a + n)) m (a + i)
  simp only [f]
  have : (decide (a ≤ a + i) && decide (a + i < a + n)) = true := by simp; omega
  rw [if_pos this]

/-- The range that was written reads back. -/
theorem Memory.read_write (m : Memory) (a : Nat) (bs : List Byte) :
    Memory.read (Memory.write m a bs) a bs.length = bs := by
  rw [Memory.read_eq]
  apply List.ext_getElem
  · simp
  · intro i h1 h2
    have hg : Memory.get (Memory.write m a bs) (a + i) = bs.getD i unlistedByte := by
      rw [Memory.get_write]
      have : a ≤ a + i ∧ a + i < a + bs.length := by omega
      rw [if_pos this]; congr 1; omega
    simp only [List.getElem_map, List.getElem_range, hg]
    simp [List.getD, h2]

/-- A range that a write does not touch reads as before. -/
theorem Memory.read_write_other (m : Memory) (a : Nat) (bs : List Byte) (b n : Nat)
    (h : b + n ≤ a ∨ a + bs.length ≤ b) : Memory.read (Memory.write m a bs) b n = Memory.read m b n := by
  rw [Memory.read_eq, Memory.read_eq]
  apply List.map_congr_left
  intro i hi
  have hi := List.mem_range.mp hi
  rw [Memory.get_write]
  have : ¬(a ≤ b + i ∧ b + i < a + bs.length) := by omega
  rw [if_neg this]

end Machine
end Sys2Proof
end

