-- ==== Sys2Proof/Laws/State.lean ====
section
/-! SUPPORT. Each field of the state after each update of it. -/

namespace Sys2Proof.Machine

open Sys2Proof

/-! ## setCore -/

@[simp] theorem State.setCore_mem (s : State) (c : Nat) (k : Core) : (s.setCore c k).mem = s.mem := rfl
@[simp] theorem State.setCore_errs (s : State) (c : Nat) (k : Core) : (s.setCore c k).errs = s.errs := rfl
@[simp] theorem State.setCore_armed (s : State) (c : Nat) (k : Core) : (s.setCore c k).armed = s.armed := rfl
@[simp] theorem State.setCore_marks (s : State) (c : Nat) (k : Core) : (s.setCore c k).marks = s.marks := rfl
@[simp] theorem State.setCore_fabric (s : State) (c : Nat) (k : Core) : (s.setCore c k).fabric = s.fabric := rfl
@[simp] theorem State.setCore_kept (s : State) (c : Nat) (k : Core) : (s.setCore c k).kept = s.kept := rfl
@[simp] theorem State.setCore_cycle (s : State) (c : Nat) (k : Core) : (s.setCore c k).cycle = s.cycle := rfl
@[simp] theorem State.setCore_hbCount (s : State) (c : Nat) (k : Core) : (s.setCore c k).hbCount = s.hbCount := rfl
@[simp] theorem State.setCore_stage (s : State) (c : Nat) (k : Core) : (s.setCore c k).stage = s.stage := rfl
@[simp] theorem State.setCore_service (s : State) (c : Nat) (k : Core) : (s.setCore c k).service = s.service := rfl
@[simp] theorem State.setCore_clockStop (s : State) (c : Nat) (k : Core) : (s.setCore c k).clockStop = s.clockStop := rfl
@[simp] theorem State.setCore_dispCtl (s : State) (c : Nat) (k : Core) : (s.setCore c k).dispCtl = s.dispCtl := rfl
@[simp] theorem State.setCore_ptrCompute (s : State) (c : Nat) (k : Core) : (s.setCore c k).ptrCompute = s.ptrCompute := rfl
@[simp] theorem State.setCore_ptrService (s : State) (c : Nat) (k : Core) : (s.setCore c k).ptrService = s.ptrService := rfl
@[simp] theorem State.setCore_pool (s : State) (c : Nat) (k : Core) : (s.setCore c k).pool = s.pool := rfl
@[simp] theorem State.setCore_groups (s : State) (c : Nat) (k : Core) : (s.setCore c k).groups = s.groups := rfl
@[simp] theorem State.setCore_nextRun (s : State) (c : Nat) (k : Core) : (s.setCore c k).nextRun = s.nextRun := rfl
@[simp] theorem State.setCore_ctxs (s : State) (c : Nat) (k : Core) : (s.setCore c k).ctxs = s.ctxs := rfl
@[simp] theorem State.setCore_saved (s : State) (c : Nat) (k : Core) : (s.setCore c k).saved = s.saved := rfl
@[simp] theorem State.setCore_tickets (s : State) (c : Nat) (k : Core) : (s.setCore c k).tickets = s.tickets := rfl
@[simp] theorem State.setCore_slabs (s : State) (c : Nat) (k : Core) : (s.setCore c k).slabs = s.slabs := rfl
@[simp] theorem State.setCore_frees (s : State) (c : Nat) (k : Core) : (s.setCore c k).frees = s.frees := rfl
@[simp] theorem State.setCore_jobs (s : State) (c : Nat) (k : Core) : (s.setCore c k).jobs = s.jobs := rfl
@[simp] theorem State.setCore_job (s : State) (c : Nat) (k : Core) : (s.setCore c k).job = s.job := rfl
@[simp] theorem State.setCore_pushes (s : State) (c : Nat) (k : Core) : (s.setCore c k).pushes = s.pushes := rfl
@[simp] theorem State.setCore_posts (s : State) (c : Nat) (k : Core) : (s.setCore c k).posts = s.posts := rfl
@[simp] theorem State.setCore_owed (s : State) (c : Nat) (k : Core) : (s.setCore c k).owed = s.owed := rfl
@[simp] theorem State.setCore_nextBind (s : State) (c : Nat) (k : Core) : (s.setCore c k).nextBind = s.nextBind := rfl
@[simp] theorem State.setCore_linkCtl (s : State) (c : Nat) (k : Core) : (s.setCore c k).linkCtl = s.linkCtl := rfl
@[simp] theorem State.setCore_chip (s : State) (c : Nat) (k : Core) : (s.setCore c k).chip = s.chip := rfl
@[simp] theorem State.setCore_dsize (s : State) (c : Nat) (k : Core) : (s.setCore c k).dsize = s.dsize := rfl
@[simp] theorem State.setCore_straits (s : State) (c : Nat) (k : Core) : (s.setCore c k).straits = s.straits := rfl
@[simp] theorem State.setCore_gib (s : State) (c : Nat) (k : Core) : (s.setCore c k).gib = s.gib := rfl
@[simp] theorem State.setCore_dstraits (s : State) (c : Nat) (k : Core) : (s.setCore c k).dstraits = s.dstraits := rfl
@[simp] theorem State.setCore_frame (s : State) (c : Nat) (k : Core) : (s.setCore c k).frame = s.frame := rfl
@[simp] theorem State.setCore_frameBase (s : State) (c : Nat) (k : Core) : (s.setCore c k).frameBase = s.frameBase := rfl
@[simp] theorem State.setCore_framesOn (s : State) (c : Nat) (k : Core) : (s.setCore c k).framesOn = s.framesOn := rfl
@[simp] theorem State.setCore_turning (s : State) (c : Nat) (k : Core) : (s.setCore c k).turning = s.turning := rfl
@[simp] theorem State.setCore_misroute (s : State) (c : Nat) (k : Core) : (s.setCore c k).misroute = s.misroute := rfl
@[simp] theorem State.setCore_retrains (s : State) (c : Nat) (k : Core) : (s.setCore c k).retrains = s.retrains := rfl
@[simp] theorem State.setCore_sched (s : State) (c : Nat) (k : Core) : (s.setCore c k).sched = s.sched := rfl
@[simp] theorem State.setCore_schedNext (s : State) (c : Nat) (k : Core) : (s.setCore c k).schedNext = s.schedNext := rfl
@[simp] theorem State.setCore_slotDue (s : State) (c : Nat) (k : Core) : (s.setCore c k).slotDue = s.slotDue := rfl
@[simp] theorem State.setCore_linkOut (s : State) (c : Nat) (k : Core) : (s.setCore c k).linkOut = s.linkOut := rfl
@[simp] theorem State.setCore_linkWait (s : State) (c : Nat) (k : Core) : (s.setCore c k).linkWait = s.linkWait := rfl
@[simp] theorem State.setCore_drawerReqs (s : State) (c : Nat) (k : Core) : (s.setCore c k).drawerReqs = s.drawerReqs := rfl
@[simp] theorem State.setCore_readsAsked (s : State) (c : Nat) (k : Core) : (s.setCore c k).readsAsked = s.readsAsked := rfl
@[simp] theorem State.setCore_power (s : State) (c : Nat) (k : Core) : (s.setCore c k).power = s.power := rfl
@[simp] theorem State.setCore_conns (s : State) (c : Nat) (k : Core) : (s.setCore c k).conns = s.conns := rfl
@[simp] theorem State.setCore_hostOut (s : State) (c : Nat) (k : Core) : (s.setCore c k).hostOut = s.hostOut := rfl
@[simp] theorem State.setCore_owedAnswers (s : State) (c : Nat) (k : Core) : (s.setCore c k).owedAnswers = s.owedAnswers := rfl
@[simp] theorem State.setCore_iss (s : State) (c : Nat) (k : Core) : (s.setCore c k).iss = s.iss := rfl
@[simp] theorem State.setCore_agenda (s : State) (c : Nat) (k : Core) : (s.setCore c k).agenda = s.agenda := rfl
@[simp] theorem State.setCore_turnNo (s : State) (c : Nat) (k : Core) : (s.setCore c k).turnNo = s.turnNo := rfl
@[simp] theorem State.setCore_freeNo (s : State) (c : Nat) (k : Core) : (s.setCore c k).freeNo = s.freeNo := rfl
@[simp] theorem State.setCore_veil (s : State) (c : Nat) (k : Core) : (s.setCore c k).veil = s.veil := rfl

/-! ## modCore -/

@[simp] theorem State.modCore_mem (s : State) (c : Nat) (f : Core → Core) : (s.modCore c f).mem = s.mem := rfl
@[simp] theorem State.modCore_errs (s : State) (c : Nat) (f : Core → Core) : (s.modCore c f).errs = s.errs := rfl
@[simp] theorem State.modCore_armed (s : State) (c : Nat) (f : Core → Core) : (s.modCore c f).armed = s.armed := rfl
@[simp] theorem State.modCore_marks (s : State) (c : Nat) (f : Core → Core) : (s.modCore c f).marks = s.marks := rfl
@[simp] theorem State.modCore_fabric (s : State) (c : Nat) (f : Core → Core) : (s.modCore c f).fabric = s.fabric := rfl
@[simp] theorem State.modCore_kept (s : State) (c : Nat) (f : Core → Core) : (s.modCore c f).kept = s.kept := rfl
@[simp] theorem State.modCore_cycle (s : State) (c : Nat) (f : Core → Core) : (s.modCore c f).cycle = s.cycle := rfl
@[simp] theorem State.modCore_hbCount (s : State) (c : Nat) (f : Core → Core) : (s.modCore c f).hbCount = s.hbCount := rfl
@[simp] theorem State.modCore_stage (s : State) (c : Nat) (f : Core → Core) : (s.modCore c f).stage = s.stage := rfl
@[simp] theorem State.modCore_service (s : State) (c : Nat) (f : Core → Core) : (s.modCore c f).service = s.service := rfl
@[simp] theorem State.modCore_clockStop (s : State) (c : Nat) (f : Core → Core) : (s.modCore c f).clockStop = s.clockStop := rfl
@[simp] theorem State.modCore_dispCtl (s : State) (c : Nat) (f : Core → Core) : (s.modCore c f).dispCtl = s.dispCtl := rfl
@[simp] theorem State.modCore_ptrCompute (s : State) (c : Nat) (f : Core → Core) : (s.modCore c f).ptrCompute = s.ptrCompute := rfl
@[simp] theorem State.modCore_ptrService (s : State) (c : Nat) (f : Core → Core) : (s.modCore c f).ptrService = s.ptrService := rfl
@[simp] theorem State.modCore_pool (s : State) (c : Nat) (f : Core → Core) : (s.modCore c f).pool = s.pool := rfl
@[simp] theorem State.modCore_groups (s : State) (c : Nat) (f : Core → Core) : (s.modCore c f).groups = s.groups := rfl
@[simp] theorem State.modCore_nextRun (s : State) (c : Nat) (f : Core → Core) : (s.modCore c f).nextRun = s.nextRun := rfl
@[simp] theorem State.modCore_ctxs (s : State) (c : Nat) (f : Core → Core) : (s.modCore c f).ctxs = s.ctxs := rfl
@[simp] theorem State.modCore_saved (s : State) (c : Nat) (f : Core → Core) : (s.modCore c f).saved = s.saved := rfl
@[simp] theorem State.modCore_tickets (s : State) (c : Nat) (f : Core → Core) : (s.modCore c f).tickets = s.tickets := rfl
@[simp] theorem State.modCore_slabs (s : State) (c : Nat) (f : Core → Core) : (s.modCore c f).slabs = s.slabs := rfl
@[simp] theorem State.modCore_frees (s : State) (c : Nat) (f : Core → Core) : (s.modCore c f).frees = s.frees := rfl
@[simp] theorem State.modCore_jobs (s : State) (c : Nat) (f : Core → Core) : (s.modCore c f).jobs = s.jobs := rfl
@[simp] theorem State.modCore_job (s : State) (c : Nat) (f : Core → Core) : (s.modCore c f).job = s.job := rfl
@[simp] theorem State.modCore_pushes (s : State) (c : Nat) (f : Core → Core) : (s.modCore c f).pushes = s.pushes := rfl
@[simp] theorem State.modCore_posts (s : State) (c : Nat) (f : Core → Core) : (s.modCore c f).posts = s.posts := rfl
@[simp] theorem State.modCore_owed (s : State) (c : Nat) (f : Core → Core) : (s.modCore c f).owed = s.owed := rfl
@[simp] theorem State.modCore_nextBind (s : State) (c : Nat) (f : Core → Core) : (s.modCore c f).nextBind = s.nextBind := rfl
@[simp] theorem State.modCore_linkCtl (s : State) (c : Nat) (f : Core → Core) : (s.modCore c f).linkCtl = s.linkCtl := rfl
@[simp] theorem State.modCore_chip (s : State) (c : Nat) (f : Core → Core) : (s.modCore c f).chip = s.chip := rfl
@[simp] theorem State.modCore_dsize (s : State) (c : Nat) (f : Core → Core) : (s.modCore c f).dsize = s.dsize := rfl
@[simp] theorem State.modCore_straits (s : State) (c : Nat) (f : Core → Core) : (s.modCore c f).straits = s.straits := rfl
@[simp] theorem State.modCore_gib (s : State) (c : Nat) (f : Core → Core) : (s.modCore c f).gib = s.gib := rfl
@[simp] theorem State.modCore_dstraits (s : State) (c : Nat) (f : Core → Core) : (s.modCore c f).dstraits = s.dstraits := rfl
@[simp] theorem State.modCore_frame (s : State) (c : Nat) (f : Core → Core) : (s.modCore c f).frame = s.frame := rfl
@[simp] theorem State.modCore_frameBase (s : State) (c : Nat) (f : Core → Core) : (s.modCore c f).frameBase = s.frameBase := rfl
@[simp] theorem State.modCore_framesOn (s : State) (c : Nat) (f : Core → Core) : (s.modCore c f).framesOn = s.framesOn := rfl
@[simp] theorem State.modCore_turning (s : State) (c : Nat) (f : Core → Core) : (s.modCore c f).turning = s.turning := rfl
@[simp] theorem State.modCore_misroute (s : State) (c : Nat) (f : Core → Core) : (s.modCore c f).misroute = s.misroute := rfl
@[simp] theorem State.modCore_retrains (s : State) (c : Nat) (f : Core → Core) : (s.modCore c f).retrains = s.retrains := rfl
@[simp] theorem State.modCore_sched (s : State) (c : Nat) (f : Core → Core) : (s.modCore c f).sched = s.sched := rfl
@[simp] theorem State.modCore_schedNext (s : State) (c : Nat) (f : Core → Core) : (s.modCore c f).schedNext = s.schedNext := rfl
@[simp] theorem State.modCore_slotDue (s : State) (c : Nat) (f : Core → Core) : (s.modCore c f).slotDue = s.slotDue := rfl
@[simp] theorem State.modCore_linkOut (s : State) (c : Nat) (f : Core → Core) : (s.modCore c f).linkOut = s.linkOut := rfl
@[simp] theorem State.modCore_linkWait (s : State) (c : Nat) (f : Core → Core) : (s.modCore c f).linkWait = s.linkWait := rfl
@[simp] theorem State.modCore_drawerReqs (s : State) (c : Nat) (f : Core → Core) : (s.modCore c f).drawerReqs = s.drawerReqs := rfl
@[simp] theorem State.modCore_readsAsked (s : State) (c : Nat) (f : Core → Core) : (s.modCore c f).readsAsked = s.readsAsked := rfl
@[simp] theorem State.modCore_power (s : State) (c : Nat) (f : Core → Core) : (s.modCore c f).power = s.power := rfl
@[simp] theorem State.modCore_conns (s : State) (c : Nat) (f : Core → Core) : (s.modCore c f).conns = s.conns := rfl
@[simp] theorem State.modCore_hostOut (s : State) (c : Nat) (f : Core → Core) : (s.modCore c f).hostOut = s.hostOut := rfl
@[simp] theorem State.modCore_owedAnswers (s : State) (c : Nat) (f : Core → Core) : (s.modCore c f).owedAnswers = s.owedAnswers := rfl
@[simp] theorem State.modCore_iss (s : State) (c : Nat) (f : Core → Core) : (s.modCore c f).iss = s.iss := rfl
@[simp] theorem State.modCore_agenda (s : State) (c : Nat) (f : Core → Core) : (s.modCore c f).agenda = s.agenda := rfl
@[simp] theorem State.modCore_turnNo (s : State) (c : Nat) (f : Core → Core) : (s.modCore c f).turnNo = s.turnNo := rfl
@[simp] theorem State.modCore_freeNo (s : State) (c : Nat) (f : Core → Core) : (s.modCore c f).freeNo = s.freeNo := rfl
@[simp] theorem State.modCore_veil (s : State) (c : Nat) (f : Core → Core) : (s.modCore c f).veil = s.veil := rfl

/-! ## modCur -/

@[simp] theorem State.modCur_mem (s : State) (f : Core → Core) : (s.modCur f).mem = s.mem := rfl
@[simp] theorem State.modCur_errs (s : State) (f : Core → Core) : (s.modCur f).errs = s.errs := rfl
@[simp] theorem State.modCur_armed (s : State) (f : Core → Core) : (s.modCur f).armed = s.armed := rfl
@[simp] theorem State.modCur_marks (s : State) (f : Core → Core) : (s.modCur f).marks = s.marks := rfl
@[simp] theorem State.modCur_fabric (s : State) (f : Core → Core) : (s.modCur f).fabric = s.fabric := rfl
@[simp] theorem State.modCur_kept (s : State) (f : Core → Core) : (s.modCur f).kept = s.kept := rfl
@[simp] theorem State.modCur_cycle (s : State) (f : Core → Core) : (s.modCur f).cycle = s.cycle := rfl
@[simp] theorem State.modCur_hbCount (s : State) (f : Core → Core) : (s.modCur f).hbCount = s.hbCount := rfl
@[simp] theorem State.modCur_stage (s : State) (f : Core → Core) : (s.modCur f).stage = s.stage := rfl
@[simp] theorem State.modCur_service (s : State) (f : Core → Core) : (s.modCur f).service = s.service := rfl
@[simp] theorem State.modCur_clockStop (s : State) (f : Core → Core) : (s.modCur f).clockStop = s.clockStop := rfl
@[simp] theorem State.modCur_dispCtl (s : State) (f : Core → Core) : (s.modCur f).dispCtl = s.dispCtl := rfl
@[simp] theorem State.modCur_ptrCompute (s : State) (f : Core → Core) : (s.modCur f).ptrCompute = s.ptrCompute := rfl
@[simp] theorem State.modCur_ptrService (s : State) (f : Core → Core) : (s.modCur f).ptrService = s.ptrService := rfl
@[simp] theorem State.modCur_pool (s : State) (f : Core → Core) : (s.modCur f).pool = s.pool := rfl
@[simp] theorem State.modCur_groups (s : State) (f : Core → Core) : (s.modCur f).groups = s.groups := rfl
@[simp] theorem State.modCur_nextRun (s : State) (f : Core → Core) : (s.modCur f).nextRun = s.nextRun := rfl
@[simp] theorem State.modCur_ctxs (s : State) (f : Core → Core) : (s.modCur f).ctxs = s.ctxs := rfl
@[simp] theorem State.modCur_saved (s : State) (f : Core → Core) : (s.modCur f).saved = s.saved := rfl
@[simp] theorem State.modCur_tickets (s : State) (f : Core → Core) : (s.modCur f).tickets = s.tickets := rfl
@[simp] theorem State.modCur_slabs (s : State) (f : Core → Core) : (s.modCur f).slabs = s.slabs := rfl
@[simp] theorem State.modCur_frees (s : State) (f : Core → Core) : (s.modCur f).frees = s.frees := rfl
@[simp] theorem State.modCur_jobs (s : State) (f : Core → Core) : (s.modCur f).jobs = s.jobs := rfl
@[simp] theorem State.modCur_job (s : State) (f : Core → Core) : (s.modCur f).job = s.job := rfl
@[simp] theorem State.modCur_pushes (s : State) (f : Core → Core) : (s.modCur f).pushes = s.pushes := rfl
@[simp] theorem State.modCur_posts (s : State) (f : Core → Core) : (s.modCur f).posts = s.posts := rfl
@[simp] theorem State.modCur_owed (s : State) (f : Core → Core) : (s.modCur f).owed = s.owed := rfl
@[simp] theorem State.modCur_nextBind (s : State) (f : Core → Core) : (s.modCur f).nextBind = s.nextBind := rfl
@[simp] theorem State.modCur_linkCtl (s : State) (f : Core → Core) : (s.modCur f).linkCtl = s.linkCtl := rfl
@[simp] theorem State.modCur_chip (s : State) (f : Core → Core) : (s.modCur f).chip = s.chip := rfl
@[simp] theorem State.modCur_dsize (s : State) (f : Core → Core) : (s.modCur f).dsize = s.dsize := rfl
@[simp] theorem State.modCur_straits (s : State) (f : Core → Core) : (s.modCur f).straits = s.straits := rfl
@[simp] theorem State.modCur_gib (s : State) (f : Core → Core) : (s.modCur f).gib = s.gib := rfl
@[simp] theorem State.modCur_dstraits (s : State) (f : Core → Core) : (s.modCur f).dstraits = s.dstraits := rfl
@[simp] theorem State.modCur_frame (s : State) (f : Core → Core) : (s.modCur f).frame = s.frame := rfl
@[simp] theorem State.modCur_frameBase (s : State) (f : Core → Core) : (s.modCur f).frameBase = s.frameBase := rfl
@[simp] theorem State.modCur_framesOn (s : State) (f : Core → Core) : (s.modCur f).framesOn = s.framesOn := rfl
@[simp] theorem State.modCur_turning (s : State) (f : Core → Core) : (s.modCur f).turning = s.turning := rfl
@[simp] theorem State.modCur_misroute (s : State) (f : Core → Core) : (s.modCur f).misroute = s.misroute := rfl
@[simp] theorem State.modCur_retrains (s : State) (f : Core → Core) : (s.modCur f).retrains = s.retrains := rfl
@[simp] theorem State.modCur_sched (s : State) (f : Core → Core) : (s.modCur f).sched = s.sched := rfl
@[simp] theorem State.modCur_schedNext (s : State) (f : Core → Core) : (s.modCur f).schedNext = s.schedNext := rfl
@[simp] theorem State.modCur_slotDue (s : State) (f : Core → Core) : (s.modCur f).slotDue = s.slotDue := rfl
@[simp] theorem State.modCur_linkOut (s : State) (f : Core → Core) : (s.modCur f).linkOut = s.linkOut := rfl
@[simp] theorem State.modCur_linkWait (s : State) (f : Core → Core) : (s.modCur f).linkWait = s.linkWait := rfl
@[simp] theorem State.modCur_drawerReqs (s : State) (f : Core → Core) : (s.modCur f).drawerReqs = s.drawerReqs := rfl
@[simp] theorem State.modCur_readsAsked (s : State) (f : Core → Core) : (s.modCur f).readsAsked = s.readsAsked := rfl
@[simp] theorem State.modCur_power (s : State) (f : Core → Core) : (s.modCur f).power = s.power := rfl
@[simp] theorem State.modCur_conns (s : State) (f : Core → Core) : (s.modCur f).conns = s.conns := rfl
@[simp] theorem State.modCur_hostOut (s : State) (f : Core → Core) : (s.modCur f).hostOut = s.hostOut := rfl
@[simp] theorem State.modCur_owedAnswers (s : State) (f : Core → Core) : (s.modCur f).owedAnswers = s.owedAnswers := rfl
@[simp] theorem State.modCur_iss (s : State) (f : Core → Core) : (s.modCur f).iss = s.iss := rfl
@[simp] theorem State.modCur_agenda (s : State) (f : Core → Core) : (s.modCur f).agenda = s.agenda := rfl
@[simp] theorem State.modCur_turnNo (s : State) (f : Core → Core) : (s.modCur f).turnNo = s.turnNo := rfl
@[simp] theorem State.modCur_freeNo (s : State) (f : Core → Core) : (s.modCur f).freeNo = s.freeNo := rfl
@[simp] theorem State.modCur_veil (s : State) (f : Core → Core) : (s.modCur f).veil = s.veil := rfl

/-! ## writeBytes -/

@[simp] theorem State.writeBytes_cores (s : State) (a : Nat) (bs : List Byte) : (s.writeBytes a bs).cores = s.cores := rfl
@[simp] theorem State.writeBytes_armed (s : State) (a : Nat) (bs : List Byte) : (s.writeBytes a bs).armed = s.armed := rfl
@[simp] theorem State.writeBytes_marks (s : State) (a : Nat) (bs : List Byte) : (s.writeBytes a bs).marks = s.marks := rfl
@[simp] theorem State.writeBytes_fabric (s : State) (a : Nat) (bs : List Byte) : (s.writeBytes a bs).fabric = s.fabric := rfl
@[simp] theorem State.writeBytes_cycle (s : State) (a : Nat) (bs : List Byte) : (s.writeBytes a bs).cycle = s.cycle := rfl
@[simp] theorem State.writeBytes_hbCount (s : State) (a : Nat) (bs : List Byte) : (s.writeBytes a bs).hbCount = s.hbCount := rfl
@[simp] theorem State.writeBytes_stage (s : State) (a : Nat) (bs : List Byte) : (s.writeBytes a bs).stage = s.stage := rfl
@[simp] theorem State.writeBytes_service (s : State) (a : Nat) (bs : List Byte) : (s.writeBytes a bs).service = s.service := rfl
@[simp] theorem State.writeBytes_clockStop (s : State) (a : Nat) (bs : List Byte) : (s.writeBytes a bs).clockStop = s.clockStop := rfl
@[simp] theorem State.writeBytes_dispCtl (s : State) (a : Nat) (bs : List Byte) : (s.writeBytes a bs).dispCtl = s.dispCtl := rfl
@[simp] theorem State.writeBytes_ptrCompute (s : State) (a : Nat) (bs : List Byte) : (s.writeBytes a bs).ptrCompute = s.ptrCompute := rfl
@[simp] theorem State.writeBytes_ptrService (s : State) (a : Nat) (bs : List Byte) : (s.writeBytes a bs).ptrService = s.ptrService := rfl
@[simp] theorem State.writeBytes_pool (s : State) (a : Nat) (bs : List Byte) : (s.writeBytes a bs).pool = s.pool := rfl
@[simp] theorem State.writeBytes_groups (s : State) (a : Nat) (bs : List Byte) : (s.writeBytes a bs).groups = s.groups := rfl
@[simp] theorem State.writeBytes_nextRun (s : State) (a : Nat) (bs : List Byte) : (s.writeBytes a bs).nextRun = s.nextRun := rfl
@[simp] theorem State.writeBytes_ctxs (s : State) (a : Nat) (bs : List Byte) : (s.writeBytes a bs).ctxs = s.ctxs := rfl
@[simp] theorem State.writeBytes_saved (s : State) (a : Nat) (bs : List Byte) : (s.writeBytes a bs).saved = s.saved := rfl
@[simp] theorem State.writeBytes_tickets (s : State) (a : Nat) (bs : List Byte) : (s.writeBytes a bs).tickets = s.tickets := rfl
@[simp] theorem State.writeBytes_slabs (s : State) (a : Nat) (bs : List Byte) : (s.writeBytes a bs).slabs = s.slabs := rfl
@[simp] theorem State.writeBytes_frees (s : State) (a : Nat) (bs : List Byte) : (s.writeBytes a bs).frees = s.frees := rfl
@[simp] theorem State.writeBytes_jobs (s : State) (a : Nat) (bs : List Byte) : (s.writeBytes a bs).jobs = s.jobs := rfl
@[simp] theorem State.writeBytes_job (s : State) (a : Nat) (bs : List Byte) : (s.writeBytes a bs).job = s.job := rfl
@[simp] theorem State.writeBytes_pushes (s : State) (a : Nat) (bs : List Byte) : (s.writeBytes a bs).pushes = s.pushes := rfl
@[simp] theorem State.writeBytes_posts (s : State) (a : Nat) (bs : List Byte) : (s.writeBytes a bs).posts = s.posts := rfl
@[simp] theorem State.writeBytes_owed (s : State) (a : Nat) (bs : List Byte) : (s.writeBytes a bs).owed = s.owed := rfl
@[simp] theorem State.writeBytes_nextBind (s : State) (a : Nat) (bs : List Byte) : (s.writeBytes a bs).nextBind = s.nextBind := rfl
@[simp] theorem State.writeBytes_linkCtl (s : State) (a : Nat) (bs : List Byte) : (s.writeBytes a bs).linkCtl = s.linkCtl := rfl
@[simp] theorem State.writeBytes_chip (s : State) (a : Nat) (bs : List Byte) : (s.writeBytes a bs).chip = s.chip := rfl
@[simp] theorem State.writeBytes_dsize (s : State) (a : Nat) (bs : List Byte) : (s.writeBytes a bs).dsize = s.dsize := rfl
@[simp] theorem State.writeBytes_straits (s : State) (a : Nat) (bs : List Byte) : (s.writeBytes a bs).straits = s.straits := rfl
@[simp] theorem State.writeBytes_gib (s : State) (a : Nat) (bs : List Byte) : (s.writeBytes a bs).gib = s.gib := rfl
@[simp] theorem State.writeBytes_dstraits (s : State) (a : Nat) (bs : List Byte) : (s.writeBytes a bs).dstraits = s.dstraits := rfl
@[simp] theorem State.writeBytes_frame (s : State) (a : Nat) (bs : List Byte) : (s.writeBytes a bs).frame = s.frame := rfl
@[simp] theorem State.writeBytes_frameBase (s : State) (a : Nat) (bs : List Byte) : (s.writeBytes a bs).frameBase = s.frameBase := rfl
@[simp] theorem State.writeBytes_framesOn (s : State) (a : Nat) (bs : List Byte) : (s.writeBytes a bs).framesOn = s.framesOn := rfl
@[simp] theorem State.writeBytes_turning (s : State) (a : Nat) (bs : List Byte) : (s.writeBytes a bs).turning = s.turning := rfl
@[simp] theorem State.writeBytes_misroute (s : State) (a : Nat) (bs : List Byte) : (s.writeBytes a bs).misroute = s.misroute := rfl
@[simp] theorem State.writeBytes_retrains (s : State) (a : Nat) (bs : List Byte) : (s.writeBytes a bs).retrains = s.retrains := rfl
@[simp] theorem State.writeBytes_sched (s : State) (a : Nat) (bs : List Byte) : (s.writeBytes a bs).sched = s.sched := rfl
@[simp] theorem State.writeBytes_schedNext (s : State) (a : Nat) (bs : List Byte) : (s.writeBytes a bs).schedNext = s.schedNext := rfl
@[simp] theorem State.writeBytes_slotDue (s : State) (a : Nat) (bs : List Byte) : (s.writeBytes a bs).slotDue = s.slotDue := rfl
@[simp] theorem State.writeBytes_linkOut (s : State) (a : Nat) (bs : List Byte) : (s.writeBytes a bs).linkOut = s.linkOut := rfl
@[simp] theorem State.writeBytes_linkWait (s : State) (a : Nat) (bs : List Byte) : (s.writeBytes a bs).linkWait = s.linkWait := rfl
@[simp] theorem State.writeBytes_drawerReqs (s : State) (a : Nat) (bs : List Byte) : (s.writeBytes a bs).drawerReqs = s.drawerReqs := rfl
@[simp] theorem State.writeBytes_readsAsked (s : State) (a : Nat) (bs : List Byte) : (s.writeBytes a bs).readsAsked = s.readsAsked := rfl
@[simp] theorem State.writeBytes_power (s : State) (a : Nat) (bs : List Byte) : (s.writeBytes a bs).power = s.power := rfl
@[simp] theorem State.writeBytes_conns (s : State) (a : Nat) (bs : List Byte) : (s.writeBytes a bs).conns = s.conns := rfl
@[simp] theorem State.writeBytes_hostOut (s : State) (a : Nat) (bs : List Byte) : (s.writeBytes a bs).hostOut = s.hostOut := rfl
@[simp] theorem State.writeBytes_owedAnswers (s : State) (a : Nat) (bs : List Byte) : (s.writeBytes a bs).owedAnswers = s.owedAnswers := rfl
@[simp] theorem State.writeBytes_iss (s : State) (a : Nat) (bs : List Byte) : (s.writeBytes a bs).iss = s.iss := rfl
@[simp] theorem State.writeBytes_agenda (s : State) (a : Nat) (bs : List Byte) : (s.writeBytes a bs).agenda = s.agenda := rfl
@[simp] theorem State.writeBytes_turnNo (s : State) (a : Nat) (bs : List Byte) : (s.writeBytes a bs).turnNo = s.turnNo := rfl
@[simp] theorem State.writeBytes_freeNo (s : State) (a : Nat) (bs : List Byte) : (s.writeBytes a bs).freeNo = s.freeNo := rfl
@[simp] theorem State.writeBytes_veil (s : State) (a : Nat) (bs : List Byte) : (s.writeBytes a bs).veil = s.veil := rfl

/-! ## dstS -/

@[simp] theorem State.dstS_mem (s : State) (r : SR) (x : W64) : (s.dstS r x).mem = s.mem := rfl
@[simp] theorem State.dstS_errs (s : State) (r : SR) (x : W64) : (s.dstS r x).errs = s.errs := rfl
@[simp] theorem State.dstS_armed (s : State) (r : SR) (x : W64) : (s.dstS r x).armed = s.armed := rfl
@[simp] theorem State.dstS_marks (s : State) (r : SR) (x : W64) : (s.dstS r x).marks = s.marks := rfl
@[simp] theorem State.dstS_fabric (s : State) (r : SR) (x : W64) : (s.dstS r x).fabric = s.fabric := rfl
@[simp] theorem State.dstS_kept (s : State) (r : SR) (x : W64) : (s.dstS r x).kept = s.kept := rfl
@[simp] theorem State.dstS_cycle (s : State) (r : SR) (x : W64) : (s.dstS r x).cycle = s.cycle := rfl
@[simp] theorem State.dstS_hbCount (s : State) (r : SR) (x : W64) : (s.dstS r x).hbCount = s.hbCount := rfl
@[simp] theorem State.dstS_stage (s : State) (r : SR) (x : W64) : (s.dstS r x).stage = s.stage := rfl
@[simp] theorem State.dstS_service (s : State) (r : SR) (x : W64) : (s.dstS r x).service = s.service := rfl
@[simp] theorem State.dstS_clockStop (s : State) (r : SR) (x : W64) : (s.dstS r x).clockStop = s.clockStop := rfl
@[simp] theorem State.dstS_dispCtl (s : State) (r : SR) (x : W64) : (s.dstS r x).dispCtl = s.dispCtl := rfl
@[simp] theorem State.dstS_ptrCompute (s : State) (r : SR) (x : W64) : (s.dstS r x).ptrCompute = s.ptrCompute := rfl
@[simp] theorem State.dstS_ptrService (s : State) (r : SR) (x : W64) : (s.dstS r x).ptrService = s.ptrService := rfl
@[simp] theorem State.dstS_pool (s : State) (r : SR) (x : W64) : (s.dstS r x).pool = s.pool := rfl
@[simp] theorem State.dstS_groups (s : State) (r : SR) (x : W64) : (s.dstS r x).groups = s.groups := rfl
@[simp] theorem State.dstS_nextRun (s : State) (r : SR) (x : W64) : (s.dstS r x).nextRun = s.nextRun := rfl
@[simp] theorem State.dstS_ctxs (s : State) (r : SR) (x : W64) : (s.dstS r x).ctxs = s.ctxs := rfl
@[simp] theorem State.dstS_saved (s : State) (r : SR) (x : W64) : (s.dstS r x).saved = s.saved := rfl
@[simp] theorem State.dstS_tickets (s : State) (r : SR) (x : W64) : (s.dstS r x).tickets = s.tickets := rfl
@[simp] theorem State.dstS_slabs (s : State) (r : SR) (x : W64) : (s.dstS r x).slabs = s.slabs := rfl
@[simp] theorem State.dstS_frees (s : State) (r : SR) (x : W64) : (s.dstS r x).frees = s.frees := rfl
@[simp] theorem State.dstS_jobs (s : State) (r : SR) (x : W64) : (s.dstS r x).jobs = s.jobs := rfl
@[simp] theorem State.dstS_job (s : State) (r : SR) (x : W64) : (s.dstS r x).job = s.job := rfl
@[simp] theorem State.dstS_pushes (s : State) (r : SR) (x : W64) : (s.dstS r x).pushes = s.pushes := rfl
@[simp] theorem State.dstS_posts (s : State) (r : SR) (x : W64) : (s.dstS r x).posts = s.posts := rfl
@[simp] theorem State.dstS_owed (s : State) (r : SR) (x : W64) : (s.dstS r x).owed = s.owed := rfl
@[simp] theorem State.dstS_nextBind (s : State) (r : SR) (x : W64) : (s.dstS r x).nextBind = s.nextBind := rfl
@[simp] theorem State.dstS_linkCtl (s : State) (r : SR) (x : W64) : (s.dstS r x).linkCtl = s.linkCtl := rfl
@[simp] theorem State.dstS_chip (s : State) (r : SR) (x : W64) : (s.dstS r x).chip = s.chip := rfl
@[simp] theorem State.dstS_dsize (s : State) (r : SR) (x : W64) : (s.dstS r x).dsize = s.dsize := rfl
@[simp] theorem State.dstS_straits (s : State) (r : SR) (x : W64) : (s.dstS r x).straits = s.straits := rfl
@[simp] theorem State.dstS_gib (s : State) (r : SR) (x : W64) : (s.dstS r x).gib = s.gib := rfl
@[simp] theorem State.dstS_dstraits (s : State) (r : SR) (x : W64) : (s.dstS r x).dstraits = s.dstraits := rfl
@[simp] theorem State.dstS_frame (s : State) (r : SR) (x : W64) : (s.dstS r x).frame = s.frame := rfl
@[simp] theorem State.dstS_frameBase (s : State) (r : SR) (x : W64) : (s.dstS r x).frameBase = s.frameBase := rfl
@[simp] theorem State.dstS_framesOn (s : State) (r : SR) (x : W64) : (s.dstS r x).framesOn = s.framesOn := rfl
@[simp] theorem State.dstS_turning (s : State) (r : SR) (x : W64) : (s.dstS r x).turning = s.turning := rfl
@[simp] theorem State.dstS_misroute (s : State) (r : SR) (x : W64) : (s.dstS r x).misroute = s.misroute := rfl
@[simp] theorem State.dstS_retrains (s : State) (r : SR) (x : W64) : (s.dstS r x).retrains = s.retrains := rfl
@[simp] theorem State.dstS_sched (s : State) (r : SR) (x : W64) : (s.dstS r x).sched = s.sched := rfl
@[simp] theorem State.dstS_schedNext (s : State) (r : SR) (x : W64) : (s.dstS r x).schedNext = s.schedNext := rfl
@[simp] theorem State.dstS_slotDue (s : State) (r : SR) (x : W64) : (s.dstS r x).slotDue = s.slotDue := rfl
@[simp] theorem State.dstS_linkOut (s : State) (r : SR) (x : W64) : (s.dstS r x).linkOut = s.linkOut := rfl
@[simp] theorem State.dstS_linkWait (s : State) (r : SR) (x : W64) : (s.dstS r x).linkWait = s.linkWait := rfl
@[simp] theorem State.dstS_drawerReqs (s : State) (r : SR) (x : W64) : (s.dstS r x).drawerReqs = s.drawerReqs := rfl
@[simp] theorem State.dstS_readsAsked (s : State) (r : SR) (x : W64) : (s.dstS r x).readsAsked = s.readsAsked := rfl
@[simp] theorem State.dstS_power (s : State) (r : SR) (x : W64) : (s.dstS r x).power = s.power := rfl
@[simp] theorem State.dstS_conns (s : State) (r : SR) (x : W64) : (s.dstS r x).conns = s.conns := rfl
@[simp] theorem State.dstS_hostOut (s : State) (r : SR) (x : W64) : (s.dstS r x).hostOut = s.hostOut := rfl
@[simp] theorem State.dstS_owedAnswers (s : State) (r : SR) (x : W64) : (s.dstS r x).owedAnswers = s.owedAnswers := rfl
@[simp] theorem State.dstS_iss (s : State) (r : SR) (x : W64) : (s.dstS r x).iss = s.iss := rfl
@[simp] theorem State.dstS_agenda (s : State) (r : SR) (x : W64) : (s.dstS r x).agenda = s.agenda := rfl
@[simp] theorem State.dstS_turnNo (s : State) (r : SR) (x : W64) : (s.dstS r x).turnNo = s.turnNo := rfl
@[simp] theorem State.dstS_freeNo (s : State) (r : SR) (x : W64) : (s.dstS r x).freeNo = s.freeNo := rfl
@[simp] theorem State.dstS_veil (s : State) (r : SR) (x : W64) : (s.dstS r x).veil = s.veil := rfl
@[simp] theorem State.writeBytes_mem (s : State) (a : Nat) (bs : List Byte) :
    (s.writeBytes a bs).mem = Memory.write s.mem a bs := rfl

@[simp] theorem State.writeBytes_errs (s : State) (a : Nat) (bs : List Byte) :
    (s.writeBytes a bs).errs = s.errs.filter fun e => !(a ≤ e && e < a + bs.length) := rfl

/-! ## The core that an update leaves -/

/-- The core that was set, and every other one as it was. -/
@[simp] theorem State.core_setCore_same (s : State) (c : Nat) (k : Core) : (s.setCore c k).core c = k := by
  simp [State.core, State.setCore]

theorem State.core_setCore_other (s : State) {c d : Nat} (k : Core) (h : d ≠ c) :
    (s.setCore c k).core d = s.core d := by
  simp [State.core, State.setCore, Tab.get_put_other _ _ _ h]

@[simp] theorem State.core_modCore_same (s : State) (c : Nat) (f : Core → Core) :
    (s.modCore c f).core c = f (s.core c) := by simp [State.modCore]

theorem State.core_modCore_other (s : State) {c d : Nat} (f : Core → Core) (h : d ≠ c) :
    (s.modCore c f).core d = s.core d := by simp [State.modCore, State.core_setCore_other _ _ h]

@[simp] theorem State.core_modCur_same (s : State) (f : Core → Core) :
    (s.modCur f).core s.iss.core = f (s.core s.iss.core) := by simp [State.modCur]

theorem State.core_modCur_other (s : State) {d : Nat} (f : Core → Core) (h : d ≠ s.iss.core) :
    (s.modCur f).core d = s.core d := by simp [State.modCur, State.core_modCore_other _ _ h]

@[simp] theorem State.core_writeBytes (s : State) (a : Nat) (bs : List Byte) (c : Nat) :
    (s.writeBytes a bs).core c = s.core c := rfl

/-- An update of one core changes nothing but the table of cores. -/
theorem State.setCore_eq (s : State) (c : Nat) (k : Core) :
    s.setCore c k = { s with cores := (s.setCore c k).cores } := rfl

theorem State.modCur_eq (s : State) (f : Core → Core) : s.modCur f = { s with cores := (s.modCur f).cores } := rfl

/-! ## Registers after a write of one -/

theorem Core.setS_eq (k : Core) (n : Nat) (x : W64) :
    k.setS n x = { k with s := if n = 0 then k.s else Tab.put 0 k.s n x } := by
  unfold Core.setS; split <;> rfl

theorem Core.setK_eq (k : Core) (n : Nat) (x : W128) :
    k.setK n x = { k with k := if n = 0 then k.k else Tab.put 0 k.k n x } := by
  unfold Core.setK; split <;> rfl

/-- s0 discards a write and reads as zero; any other register reads back (06 R127). -/
theorem Core.getS_setS (k : Core) (n j : Nat) (x : W64) :
    (k.setS n x).getS j = if j = 0 then 0 else if j = n then x else k.getS j := by
  unfold Core.setS Core.getS
  by_cases hj : j = 0
  · simp [hj]
  · by_cases hn : n = 0
    · have : j ≠ n := by omega
      simp [hj, hn]
    · simp [hj, hn, Tab.get_put]

/-- A vector register reads back, and the others stay. -/
theorem Core.getV_setV (k : Core) (n j : Nat) (x : List W32) :
    (k.setV n x).getV j = if j = n then x else k.getV j := by
  simp [Core.setV, Core.getV, Tab.get_put]

/-- k0 discards a write and reads all ones; any other mask register reads back (09 R212). -/
theorem Core.getK_setK (k : Core) (n j : Nat) (x : W128) :
    (k.setK n x).getK j = if j = 0 then BitVec.allOnes 128 else if j = n then x else k.getK j := by
  unfold Core.setK Core.getK
  by_cases hj : j = 0
  · simp [hj]
  · by_cases hn : n = 0
    · have : j ≠ n := by omega
      simp [hj, hn]
    · simp [hj, hn, Tab.get_put]

/-- A counting flag after a post (06 R157). -/
theorem Core.flag_post_same (k : Core) (n amt : Nat) :
    (k.post n amt).flag n = if 0xFFFF < (k.flag n).toNat + amt then 0xFFFF
      else BitVec.ofNat 16 ((k.flag n).toNat + amt) := by
  simp only [Core.post]
  split <;> simp [Core.flag, Core.setStatus]

theorem Core.flag_post_other (k : Core) {n j : Nat} (amt : Nat) (h : j ≠ n) :
    (k.post n amt).flag j = k.flag j := by
  simp only [Core.post]
  split <;> simp [Core.flag, Core.setStatus, Tab.get_put_other _ _ _ h]

/-! ## Memory after a write -/

/-- One byte of memory after a write (02 R29). -/
theorem State.byte_writeBytes (s : State) (a : Nat) (bs : List Byte) (x : Nat) :
    (s.writeBytes a bs).byte x = if a ≤ x ∧ x < a + bs.length then bs.getD (x - a) unlistedByte else s.byte x :=
  Memory.get_write s.mem a bs x

/-- A write keeps memory's canonical form. -/
theorem State.writeBytes_wf (s : State) (a : Nat) (bs : List Byte) (h : Memory.wf s.mem = true) :
    Memory.wf (s.writeBytes a bs).mem = true := Memory.wf_write s.mem a bs h

/-- Reset memory is in canonical form. -/
theorem State.reset_mem_wf : Memory.wf State.reset.mem = true := Memory.wf_nil

end Sys2Proof.Machine
end

