-- ==== Sys2Proof/Laws/Ops.lean ====
section
/-! SUPPORT. What each shared operation over registers can do, said once. -/

namespace Sys2Proof.Machine

open Sys2Proof

theorem sr_toNat_eq_zero (r : SR) : r.toNat = 0 ↔ r = 0 := by
  constructor
  · intro h; exact BitVec.eq_of_toNat_eq (by simpa using h)
  · intro h; subst h; rfl

theorem kr_toNat_eq_zero (r : KR) : r.toNat = 0 ↔ r = 0 := by
  constructor
  · intro h; exact BitVec.eq_of_toNat_eq (by simpa using h)
  · intro h; subst h; rfl

theorem bv_toNat_inj {n : Nat} (a b : BitVec n) : a.toNat = b.toNat ↔ a = b :=
  ⟨BitVec.eq_of_toNat_eq, fun h => h ▸ rfl⟩

/-- A change of the current core is seen in no other core and in no byte of memory. -/
theorem onlyCore_modCur (s : State) (f : Core → Core) : OnlyCore s.cur s (s.modCur f) :=
  ⟨rfl, fun _ h => State.core_modCur_other s f h, fun _ => rfl⟩

theorem onlyCore_modCore (s : State) (c : Nat) (f : Core → Core) : OnlyCore c s (s.modCore c f) :=
  ⟨rfl, fun _ h => State.core_modCore_other s f h, fun _ => rfl⟩

theorem onlyCore_refl (c : Nat) (s : State) : OnlyCore c s s := ⟨rfl, fun _ _ => rfl, fun _ => rfl⟩

theorem onlyCore_trans {c : Nat} {s t u : State} (h : OnlyCore c s t) (h' : OnlyCore c t u) : OnlyCore c s u := by
  obtain ⟨h1, h2, h3⟩ := h
  obtain ⟨h4, h5, h6⟩ := h'
  refine ⟨?_, fun d hd => (h5 d hd).trans (h2 d hd), fun a => (h6 a).trans (h3 a)⟩
  rw [h4, h1]

@[simp] theorem core_modCur_cur (s : State) (f : Core → Core) : (s.modCur f).core s.cur = f (s.core s.cur) :=
  State.core_modCur_same s f

/-- Two changes of the current core. -/
theorem core_modCur2 (s : State) (f g : Core → Core) :
    ((s.modCur f).modCur g).core s.cur = g (f (s.core s.cur)) := by
  have h : s.cur = (s.modCur f).cur := rfl
  rw [h, core_modCur_cur, ← h, core_modCur_cur]

/-- The scalar file after a write of one register. -/
theorem scalarIs_setS (k : Core) (sd : SR) (x : W64) : ScalarIs k (k.setS sd.toNat x) sd x := by
  intro r
  rw [Core.getS_setS]
  simp only [sr_toNat_eq_zero, bv_toNat_inj]

/-- dstS writes one scalar register of the current core, and nothing else of the device (06 R127). -/
theorem setsS_of_dstS {i : Instr} {s : State} {sd : SR} {x : W64} (h : exec i s = .next (s.dstS sd x)) :
    SetsS s i sd x := by
  refine ⟨_, h, onlyCore_modCur s _, ?_, ?_⟩
  · simp only [State.dstS, core_modCur_cur]; exact scalarIs_setS _ _ _
  · simp only [State.dstS, core_modCur_cur, Core.setS_eq]

/-- The same with the pending mark of a longer latency (06 R130). -/
theorem setsSLate_of_markS {i : Instr} {s : State} {sd : SR} {x : W64}
    (h : exec i s = .next ((s.dstS sd x).markS sd)) : SetsSLate s i sd x := by
  by_cases h0 : sd = 0
  · subst h0
    have e : (s.dstS 0 x).markS 0 = s.dstS 0 x := rfl
    rw [e] at h
    obtain ⟨t, h1, h2, h3, h4⟩ := setsS_of_dstS h
    exact ⟨t, h1, h2, h3, by simpa using h4⟩
  · have e : (s.dstS sd x).markS sd =
        (s.modCur (·.setS sd.toNat x)).modCur (·.addOut s.iss.seq .done [.s sd.toNat] false) := by
      unfold State.markS; rw [if_neg h0]; rfl
    rw [e] at h
    refine ⟨_, h, onlyCore_trans (onlyCore_modCur s _) (onlyCore_modCur _ _), ?_, ?_⟩
    · rw [core_modCur2]; intro r; exact scalarIs_setS _ _ _ r
    · rw [core_modCur2, if_neg h0]; simp only [Core.addOut, Core.awaits, Core.setS_eq]

/-- dstPwin writes the predicate window of the current core (06 R128). -/
theorem setsPwin_of_dstPwin {i : Instr} {s : State} {x : BitVec 16} (h : exec i s = .next (s.dstPwin x)) :
    SetsPwin s i (x ||| 1) :=
  ⟨_, h, onlyCore_modCur s _, by simp [State.dstPwin]⟩

/-- The core after vecPut. -/
theorem vecPut_core (s : State) (vd : VR) (x : List W32) :
    (s.vecPut vd x).core s.cur = ((s.core s.cur).setV vd.toNat x).addOut s.iss.seq .done [.v vd.toNat] false := by
  exact core_modCur2 s _ _

theorem onlyCore_vecPut (s : State) (vd : VR) (x : List W32) : OnlyCore s.cur s (s.vecPut vd x) := by
  have h1 := onlyCore_modCur s (·.setV vd.toNat x)
  have h2 := onlyCore_modCur (s.dstV vd x) (·.addOut s.iss.seq .done [.v vd.toNat] false)
  exact onlyCore_trans h1 h2

@[simp] theorem lanes_getD {α : Type} (f : Nat → α) (l : Nat) (d : α) (h : l < 128) :
    (lanes f).getD l d = f l := by simp [lanes, h]

@[simp] theorem lane_lanes (f : Nat → W32) (l : Nat) (h : l < 128) : lane (lanes f) l = f l := by
  simp [lane, lanes, h]

/-- The vector registers after vecPut. -/
theorem vecPut_getV (s : State) (vd : VR) (x : List W32) (r : VR) :
    ((s.vecPut vd x).core s.cur).getV r.toNat = if r = vd then x else (s.core s.cur).getV r.toNat := by
  rw [vecPut_core]
  show (Core.setV _ _ _).getV _ = _
  rw [Core.getV_setV]
  simp only [bv_toNat_inj]

theorem vecPut_eq (s : State) (vd : VR) (x : List W32) :
    (s.vecPut vd x).core s.cur =
      { (s.core s.cur).awaits s.iss.seq [.v vd.toNat] false with v := ((s.vecPut vd x).core s.cur).v } := by
  rw [vecPut_core]; rfl

/-- The lanes of vd after a governed op (09 R214). -/
theorem vecOp_lane (s : State) (vd : VR) (k : KR) (f : Nat → W32) (l : Nat) (h : l < 128) :
    lane (((s.vecOp vd k f).core s.cur).getV vd.toNat) l =
      if s.governs k l then f l else lane ((s.core s.cur).getV vd.toNat) l := by
  unfold State.vecOp
  rw [vecPut_getV, if_pos rfl]
  exact lane_lanes _ l h

/-- An op of the vector engine that writes every lane of vd (09 R214, R216). -/
theorem setsV_of_vecPut {i : Instr} {s : State} {vd : VR} {f : Nat → W32}
    (h : exec i s = .next (s.vecPut vd (lanes f))) : SetsV s i vd (fun _ => true) f := by
  refine ⟨_, h, onlyCore_vecPut s vd _, ?_, ?_, vecPut_eq s vd _⟩
  · intro l hl
    rw [vecPut_getV, if_pos rfl, if_pos rfl]
    exact lane_lanes f l hl
  · intro r hr
    rw [vecPut_getV, if_neg hr]

/-- A governed element-wise op (09 R214). -/
theorem setsV_of_vecOp {i : Instr} {s : State} {vd : VR} {k : KR} {f : Nat → W32}
    (h : exec i s = .next (s.vecOp vd k f)) : SetsV s i vd (s.governs k) f := by
  refine ⟨_, h, onlyCore_vecPut s vd _, fun l hl => vecOp_lane s vd k f l hl, ?_, vecPut_eq s vd _⟩
  intro r hr
  unfold State.vecOp
  rw [vecPut_getV, if_neg hr]

theorem statusBit_setStatus (k : Core) (i b : Nat) (v : Bool) (hi : i < 7) :
    (k.setStatus i v).statusBit b = if b = i then v else k.statusBit b := by
  simp only [Core.statusBit, Core.setStatus, setFld]
  have : i = 0 ∨ i = 1 ∨ i = 2 ∨ i = 3 ∨ i = 4 ∨ i = 5 ∨ i = 6 := by omega
  by_cases hb : b < 7
  · have hb' : b = 0 ∨ b = 1 ∨ b = 2 ∨ b = 3 ∨ b = 4 ∨ b = 5 ∨ b = 6 := by omega
    cases v <;> rcases this with rfl | rfl | rfl | rfl | rfl | rfl | rfl <;>
      rcases hb' with rfl | rfl | rfl | rfl | rfl | rfl | rfl <;> simp [b2n]
  · have h1 : b ≠ i := by omega
    rw [if_neg h1, BitVec.getLsbD_of_ge _ _ (by omega), BitVec.getLsbD_of_ge _ _ (by omega)]

/-- SetSat() on the current core, after a change of it. -/
theorem setSat_core (s : State) (v : Bool) :
    (s.setSat s.cur v).core s.cur = if v then (s.core s.cur).setStatus 3 true else s.core s.cur := by
  unfold State.setSat
  split <;> simp [State.cur]

theorem onlyCore_setSat (s : State) (c : Nat) (v : Bool) : OnlyCore c s (s.setSat c v) := by
  unfold State.setSat
  split
  · exact onlyCore_modCore s c _
  · exact onlyCore_refl c s

/-- A governed element-wise op that may saturate (03 R63, 09 R214). -/
theorem setsVSat_of_vecSat {i : Instr} {s : State} {vd : VR} {k : KR} {f : Nat → W32 × Bool}
    (h : exec i s = .next (s.vecSat vd k f)) : SetsVSat s i vd (s.governs k) f := by
  have hc : ∀ v, ((s.vecOp vd k fun l => (f l).1).setSat s.cur v).core s.cur =
      if v then ((s.vecOp vd k fun l => (f l).1).core s.cur).setStatus 3 true
      else (s.vecOp vd k fun l => (f l).1).core s.cur :=
    fun v => setSat_core (s.vecOp vd k fun l => (f l).1) v
  have hv := vecPut_core s vd (s.governed vd k fun l => (f l).1)
  have e : s.vecSat vd k f = (s.vecOp vd k fun l => (f l).1).setSat s.cur
      ((List.range 128).any fun l => s.governs k l && (f l).2) := by
    unfold State.vecSat State.vecOp
    have e1 : (s.governed vd k fun l => ((lanes f).getD l (0, false)).1) =
        s.governed vd k fun l => (f l).1 := by
      unfold State.governed lanes
      apply List.map_congr_left
      intro l hl
      have := List.mem_range.mp hl
      simp [this]
    have e2 : ((List.range 128).any fun l => (s.srcK k).getLsbD l && ((lanes f).getD l (0, false)).2) =
        ((List.range 128).any fun l => s.governs k l && (f l).2) := by
      rw [Bool.eq_iff_iff]
      simp only [List.any_eq_true, List.mem_range]
      constructor <;> rintro ⟨l, hl, hl'⟩ <;> refine ⟨l, hl, ?_⟩ <;> simpa [lanes, hl, State.governs] using hl'
    simp only [e1, e2]
  rw [e] at h
  have hg : ∀ v, (((s.vecOp vd k fun l => (f l).1).setSat s.cur v).core s.cur).v =
      ((s.vecOp vd k fun l => (f l).1).core s.cur).v := by
    intro v; rw [hc]; split <;> rfl
  refine ⟨_, h, ?_, fun l hl => ?_, fun r hr => ?_, ?_, fun b hb => ?_, ?_⟩
  · exact onlyCore_trans (onlyCore_vecPut s vd _) (onlyCore_setSat (s.vecOp vd k _) s.cur _)
  · have := vecOp_lane s vd k (fun l => (f l).1) l hl
    unfold Core.getV at this ⊢
    rw [hg]; exact this
  · have := vecPut_getV s vd (s.governed vd k fun l => (f l).1) r
    rw [if_neg hr] at this
    unfold Core.getV at this ⊢
    rw [hg]; exact this
  · have h0 : ((s.vecOp vd k fun l => (f l).1).core s.cur).status = (s.core s.cur).status := by
      unfold State.vecOp; rw [vecPut_core]; rfl
    rw [hc]
    split
    · rename_i hs
      simp only [List.any_eq_true, List.mem_range, Bool.and_eq_true] at hs
      obtain ⟨l, hl, hl'⟩ := hs
      rw [statusBit_setStatus _ _ _ _ (by omega)]
      simpa using Or.inr ⟨l, hl, hl'⟩
    · rename_i hs
      simp only [List.any_eq_true, List.mem_range, Bool.and_eq_true, not_exists, not_and] at hs
      unfold Core.statusBit
      rw [h0]
      constructor
      · exact Or.inl
      · rintro (h | ⟨l, hl, h1, h2⟩)
        · exact h
        · exact absurd h2 (hs l hl h1)
  · have h0 : ((s.vecOp vd k fun l => (f l).1).core s.cur).status = (s.core s.cur).status := by
      unfold State.vecOp; rw [vecPut_core]; rfl
    rw [hc]
    split
    · rw [statusBit_setStatus _ _ _ _ (by omega), if_neg hb]; unfold Core.statusBit; rw [h0]
    · unfold Core.statusBit; rw [h0]
  · rw [hc]
    unfold State.vecOp
    split <;> rw [vecPut_core] <;> rfl

/-- The core after a mask register and its mark. -/
theorem setsK_of_markK {i : Instr} {s : State} {kd : KR} {x : W128} {f : Nat → Bool}
    (h : exec i s = .next ((s.dstK kd x).markK kd)) (hx : ∀ l, l < 128 → x.getLsbD l = f l) :
    SetsK s i kd f := by
  by_cases h0 : kd = 0
  · subst h0
    have e : (s.dstK 0 x).markK 0 = s.modCur (·.setK (0 : KR).toNat x) := rfl
    rw [e] at h
    refine ⟨_, h, onlyCore_modCur s _, fun hk => absurd rfl hk, fun r _ => ?_, ?_⟩
    · rw [core_modCur_cur]; rfl
    · rw [core_modCur_cur]; rfl
  · have e : (s.dstK kd x).markK kd =
        (s.modCur (·.setK kd.toNat x)).modCur (·.addOut s.iss.seq .done [.k kd.toNat] false) := by
      unfold State.markK; rw [if_neg h0]; rfl
    rw [e] at h
    refine ⟨_, h, onlyCore_trans (onlyCore_modCur s _) (onlyCore_modCur _ _), fun _ l hl => ?_,
      fun r hr => ?_, ?_⟩
    · rw [core_modCur2]
      show ((Core.setK _ _ _).getK _).getLsbD l = _
      rw [Core.getK_setK]; simp only [kr_toNat_eq_zero]
      rw [if_neg h0, if_pos trivial]; exact hx l hl
    · rw [core_modCur2]
      show (Core.setK _ _ _).getK _ = _
      rw [Core.getK_setK]; simp only [kr_toNat_eq_zero, bv_toNat_inj]
      rcases hr with rfl | hr
      · rfl
      · rw [if_neg hr]
        split
        · subst_vars; rfl
        · rfl
    · rw [core_modCur2, if_neg h0]; simp only [Core.addOut, Core.awaits, Core.setK_eq]

/-- queueOp enters the op into the queue of its slot (01 R17). -/
theorem enqueues_of_queueOp {i : Instr} {s : State} (h : exec i s = .next (s.queueOp i)) :
    Enqueues s i s.iss.slot (queuedVals s i) (writtenRegs i) :=
  ⟨_, h, onlyCore_modCur s _, by
    unfold State.queueOp
    simp only [core_modCur_cur, Core.enqueue]
    rfl⟩

/-- holdOn holds the front end (06 R154). -/
theorem holds_of_holdOn {i : Instr} {s : State} {a b : W64} {dst : List Reg} {mark addr : Nat}
    (h : exec i s = .next (s.holdOn i a b dst mark addr)) : Holds s i a b dst mark addr :=
  ⟨_, h, onlyCore_modCur s _, by
    unfold State.holdOn
    simp only [core_modCur_cur]⟩

end Sys2Proof.Machine
end

