-- ==== Sys2Proof/Laws/Views.lean ====
section
/-! SUPPORT. What a view reads after each operation over memory and views (01 R18, 02 R37 to R43). -/

namespace Sys2Proof.Machine

open Sys2Proof

/-! ## Fields that these operations leave -/

@[simp] theorem State.writeBy_cores (s : State) (w : Writer) (a : Nat) (bs : List Byte) :
    (s.writeBy w a bs).cores = s.cores := rfl
@[simp] theorem State.writeBy_mem (s : State) (w : Writer) (a : Nat) (bs : List Byte) :
    (s.writeBy w a bs).mem = Memory.write s.mem a bs := rfl
@[simp] theorem State.writeBy_core (s : State) (w : Writer) (a : Nat) (bs : List Byte) (c : Nat) :
    (s.writeBy w a bs).core c = s.core c := rfl
@[simp] theorem State.writeBy_iss (s : State) (w : Writer) (a : Nat) (bs : List Byte) :
    (s.writeBy w a bs).iss = s.iss := rfl
@[simp] theorem State.release_mem (s : State) (f : Writer → Bool) (g : Nat → Bool) : (s.release f g).mem = s.mem := rfl
@[simp] theorem State.release_core (s : State) (f : Writer → Bool) (g : Nat → Bool) (c : Nat) :
    (s.release f g).core c = s.core c := rfl
@[simp] theorem State.release_byte (s : State) (f : Writer → Bool) (g : Nat → Bool) (a : Nat) :
    (s.release f g).byte a = s.byte a := rfl
@[simp] theorem State.seeBytes_byte (s : State) (v : View) (pa n a : Nat) : (s.seeBytes v pa n).byte a = s.byte a := rfl
@[simp] theorem State.freshViews_core (s : State) (c d : Nat) : (s.freshViews c).core d = s.core d := rfl
@[simp] theorem State.freshViews_byte (s : State) (c a : Nat) : (s.freshViews c).byte a = s.byte a := rfl
@[simp] theorem State.fenceX_core (s : State) (c : Nat) (p q : Path) (n d : Nat) :
    (s.fenceX c p q n).core d = s.core d := rfl
@[simp] theorem State.fenceX_byte (s : State) (c : Nat) (p q : Path) (n a : Nat) :
    (s.fenceX c p q n).byte a = s.byte a := rfl
@[simp] theorem State.mapWriters_core (s : State) (f : Writer → Writer) (c : Nat) :
    (s.mapWriters f).core c = s.core c := rfl
@[simp] theorem State.mapWriters_byte (s : State) (f : Writer → Writer) (a : Nat) :
    (s.mapWriters f).byte a = s.byte a := rfl

/-! ## Reading -/

/-- A view reads a byte of its own where it keeps one, and memory elsewhere. -/
theorem layKept_eq (s : State) (v : View) (pa n : Nat) :
    layKept s.kept v pa ((List.range n).map fun i => s.byte (pa + i)) = s.bytesSeen v pa n := by
  unfold layKept State.bytesSeen
  apply List.ext_getElem (by simp)
  intro i h1 h2
  simp [State.seen, State.keptAt] <;> rfl

/-- The reading of a range that is not gated. -/
theorem readBytes_eq (s : State) (pa n : Nat) (h : s.gatedAt pa = false) : s.readBytes pa n = s.bytesAt pa n := by
  unfold State.readBytes State.bytesAt State.byte
  rw [if_neg (by simp [h]), Memory.read_eq]

theorem readAs_eq (s : State) (v : View) (pa n : Nat) (h : s.gatedAt pa = false) :
    s.readAs v pa n = s.bytesSeen v pa n := by
  unfold State.readAs
  split
  · rename_i hk
    rw [readBytes_eq s pa n h]
    unfold State.bytesAt State.bytesSeen
    apply List.map_congr_left
    intro i _
    simp [State.seen, State.keptAt, hk]
  · rw [readBytes_eq s pa n h]; exact layKept_eq s v pa n

theorem natAs_eq (s : State) (v : View) (pa n : Nat) (h : s.gatedAt pa = false) :
    s.natAs v pa n = leNat (s.bytesSeen v pa n) := by unfold State.natAs; rw [readAs_eq s v pa n h]

/-- Where a view keeps nothing it reads memory. -/
theorem seen_of_none (s : State) (v : View) (a : Nat) (h : s.keptAt v a = none) : s.seen v a = s.byte a := by
  unfold State.seen; rw [h]

/-! ## Writing -/

/-- One byte of memory after a write (02 R29). -/
theorem State.byte_writeBy (s : State) (w : Writer) (a : Nat) (bs : List Byte) (x : Nat) :
    (s.writeBy w a bs).byte x = if a ≤ x ∧ x < a + bs.length then bs.getD (x - a) unlistedByte else s.byte x :=
  Memory.get_write s.mem a bs x

theorem holdsBytes_writeBy (s : State) (w : Writer) (a : Nat) (bs : List Byte) : HoldsBytes (s.writeBy w a bs) a bs := by
  intro i b hb
  have hi : i < bs.length := (List.getElem?_eq_some_iff.mp hb).1
  rw [State.byte_writeBy, if_pos ⟨by omega, by omega⟩]
  simp only [show a + i - a = i by omega]
  rw [List.getD_eq_getElem?_getD, hb]; rfl

theorem sameBytesBut_writeBy (s : State) (w : Writer) (a : Nat) (bs : List Byte) :
    SameBytesBut s (s.writeBy w a bs) a bs.length := by
  intro x hx
  rw [State.byte_writeBy, if_neg (by omega)]

/-- A search by view and address passes a change that keeps them and depends on them alone whether it drops. -/
theorem find_filterMap (l : List Kept) (f : Kept → Option Kept) (v : View) (a : Nat)
    (hk : ∀ x y, f x = some y → y.view = x.view ∧ y.pa = x.pa)
    (hd : ∀ x y, x.view = y.view → x.pa = y.pa → f x = none → f y = none) :
    (l.filterMap f).find? (fun x => x.view == v && x.pa == a) = (l.find? fun x => x.view == v && x.pa == a).bind f := by
  induction l with
  | nil => rfl
  | cons x l ih =>
    by_cases h : x.view = v ∧ x.pa = a
    · rw [List.find?_cons_of_pos (by simp [h]), Option.bind_some]
      cases hx : f x with
      | some y =>
        have := hk x y hx
        rw [List.filterMap_cons_some hx, List.find?_cons_of_pos (by simp [this, h])]
      | none =>
        rw [List.filterMap_cons_none hx, ih]
        cases hy : l.find? fun x => x.view == v && x.pa == a with
        | none => rfl
        | some y =>
          have := List.find?_some hy
          simp only [Bool.and_eq_true, beq_iff_eq] at this
          exact hd x y (by rw [h.1, this.1]) (by rw [h.2, this.2]) hx
    · rw [List.find?_cons_of_neg (by simpa using h)]
      cases hx : f x with
      | none => rw [List.filterMap_cons_none hx, ih]
      | some y =>
        have := hk x y hx
        rw [List.filterMap_cons_some hx, List.find?_cons_of_neg (by simpa [this] using h), ih]

/-- What the views keep after a write. -/
theorem keptAfter_writeBy (s : State) (w : Writer) (a : Nat) (bs : List Byte) :
    KeptAfter s (s.writeBy w a bs) w a bs.length := by
  intro v x
  refine find_filterMap _ _ v x (fun p q h => ?_) fun p q hv hp h => ?_
  · unfold Kept.written at h
    split at h
    · split at h
      · cases h
      · cases h; exact ⟨rfl, rfl⟩
    · cases h; exact ⟨rfl, rfl⟩
  · unfold Kept.written at h ⊢
    rw [← hv, ← hp]
    split at h
    · split at h
      · rename_i h1 h2; simp [h1, h2]
      · cases h
    · cases h

/-- A writer reads what it has written. -/
theorem keptAt_own (s : State) (w : Writer) (a : Nat) (bs : List Byte) (x : Nat) (h : a ≤ x ∧ x < a + bs.length) :
    (s.writeBy w a bs).keptAt w.view x = none := by
  rw [keptAfter_writeBy]
  cases hk : s.keptAt w.view x with
  | none => rfl
  | some y =>
    have := List.find?_some hk
    simp only [Bool.and_eq_true, beq_iff_eq] at this
    simp [Kept.written, this, h]

/-- A home is a writer. -/
theorem keptAfter_writeBytes (s : State) (a : Nat) (bs : List Byte) :
    KeptAfter s (s.writeBytes a bs) .home a bs.length := keptAfter_writeBy s .home a bs

/-! ## Release points -/

/-- A release point releases what it says and nothing else. -/
theorem releases_release (s : State) (who : Writer → Bool) (at_ : Nat → Bool) :
    Releases s (s.release who at_) who at_ := by
  constructor
  · intro x hx hv ha
    have := (List.mem_filter.mp hx).2
    simpa [hv, ha] using this
  · intro x
    unfold State.release
    simp only [List.mem_filter, Bool.not_eq_true', Bool.and_eq_false_imp, Bool.and_eq_true, beq_iff_eq, not_and,
      Bool.not_eq_true, and_imp]

end Sys2Proof.Machine
end

