-- ==== Sys2Proof/Laws/Access.lean ====
section
/-! SUPPORT. What a trap, a CP load and a CP store can do, said once. -/

namespace Sys2Proof.Machine

open Sys2Proof

/-! ## Traps -/

theorem hs_setStatus_true (k : Core) : (k.setStatus 5 true).hs = true := by
  unfold Core.hs; rw [statusBit_setStatus _ _ _ _ (by omega), if_pos rfl]

@[simp] theorem core_clearIssue (s : State) (c d : Nat) : (s.clearIssue c).core d = s.core d := by
  unfold State.clearIssue; split <;> rfl

/-- Entering the handler saves the trap and leaves the registers (08 R183). -/
theorem enterHandler_facts (k : Core) (t : Trp) (pc slot : Nat) :
    let e := k.enterHandler t pc slot
    e = { k with
        trapCode := .ofNat 8 t.code.num, trapPc := .ofNat 32 pc, trapSlot := .ofNat 4 slot
        trapInfo := .ofNat 64 t.info, trapAddr := t.addr
        hidRep := k.rep, hidHold := k.hold.map Hold.afresh, hidSeg := k.segment.mode
        rep := none, hold := none, homeReq := false, pc := evenPc k.trapEntry
        stores := k.stores ++ k.segment.buffer
        segment := { k.segment with buffer := [], mode := false, closing := k.seg }
        status := e.status }
      ∧ e.hs = true ∧ e.seg = false ∧ ∀ b, b ≠ 5 → b ≠ 6 → e.statusBit b = k.statusBit b := by
  have key : ∀ b, (k.enterHandler t pc slot).statusBit b =
      if b = 5 then true else if b = 6 then false else k.statusBit b := by
    intro b
    have h : (k.enterHandler t pc slot).status = ((k.setStatus 6 false).setStatus 5 true).status := rfl
    unfold Core.statusBit; rw [h]
    show ((k.setStatus 6 false).setStatus 5 true).statusBit b = _
    rw [statusBit_setStatus _ _ _ _ (by omega), statusBit_setStatus _ _ _ _ (by omega)]
    rfl
  refine ⟨rfl, ?_, ?_, fun b h5 h6 => ?_⟩
  · exact key 5
  · exact key 6
  · rw [key, if_neg h5, if_neg h6]

/-- A trap of a core that may take it enters the handler (08 R183). -/
theorem takeTrap_enters (s : State) (c : Nat) (t : Trp) (pc slot : Nat) (h : (s.core c).handles) :
    EntersHandler s (s.takeTrap c t pc slot) c t.code (.ofNat 64 t.info) t.addr pc slot := by
  have hn : ¬((s.core c).hs = true ∨ (s.core c).trapEntry = 0xFFFFFFFF) := by
    rintro (h1 | h1)
    · simp [h.1] at h1
    · exact h.2 h1
  unfold State.takeTrap
  simp only [if_neg hn]
  refine ⟨?_, fun d hd => ?_, fun a => ?_, ?_⟩
  · unfold State.clearIssue; split <;> rfl
  · rw [core_clearIssue]; exact State.core_modCore_other s _ hd
  · unfold State.clearIssue; split <;> rfl
  · rw [core_clearIssue, State.core_modCore_same]
    exact enterHandler_facts _ t pc slot

/-- A trap other than UNCORR inside a segment is taken (08 R202). -/
theorem trapAt_eq (s : State) (c : Nat) (t : Trp) (pc slot : Nat) (hu : t.code ≠ .uncorr ∨ (s.core c).seg = false) :
    s.trapAt c t pc slot = s.takeTrap c t pc slot := by
  unfold State.trapAt State.rewindOrTrap
  rcases hu with hu | hu
  · rw [if_neg hu]
  · simp [hu]

/-- A precise trap of an op of the bundle in hand (08 R181). -/
theorem preciseTrap_enters (s : State) (t : Trp) (h : (s.core s.cur).handles)
    (hu : t.code ≠ .uncorr ∨ (s.core s.cur).seg = false) :
    EntersHandler s (s.preciseTrap t) s.cur t.code (.ofNat 64 t.info) t.addr s.iss.pcb s.iss.slot := by
  unfold State.preciseTrap
  rw [trapAt_eq s s.iss.core t _ _ hu]
  exact takeTrap_enters s s.cur t s.iss.pcb s.iss.slot h

/-! ## CP accesses -/

/-- Caching a translation changes the TLB of the core alone. -/
theorem noteTlb_cp (s : State) (c : Nat) (va : W64) :
    s.noteTlb c .cp va = s ∨ ∃ l : Core → List TlbEntry, s.noteTlb c .cp va = s.modCore c fun k => { k with tlb := l k } := by
  unfold State.noteTlb
  split
  · exact .inl rfl
  · split
    · exact .inl rfl
    · rename_i e _
      exact .inr ⟨fun k => fillTlb k.tlb tlbSize e, rfl⟩

/-- Whatever the TLB caches, only the table of cores and in it one core's TLB change. -/
theorem noteTlb_facts (s : State) (c : Nat) (va : W64) :
    s.noteTlb c .cp va = { s with cores := (s.noteTlb c .cp va).cores }
      ∧ (∀ d, d ≠ c → (s.noteTlb c .cp va).core d = s.core d)
      ∧ ∃ l, (s.noteTlb c .cp va).core c = { s.core c with tlb := l } := by
  rcases noteTlb_cp s c va with h | ⟨l, h⟩
  · rw [h]; exact ⟨rfl, fun _ _ => rfl, _, rfl⟩
  · rw [h]
    exact ⟨rfl, fun d hd => State.core_modCore_other s _ hd, _, State.core_modCore_same s c _⟩

/-- Own-scratchpad addresses are no peer window. -/
theorem region_of_inOwn (s : State) (c pa : Nat) (h : inOwn c pa = true) (p : Nat) : s.region pa ≠ .peer p := by
  unfold inOwn at h
  have hc : spCore pa = some c := by simpa using h
  unfold State.region
  split
  · simp only; split <;> simp
  · rw [hc]; simp only; split <;> simp

/-- A CP load from the own scratchpad: its value is in its registers, the mark and the class count remain. -/
theorem cpLoad_own (s : State) (va : W64) (log2 : Nat) (sgn : Bool) (dst : List Reg) (pa : Nat)
    (hr : s.reaches va (2 ^ log2) .read pa) (ho : inOwn s.cur pa = true)
    (hp : s.loadPoison s.cur pa (2 ^ log2) = none) (hg : s.gatedAt pa = false) :
    let t := s.cpLoad va log2 sgn dst
    OnlyCore s.cur s t ∧ ∃ l, t.core s.cur =
      ({ s.core s.cur with tlb := l }.writeLoad dst (2 ^ log2) sgn (leNat (s.bytesSeen .cp pa (2 ^ log2)))).addOut
        s.iss.seq .done (dst.filter (!·.fixed)) true := by
  have hl : s.loadCheck s.cur va log2 = .ok pa := by
    unfold State.loadCheck
    rw [if_neg (by simp [hr.1]), hr.2]
    simp only
    split
    · rename_i hx; exact absurd hx (region_of_inOwn s _ _ ho _)
    · rfl
  obtain ⟨h1, h2, l, h3⟩ := noteTlb_facts s s.cur va
  have hm : (s.noteTlb s.cur .cp va).cur = s.cur := by rw [h1]; rfl
  have e : s.cpLoad va log2 sgn dst = (s.noteTlb s.cur .cp va).modCur fun k =>
      (k.writeLoad dst (2 ^ log2) sgn ((s.noteTlb s.cur .cp va).natAs .cp pa (2 ^ log2))).addOut
        (s.noteTlb s.cur .cp va).iss.seq .done (dst.filter (!·.fixed)) true := by
    unfold State.cpLoad
    simp only [hl, hp, ho, if_true]
  have hb : (s.noteTlb s.cur .cp va).natAs .cp pa (2 ^ log2) = leNat (s.bytesSeen .cp pa (2 ^ log2)) := by
    rw [← natAs_eq s .cp pa _ hg, h1]; rfl
  have hi : (s.noteTlb s.cur .cp va).iss = s.iss := by rw [h1]
  intro t
  have o1 : OnlyCore s.cur s (s.noteTlb s.cur .cp va) := ⟨h1, h2, fun a => by rw [h1]; rfl⟩
  have o2 := onlyCore_modCur (s.noteTlb s.cur .cp va) fun k =>
      (k.writeLoad dst (2 ^ log2) sgn ((s.noteTlb s.cur .cp va).natAs .cp pa (2 ^ log2))).addOut
        (s.noteTlb s.cur .cp va).iss.seq .done (dst.filter (!·.fixed)) true
  rw [hm] at o2
  refine ⟨?_, l, ?_⟩
  · show OnlyCore _ _ (s.cpLoad va log2 sgn dst)
    rw [e]; exact onlyCore_trans o1 o2
  · show (s.cpLoad va log2 sgn dst).core _ = _
    rw [e, hb, hi, ← h3]
    have := core_modCur_cur (s.noteTlb s.cur .cp va) fun k =>
      (k.writeLoad dst (2 ^ log2) sgn (leNat (s.bytesSeen .cp pa (2 ^ log2)))).addOut
        s.iss.seq .done (dst.filter (!·.fixed)) true
    rw [hm] at this
    exact this

/-- A misaligned CP load, or one whose address does not resolve, takes its trap. -/
theorem cpLoad_trap (s : State) (va : W64) (log2 : Nat) (sgn : Bool) (dst : List Reg) (t : Trp)
    (h : s.loadCheck s.cur va log2 = .error t) : s.cpLoad va log2 sgn dst = s.preciseTrap t := by
  unfold State.cpLoad; simp only [h]

theorem cpStore_trap (s : State) (va : W64) (log2 : Nat) (bytes : List Byte) (t : Trp)
    (h : s.storeCheck s.cur va log2 = .error t) : s.cpStore va log2 bytes = s.preciseTrap t := by
  unfold State.cpStore; simp only [h]

/-- The checks of a store that is allowed pass. -/
theorem storeCheck_ok (s : State) (va : W64) (log2 pa : Nat) (h : s.storeReaches va (2 ^ log2) pa) :
    s.storeCheck s.cur va log2 = .ok pa := by
  obtain ⟨⟨h1, h2⟩, h3, h4, h5⟩ := h
  unfold State.storeCheck
  rw [if_neg (by simp [h1]), h2]
  simp only
  have h6 : (s.region pa).isPeer = false := by
    cases hr : s.region pa <;> simp [Region.isPeer]
    exact absurd hr (h3 _)
  have h7 : (s.armed.find? fun m => 16 * m < pa + 2 ^ log2 && pa < 16 * m + 16) = none := by
    rw [List.find?_eq_none]
    unfold State.overlapsArmed at h4
    rw [List.any_eq_false] at h4
    exact h4
  rw [if_neg (by simp [h6]), h7]
  simp [h5]

/-- A CP store to the own scratchpad is outstanding, inside a segment too (06 R131, 08 R200). -/
theorem cpStore_own (s : State) (va : W64) (log2 : Nat) (bytes : List Byte) (pa : Nat)
    (hr : s.storeReaches va (2 ^ log2) pa) (ho : inOwn s.cur pa = true) :
    let t := s.cpStore va log2 bytes
    OnlyCore s.cur s t
      ∧ t.core s.cur = { s.core s.cur with
          stores := (s.core s.cur).stores ++ [s.newStore va.toNat pa bytes []]
          nextId := (s.core s.cur).nextId + 1
          tlb := (t.core s.cur).tlb } := by
  obtain ⟨h1, h2, l, h3⟩ := noteTlb_facts s s.cur va
  have hm : (s.noteTlb s.cur .cp va).cur = s.cur := by rw [h1]; rfl
  have hi : (s.noteTlb s.cur .cp va).iss = s.iss := by rw [h1]
  have e : s.cpStore va log2 bytes = (s.noteTlb s.cur .cp va).modCur
      (·.addStore { id := 0, seq := s.iss.seq, va := va.toNat, pa := pa, bytes := bytes, performed := false
                    pc := 0 }) := by
    unfold State.cpStore
    simp only [storeCheck_ok s va log2 pa hr, ho, hi, Bool.not_true, Bool.and_false, Bool.false_eq_true, if_false]
  have o1 : OnlyCore s.cur s (s.noteTlb s.cur .cp va) := ⟨h1, h2, fun a => by rw [h1]; rfl⟩
  have o2 := onlyCore_modCur (s.noteTlb s.cur .cp va)
      (·.addStore { id := 0, seq := s.iss.seq, va := va.toNat, pa := pa, bytes := bytes, performed := false
                    pc := 0 })
  have c2 := core_modCur_cur (s.noteTlb s.cur .cp va)
      (·.addStore { id := 0, seq := s.iss.seq, va := va.toNat, pa := pa, bytes := bytes, performed := false
                    pc := 0 })
  rw [hm] at o2 c2
  intro t
  rw [show t = s.cpStore va log2 bytes from rfl, e]
  refine ⟨onlyCore_trans o1 o2, ?_⟩
  rw [c2, h3]; rfl

/-- A CP store elsewhere waits outstanding, or inside a segment in the store buffer (08 R200). -/
theorem cpStore_away (s : State) (va : W64) (log2 : Nat) (bytes : List Byte) (pa : Nat)
    (hr : s.storeReaches va (2 ^ log2) pa) (ho : inOwn s.cur pa = false) :
    let t := s.cpStore va log2 bytes
    OnlyCore s.cur s t
      ∧ t.core s.cur =
        (let k := s.core s.cur
         let x := s.newStore va.toNat pa bytes []
         if k.seg then { k with segment := { k.segment with buffer := k.segment.buffer ++ [x] }
                                nextId := k.nextId + 1, tlb := (t.core s.cur).tlb }
         else { k with stores := k.stores ++ [x], nextId := k.nextId + 1, tlb := (t.core s.cur).tlb }) := by
  obtain ⟨h1, h2, l, h3⟩ := noteTlb_facts s s.cur va
  have hck := storeCheck_ok s va log2 pa hr
  have hm : (s.noteTlb s.cur .cp va).cur = s.cur := by rw [h1]; rfl
  have hcur : (s.noteTlb s.cur .cp va).curCore = { s.core s.cur with tlb := l } := by
    show (s.noteTlb s.cur .cp va).core _ = _
    rw [← h3]; rw [show (s.noteTlb s.cur .cp va).iss.core = s.cur from hm]
  have hseg : (s.noteTlb s.cur .cp va).curCore.seg = (s.core s.cur).seg := by rw [hcur]; rfl
  have hi : (s.noteTlb s.cur .cp va).iss = s.iss := by rw [h1]
  have e : s.cpStore va log2 bytes =
      if (s.core s.cur).seg then (s.noteTlb s.cur .cp va).modCur
        (·.bufferStore { id := 0, seq := s.iss.seq, va := va.toNat, pa := pa, bytes := bytes
                         performed := false, pc := 0 })
      else (s.noteTlb s.cur .cp va).modCur
        (·.addStore { id := 0, seq := s.iss.seq, va := va.toNat, pa := pa, bytes := bytes
                      performed := false, pc := 0 }) := by
    unfold State.cpStore
    simp only [hck, ho, hseg, hi, Bool.not_false, Bool.and_true]
  have o1 : OnlyCore s.cur s (s.noteTlb s.cur .cp va) := ⟨h1, h2, fun a => by rw [h1]; rfl⟩
  intro t
  rw [show t = s.cpStore va log2 bytes from rfl, e]
  by_cases hs : (s.core s.cur).seg = true
  · simp only [hs, if_true]
    have o2 := onlyCore_modCur (s.noteTlb s.cur .cp va)
        (·.bufferStore { id := 0, seq := s.iss.seq, va := va.toNat, pa := pa, bytes := bytes
                         performed := false, pc := 0 })
    have c2 := core_modCur_cur (s.noteTlb s.cur .cp va)
        (·.bufferStore { id := 0, seq := s.iss.seq, va := va.toNat, pa := pa, bytes := bytes
                         performed := false, pc := 0 })
    rw [hm] at o2 c2
    refine ⟨onlyCore_trans o1 o2, ?_⟩
    rw [c2, h3]; rfl
  · simp only [hs]
    have o2 := onlyCore_modCur (s.noteTlb s.cur .cp va)
        (·.addStore { id := 0, seq := s.iss.seq, va := va.toNat, pa := pa, bytes := bytes
                      performed := false, pc := 0 })
    have c2 := core_modCur_cur (s.noteTlb s.cur .cp va)
        (·.addStore { id := 0, seq := s.iss.seq, va := va.toNat, pa := pa, bytes := bytes
                      performed := false, pc := 0 })
    rw [hm] at o2 c2
    refine ⟨onlyCore_trans o1 o2, ?_⟩
    rw [if_neg (by simp), if_neg (by simp), c2, h3]; rfl

end Sys2Proof.Machine
end

