-- ==== Sys2Proof/Laws/Device.lean ====
section
/-! SUPPORT. The parts of the device and of a core that stand in tables: what a read gives after each update, and
what the shared operations over them can do. -/

namespace Sys2Proof.Machine

open Sys2Proof

/-! ## Parts of the device -/

@[simp] theorem State.strait_setStrait (s : State) (i j : Nat) (x : Strait) :
    (s.setStrait i x).strait j = if j = i then x else s.strait j := Tab.get_put _ _ _ _ _

@[simp] theorem State.group_setGroup (s : State) (i j : Nat) (x : GroupEntry) :
    (s.setGroup i x).group j = if j = i then x else s.group j := Tab.get_put _ _ _ _ _

@[simp] theorem State.ticket_setTicket (s : State) (i j : Nat) (x : Ticket) :
    (s.setTicket i x).ticket j = if j = i then x else s.ticket j := Tab.get_put _ _ _ _ _

theorem State.slab_setSlab (s : State) (x c y d : Nat) (v : Slab) :
    (s.setSlab x c v).slab y d = if 4 * y + d = 4 * x + c then v else s.slab y d := Tab.get_put _ _ _ _ _

@[simp] theorem State.slab_setSlab_same (s : State) (x c : Nat) (v : Slab) : (s.setSlab x c v).slab x c = v :=
  Tab.get_put_same _ _ _ _

/-- Every core changed by a function that leaves a core at rest alone. -/
theorem State.core_mapCores (s : State) (f : Core → Core) (c : Nat) (h : f Core.reset = Core.reset) :
    (s.mapCores f).core c = f (s.core c) := by
  show Tab.get Core.reset (s.cores.map fun p => (p.1, f p.2)) c = f (Tab.get Core.reset s.cores c)
  generalize s.cores = l
  induction l with
  | nil => simp [h]
  | cons p t ih =>
    rw [List.map_cons, Tab.get_cons, Tab.get_cons, ih]
    split <;> rfl

/-- The same for a core that the table lists. -/
theorem State.core_mapCores_of_mem (s : State) (f : Core → Core) (p : Nat × Core) (hp : p ∈ s.cores) :
    (s.mapCores f).core p.1 = f (s.core p.1) := by
  show Tab.get Core.reset (s.cores.map fun p => (p.1, f p.2)) p.1 = f (Tab.get Core.reset s.cores p.1)
  revert hp
  generalize s.cores = l
  intro hp
  induction l with
  | nil => simp at hp
  | cons q t ih =>
    rw [List.map_cons, Tab.get_cons, Tab.get_cons]
    by_cases hq : q.1 = p.1
    · simp [hq]
    · have : p ∈ t := by
        rcases List.mem_cons.mp hp with h | h
        · exact absurd (by rw [h]) hq
        · exact h
      simp [hq, ih this]

/-- A fold that changes strait after strait. -/
theorem State.strait_fold (f : Strait → Strait) (l : List Nat) (hl : l.Nodup) (s : State) (j : Nat) :
    (l.foldl (fun t i => t.setStrait i (f (s.strait i))) s).strait j = if j ∈ l then f (s.strait j) else s.strait j := by
  suffices h : ∀ t : State, (l.foldl (fun t i => t.setStrait i (f (s.strait i))) t).strait j =
      if j ∈ l then f (s.strait j) else t.strait j from h s
  induction l with
  | nil => intro t; simp
  | cons i l ih =>
    intro t
    have hn := List.nodup_cons.mp hl
    rw [List.foldl_cons, ih hn.2, State.strait_setStrait]
    by_cases hj : j = i
    · subst hj; simp [hn.1]
    · simp [hj]

/-- Sixteen straits changed at once. -/
theorem State.strait_mapStraits (s : State) (f : Strait → Strait) (j : Nat) :
    (s.mapStraits f).strait j = if j < 16 then f (s.strait j) else s.strait j := by
  unfold State.mapStraits
  rw [State.strait_fold f _ List.nodup_range s j]
  simp

/-! ## Parts of a core -/

@[simp] theorem Core.chan_setChan (k : Core) (i j : Nat) (x : Channel) :
    (k.setChan i x).chan j = if j = i then x else k.chan j := Tab.get_put _ _ _ _ _

@[simp] theorem Core.gqueue_setGq (k : Core) (i j : Nat) (x : GQueue) :
    (k.setGq i x).gqueue j = if j = i then x else k.gqueue j := Tab.get_put _ _ _ _ _

@[simp] theorem Core.cbuf_setCb (k : Core) (i j : Nat) (x : CBuf) :
    (k.setCb i x).cbuf j = if j = i then x else k.cbuf j := Tab.get_put _ _ _ _ _

@[simp] theorem Core.accRow_setRow (k : Core) (i j : Nat) (x : AccRow) :
    (k.setRow i x).accRow j = if j = i then x else k.accRow j := Tab.get_put _ _ _ _ _

@[simp] theorem Core.sends_setSends (k : Core) (i j : Nat) (x : List SendOp) :
    (k.setSends i x).sends j = if j = i then x else k.sends j := Tab.get_put _ _ _ _ _

theorem Core.desc_setTag (k : Core) (i j : Nat) (v : Bool) :
    (k.setTag i v).desc j = if j = i then setFld (k.desc i) 81 1 (b2n v) else k.desc j := Tab.get_put _ _ _ _ _

/-! ## Answers of a home (17 R366) -/

/-- A home-decided op that its home answers: sd receives the answer. -/
theorem answers_of_answer {s t : State} {i : Instr} {sd : SR} {x : W64} {rest : State → Prop}
    (h : exec i s = s.answer sd (.ok (x, t))) (ht : t.cur = s.cur) (hc : ∀ c, t.core c = s.core c)
    (hr : ∀ f : Core → Core, rest (t.modCur f)) : Answers s i sd x rest := by
  refine ⟨t.dstS sd x, h, hr _, fun d hd => ?_, ?_, ?_⟩
  · rw [← hc d]; exact State.core_modCur_other _ _ (by rw [← ht] at hd; exact hd)
  · have := core_modCur_cur t (·.setS sd.toNat x)
    rw [ht, hc] at this
    show ScalarIs _ ((t.modCur (·.setS sd.toNat x)).core s.cur) sd x
    rw [this]; exact scalarIs_setS _ sd x
  · have := core_modCur_cur t (·.setS sd.toNat x)
    rw [ht, hc] at this
    show (t.modCur (·.setS sd.toNat x)).core s.cur = _
    rw [show (t.dstS sd x).core s.cur = _ from this]
    rw [this, Core.setS_eq]

/-- A home-decided op that its home refuses: a precise trap (08 R434). -/
theorem traps_of_answer {s : State} {i : Instr} {sd : SR} {t : Trp} (h : exec i s = s.answer sd (.error t))
    (hk : (s.core s.cur).handles) (hu : t.code ≠ .uncorr ∨ (s.core s.cur).seg = false) :
    TrapsPrecisely s i t.code (.ofNat 64 t.info) t.addr :=
  ⟨_, h, preciseTrap_enters s t hk hu⟩

/-! ## Bytes of memory -/

/-- A write of bytes puts them there. -/
theorem holdsBytes_writeBytes (s : State) (a : Nat) (bs : List Byte) : HoldsBytes (s.writeBytes a bs) a bs := by
  intro i b hb
  have hi : i < bs.length := (List.getElem?_eq_some_iff.mp hb).1
  rw [State.byte_writeBytes, if_pos ⟨by omega, by omega⟩]
  simp only [show a + i - a = i by omega]
  rw [List.getD_eq_getElem?_getD, hb]; rfl

/-- It leaves every other byte alone. -/
theorem sameBytesBut_writeBytes (s : State) (a : Nat) (bs : List Byte) :
    SameBytesBut s (s.writeBytes a bs) a bs.length := by
  intro x hx
  rw [State.byte_writeBytes, if_neg (by omega)]

/-- A change of cores moves no byte. -/
theorem holdsBytes_congr {s t : State} {a : Nat} {bs : List Byte} (h : t.mem = s.mem) (hs : HoldsBytes s a bs) :
    HoldsBytes t a bs := by
  intro i b hb
  rw [← hs i b hb]; unfold State.byte; rw [h]

/-! ## Requests of the host (21 R431) -/

theorem serve_not_taken (s : State) (r : HostReq) (opc : Nat) (ctx : Bool) (f : State → Except Nat (List Byte × State))
    (h : s.takesRequest r = false) : s.serve r opc ctx f = .next s := by simp [State.serve, h]

theorem serve_bad (s : State) (r : HostReq) (opc : Nat) (ctx : Bool) (f : State → Except Nat (List Byte × State))
    (h : s.takesRequest r = true) (hb : r.bad opc = true) : s.serve r opc ctx f = .next (s.respond r 1 []) := by
  simp [State.serve, h, hb]

theorem serve_noContext (s : State) (r : HostReq) (opc : Nat) (f : State → Except Nat (List Byte × State))
    (h : s.takesRequest r = true) (hb : r.bad opc = false) (hc : s.resident r.ctx = false) :
    s.serve r opc true f = .next (s.respond r 7 []) := by simp [State.serve, h, hb, hc]

/-- A request that is taken is answered with what its service gives. -/
theorem serve_served (s : State) (r : HostReq) (opc : Nat) (ctx : Bool) (f : State → Except Nat (List Byte × State))
    (h : s.takesRequest r = true) (hb : r.bad opc = false) (hc : ctx = true → s.resident r.ctx = true) :
    s.serve r opc ctx f = match f s with
      | .error e => .next (s.respond r e [])
      | .ok (payload, t) => .next (t.respond r 0 payload) := by
  unfold State.serve
  refine (if_neg (by simp [h])).trans ((if_neg (by simp [hb])).trans ((if_neg (by cases ctx <;> simp_all)).trans ?_))
  cases f s <;> rfl

end Sys2Proof.Machine
end

