-- ==== Sys2Proof/Laws/Encoding.lean ====
section
/-! SUPPORT. Fields of a word: unpacking what has been packed, and the decoding of a packed op. -/

namespace Sys2Proof

theorem pack_lt (r : List (Nat × Nat)) (h : ∀ q ∈ r, q.2 < 2 ^ q.1) : pack r < 2 ^ (r.map Prod.fst).sum := by
  induction r with
  | nil => simp [pack]
  | cons q r ih =>
    obtain ⟨a, b⟩ := q
    have hb : b < 2 ^ a := h (a, b) (by simp)
    have := ih (fun q hq => h q (by simp [hq]))
    simp only [pack, List.map_cons, List.sum_cons, Nat.pow_add]
    calc b * 2 ^ (r.map Prod.fst).sum + pack r < (b + 1) * 2 ^ (r.map Prod.fst).sum := by
          rw [Nat.add_mul]; omega
      _ ≤ 2 ^ a * 2 ^ (r.map Prod.fst).sum := Nat.mul_le_mul_right _ hb

/-- The fields of a packed word, whatever stands above it. -/
theorem unpack_pack (r : List (Nat × Nat)) (h : ∀ q ∈ r, q.2 < 2 ^ q.1) (x : Nat) :
    unpack (r.map Prod.fst) (x * 2 ^ (r.map Prod.fst).sum + pack r) = r.map Prod.snd := by
  induction r generalizing x with
  | nil => rfl
  | cons q r ih =>
    obtain ⟨w, v⟩ := q
    have hv : v < 2 ^ w := h (w, v) (by simp)
    have hr : ∀ q ∈ r, q.2 < 2 ^ q.1 := fun q hq => h q (by simp [hq])
    have hp := pack_lt r hr
    simp only [List.map_cons, List.sum_cons, unpack, pack]
    have e : x * 2 ^ (w + (r.map Prod.fst).sum) + (v * 2 ^ (r.map Prod.fst).sum + pack r)
        = (x * 2 ^ w + v) * 2 ^ (r.map Prod.fst).sum + pack r := by rw [Nat.pow_add]; ring
    rw [e, ih hr]
    congr 1
    rw [Nat.add_comm _ (pack r), Nat.add_mul_div_right _ _ (by positivity), Nat.div_eq_of_lt hp, Nat.zero_add,
      Nat.mul_comm x, Nat.mul_add_mod, Nat.mod_eq_of_lt hv]

/-- A packed op decodes to the instruction that its row builds from its fields. -/
theorem decode_pack (cls : SlotClass) (pg : BitVec 5) (op : Nat) (r : List (Nat × Nat)) (row : Row) (i : Instr)
    (hg : pg ≠ 16) (ho : op < 128) (hr : ∀ q ∈ r, q.2 < 2 ^ q.1) (hs : (r.map Prod.fst).sum = 35)
    (hf : (opcodeMap cls).find? (fun x => x.op == op) = some row) (hl : row.lay = r.map Prod.fst)
    (hb : row.build (r.map Prod.snd) = some i) (hw : i.wellFormed = true) :
    decodeOp cls (pack ((7, op) :: (5, pg.toNat) :: r)) = .ok (pg, i) := by
  have hp := pack_lt r hr
  rw [hs] at hp
  have e : pack ((7, op) :: (5, pg.toNat) :: r) = (op * 2 ^ 5 + pg.toNat) * 2 ^ 35 + pack r := by
    simp only [pack, List.map_cons, List.sum_cons, hs]; omega
  have h5 := pg.isLt
  have e1 : pack ((7, op) :: (5, pg.toNat) :: r) / 2 ^ 40 % 128 = op := by rw [e]; omega
  have e2 : pack ((7, op) :: (5, pg.toNat) :: r) / 2 ^ 35 % 32 = pg.toNat := by rw [e]; omega
  have e3 : unpack row.lay (pack ((7, op) :: (5, pg.toNat) :: r)) = r.map Prod.snd := by
    have := unpack_pack r hr (op * 2 ^ 5 + pg.toNat)
    rw [hs] at this
    rw [hl, e, this]
  have hg' : pg.toNat ≠ 16 := fun h => hg (BitVec.eq_of_toNat_eq h)
  have e4 : BitVec.ofNat 5 (pack ((7, op) :: (5, pg.toNat) :: r) / 2 ^ 35) = pg := by
    apply BitVec.eq_of_toNat_eq; rw [BitVec.toNat_ofNat]; exact e2
  unfold decodeOp
  simp only [e1, e2, e3, e4, hf, hb, hw, hg', if_false, if_true]

end Sys2Proof
end

