-- ==== Sys2Proof/Laws/PerInstr.lean ====
section
/-! SUPPORT. Per instruction: its word decodes to it (05 R109, R119 to R124, 12 R294). -/

namespace Sys2Proof.Laws

/-- The word of a slot op under any guard decodes to it in its slot class, and the word of a micro-op to that
micro-op; an instruction that is neither has no word. -/
def RoundTrip.Statement (i : Instr) : Prop :=
  i.wellFormed = true →
    (∀ (pg : BitVec 5) (cls : SlotClass) (op : Nat) (r : List (Nat × Nat)), pg ≠ 16 →
      opFields i = some (cls, op, r) → decodeOp cls (encodeOp pg i) = .ok (pg, i))
    ∧ (∀ r, microFields i = some r → decodeMicro (encodeMicro i) = some i)

theorem bit_lt (b : Bool) : b.toNat < 2 := by cases b <;> decide

/-- An instruction without a word. -/
theorem roundTrip_none {i : Instr} (h1 : opFields i = none) (h2 : microFields i = none) : RoundTrip.Statement i :=
  fun _ => ⟨fun _ _ _ _ _ h => by simp [h1] at h, fun _ h => by simp [h2] at h⟩

/-- A slot op, from its row of the opcode map. -/
theorem roundTrip_slot {i : Instr} {cls : SlotClass} {op : Nat} {r : List (Nat × Nat)} {row : Row}
    (hi : opFields i = some (cls, op, r)) (hm : microFields i = none) (ho : op < 128)
    (hf : (opcodeMap cls).find? (fun x => x.op == op) = some row) (hl : row.lay = r.map Prod.fst)
    (hs : (r.map Prod.fst).sum = 35) (hr : ∀ q ∈ r, q.2 < 2 ^ q.1) (hb : i.wellFormed = true → row.build (r.map Prod.snd) = some i) :
    RoundTrip.Statement i := by
  refine fun hw => ⟨fun pg cls' op' r' hg h => ?_, fun _ h => by simp [hm] at h⟩
  rw [hi] at h
  obtain ⟨rfl, rfl, rfl⟩ : cls = cls' ∧ op = op' ∧ r = r' := by simpa using h
  have e : encodeOp pg i = pack ((7, op) :: (5, pg.toNat) :: r) := by simp [encodeOp, hi]
  rw [e]
  exact decode_pack cls pg op r row i hg ho hr hs hf hl (hb hw) hw

/-- A micro-op, from its fields. -/
theorem roundTrip_micro {i : Instr} {r : List (Nat × Nat)} (hi : opFields i = none) (hm : microFields i = some r)
    (hr : ∀ q ∈ r, q.2 < 2 ^ q.1) (hl : r.map Prod.fst = [4, 3, 3, 6, 48])
    (hb : ∀ w, unpack [4, 3, 3, 6, 48] w = r.map Prod.snd → decodeMicro w = some i) : RoundTrip.Statement i := by
  refine fun _ => ⟨fun _ _ _ _ _ h => by simp [hi] at h, fun _ _ => hb _ ?_⟩
  have := unpack_pack r hr 0
  simpa [encodeMicro, hm, hl] using this

theorem RoundTrip.deviceReset : RoundTrip.Statement (.deviceReset) :=
  roundTrip_none rfl rfl
theorem RoundTrip.bringupStage2 : RoundTrip.Statement (.bringupStage2) :=
  roundTrip_none rfl rfl
theorem RoundTrip.bringupStage3 (ok : Bool) (find : BringUpFind) : RoundTrip.Statement (.bringupStage3 ok find) :=
  roundTrip_none rfl rfl
theorem RoundTrip.bringupStage4 : RoundTrip.Statement (.bringupStage4) :=
  roundTrip_none rfl rfl
theorem RoundTrip.heartbeatTick : RoundTrip.Statement (.heartbeatTick) :=
  roundTrip_none rfl rfl
theorem RoundTrip.bundleFetch (core : Nat) : RoundTrip.Statement (.bundleFetch core) :=
  roundTrip_none rfl rfl
theorem RoundTrip.queuedOpDepart (core queue : Nat) : RoundTrip.Statement (.queuedOpDepart core queue) :=
  roundTrip_none rfl rfl
theorem RoundTrip.loadReturn (core k : Nat) : RoundTrip.Statement (.loadReturn core k) :=
  roundTrip_none rfl rfl
theorem RoundTrip.storePerform (core k : Nat) : RoundTrip.Statement (.storePerform core k) :=
  roundTrip_none rfl rfl
theorem RoundTrip.homeAnswer (core : Nat) : RoundTrip.Statement (.homeAnswer core) :=
  roundTrip_none rfl rfl
theorem RoundTrip.syncHoldRelease (core : Nat) : RoundTrip.Statement (.syncHoldRelease core) :=
  roundTrip_none rfl rfl
theorem RoundTrip.lockstepMismatch (core : Nat) (egress : Egress) : RoundTrip.Statement (.lockstepMismatch core egress) :=
  roundTrip_none rfl rfl
theorem RoundTrip.nop : RoundTrip.Statement (.nop) :=
  roundTrip_slot rfl rfl (by decide) rfl rfl rfl (by simp) (fun _ => by simp)
theorem RoundTrip.add (sd sa sb : SR) : RoundTrip.Statement (.add sd sa sb) :=
  roundTrip_slot rfl rfl (by decide) rfl rfl rfl (by simp; omega) (fun _ => by simp)
theorem RoundTrip.sub (sd sa sb : SR) : RoundTrip.Statement (.sub sd sa sb) :=
  roundTrip_slot rfl rfl (by decide) rfl rfl rfl (by simp; omega) (fun _ => by simp)
theorem RoundTrip.mul (sd sa sb : SR) : RoundTrip.Statement (.mul sd sa sb) :=
  roundTrip_slot rfl rfl (by decide) rfl rfl rfl (by simp; omega) (fun _ => by simp)
theorem RoundTrip.mulh (sd sa sb : SR) : RoundTrip.Statement (.mulh sd sa sb) :=
  roundTrip_slot rfl rfl (by decide) rfl rfl rfl (by simp; omega) (fun _ => by simp)
theorem RoundTrip.mulhu (sd sa sb : SR) : RoundTrip.Statement (.mulhu sd sa sb) :=
  roundTrip_slot rfl rfl (by decide) rfl rfl rfl (by simp; omega) (fun _ => by simp)
theorem RoundTrip.div (sd sa sb : SR) : RoundTrip.Statement (.div sd sa sb) :=
  roundTrip_slot rfl rfl (by decide) rfl rfl rfl (by simp; omega) (fun _ => by simp)
theorem RoundTrip.divu (sd sa sb : SR) : RoundTrip.Statement (.divu sd sa sb) :=
  roundTrip_slot rfl rfl (by decide) rfl rfl rfl (by simp; omega) (fun _ => by simp)
theorem RoundTrip.rem (sd sa sb : SR) : RoundTrip.Statement (.rem sd sa sb) :=
  roundTrip_slot rfl rfl (by decide) rfl rfl rfl (by simp; omega) (fun _ => by simp)
theorem RoundTrip.remu (sd sa sb : SR) : RoundTrip.Statement (.remu sd sa sb) :=
  roundTrip_slot rfl rfl (by decide) rfl rfl rfl (by simp; omega) (fun _ => by simp)
theorem RoundTrip.and (sd sa sb : SR) : RoundTrip.Statement (.and sd sa sb) :=
  roundTrip_slot rfl rfl (by decide) rfl rfl rfl (by simp; omega) (fun _ => by simp)
theorem RoundTrip.or (sd sa sb : SR) : RoundTrip.Statement (.or sd sa sb) :=
  roundTrip_slot rfl rfl (by decide) rfl rfl rfl (by simp; omega) (fun _ => by simp)
theorem RoundTrip.xor (sd sa sb : SR) : RoundTrip.Statement (.xor sd sa sb) :=
  roundTrip_slot rfl rfl (by decide) rfl rfl rfl (by simp; omega) (fun _ => by simp)
theorem RoundTrip.shl (sd sa sb : SR) : RoundTrip.Statement (.shl sd sa sb) :=
  roundTrip_slot rfl rfl (by decide) rfl rfl rfl (by simp; omega) (fun _ => by simp)
theorem RoundTrip.shr (sd sa sb : SR) : RoundTrip.Statement (.shr sd sa sb) :=
  roundTrip_slot rfl rfl (by decide) rfl rfl rfl (by simp; omega) (fun _ => by simp)
theorem RoundTrip.sar (sd sa sb : SR) : RoundTrip.Statement (.sar sd sa sb) :=
  roundTrip_slot rfl rfl (by decide) rfl rfl rfl (by simp; omega) (fun _ => by simp)
theorem RoundTrip.min (sd sa sb : SR) : RoundTrip.Statement (.min sd sa sb) :=
  roundTrip_slot rfl rfl (by decide) rfl rfl rfl (by simp; omega) (fun _ => by simp)
theorem RoundTrip.max (sd sa sb : SR) : RoundTrip.Statement (.max sd sa sb) :=
  roundTrip_slot rfl rfl (by decide) rfl rfl rfl (by simp; omega) (fun _ => by simp)
theorem RoundTrip.minu (sd sa sb : SR) : RoundTrip.Statement (.minu sd sa sb) :=
  roundTrip_slot rfl rfl (by decide) rfl rfl rfl (by simp; omega) (fun _ => by simp)
theorem RoundTrip.maxu (sd sa sb : SR) : RoundTrip.Statement (.maxu sd sa sb) :=
  roundTrip_slot rfl rfl (by decide) rfl rfl rfl (by simp; omega) (fun _ => by simp)
theorem RoundTrip.seq (sd sa sb : SR) : RoundTrip.Statement (.seq sd sa sb) :=
  roundTrip_slot rfl rfl (by decide) rfl rfl rfl (by simp; omega) (fun _ => by simp)
theorem RoundTrip.slt (sd sa sb : SR) : RoundTrip.Statement (.slt sd sa sb) :=
  roundTrip_slot rfl rfl (by decide) rfl rfl rfl (by simp; omega) (fun _ => by simp)
theorem RoundTrip.sltu (sd sa sb : SR) : RoundTrip.Statement (.sltu sd sa sb) :=
  roundTrip_slot rfl rfl (by decide) rfl rfl rfl (by simp; omega) (fun _ => by simp)
theorem RoundTrip.sel (sd sa sb : SR) (inv : Bool) (pn : PR) : RoundTrip.Statement (.sel sd sa sb inv pn) :=
  roundTrip_slot rfl rfl (by decide) rfl rfl rfl (by have := bit_lt inv; simp; omega) (fun _ => by simp)
theorem RoundTrip.clz (sd sa : SR) : RoundTrip.Statement (.clz sd sa) :=
  roundTrip_slot rfl rfl (by decide) rfl rfl rfl (by simp; omega) (fun _ => by simp)
theorem RoundTrip.ctz (sd sa : SR) : RoundTrip.Statement (.ctz sd sa) :=
  roundTrip_slot rfl rfl (by decide) rfl rfl rfl (by simp; omega) (fun _ => by simp)
theorem RoundTrip.popc (sd sa : SR) : RoundTrip.Statement (.popc sd sa) :=
  roundTrip_slot rfl rfl (by decide) rfl rfl rfl (by simp; omega) (fun _ => by simp)
theorem RoundTrip.addi (sd sa : SR) (imm : BitVec 23) : RoundTrip.Statement (.addi sd sa imm) :=
  roundTrip_slot rfl rfl (by decide) rfl rfl rfl (by simp; omega) (fun _ => by simp)
theorem RoundTrip.andi (sd sa : SR) (imm : BitVec 23) : RoundTrip.Statement (.andi sd sa imm) :=
  roundTrip_slot rfl rfl (by decide) rfl rfl rfl (by simp; omega) (fun _ => by simp)
theorem RoundTrip.ori (sd sa : SR) (imm : BitVec 23) : RoundTrip.Statement (.ori sd sa imm) :=
  roundTrip_slot rfl rfl (by decide) rfl rfl rfl (by simp; omega) (fun _ => by simp)
theorem RoundTrip.xori (sd sa : SR) (imm : BitVec 23) : RoundTrip.Statement (.xori sd sa imm) :=
  roundTrip_slot rfl rfl (by decide) rfl rfl rfl (by simp; omega) (fun _ => by simp)
theorem RoundTrip.shli (sd sa : SR) (count : BitVec 6) : RoundTrip.Statement (.shli sd sa count) :=
  roundTrip_slot rfl rfl (by decide) rfl rfl rfl (by simp; omega) (fun _ => by simp)
theorem RoundTrip.shri (sd sa : SR) (count : BitVec 6) : RoundTrip.Statement (.shri sd sa count) :=
  roundTrip_slot rfl rfl (by decide) rfl rfl rfl (by simp; omega) (fun _ => by simp)
theorem RoundTrip.sari (sd sa : SR) (count : BitVec 6) : RoundTrip.Statement (.sari sd sa count) :=
  roundTrip_slot rfl rfl (by decide) rfl rfl rfl (by simp; omega) (fun _ => by simp)
theorem RoundTrip.slti (sd sa : SR) (imm : BitVec 23) : RoundTrip.Statement (.slti sd sa imm) :=
  roundTrip_slot rfl rfl (by decide) rfl rfl rfl (by simp; omega) (fun _ => by simp)
theorem RoundTrip.sltui (sd sa : SR) (imm : BitVec 23) : RoundTrip.Statement (.sltui sd sa imm) :=
  roundTrip_slot rfl rfl (by decide) rfl rfl rfl (by simp; omega) (fun _ => by simp)
theorem RoundTrip.li (sd : SR) (imm : BitVec 23) : RoundTrip.Statement (.li sd imm) :=
  roundTrip_slot rfl rfl (by decide) rfl rfl rfl (by simp; omega) (fun _ => by simp)
theorem RoundTrip.lix (sd sa : SR) (imm : BitVec 23) : RoundTrip.Statement (.lix sd sa imm) :=
  roundTrip_slot rfl rfl (by decide) rfl rfl rfl (by simp; omega) (fun _ => by simp)
theorem RoundTrip.pset (pd : PR) (sa sb : SR) (cond : BitVec 3) : RoundTrip.Statement (.pset pd sa sb cond) :=
  roundTrip_slot rfl rfl (by decide) rfl rfl rfl (by simp; omega) (fun _ => by simp)
theorem RoundTrip.pseti (pd : PR) (sa : SR) (cond : BitVec 3) (imm : BitVec 20) : RoundTrip.Statement (.pseti pd sa cond imm) :=
  roundTrip_slot rfl rfl (by decide) rfl rfl rfl (by simp; omega) (fun _ => by simp)
theorem RoundTrip.plog (pd pa pb : PR) (op : BitVec 2) : RoundTrip.Statement (.plog pd pa pb op) :=
  roundTrip_slot rfl rfl (by decide) rfl rfl rfl (by simp; omega) (fun _ => by simp)
theorem RoundTrip.pwr (sa : SR) (mask : BitVec 16) : RoundTrip.Statement (.pwr sa mask) :=
  roundTrip_slot rfl rfl (by decide) rfl rfl rfl (by simp; omega) (fun _ => by simp)
theorem RoundTrip.prd (sd : SR) : RoundTrip.Statement (.prd sd) :=
  roundTrip_slot rfl rfl (by decide) rfl rfl rfl (by simp; omega) (fun _ => by simp)
theorem RoundTrip.ldB (sd sa : SR) (off : BitVec 23) : RoundTrip.Statement (.ldB sd sa off) :=
  roundTrip_slot rfl rfl (by decide) rfl rfl rfl (by simp; omega) (fun _ => by simp)
theorem RoundTrip.ldH (sd sa : SR) (off : BitVec 23) : RoundTrip.Statement (.ldH sd sa off) :=
  roundTrip_slot rfl rfl (by decide) rfl rfl rfl (by simp; omega) (fun _ => by simp)
theorem RoundTrip.ldW (sd sa : SR) (off : BitVec 23) : RoundTrip.Statement (.ldW sd sa off) :=
  roundTrip_slot rfl rfl (by decide) rfl rfl rfl (by simp; omega) (fun _ => by simp)
theorem RoundTrip.ldD (sd sa : SR) (off : BitVec 23) : RoundTrip.Statement (.ldD sd sa off) :=
  roundTrip_slot rfl rfl (by decide) rfl rfl rfl (by simp; omega) (fun _ => by simp)
theorem RoundTrip.ldBu (sd sa : SR) (off : BitVec 23) : RoundTrip.Statement (.ldBu sd sa off) :=
  roundTrip_slot rfl rfl (by decide) rfl rfl rfl (by simp; omega) (fun _ => by simp)
theorem RoundTrip.ldHu (sd sa : SR) (off : BitVec 23) : RoundTrip.Statement (.ldHu sd sa off) :=
  roundTrip_slot rfl rfl (by decide) rfl rfl rfl (by simp; omega) (fun _ => by simp)
theorem RoundTrip.ldWu (sd sa : SR) (off : BitVec 23) : RoundTrip.Statement (.ldWu sd sa off) :=
  roundTrip_slot rfl rfl (by decide) rfl rfl rfl (by simp; omega) (fun _ => by simp)
theorem RoundTrip.ldQ (sd sa : SR) (off : BitVec 23) : RoundTrip.Statement (.ldQ sd sa off) :=
  roundTrip_slot rfl rfl (by decide) rfl rfl rfl (by simp; omega) (fun _ => by simp)
theorem RoundTrip.stB (ss sa : SR) (off : BitVec 23) : RoundTrip.Statement (.stB ss sa off) :=
  roundTrip_slot rfl rfl (by decide) rfl rfl rfl (by simp; omega) (fun _ => by simp)
theorem RoundTrip.stH (ss sa : SR) (off : BitVec 23) : RoundTrip.Statement (.stH ss sa off) :=
  roundTrip_slot rfl rfl (by decide) rfl rfl rfl (by simp; omega) (fun _ => by simp)
theorem RoundTrip.stW (ss sa : SR) (off : BitVec 23) : RoundTrip.Statement (.stW ss sa off) :=
  roundTrip_slot rfl rfl (by decide) rfl rfl rfl (by simp; omega) (fun _ => by simp)
theorem RoundTrip.stD (ss sa : SR) (off : BitVec 23) : RoundTrip.Statement (.stD ss sa off) :=
  roundTrip_slot rfl rfl (by decide) rfl rfl rfl (by simp; omega) (fun _ => by simp)
theorem RoundTrip.stQ (ss sa : SR) (off : BitVec 23) : RoundTrip.Statement (.stQ ss sa off) :=
  roundTrip_slot rfl rfl (by decide) rfl rfl rfl (by simp; omega) (fun _ => by simp)
theorem RoundTrip.splLd (sd : SR) (slot : BitVec 10) : RoundTrip.Statement (.splLd sd slot) :=
  roundTrip_slot rfl rfl (by decide) rfl rfl rfl (by simp; omega) (fun _ => by simp)
theorem RoundTrip.splSt (ss : SR) (slot : BitVec 10) : RoundTrip.Statement (.splSt ss slot) :=
  roundTrip_slot rfl rfl (by decide) rfl rfl rfl (by simp; omega) (fun _ => by simp)
theorem RoundTrip.amo (sd sa sb : SR) (width : BitVec 2) (op : BitVec 4) : RoundTrip.Statement (.amo sd sa sb width op) :=
  roundTrip_slot rfl rfl (by decide) rfl rfl rfl (by simp; omega) (fun _ => by simp)
theorem RoundTrip.cas (sd sa sb : SR) (width : BitVec 2) : RoundTrip.Statement (.cas sd sa sb width) :=
  roundTrip_slot rfl rfl (by decide) rfl rfl rfl (by simp; omega) (fun _ => by simp)
theorem RoundTrip.tkGet (sd sa : SR) (n : BitVec 8) : RoundTrip.Statement (.tkGet sd sa n) :=
  roundTrip_slot rfl rfl (by decide) rfl rfl rfl (by simp; omega) (fun _ => by simp)
theorem RoundTrip.tkNext (sd sa : SR) (n : BitVec 8) : RoundTrip.Statement (.tkNext sd sa n) :=
  roundTrip_slot rfl rfl (by decide) rfl rfl rfl (by simp; omega) (fun _ => by simp)
theorem RoundTrip.sqInit (sd sa : SR) : RoundTrip.Statement (.sqInit sd sa) :=
  roundTrip_slot rfl rfl (by decide) rfl rfl rfl (by simp; omega) (fun _ => by simp)
theorem RoundTrip.sqRes (sd sa sb : SR) : RoundTrip.Statement (.sqRes sd sa sb) :=
  roundTrip_slot rfl rfl (by decide) rfl rfl rfl (by simp; omega) (fun _ => by simp)
theorem RoundTrip.sqCmt (sd sa sb : SR) : RoundTrip.Statement (.sqCmt sd sa sb) :=
  roundTrip_slot rfl rfl (by decide) rfl rfl rfl (by simp; omega) (fun _ => by simp)
theorem RoundTrip.sqRet (sd sa sb : SR) : RoundTrip.Statement (.sqRet sd sa sb) :=
  roundTrip_slot rfl rfl (by decide) rfl rfl rfl (by simp; omega) (fun _ => by simp)
theorem RoundTrip.sqLen (sd sa : SR) : RoundTrip.Statement (.sqLen sd sa) :=
  roundTrip_slot rfl rfl (by decide) rfl rfl rfl (by simp; omega) (fun _ => by simp)
theorem RoundTrip.sqLenCl (sd : SR) (n : BitVec 3) : RoundTrip.Statement (.sqLenCl sd n) :=
  roundTrip_slot rfl rfl (by decide) rfl rfl rfl (by simp; omega) (fun _ => by simp)
theorem RoundTrip.sqFork (sd sa sb : SR) : RoundTrip.Statement (.sqFork sd sa sb) :=
  roundTrip_slot rfl rfl (by decide) rfl rfl rfl (by simp; omega) (fun _ => by simp)
theorem RoundTrip.sqDrop (sd sa : SR) : RoundTrip.Statement (.sqDrop sd sa) :=
  roundTrip_slot rfl rfl (by decide) rfl rfl rfl (by simp; omega) (fun _ => by simp)
theorem RoundTrip.sqGrow (sd sa sb : SR) : RoundTrip.Statement (.sqGrow sd sa sb) :=
  roundTrip_slot rfl rfl (by decide) rfl rfl rfl (by simp; omega) (fun _ => by simp)
theorem RoundTrip.sqBind (sa : SR) (n : BitVec 3) : RoundTrip.Statement (.sqBind sa n) :=
  roundTrip_slot rfl rfl (by decide) rfl rfl rfl (by simp; omega) (fun _ => by simp)
theorem RoundTrip.sqBindClr (n : BitVec 3) : RoundTrip.Statement (.sqBindClr n) :=
  roundTrip_slot rfl rfl (by decide) rfl rfl rfl (by simp; omega) (fun _ => by simp)
theorem RoundTrip.sqAddr (sd sa sb : SR) : RoundTrip.Statement (.sqAddr sd sa sb) :=
  roundTrip_slot rfl rfl (by decide) rfl rfl rfl (by simp; omega) (fun _ => by simp)
theorem RoundTrip.br (off : BitVec 35) : RoundTrip.Statement (.br off) :=
  roundTrip_slot rfl rfl (by decide) rfl rfl rfl (by simp; omega) (fun _ => by simp)
theorem RoundTrip.brLoop (cnt : SR) (stages : BitVec 4) (off : BitVec 25) : RoundTrip.Statement (.brLoop cnt stages off) :=
  roundTrip_slot rfl rfl (by decide) rfl rfl rfl (by simp; omega) (fun _ => by simp)
theorem RoundTrip.call (off : BitVec 35) : RoundTrip.Statement (.call off) :=
  roundTrip_slot rfl rfl (by decide) rfl rfl rfl (by simp; omega) (fun _ => by simp)
theorem RoundTrip.ret (sa : SR) : RoundTrip.Statement (.ret sa) :=
  roundTrip_slot rfl rfl (by decide) rfl rfl rfl (by simp; omega) (fun _ => by simp)
theorem RoundTrip.jr (sd sa : SR) : RoundTrip.Statement (.jr sd sa) :=
  roundTrip_slot rfl rfl (by decide) rfl rfl rfl (by simp; omega) (fun _ => by simp)
theorem RoundTrip.rep (cnt : SR) (b1 : BitVec 4) (off : BitVec 25) : RoundTrip.Statement (.rep cnt b1 off) :=
  roundTrip_slot rfl rfl (by decide) rfl rfl rfl (by simp; omega) (fun _ => by simp)
theorem RoundTrip.lbPin (n1 : SR) (off : BitVec 25) : RoundTrip.Statement (.lbPin n1 off) :=
  roundTrip_slot rfl rfl (by decide) rfl rfl rfl (by simp; omega) (fun _ => by simp)
theorem RoundTrip.lbFree : RoundTrip.Statement (.lbFree) :=
  roundTrip_slot rfl rfl (by decide) rfl rfl rfl (by simp) (fun _ => by simp)
theorem RoundTrip.trap (imm : BitVec 23) : RoundTrip.Statement (.trap imm) :=
  roundTrip_slot rfl rfl (by decide) rfl rfl rfl (by simp; omega) (fun _ => by simp)
theorem RoundTrip.rett : RoundTrip.Statement (.rett) :=
  roundTrip_slot rfl rfl (by decide) rfl rfl rfl (by simp) (fun _ => by simp)
theorem RoundTrip.brk (imm : BitVec 23) : RoundTrip.Statement (.brk imm) :=
  roundTrip_slot rfl rfl (by decide) rfl rfl rfl (by simp; omega) (fun _ => by simp)
theorem RoundTrip.sysRd (sd : SR) (csr : BitVec 12) : RoundTrip.Statement (.sysRd sd csr) :=
  roundTrip_slot rfl rfl (by decide) rfl rfl rfl (by simp; omega) (fun _ => by simp)
theorem RoundTrip.sysWr (sa : SR) (csr : BitVec 12) : RoundTrip.Statement (.sysWr sa csr) :=
  roundTrip_slot rfl rfl (by decide) rfl rfl rfl (by simp; omega) (fun hw => by
    simp only [Instr.wellFormed, Bool.and_eq_true, bne_iff_ne, ne_eq] at hw
    simp only [List.map_cons, List.map_nil]
    split
    · rename_i h; simp at h; exact absurd (BitVec.eq_of_toNat_eq h.2) hw.2
    · rename_i h; simp at h; simp [← h.1, ← h.2]
    · rename_i h; simp at h)
theorem RoundTrip.tlbInv (sa : SR) : RoundTrip.Statement (.tlbInv sa) :=
  roundTrip_slot rfl rfl (by decide) rfl rfl rfl (by simp; omega) (fun _ => by simp)
theorem RoundTrip.halt : RoundTrip.Statement (.halt) :=
  roundTrip_slot rfl rfl (by decide) rfl rfl rfl (by simp) (fun _ => by simp)
theorem RoundTrip.yield : RoundTrip.Statement (.yield) :=
  roundTrip_slot rfl rfl (by decide) rfl rfl rfl (by simp) (fun _ => by simp)
theorem RoundTrip.cmpt (sa sb : SR) : RoundTrip.Statement (.cmpt sa sb) :=
  roundTrip_slot rfl rfl (by decide) rfl rfl rfl (by simp; omega) (fun _ => by
    have h1 : sa.toNat / 32 % 2 * 32 + sa.toNat % 32 = sa.toNat := by omega
    have h2 : sb.toNat / 32 % 2 * 32 + sb.toNat % 32 = sb.toNat := by omega
    simp [h1, h2])
theorem RoundTrip.cmptV (va vb : VR) : RoundTrip.Statement (.cmptV va vb) :=
  roundTrip_slot rfl rfl (by decide) rfl rfl rfl (by simp; omega) (fun _ => by simp)
theorem RoundTrip.ndDone (sd sa : SR) : RoundTrip.Statement (.ndDone sd sa) :=
  roundTrip_slot rfl rfl (by decide) rfl rfl rfl (by simp; omega) (fun _ => by simp)
theorem RoundTrip.ndSpawn (sd sa : SR) : RoundTrip.Statement (.ndSpawn sd sa) :=
  roundTrip_slot rfl rfl (by decide) rfl rfl rfl (by simp; omega) (fun _ => by simp)
theorem RoundTrip.ndSel (sd sa : SR) : RoundTrip.Statement (.ndSel sd sa) :=
  roundTrip_slot rfl rfl (by decide) rfl rfl rfl (by simp; omega) (fun _ => by simp)
theorem RoundTrip.vaddF (vd va vb vc : VR) (k : KR) (rm : BitVec 3) : RoundTrip.Statement (.vaddF vd va vb vc k rm) :=
  roundTrip_slot rfl rfl (by decide) rfl rfl rfl (by simp; omega) (fun _ => by simp)
theorem RoundTrip.vsubF (vd va vb vc : VR) (k : KR) (rm : BitVec 3) : RoundTrip.Statement (.vsubF vd va vb vc k rm) :=
  roundTrip_slot rfl rfl (by decide) rfl rfl rfl (by simp; omega) (fun _ => by simp)
theorem RoundTrip.vmulF (vd va vb vc : VR) (k : KR) (rm : BitVec 3) : RoundTrip.Statement (.vmulF vd va vb vc k rm) :=
  roundTrip_slot rfl rfl (by decide) rfl rfl rfl (by simp; omega) (fun _ => by simp)
theorem RoundTrip.vfmaF (vd va vb vc : VR) (k : KR) (rm : BitVec 3) : RoundTrip.Statement (.vfmaF vd va vb vc k rm) :=
  roundTrip_slot rfl rfl (by decide) rfl rfl rfl (by simp; omega) (fun _ => by simp)
theorem RoundTrip.vminF (vd va vb : VR) (k : KR) : RoundTrip.Statement (.vminF vd va vb k) :=
  roundTrip_slot rfl rfl (by decide) rfl rfl rfl (by simp; omega) (fun _ => by simp)
theorem RoundTrip.vmaxF (vd va vb : VR) (k : KR) : RoundTrip.Statement (.vmaxF vd va vb k) :=
  roundTrip_slot rfl rfl (by decide) rfl rfl rfl (by simp; omega) (fun _ => by simp)
theorem RoundTrip.vabsF (vd va : VR) (k : KR) : RoundTrip.Statement (.vabsF vd va k) :=
  roundTrip_slot rfl rfl (by decide) rfl rfl rfl (by simp; omega) (fun _ => by simp)
theorem RoundTrip.vaddI (vd va vb : VR) (k : KR) (ty : BitVec 4) (uns sat : Bool) : RoundTrip.Statement (.vaddI vd va vb k ty uns sat) :=
  roundTrip_slot rfl rfl (by decide) rfl rfl rfl (by have := bit_lt uns; have := bit_lt sat; simp; omega) (fun _ => by simp)
theorem RoundTrip.vsubI (vd va vb : VR) (k : KR) (ty : BitVec 4) (uns sat : Bool) : RoundTrip.Statement (.vsubI vd va vb k ty uns sat) :=
  roundTrip_slot rfl rfl (by decide) rfl rfl rfl (by have := bit_lt uns; have := bit_lt sat; simp; omega) (fun _ => by simp)
theorem RoundTrip.vmulI (vd va vb : VR) (k : KR) (ty : BitVec 4) (uns sat : Bool) : RoundTrip.Statement (.vmulI vd va vb k ty uns sat) :=
  roundTrip_slot rfl rfl (by decide) rfl rfl rfl (by have := bit_lt uns; have := bit_lt sat; simp; omega) (fun _ => by simp)
theorem RoundTrip.vminI (vd va vb : VR) (k : KR) (ty : BitVec 4) (uns : Bool) : RoundTrip.Statement (.vminI vd va vb k ty uns) :=
  roundTrip_slot rfl rfl (by decide) rfl rfl rfl (by have := bit_lt uns; simp; omega) (fun _ => by simp)
theorem RoundTrip.vmaxI (vd va vb : VR) (k : KR) (ty : BitVec 4) (uns : Bool) : RoundTrip.Statement (.vmaxI vd va vb k ty uns) :=
  roundTrip_slot rfl rfl (by decide) rfl rfl rfl (by have := bit_lt uns; simp; omega) (fun _ => by simp)
theorem RoundTrip.vand (vd va vb : VR) (k : KR) : RoundTrip.Statement (.vand vd va vb k) :=
  roundTrip_slot rfl rfl (by decide) rfl rfl rfl (by simp; omega) (fun _ => by simp)
theorem RoundTrip.vor (vd va vb : VR) (k : KR) : RoundTrip.Statement (.vor vd va vb k) :=
  roundTrip_slot rfl rfl (by decide) rfl rfl rfl (by simp; omega) (fun _ => by simp)
theorem RoundTrip.vxor (vd va vb : VR) (k : KR) : RoundTrip.Statement (.vxor vd va vb k) :=
  roundTrip_slot rfl rfl (by decide) rfl rfl rfl (by simp; omega) (fun _ => by simp)
theorem RoundTrip.vshl (vd va vb : VR) (k : KR) (ty : BitVec 4) (imm : Bool) (count : BitVec 5) : RoundTrip.Statement (.vshl vd va vb k ty imm count) :=
  roundTrip_slot rfl rfl (by decide) rfl rfl rfl (by have := bit_lt imm; simp; omega) (fun _ => by simp)
theorem RoundTrip.vshr (vd va vb : VR) (k : KR) (ty : BitVec 4) (imm : Bool) (count : BitVec 5) : RoundTrip.Statement (.vshr vd va vb k ty imm count) :=
  roundTrip_slot rfl rfl (by decide) rfl rfl rfl (by have := bit_lt imm; simp; omega) (fun _ => by simp)
theorem RoundTrip.vsar (vd va vb : VR) (k : KR) (ty : BitVec 4) (imm : Bool) (count : BitVec 5) : RoundTrip.Statement (.vsar vd va vb k ty imm count) :=
  roundTrip_slot rfl rfl (by decide) rfl rfl rfl (by have := bit_lt imm; simp; omega) (fun _ => by simp)
theorem RoundTrip.vcmp (kd : KR) (va vb : VR) (k : KR) (kind : BitVec 2) (cond : BitVec 3) : RoundTrip.Statement (.vcmp kd va vb k kind cond) :=
  roundTrip_slot rfl rfl (by decide) rfl rfl rfl (by simp; omega) (fun _ => by simp)
theorem RoundTrip.vsel (vd va vb : VR) (k : KR) : RoundTrip.Statement (.vsel vd va vb k) :=
  roundTrip_slot rfl rfl (by decide) rfl rfl rfl (by simp; omega) (fun _ => by simp)
theorem RoundTrip.kop (kd ka kb : KR) (op : BitVec 3) : RoundTrip.Statement (.kop kd ka kb op) :=
  roundTrip_slot rfl rfl (by decide) rfl rfl rfl (by simp; omega) (fun _ => by simp)
theorem RoundTrip.kpop (sd : SR) (ka k : KR) (op : BitVec 2) : RoundTrip.Statement (.kpop sd ka k op) :=
  roundTrip_slot rfl rfl (by decide) rfl rfl rfl (by simp; omega) (fun _ => by simp)
theorem RoundTrip.vexp2 (vd va : VR) (k : KR) : RoundTrip.Statement (.vexp2 vd va k) :=
  roundTrip_slot rfl rfl (by decide) rfl rfl rfl (by simp; omega) (fun _ => by simp)
theorem RoundTrip.vlog2 (vd va : VR) (k : KR) : RoundTrip.Statement (.vlog2 vd va k) :=
  roundTrip_slot rfl rfl (by decide) rfl rfl rfl (by simp; omega) (fun _ => by simp)
theorem RoundTrip.vrcp (vd va : VR) (k : KR) : RoundTrip.Statement (.vrcp vd va k) :=
  roundTrip_slot rfl rfl (by decide) rfl rfl rfl (by simp; omega) (fun _ => by simp)
theorem RoundTrip.vrsqrt (vd va : VR) (k : KR) : RoundTrip.Statement (.vrsqrt vd va k) :=
  roundTrip_slot rfl rfl (by decide) rfl rfl rfl (by simp; omega) (fun _ => by simp)
theorem RoundTrip.vtanh (vd va : VR) (k : KR) : RoundTrip.Statement (.vtanh vd va k) :=
  roundTrip_slot rfl rfl (by decide) rfl rfl rfl (by simp; omega) (fun _ => by simp)
theorem RoundTrip.vcvt (vd va vb : VR) (dpos spos : BitVec 2) (k : KR) (from_ to_ : BitVec 4) (rm : BitVec 3) : RoundTrip.Statement (.vcvt vd va vb dpos spos k from_ to_ rm) :=
  roundTrip_slot rfl rfl (by decide) rfl rfl rfl (by simp; omega) (fun _ => by simp)
theorem RoundTrip.vpackMx (vd va vb : VR) : RoundTrip.Statement (.vpackMx vd va vb) :=
  roundTrip_slot rfl rfl (by decide) rfl rfl rfl (by simp; omega) (fun _ => by simp)
theorem RoundTrip.vunpk (vd va : VR) (k : KR) (to_ : BitVec 4) (h : Bool) : RoundTrip.Statement (.vunpk vd va k to_ h) :=
  roundTrip_slot rfl rfl (by decide) rfl rfl rfl (by have := bit_lt h; simp; omega) (fun _ => by simp)
theorem RoundTrip.vscl (vd va vb : VR) (k : KR) (rm : BitVec 3) : RoundTrip.Statement (.vscl vd va vb k rm) :=
  roundTrip_slot rfl rfl (by decide) rfl rfl rfl (by simp; omega) (fun _ => by simp)
theorem RoundTrip.vmov (vd va : VR) (k : KR) : RoundTrip.Statement (.vmov vd va k) :=
  roundTrip_slot rfl rfl (by decide) rfl rfl rfl (by simp; omega) (fun _ => by simp)
theorem RoundTrip.vbcast (vd : VR) (sb : SR) (k : KR) (ty : BitVec 4) (iota : Bool) : RoundTrip.Statement (.vbcast vd sb k ty iota) :=
  roundTrip_slot rfl rfl (by decide) rfl rfl rfl (by have := bit_lt iota; simp; omega) (fun _ => by simp)
theorem RoundTrip.vext (va : VR) (sb : SR) (sx : Bool) (lane : BitVec 7) : RoundTrip.Statement (.vext va sb sx lane) :=
  roundTrip_slot rfl rfl (by decide) rfl rfl rfl (by have := bit_lt sx; simp; omega) (fun _ => by simp)
theorem RoundTrip.vperm (vd va vb : VR) (k : KR) : RoundTrip.Statement (.vperm vd va vb k) :=
  roundTrip_slot rfl rfl (by decide) rfl rfl rfl (by simp; omega) (fun _ => by simp)
theorem RoundTrip.vxg (vd va vb : VR) (k : KR) (mode : BitVec 3) (c : BitVec 3) : RoundTrip.Statement (.vxg vd va vb k mode c) :=
  roundTrip_slot rfl rfl (by decide) rfl rfl rfl (by simp; omega) (fun _ => by simp)
theorem RoundTrip.vcmprs (vd va vc : VR) (k : KR) : RoundTrip.Statement (.vcmprs vd va vc k) :=
  roundTrip_slot rfl rfl (by decide) rfl rfl rfl (by simp; omega) (fun _ => by simp)
theorem RoundTrip.vexpd (vd va : VR) (k : KR) : RoundTrip.Statement (.vexpd vd va k) :=
  roundTrip_slot rfl rfl (by decide) rfl rfl rfl (by simp; omega) (fun _ => by simp)
theorem RoundTrip.vred (vd va vc : VR) (k : KR) (rm : BitVec 2) (g : Bool) (kind : BitVec 2) (op : BitVec 3) : RoundTrip.Statement (.vred vd va vc k rm g kind op) :=
  roundTrip_slot rfl rfl (by decide) rfl rfl rfl (by have := bit_lt g; simp; omega) (fun _ => by simp)
theorem RoundTrip.vpfx (vd va vc : VR) (k : KR) (w : Bool) (kind : BitVec 2) : RoundTrip.Statement (.vpfx vd va vc k w kind) :=
  roundTrip_slot rfl rfl (by decide) rfl rfl rfl (by have := bit_lt w; simp; omega) (fun _ => by simp)
theorem RoundTrip.vdesc (vd va vb vc : VR) (leaf : Bool) : RoundTrip.Statement (.vdesc vd va vb vc leaf) :=
  roundTrip_slot rfl rfl (by decide) rfl rfl rfl (by have := bit_lt leaf; simp; omega) (fun _ => by simp)
theorem RoundTrip.vnoise (vd va : VR) (sb : SR) (k : KR) (mode : BitVec 2) (stream : BitVec 8) : RoundTrip.Statement (.vnoise vd va sb k mode stream) :=
  roundTrip_slot rfl rfl (by decide) rfl rfl rfl (by simp; omega) (fun _ => by simp)
theorem RoundTrip.vld (vd : VR) (sb : SR) (k : KR) (off : BitVec 12) : RoundTrip.Statement (.vld vd sb k off) :=
  roundTrip_slot rfl rfl (by decide) rfl rfl rfl (by simp; omega) (fun _ => by simp)
theorem RoundTrip.vst (vd : VR) (sb : SR) (k : KR) (off : BitVec 12) : RoundTrip.Statement (.vst vd sb k off) :=
  roundTrip_slot rfl rfl (by decide) rfl rfl rfl (by simp; omega) (fun _ => by simp)
theorem RoundTrip.vldx (vd va : VR) (sb : SR) (k : KR) (s : BitVec 2) : RoundTrip.Statement (.vldx vd va sb k s) :=
  roundTrip_slot rfl rfl (by decide) rfl rfl rfl (by simp; omega) (fun _ => by simp)
theorem RoundTrip.vstx (vd va : VR) (sb : SR) (k : KR) (s : BitVec 2) : RoundTrip.Statement (.vstx vd va sb k s) :=
  roundTrip_slot rfl rfl (by decide) rfl rfl rfl (by simp; omega) (fun _ => by simp)
theorem RoundTrip.mcall (routine : BitVec 6) : RoundTrip.Statement (.mcall routine) :=
  roundTrip_slot rfl rfl (by decide) rfl rfl rfl (by simp; omega) (fun _ => by simp)
theorem RoundTrip.mpset (n : BitVec 3) (sa : SR) (imm : BitVec 25) : RoundTrip.Statement (.mpset n sa imm) :=
  roundTrip_slot rfl rfl (by decide) rfl rfl rfl (by simp; omega) (fun _ => by simp)
theorem RoundTrip.mpget (n : BitVec 3) (sd : SR) : RoundTrip.Statement (.mpget n sd) :=
  roundTrip_slot rfl rfl (by decide) rfl rfl rfl (by simp; omega) (fun _ => by simp)
theorem RoundTrip.dsetMem (n : BitVec 4) (sa : SR) (off : BitVec 20) : RoundTrip.Statement (.dsetMem n sa off) :=
  roundTrip_slot rfl rfl (by decide) rfl rfl rfl (by simp; omega) (fun _ => by simp)
theorem RoundTrip.dsetField (n : BitVec 4) (sa : SR) (field : BitVec 4) : RoundTrip.Statement (.dsetField n sa field) :=
  roundTrip_slot rfl rfl (by decide) rfl rfl rfl (by simp; omega) (fun _ => by simp)
theorem RoundTrip.dget (n : BitVec 4) (sd : SR) (h : Bool) : RoundTrip.Statement (.dget n sd h) :=
  roundTrip_slot rfl rfl (by decide) rfl rfl rfl (by have := bit_lt h; simp; omega) (fun _ => by simp)
theorem RoundTrip.dtag (n : BitVec 4) (v : Bool) : RoundTrip.Statement (.dtag n v) :=
  roundTrip_slot rfl rfl (by decide) rfl rfl rfl (by have := bit_lt v; simp; omega) (fun _ => by simp)
theorem RoundTrip.mzero (sa : SR) (anc kind : Bool) (m1 b : BitVec 8) : RoundTrip.Statement (.mzero sa anc kind m1 b) :=
  roundTrip_slot rfl rfl (by decide) rfl rfl rfl (by have := bit_lt anc; have := bit_lt kind; simp; omega) (fun _ => by simp)
theorem RoundTrip.msca (sa : SR) (n1 : BitVec 7) (anc : Bool) (anchor : BitVec 11) : RoundTrip.Statement (.msca sa n1 anc anchor) :=
  roundTrip_slot rfl rfl (by decide) rfl rfl rfl (by have := bit_lt anc; simp; omega) (fun _ => by simp)
theorem RoundTrip.cvRd (cva : BitVec 2) (sd : SR) (q : BitVec 2) : RoundTrip.Statement (.cvRd cva sd q) :=
  roundTrip_slot rfl rfl (by decide) rfl rfl rfl (by simp; omega) (fun _ => by simp)
theorem RoundTrip.cvWr (cvd : BitVec 2) (sa : SR) (q : BitVec 2) : RoundTrip.Statement (.cvWr cvd sa q) :=
  roundTrip_slot rfl rfl (by decide) rfl rfl rfl (by simp; omega) (fun _ => by simp)
theorem RoundTrip.cvAdd (cvd cva cvb : BitVec 2) : RoundTrip.Statement (.cvAdd cvd cva cvb) :=
  roundTrip_slot rfl rfl (by decide) rfl rfl rfl (by simp; omega) (fun _ => by simp)
theorem RoundTrip.cvScl (cvd cva : BitVec 2) (sa : SR) : RoundTrip.Statement (.cvScl cvd cva sa) :=
  roundTrip_slot rfl rfl (by decide) rfl rfl rfl (by simp; omega) (fun _ => by simp)
theorem RoundTrip.mucode (sa : SR) (count1 : BitVec 6) (n : BitVec 6) : RoundTrip.Statement (.mucode sa count1 n) :=
  roundTrip_slot rfl rfl (by decide) rfl rfl rfl (by simp; omega) (fun _ => by simp)
theorem RoundTrip.mucodeClr (n : BitVec 6) : RoundTrip.Statement (.mucodeClr n) :=
  roundTrip_slot rfl rfl (by decide) rfl rfl rfl (by simp; omega) (fun _ => by simp)
theorem RoundTrip.ldw (gr : Bool) : RoundTrip.Statement (.ldw gr) := by
  cases gr <;> exact roundTrip_micro rfl rfl (by simp; try omega) rfl (fun w h => by simp [decodeMicro, h]; try omega)
theorem RoundTrip.strm : RoundTrip.Statement (.strm) := by
  exact roundTrip_micro rfl rfl (by simp; try omega) rfl (fun w h => by simp [decodeMicro, h]; try omega)
theorem RoundTrip.acc (a : BitVec 3) (imm : BitVec 8) : RoundTrip.Statement (.acc a imm) := by
  exact roundTrip_micro rfl rfl (by simp; try omega) rfl (fun w h => by simp [decodeMicro, h]; try omega)
theorem RoundTrip.grade : RoundTrip.Statement (.grade) := by
  exact roundTrip_micro rfl rfl (by simp; try omega) rfl (fun w h => by simp [decodeMicro, h]; try omega)
theorem RoundTrip.tail (a : BitVec 3) : RoundTrip.Statement (.tail a) := by
  exact roundTrip_micro rfl rfl (by simp; try omega) rfl (fun w h => by simp [decodeMicro, h]; try omega)
theorem RoundTrip.bound : RoundTrip.Statement (.bound) := by
  exact roundTrip_micro rfl rfl (by simp; try omega) rfl (fun w h => by simp [decodeMicro, h]; try omega)
theorem RoundTrip.xmax : RoundTrip.Statement (.xmax) := by
  exact roundTrip_micro rfl rfl (by simp; try omega) rfl (fun w h => by simp [decodeMicro, h]; try omega)
theorem RoundTrip.blk : RoundTrip.Statement (.blk) := by
  exact roundTrip_micro rfl rfl (by simp; try omega) rfl (fun w h => by simp [decodeMicro, h]; try omega)
theorem RoundTrip.seta (planes : Bool) : RoundTrip.Statement (.seta planes) := by
  cases planes <;> exact roundTrip_micro rfl rfl (by simp; try omega) rfl (fun w h => by simp [decodeMicro, h]; try omega)
theorem RoundTrip.loop (pos : BitVec 6) : RoundTrip.Statement (.loop pos) := by
  exact roundTrip_micro rfl rfl (by simp; try omega) rfl (fun w h => by simp [decodeMicro, h]; try omega)
theorem RoundTrip.brz (pos : BitVec 6) : RoundTrip.Statement (.brz pos) := by
  exact roundTrip_micro rfl rfl (by simp; try omega) rfl (fun w h => by simp [decodeMicro, h]; try omega)
theorem RoundTrip.uend : RoundTrip.Statement (.uend) := by
  exact roundTrip_micro rfl rfl (by simp; try omega) rfl (fun w h => by simp [decodeMicro, h]; try omega)
theorem RoundTrip.cp (dst src len : SR) (ch : BitVec 3) (sync : BitVec 4) (st wt fp bc : Bool) : RoundTrip.Statement (.cp dst src len ch sync st wt fp bc) :=
  roundTrip_slot rfl rfl (by decide) rfl rfl rfl (by have := bit_lt st; have := bit_lt wt; have := bit_lt fp; have := bit_lt bc; simp; omega) (fun _ => by simp)
theorem RoundTrip.cp2d (dst src len : SR) (ch : BitVec 3) (sync : BitVec 4) (st wt fp bc : Bool) : RoundTrip.Statement (.cp2d dst src len ch sync st wt fp bc) :=
  roundTrip_slot rfl rfl (by decide) rfl rfl rfl (by have := bit_lt st; have := bit_lt wt; have := bit_lt fp; have := bit_lt bc; simp; omega) (fun _ => by simp)
theorem RoundTrip.cpMc (dst src len : SR) (ch : BitVec 3) (sync : BitVec 4) (st wt fp bc : Bool) : RoundTrip.Statement (.cpMc dst src len ch sync st wt fp bc) :=
  roundTrip_slot rfl rfl (by decide) rfl rfl rfl (by have := bit_lt st; have := bit_lt wt; have := bit_lt fp; have := bit_lt bc; simp; omega) (fun _ => by simp)
theorem RoundTrip.cpChain (sa : SR) (ch : BitVec 3) : RoundTrip.Statement (.cpChain sa ch) :=
  roundTrip_slot rfl rfl (by decide) rfl rfl rfl (by simp; omega) (fun _ => by simp)
theorem RoundTrip.cpStat (sd : SR) (q : BitVec 4) : RoundTrip.Statement (.cpStat sd q) :=
  roundTrip_slot rfl rfl (by decide) rfl rfl rfl (by simp; omega) (fun _ => by simp)
theorem RoundTrip.agCfg (sa : SR) (n : BitVec 2) : RoundTrip.Statement (.agCfg sa n) :=
  roundTrip_slot rfl rfl (by decide) rfl rfl rfl (by simp; omega) (fun _ => by simp)
theorem RoundTrip.cpAg (dst src len : SR) (ch : BitVec 3) (sync : BitVec 4) (st wt fp bc : Bool) (side : Bool) (gen : BitVec 2) : RoundTrip.Statement (.cpAg dst src len ch sync st wt fp bc side gen) :=
  roundTrip_slot rfl rfl (by decide) rfl rfl rfl (by have := bit_lt st; have := bit_lt wt; have := bit_lt fp; have := bit_lt bc; have := bit_lt side; simp; omega) (fun _ => by simp)
theorem RoundTrip.gqCfg (sa : SR) (q : BitVec 2) : RoundTrip.Statement (.gqCfg sa q) :=
  roundTrip_slot rfl rfl (by decide) rfl rfl rfl (by simp; omega) (fun _ => by simp)
theorem RoundTrip.gqPush (sa : SR) (q : BitVec 2) (imm : BitVec 25) : RoundTrip.Statement (.gqPush sa q imm) :=
  roundTrip_slot rfl rfl (by decide) rfl rfl rfl (by simp; omega) (fun _ => by simp)
theorem RoundTrip.gqEnd (q : BitVec 2) : RoundTrip.Statement (.gqEnd q) :=
  roundTrip_slot rfl rfl (by decide) rfl rfl rfl (by simp; omega) (fun _ => by simp)
theorem RoundTrip.acpyOut (n : BitVec 4) (sr sn : SR) (upd : Bool) (cvc : BitVec 2) (flag : BitVec 4) (post raw wrap : Bool) (rm : BitVec 3) : RoundTrip.Statement (.acpyOut n sr sn upd cvc flag post raw wrap rm) :=
  roundTrip_slot rfl rfl (by decide) rfl rfl rfl (by have := bit_lt upd; have := bit_lt post; have := bit_lt raw; have := bit_lt wrap; simp; omega) (fun _ => by simp)
theorem RoundTrip.acpyIn (n : BitVec 4) (sr : SR) (flag : BitVec 4) (accum post raw : Bool) : RoundTrip.Statement (.acpyIn n sr flag accum post raw) :=
  roundTrip_slot rfl rfl (by decide) rfl rfl rfl (by have := bit_lt accum; have := bit_lt post; have := bit_lt raw; simp; omega) (fun _ => by simp)
theorem RoundTrip.cbInit (sa : SR) (b : BitVec 3) : RoundTrip.Statement (.cbInit sa b) :=
  roundTrip_slot rfl rfl (by decide) rfl rfl rfl (by simp; omega) (fun _ => by simp)
theorem RoundTrip.cbPush (sa : SR) (b : BitVec 3) (ch : BitVec 3) (core : BitVec 3) : RoundTrip.Statement (.cbPush sa b ch core) :=
  roundTrip_slot rfl rfl (by decide) rfl rfl rfl (by simp; omega) (fun _ => by simp)
theorem RoundTrip.cpSeq (dst src len : SR) (ch : BitVec 3) (sync : BitVec 4) (st wt fp : Bool) : RoundTrip.Statement (.cpSeq dst src len ch sync st wt fp) :=
  roundTrip_slot rfl rfl (by decide) rfl rfl rfl (by have := bit_lt st; have := bit_lt wt; have := bit_lt fp; simp; omega) (fun _ => by simp)
theorem RoundTrip.copyPiece (core unit : Nat) : RoundTrip.Statement (.copyPiece core unit) :=
  roundTrip_none rfl rfl
theorem RoundTrip.copyComplete (core unit : Nat) : RoundTrip.Statement (.copyComplete core unit) :=
  roundTrip_none rfl rfl
theorem RoundTrip.gatherRow (core queue : Nat) : RoundTrip.Statement (.gatherRow core queue) :=
  roundTrip_none rfl rfl
theorem RoundTrip.landingCount (k : Nat) : RoundTrip.Statement (.landingCount k) :=
  roundTrip_none rfl rfl
theorem RoundTrip.slotFilled (core b : Nat) : RoundTrip.Statement (.slotFilled core b) :=
  roundTrip_none rfl rfl
theorem RoundTrip.wait (l s c t : BitVec 4) : RoundTrip.Statement (.wait l s c t) :=
  roundTrip_slot rfl rfl (by decide) rfl rfl rfl (by simp; omega) (fun _ => by simp)
theorem RoundTrip.wtag (mask : BitVec 16) : RoundTrip.Statement (.wtag mask) :=
  roundTrip_slot rfl rfl (by decide) rfl rfl rfl (by simp; omega) (fun _ => by simp)
theorem RoundTrip.wtagClr (mask : BitVec 16) : RoundTrip.Statement (.wtagClr mask) :=
  roundTrip_slot rfl rfl (by decide) rfl rfl rfl (by simp; omega) (fun _ => by simp)
theorem RoundTrip.barInit (sa sb : SR) (imm : BitVec 17) : RoundTrip.Statement (.barInit sa sb imm) :=
  roundTrip_slot rfl rfl (by decide) rfl rfl rfl (by simp; omega) (fun _ => by simp)
theorem RoundTrip.barArv (sd sa sb : SR) (na : Bool) (imm : BitVec 16) : RoundTrip.Statement (.barArv sd sa sb na imm) :=
  roundTrip_slot rfl rfl (by decide) rfl rfl rfl (by have := bit_lt na; simp; omega) (fun hw => by
    cases na
    · simp
    · simp only [Instr.wellFormed, Bool.not_true, Bool.false_or, bne_iff_ne, ne_eq] at hw
      simp only [List.map_cons, List.map_nil]
      split
      · rename_i h; simp at h; exact absurd (BitVec.eq_of_toNat_eq h.1) hw
      · rename_i h; simp at h; simp [← h.1, ← h.2.1, ← h.2.2.1, ← h.2.2.2.1, ← h.2.2.2.2]
      · rename_i h; exact absurd rfl (h _ _ _ _ _))
theorem RoundTrip.barMark (sa sb : SR) (imm : BitVec 16) : RoundTrip.Statement (.barMark sa sb imm) :=
  roundTrip_slot rfl rfl (by decide) rfl rfl rfl (by simp; omega) (fun _ => by simp)
theorem RoundTrip.barWait (sd sa sb : SR) : RoundTrip.Statement (.barWait sd sa sb) :=
  roundTrip_slot rfl rfl (by decide) rfl rfl rfl (by simp; omega) (fun _ => by simp)
theorem RoundTrip.barPar (sa : SR) (par : Bool) : RoundTrip.Statement (.barPar sa par) :=
  roundTrip_slot rfl rfl (by decide) rfl rfl rfl (by have := bit_lt par; simp; omega) (fun _ => by simp)
theorem RoundTrip.barRet (sa : SR) : RoundTrip.Statement (.barRet sa) :=
  roundTrip_slot rfl rfl (by decide) rfl rfl rfl (by simp; omega) (fun _ => by simp)
theorem RoundTrip.flPost (sb : SR) (flag : BitVec 4) (imm : BitVec 12) : RoundTrip.Statement (.flPost sb flag imm) :=
  roundTrip_slot rfl rfl (by decide) rfl rfl rfl (by simp; omega) (fun _ => by simp)
theorem RoundTrip.flPostR (sa sb : SR) (flag : BitVec 4) (imm : BitVec 12) : RoundTrip.Statement (.flPostR sa sb flag imm) :=
  roundTrip_slot rfl rfl (by decide) rfl rfl rfl (by simp; omega) (fun _ => by simp)
theorem RoundTrip.flagPostArrive (k : Nat) : RoundTrip.Statement (.flagPostArrive k) :=
  roundTrip_none rfl rfl
theorem RoundTrip.flWait (sd : SR) (flag : BitVec 4) (n : BitVec 12) : RoundTrip.Statement (.flWait sd flag n) :=
  roundTrip_slot rfl rfl (by decide) rfl rfl rfl (by simp; omega) (fun _ => by simp)
theorem RoundTrip.fenceX (scope q p : BitVec 3) : RoundTrip.Statement (.fenceX scope q p) :=
  roundTrip_slot rfl rfl (by decide) rfl rfl rfl (by simp; omega) (fun _ => by simp)
theorem RoundTrip.fenceSc : RoundTrip.Statement (.fenceSc) :=
  roundTrip_slot rfl rfl (by decide) rfl rfl rfl (by simp) (fun _ => by simp)
theorem RoundTrip.drain : RoundTrip.Statement (.drain) :=
  roundTrip_slot rfl rfl (by decide) rfl rfl rfl (by simp) (fun _ => by simp)
theorem RoundTrip.tkWait (sa sb : SR) (n : BitVec 8) : RoundTrip.Statement (.tkWait sa sb n) :=
  roundTrip_slot rfl rfl (by decide) rfl rfl rfl (by simp; omega) (fun _ => by simp)
theorem RoundTrip.cbPop (sd : SR) (b : BitVec 3) : RoundTrip.Statement (.cbPop sd b) :=
  roundTrip_slot rfl rfl (by decide) rfl rfl rfl (by simp; omega) (fun _ => by simp)
theorem RoundTrip.cbRel (sa : SR) (n : BitVec 14) (b : BitVec 3) : RoundTrip.Statement (.cbRel sa n b) :=
  roundTrip_slot rfl rfl (by decide) rfl rfl rfl (by simp; omega) (fun _ => by simp)
theorem RoundTrip.step : RoundTrip.Statement (.step) :=
  roundTrip_slot rfl rfl (by decide) rfl rfl rfl (by simp) (fun _ => by simp)
theorem RoundTrip.seg : RoundTrip.Statement (.seg) :=
  roundTrip_slot rfl rfl (by decide) rfl rfl rfl (by simp) (fun _ => by simp)
theorem RoundTrip.segOff : RoundTrip.Statement (.segOff) :=
  roundTrip_slot rfl rfl (by decide) rfl rfl rfl (by simp) (fun _ => by simp)
theorem RoundTrip.rdv (j : BitVec 2) : RoundTrip.Statement (.rdv j) :=
  roundTrip_slot rfl rfl (by decide) rfl rfl rfl (by simp; omega) (fun _ => by simp)
theorem RoundTrip.gBar (j : BitVec 2) : RoundTrip.Statement (.gBar j) :=
  roundTrip_slot rfl rfl (by decide) rfl rfl rfl (by simp; omega) (fun _ => by simp)
theorem RoundTrip.gRed (sd sa sb : SR) (op : BitVec 3) (j : BitVec 2) : RoundTrip.Statement (.gRed sd sa sb op j) :=
  roundTrip_slot rfl rfl (by decide) rfl rfl rfl (by simp; omega) (fun _ => by simp)
theorem RoundTrip.gInfo (sd : SR) (j : BitVec 2) : RoundTrip.Statement (.gInfo sd j) :=
  roundTrip_slot rfl rfl (by decide) rfl rfl rfl (by simp; omega) (fun _ => by simp)
theorem RoundTrip.bnLd (sa : SR) (n : BitVec 3) : RoundTrip.Statement (.bnLd sa n) :=
  roundTrip_slot rfl rfl (by decide) rfl rfl rfl (by simp; omega) (fun _ => by simp)
theorem RoundTrip.bnMap (sd sa sb : SR) (n : BitVec 3) : RoundTrip.Statement (.bnMap sd sa sb n) :=
  roundTrip_slot rfl rfl (by decide) rfl rfl rfl (by simp; omega) (fun _ => by simp)
theorem RoundTrip.bnMapx (sd sa sb : SR) (n : BitVec 3) : RoundTrip.Statement (.bnMapx sd sa sb n) :=
  roundTrip_slot rfl rfl (by decide) rfl rfl rfl (by simp; omega) (fun _ => by simp)
theorem RoundTrip.lkSend (dst src len : SR) (sync : BitVec 4) (st wt fp : Bool) (cls : BitVec 2) : RoundTrip.Statement (.lkSend dst src len sync st wt fp cls) :=
  roundTrip_slot rfl rfl (by decide) rfl rfl rfl (by have := bit_lt st; have := bit_lt wt; have := bit_lt fp; simp; omega) (fun _ => by simp)
theorem RoundTrip.lkRecv (dst src len : SR) (sync : BitVec 4) (st wt fp bc : Bool) (r : BitVec 3) : RoundTrip.Statement (.lkRecv dst src len sync st wt fp bc r) :=
  roundTrip_slot rfl rfl (by decide) rfl rfl rfl (by have := bit_lt st; have := bit_lt wt; have := bit_lt fp; have := bit_lt bc; simp; omega) (fun _ => by simp)
theorem RoundTrip.lkStat (sd : SR) (q : BitVec 4) (kind : BitVec 2) : RoundTrip.Statement (.lkStat sd q kind) :=
  roundTrip_slot rfl rfl (by decide) rfl rfl rfl (by simp; omega) (fun _ => by simp)
theorem RoundTrip.lkTide (sa : SR) (q : BitVec 4) : RoundTrip.Statement (.lkTide sa q) :=
  roundTrip_slot rfl rfl (by decide) rfl rfl rfl (by simp; omega) (fun _ => by simp)
theorem RoundTrip.lkCirc (sa : SR) : RoundTrip.Statement (.lkCirc sa) :=
  roundTrip_slot rfl rfl (by decide) rfl rfl rfl (by simp; omega) (fun _ => by simp)
theorem RoundTrip.lkPark (sa : SR) (q : BitVec 4) : RoundTrip.Statement (.lkPark sa q) :=
  roundTrip_slot rfl rfl (by decide) rfl rfl rfl (by simp; omega) (fun _ => by simp)
theorem RoundTrip.lkRate (sa : SR) (c : BitVec 2) : RoundTrip.Statement (.lkRate sa c) :=
  roundTrip_slot rfl rfl (by decide) rfl rfl rfl (by simp; omega) (fun _ => by simp)
theorem RoundTrip.frameBoundary : RoundTrip.Statement (.frameBoundary) :=
  roundTrip_none rfl rfl
theorem RoundTrip.tideBoundary : RoundTrip.Statement (.tideBoundary) :=
  roundTrip_none rfl rfl
theorem RoundTrip.circuitSlotBoundary : RoundTrip.Statement (.circuitSlotBoundary) :=
  roundTrip_none rfl rfl
theorem RoundTrip.drawerRequest (k : Nat) : RoundTrip.Statement (.drawerRequest k) :=
  roundTrip_none rfl rfl
theorem RoundTrip.drawerResponse (k : Nat) : RoundTrip.Statement (.drawerResponse k) :=
  roundTrip_none rfl rfl
theorem RoundTrip.linkPieceArrive (p : LinkPiece) : RoundTrip.Statement (.linkPieceArrive p) :=
  roundTrip_none rfl rfl
theorem RoundTrip.linkAck (core ctx queue k piece : Nat) (fault : Option (Nat × Nat)) : RoundTrip.Statement (.linkAck core ctx queue k piece fault) :=
  roundTrip_none rfl rfl
theorem RoundTrip.retrainStart (strait : BitVec 4) : RoundTrip.Statement (.retrainStart strait) :=
  roundTrip_none rfl rfl
theorem RoundTrip.retrainEnd (strait : BitVec 4) : RoundTrip.Statement (.retrainEnd strait) :=
  roundTrip_none rfl rfl
theorem RoundTrip.groupLit (strait : BitVec 4) (rx : Bool) (group : BitVec 3) : RoundTrip.Statement (.groupLit strait rx group) :=
  roundTrip_none rfl rfl
theorem RoundTrip.linkStall (core : Nat) (strait : BitVec 4) : RoundTrip.Statement (.linkStall core strait) :=
  roundTrip_none rfl rfl
theorem RoundTrip.dispatch : RoundTrip.Statement (.dispatch) :=
  roundTrip_none rfl rfl
theorem RoundTrip.preemptTimeout : RoundTrip.Statement (.preemptTimeout) :=
  roundTrip_none rfl rfl
theorem RoundTrip.contextSave (ctx : Nat) : RoundTrip.Statement (.contextSave ctx) :=
  roundTrip_none rfl rfl
theorem RoundTrip.dispatcherRestore : RoundTrip.Statement (.dispatcherRestore) :=
  roundTrip_none rfl rfl
theorem RoundTrip.restore (ctx : Nat) : RoundTrip.Statement (.restore ctx) :=
  roundTrip_none rfl rfl
theorem RoundTrip.clPush (k : Nat) : RoundTrip.Statement (.clPush k) :=
  roundTrip_none rfl rfl
theorem RoundTrip.compactSubmit (w : W64) : RoundTrip.Statement (.compactSubmit w) :=
  roundTrip_none rfl rfl
theorem RoundTrip.compactPage : RoundTrip.Statement (.compactPage) :=
  roundTrip_none rfl rfl
theorem RoundTrip.compactSwap : RoundTrip.Statement (.compactSwap) :=
  roundTrip_none rfl rfl
theorem RoundTrip.pageFree (k : Nat) : RoundTrip.Statement (.pageFree k) :=
  roundTrip_none rfl rfl
theorem RoundTrip.groupEntryWrite (gid : BitVec 8) (w : W64) : RoundTrip.Statement (.groupEntryWrite gid w) :=
  roundTrip_none rfl rfl
theorem RoundTrip.ticketEntryWrite (n : BitVec 8) (word : Bool) (w : W64) : RoundTrip.Statement (.ticketEntryWrite n word w) :=
  roundTrip_none rfl rfl
theorem RoundTrip.linkControlWrite (w : W64) : RoundTrip.Statement (.linkControlWrite w) :=
  roundTrip_none rfl rfl
theorem RoundTrip.configWrite (off : BitVec 24) (w : W64) : RoundTrip.Statement (.configWrite off w) :=
  roundTrip_none rfl rfl
theorem RoundTrip.controlPeriodEnd (pkgW : BitVec 16) (slope : Bool) : RoundTrip.Statement (.controlPeriodEnd pkgW slope) :=
  roundTrip_none rfl rfl
theorem RoundTrip.ballastStart (microjoules : Nat) : RoundTrip.Statement (.ballastStart microjoules) :=
  roundTrip_none rfl rfl
theorem RoundTrip.clusterGate (cluster : Nat) : RoundTrip.Statement (.clusterGate cluster) :=
  roundTrip_none rfl rfl
theorem RoundTrip.clusterWake (cluster : Nat) : RoundTrip.Statement (.clusterWake cluster) :=
  roundTrip_none rfl rfl
theorem RoundTrip.launch (r : HostReq) : RoundTrip.Statement (.launch r) :=
  roundTrip_none rfl rfl
theorem RoundTrip.read (r : HostReq) : RoundTrip.Statement (.read r) :=
  roundTrip_none rfl rfl
theorem RoundTrip.write (r : HostReq) : RoundTrip.Statement (.write r) :=
  roundTrip_none rfl rfl
theorem RoundTrip.status (r : HostReq) : RoundTrip.Statement (.status r) :=
  roundTrip_none rfl rfl
theorem RoundTrip.release (r : HostReq) : RoundTrip.Statement (.release r) :=
  roundTrip_none rfl rfl
theorem RoundTrip.open (r : HostReq) : RoundTrip.Statement (.open r) :=
  roundTrip_none rfl rfl
theorem RoundTrip.close (r : HostReq) : RoundTrip.Statement (.close r) :=
  roundTrip_none rfl rfl
theorem RoundTrip.preempt (r : HostReq) : RoundTrip.Statement (.preempt r) :=
  roundTrip_none rfl rfl
theorem RoundTrip.resume (r : HostReq) : RoundTrip.Statement (.resume r) :=
  roundTrip_none rfl rfl
theorem RoundTrip.connectionSetUp (conn : Nat) (mode : BitVec 4) (sendOnly security : Bool) : RoundTrip.Statement (.connectionSetUp conn mode sendOnly security) :=
  roundTrip_none rfl rfl
theorem RoundTrip.peerLoadRequest (chip : BitVec 4) (pa : Nat) : RoundTrip.Statement (.peerLoadRequest chip pa) :=
  roundTrip_none rfl rfl

end Sys2Proof.Laws
end

