-- ==== Sys2Proof/Laws/Stall.lean ====
section
/-! SUPPORT. What the passing of time, a walk, a checkpoint and the start of a dispatch step can do, said once. -/

namespace Sys2Proof.Machine

open Sys2Proof

/-! ## Time -/

@[simp] theorem State.stallsDue_quiet (s : State) (h : s.retraining = []) : s.stallsDue = [] := by
  simp [State.stallsDue, h]

@[simp] theorem State.due_quiet (s : State) (h : s.retraining = []) : s.due = s.dueBoundary := by
  simp [State.due, h]

@[simp] theorem State.countTo_quiet (s : State) (d : Nat) (h : s.retraining = []) :
    s.countTo d = { s with cycle := .ofNat 64 d } := by
  simp [State.countTo, h]

/-- With no strait retraining, a cycle comes with no trap. -/
@[simp] theorem State.passTo_quiet (s : State) (d : Nat) (h : s.retraining = []) :
    s.passTo d = { s with cycle := .ofNat 64 d } := by
  simp [State.passTo, h]

/-- A count changes the cycle and the cores only. -/
theorem State.countTo_eq (s : State) (d : Nat) :
    s.countTo d = { s with cycle := .ofNat 64 d, cores := (s.countTo d).cores } := by
  unfold State.countTo; split <;> rfl

@[simp] theorem State.countTo_cycle (s : State) (d : Nat) : (s.countTo d).cycle = .ofNat 64 d := by
  rw [State.countTo_eq]

/-- A table of changed entries holds the changed value of an entry, or nothing as before. -/
theorem Tab.get_map_or {α : Type} (d : α) (f : Nat → α → α) (i : Nat) : ∀ t : Tab α,
    Tab.get d (t.map fun p => (p.1, f p.1 p.2)) i = f i (Tab.get d t i)
      ∨ (Tab.get d (t.map fun p => (p.1, f p.1 p.2)) i = d ∧ Tab.get d t i = d)
  | [] => .inr ⟨rfl, rfl⟩
  | (j, x) :: l => by
    by_cases h : j = i
    · subst h; exact .inl (by simp [Tab.get])
    · simpa [Tab.get, h] using Tab.get_map_or d f i l

/-- Of a core, a count changes heldFor only. -/
theorem State.countTo_core (s : State) (d c : Nat) :
    (s.countTo d).core c = { s.core c with heldFor := ((s.countTo d).core c).heldFor } := by
  unfold State.countTo
  split
  · rfl
  · rcases Tab.get_map_or Core.reset (fun p k => { k with heldFor := s.heldCounts p d }) c s.cores with h | ⟨h, h'⟩
    · simp only [State.core] at *; rw [h]
    · simp only [State.core] at *; rw [h, h']

/-- A tick changes the cycle, the counts of the cores and the number of the next choice. -/
theorem State.tick_eq (s : State) :
    s.tick = { s with cycle := s.tick.cycle, cores := s.tick.cores, freeNo := s.freeNo + 1 } := by
  simp only [State.tick]; rw [State.countTo_eq]

theorem State.tick_core (s : State) (c : Nat) :
    s.tick.core c = { s.core c with heldFor := (s.tick.core c).heldFor } := State.countTo_core s _ c

@[simp] theorem State.tick_mem (s : State) : s.tick.mem = s.mem := by rw [State.tick_eq]
@[simp] theorem State.tick_errs (s : State) : s.tick.errs = s.errs := by rw [State.tick_eq]
@[simp] theorem State.tick_iss (s : State) : s.tick.iss = s.iss := by rw [State.tick_eq]

/-! ## Walks -/

/-- A unit that has no entry of a walk in a drawer to read, and has read none, goes on at once. -/
theorem State.withWalks_quiet (s : State) (c u : Nat) (p : Path) (vas : List W64) (go : State → State)
    (hp : s.walkPending c u p vas = none) (hw : s.walking c u = false) : s.withWalks c u p vas go = go s := by
  simp [State.withWalks, State.walked, hp, hw]

/-! ## Checkpoints -/

/-- An op of the open segment, or outside one, changes no checkpoint. -/
theorem Core.carry_none (old new : Core) (seq : Nat) (h : (new.seg && decide (seq ≤ new.segment.first)) = false) :
    old.carry new seq = new := by
  simp only [Core.carry, h]; rfl

/-- carry changes the shadow of the segment only. -/
theorem Core.carry_eq (old new : Core) (seq : Nat) :
    old.carry new seq = { new with segment := { new.segment with shadow := (old.carry new seq).segment.shadow } } := by
  unfold Core.carry; split <;> rfl

theorem Core.carryHold_eq (old new : Core) (seq : Nat) :
    old.carryHold new seq
      = { new with segment := { new.segment with shadow := (old.carryHold new seq).segment.shadow } } := by
  have h := Core.carry_eq old new seq
  generalize hx : (old.carry new seq).segment.shadow = x at h
  simp only [Core.carryHold, h]
  split <;> rfl

@[simp] theorem Hold.afresh_instr (h : Hold) : h.afresh.instr = h.instr := rfl
@[simp] theorem Hold.afresh_seq (h : Hold) : h.afresh.seq = h.seq := rfl
@[simp] theorem Hold.afresh_slot (h : Hold) : h.afresh.slot = h.slot := rfl
@[simp] theorem Hold.afresh_ended (h : Hold) : h.afresh.ended = h.ended := rfl

/-! ## Dispatch -/

/-- With nothing that the dispatcher may restore, a dispatch step begins with no restore. -/
theorem State.restoreDue_quiet (s : State) (h : s.restsPreempted) : s.restoreDue = s := by
  have key : ∀ l : List Nat, (∀ x ∈ l, s.mayRestore x = false) →
      l.foldl (fun t x => if t.mayRestore x then t.beginRestore x else t) s = s := by
    intro l
    induction l with
    | nil => exact fun _ => rfl
    | cons x l ih =>
      intro hl
      simp only [List.foldl_cons, hl x List.mem_cons_self, Bool.false_eq_true, if_false]
      exact ih fun y hy => hl y (List.mem_cons_of_mem _ hy)
  exact key _ fun x hx => h x (List.mem_range.mp hx)

end Sys2Proof.Machine
end

