-- ==== Sys2Proof/Laws/Turns.lean ====
section
/-! SUPPORT. What a turn around exec can do, said once: the wait for entries in drawers (19 R392), the latencies of results
(06 R131), the views that keep bytes (01 R18), the end of a connection (21 R433) and the answers to waiting requests. -/

namespace Sys2Proof.Machine

open Sys2Proof

/-! ## Entries in drawers -/

@[simp] theorem State.endReads_mem (s : State) (c u : Nat) : (s.endReads c u).mem = s.mem := rfl
@[simp] theorem State.endReads_cores (s : State) (c u : Nat) : (s.endReads c u).cores = s.cores := rfl

/-- The entries that a turn has used go from the requests, and nothing else changes. -/
theorem State.entriesUsed_eq (s : State) :
    s.entriesUsed = { s with drawerReqs := s.entriesUsed.drawerReqs, readsAsked := s.entriesUsed.readsAsked } := by
  have key : ∀ (l : List Nat) (t : State),
      let u := l.foldl (fun t n => State.endReads t 261 (walkUnit 0 (256 * n))) t
      u = { t with drawerReqs := u.drawerReqs, readsAsked := u.readsAsked } := by
    intro l
    induction l with
    | nil => exact fun _ => rfl
    | cons a l ih => intro t; simp only [List.foldl_cons]; rw [ih]; rfl
  exact key _ s

@[simp] theorem State.entriesUsed_mem (s : State) : s.entriesUsed.mem = s.mem := by rw [State.entriesUsed_eq]
@[simp] theorem State.entriesUsed_cores (s : State) : s.entriesUsed.cores = s.cores := by rw [State.entriesUsed_eq]

/-- With no drawer, or where a turn needs none of their entries, it runs. -/
theorem State.withEntries_alone (s : State) (run : State → Out3) (h : s.hasDrawers = false ∨ s.enough run [] = true) :
    s.withEntries run = run s := by
  unfold State.withEntries
  rcases h with h | h <;> simp [h]

/-- A turn runs, with or without the use of entries that were read for it, or waits. -/
theorem State.withEntries_cases (s : State) (run : State → Out3) :
    s.withEntries run = run s ∨ s.withEntries run = .next s
      ∨ ∃ t, run s = .next t ∧ s.withEntries run = .next t.entriesUsed := by
  unfold State.withEntries
  simp only
  split
  · exact .inl rfl
  · split
    · cases h : run s with
      | next t => exact .inr (.inr ⟨t, rfl, rfl⟩)
      | fault f => exact .inl rfl
      | refused r => exact .inl rfl
    · exact .inr (.inl rfl)

/-! ## Latencies -/

@[simp] theorem State.timed_mem (s : State) (n : Nat) (i : Instr) : (s.timed n i).mem = s.mem := rfl
@[simp] theorem State.timed_kept (s : State) (n : Nat) (i : Instr) : (s.timed n i).kept = s.kept := rfl
@[simp] theorem State.timed_iss (s : State) (n : Nat) (i : Instr) : (s.timed n i).iss = s.iss := rfl

/-- The latencies of an op are written into the outstanding producers and the stores of the core that issues it. -/
theorem State.timed_core (s : State) (n : Nat) (i : Instr) (c : Nat) :
    let sto := fun x : Sto => if n ≤ x.id then { x with ready := (s.storeLatency c x.pa).map (s.iss.at_ + ·) } else x
    (s.timed n i).core c = if c = s.iss.core then { s.core c with
      outs := (s.core c).outs.map fun o =>
        if n ≤ o.id then { o with ready := (s.latencyOf c i o).map (s.iss.at_ + ·) } else o
      stores := (s.core c).stores.map sto
      segment := { (s.core c).segment with buffer := (s.core c).segment.buffer.map sto } } else s.core c := by
  intro sto
  split
  · subst c; exact State.core_modCore_same s _ _
  · exact State.core_modCore_other s _ ‹_›

/-! ## Views, connections and answers -/

@[simp] theorem State.keepBytes_mem (s : State) (v : View) (pa n : Nat) : (s.keepBytes v pa n).mem = s.mem := rfl
@[simp] theorem State.seeBytes_mem (s : State) (v : View) (pa n : Nat) : (s.seeBytes v pa n).mem = s.mem := rfl
@[simp] theorem State.endConnection_mem (s : State) (c : Nat) : (s.endConnection c).mem = s.mem := rfl
@[simp] theorem State.endConnection_cores (s : State) (c : Nat) : (s.endConnection c).cores = s.cores := rfl
@[simp] theorem State.answerOwed_mem (s : State) (c : Nat) (w : Settled) : (s.answerOwed c w).mem = s.mem := rfl
@[simp] theorem State.answerOwed_core (s : State) (c : Nat) (w : Settled) (d : Nat) : (s.answerOwed c w).core d = s.core d := rfl
@[simp] theorem State.answerOwed_ctx (s : State) (c : Nat) (w : Settled) (x : Nat) : (s.answerOwed c w).ctx x = s.ctx x := rfl

end Sys2Proof.Machine
end

