-- ==== Sys2Proof/Tests/Slice0.lean ====
section
/-! SUPPORT. The model's own tests: words written out from the encodings of the spec, an ill-formed term for
each check, single steps with results that the spec states, and for each statement that has hypotheses a
concrete state and operands that meet them. -/

namespace Sys2Proof.Tests

open Sys2Proof Sys2Proof.Machine

set_option Elab.async false

/-! ## Words (05 R102 to R125, from the field tables of each entry) -/

/-- The word of OP and of the fields, each given as (value, its lowest bit) in the tables of the spec. -/
def word (op : Nat) (fs : List (Nat × Nat)) : Nat := op * 2 ^ 40 + (fs.map fun f => f.1 * 2 ^ f.2).sum

/-- Every word of the list decodes to the instruction beside it. -/
def decodes (cls : SlotClass) (l : List (Nat × Instr)) : Bool := l.all fun q => decide (decodeOp cls q.1 = .ok (0, q.2))

theorem test_words_scalar_1 : decodes .s [
    (word 0x00 [], .nop),
    (word 0x01 [(5, 29), (62, 23), (33, 17)], .add 5 62 33),
    (word 0x02 [(5, 29), (62, 23), (33, 17)], .sub 5 62 33),
    (word 0x03 [(5, 29), (62, 23), (33, 17)], .mul 5 62 33),
    (word 0x04 [(5, 29), (62, 23), (33, 17)], .mulh 5 62 33),
    (word 0x05 [(5, 29), (62, 23), (33, 17)], .mulhu 5 62 33),
    (word 0x06 [(5, 29), (62, 23), (33, 17)], .div 5 62 33),
    (word 0x07 [(5, 29), (62, 23), (33, 17)], .divu 5 62 33),
    (word 0x08 [(5, 29), (62, 23), (33, 17)], .rem 5 62 33),
    (word 0x09 [(5, 29), (62, 23), (33, 17)], .remu 5 62 33),
    (word 0x0A [(5, 29), (62, 23), (33, 17)], .and 5 62 33),
    (word 0x0B [(5, 29), (62, 23), (33, 17)], .or 5 62 33),
    (word 0x0C [(5, 29), (62, 23), (33, 17)], .xor 5 62 33),
    (word 0x0D [(5, 29), (62, 23), (33, 17)], .shl 5 62 33),
    (word 0x0E [(5, 29), (62, 23), (33, 17)], .shr 5 62 33),
    (word 0x0F [(5, 29), (62, 23), (33, 17)], .sar 5 62 33),
    (word 0x10 [(5, 29), (62, 23), (33, 17)], .min 5 62 33),
    (word 0x11 [(5, 29), (62, 23), (33, 17)], .max 5 62 33),
    (word 0x12 [(5, 29), (62, 23), (33, 17)], .minu 5 62 33),
    (word 0x13 [(5, 29), (62, 23), (33, 17)], .maxu 5 62 33),
    (word 0x14 [(5, 29), (62, 23), (33, 17)], .seq 5 62 33),
    (word 0x15 [(5, 29), (62, 23), (33, 17)], .slt 5 62 33),
    (word 0x16 [(5, 29), (62, 23), (33, 17)], .sltu 5 62 33),
    (word 0x17 [(5, 29), (62, 23), (33, 17), (1, 4), (9, 0)], .sel 5 62 33 true 9),
    (word 0x18 [(5, 29), (62, 23)], .clz 5 62),
    (word 0x19 [(5, 29), (62, 23)], .ctz 5 62),
    (word 0x1A [(5, 29), (62, 23)], .popc 5 62),
    (word 0x20 [(5, 29), (62, 23), (4194305, 0)], .addi 5 62 4194305),
    (word 0x21 [(5, 29), (62, 23), (1, 0)], .andi 5 62 1),
    (word 0x22 [(5, 29), (62, 23), (8388607, 0)], .ori 5 62 8388607)] = true := by
  decide +kernel

theorem test_words_scalar_2 : decodes .s [
    (word 0x23 [(5, 29), (62, 23), (77, 0)], .xori 5 62 77),
    (word 0x24 [(5, 29), (62, 23), (63, 0)], .shli 5 62 63),
    (word 0x25 [(5, 29), (62, 23), (33, 0)], .shri 5 62 33),
    (word 0x26 [(5, 29), (62, 23), (1, 0)], .sari 5 62 1),
    (word 0x27 [(5, 29), (62, 23), (8388606, 0)], .slti 5 62 8388606),
    (word 0x28 [(5, 29), (62, 23), (3, 0)], .sltui 5 62 3),
    (word 0x29 [(5, 29), (4194304, 0)], .li 5 4194304),
    (word 0x2A [(5, 29), (62, 23), (6, 0)], .lix 5 62 6),
    (word 0x30 [(9, 29), (62, 23), (33, 17), (5, 0)], .pset 9 62 33 5),
    (word 0x31 [(9, 29), (62, 23), (5, 20), (524289, 0)], .pseti 9 62 5 524289),
    (word 0x32 [(9, 29), (6, 23), (13, 17), (2, 0)], .plog 9 6 13 2),
    (word 0x33 [(62, 23), (40961, 0)], .pwr 62 40961),
    (word 0x34 [(5, 29)], .prd 5),
    (word 0x40 [(6, 29), (62, 23), (8388600, 0)], .ldB 6 62 8388600),
    (word 0x41 [(6, 29), (62, 23), (8388600, 0)], .ldH 6 62 8388600),
    (word 0x42 [(6, 29), (62, 23), (8388600, 0)], .ldW 6 62 8388600),
    (word 0x43 [(6, 29), (62, 23), (8388600, 0)], .ldD 6 62 8388600),
    (word 0x44 [(6, 29), (62, 23), (8388600, 0)], .ldBu 6 62 8388600),
    (word 0x45 [(6, 29), (62, 23), (8388600, 0)], .ldHu 6 62 8388600),
    (word 0x46 [(6, 29), (62, 23), (8388600, 0)], .ldWu 6 62 8388600),
    (word 0x47 [(6, 29), (62, 23), (8388600, 0)], .ldQ 6 62 8388600),
    (word 0x48 [(6, 29), (62, 23), (8388600, 0)], .stB 6 62 8388600),
    (word 0x49 [(6, 29), (62, 23), (8388600, 0)], .stH 6 62 8388600),
    (word 0x4A [(6, 29), (62, 23), (8388600, 0)], .stW 6 62 8388600),
    (word 0x4B [(6, 29), (62, 23), (8388600, 0)], .stD 6 62 8388600),
    (word 0x4C [(6, 29), (62, 23), (8388600, 0)], .stQ 6 62 8388600),
    (word 0x4E [(5, 29), (1023, 0)], .splLd 5 1023),
    (word 0x4F [(5, 29), (512, 0)], .splSt 5 512),
    (word 0x50 [(5, 29), (62, 23), (33, 17), (1, 4), (8, 0)], .amo 5 62 33 1 8),
    (word 0x51 [(5, 29), (62, 23), (34, 17), (1, 4)], .cas 5 62 34 1)] = true := by
  decide +kernel

theorem test_words_scalar_3 : decodes .s [
    (word 0x52 [(5, 29), (62, 23), (255, 0)], .tkGet 5 62 255),
    (word 0x53 [(5, 29), (62, 23), (129, 0)], .tkNext 5 62 129),
    (word 0x58 [(5, 29), (62, 23)], .sqInit 5 62),
    (word 0x59 [(5, 29), (62, 23), (33, 17)], .sqRes 5 62 33),
    (word 0x5A [(5, 29), (62, 23), (33, 17)], .sqCmt 5 62 33),
    (word 0x5B [(5, 29), (62, 23), (33, 17)], .sqRet 5 62 33),
    (word 0x5C [(5, 29), (62, 23)], .sqLen 5 62),
    (word 0x5C [(5, 29), (5, 1), (1, 0)], .sqLenCl 5 5),
    (word 0x5D [(5, 29), (62, 23), (34, 17)], .sqFork 5 62 34),
    (word 0x5E [(5, 29), (62, 23)], .sqDrop 5 62),
    (word 0x5F [(5, 29), (62, 23), (33, 17)], .sqGrow 5 62 33),
    (word 0x60 [(62, 23), (5, 1)], .sqBind 62 5),
    (word 0x60 [(5, 1), (1, 0)], .sqBindClr 5),
    (word 0x61 [(5, 29), (62, 23), (33, 17)], .sqAddr 5 62 33),
    (word 0x68 [(34359738367, 0)], .br 34359738367),
    (word 0x69 [(5, 29), (9, 25), (33554431, 0)], .brLoop 5 9 33554431),
    (word 0x6A [(17179869185, 0)], .call 17179869185),
    (word 0x6B [(62, 23)], .ret 62),
    (word 0x6C [(5, 29), (62, 23)], .jr 5 62),
    (word 0x6D [(5, 29), (9, 25)], .rep 5 9 0),
    (word 0x6E [(5, 29), (33554430, 0)], .lbPin 5 33554430),
    (word 0x6F [], .lbFree),
    (word 0x70 [(8388607, 0)], .trap 8388607),
    (word 0x71 [], .rett),
    (word 0x72 [(4194305, 0)], .brk 4194305),
    (word 0x73 [(5, 29), (291, 0)], .sysRd 5 291),
    (word 0x74 [(62, 23), (20, 0)], .sysWr 62 20),
    (word 0x74 [(62, 23), (24, 0)], .tlbInv 62),
    (word 0x75 [], .halt),
    (word 0x76 [], .yield)] = true := by
  decide +kernel

theorem test_words_scalar_4 : decodes .s [
    (word 0x77 [(62, 23), (33, 17)], .cmpt 62 33),
    (word 0x77 [(30, 23), (17, 17), (1, 0)], .cmptV 30 17),
    (word 0x78 [(5, 29), (62, 23)], .ndDone 5 62),
    (word 0x79 [(5, 29), (62, 23)], .ndSpawn 5 62),
    (word 0x7A [(5, 29), (62, 23)], .ndSel 5 62)] = true := by
  decide +kernel

theorem test_words_vector_1 : decodes .v [
    (word 0x01 [(5, 30), (30, 25), (17, 20), (9, 15), (6, 12), (4, 0)], .vaddF 5 30 17 9 6 4),
    (word 0x02 [(5, 30), (30, 25), (17, 20), (6, 12), (3, 0)], .vsubF 5 30 17 0 6 3),
    (word 0x03 [(5, 30), (30, 25), (17, 20), (9, 15), (6, 12), (4, 0)], .vmulF 5 30 17 9 6 4),
    (word 0x04 [(5, 30), (30, 25), (17, 20), (9, 15), (6, 12), (2, 0)], .vfmaF 5 30 17 9 6 2),
    (word 0x05 [(5, 30), (30, 25), (17, 20), (6, 12)], .vminF 5 30 17 6),
    (word 0x06 [(5, 30), (30, 25), (17, 20), (6, 12)], .vmaxF 5 30 17 6),
    (word 0x07 [(5, 30), (30, 25), (6, 12)], .vabsF 5 30 6),
    (word 0x08 [(5, 30), (30, 25), (17, 20), (6, 12), (9, 8), (1, 0)], .vaddI 5 30 17 6 9 false true),
    (word 0x09 [(5, 30), (30, 25), (17, 20), (6, 12), (1, 1)], .vsubI 5 30 17 6 0 true false),
    (word 0x0A [(5, 30), (30, 25), (17, 20), (6, 12), (6, 8), (1, 0)], .vmulI 5 30 17 6 6 false true),
    (word 0x0B [(5, 30), (30, 25), (17, 20), (6, 12), (1, 1)], .vminI 5 30 17 6 0 true),
    (word 0x0C [(5, 30), (30, 25), (17, 20), (6, 12), (7, 8)], .vmaxI 5 30 17 6 7 false),
    (word 0x0D [(5, 30), (30, 25), (17, 20), (6, 12)], .vand 5 30 17 6),
    (word 0x0E [(5, 30), (30, 25), (17, 20), (6, 12)], .vor 5 30 17 6),
    (word 0x0F [(5, 30), (30, 25), (17, 20), (6, 12)], .vxor 5 30 17 6),
    (word 0x10 [(5, 30), (30, 25), (6, 12), (8, 8), (1, 6), (31, 0)], .vshl 5 30 0 6 8 true 31),
    (word 0x11 [(5, 30), (30, 25), (17, 20), (6, 12), (8, 8)], .vshr 5 30 17 6 8 false 0),
    (word 0x12 [(5, 30), (30, 25), (6, 12), (6, 8), (1, 6), (17, 0)], .vsar 5 30 0 6 6 true 17),
    (word 0x18 [(5, 30), (30, 25), (17, 20), (6, 12), (2, 3), (5, 0)], .vcmp 5 30 17 6 2 5),
    (word 0x19 [(5, 30), (30, 25), (17, 20), (6, 12)], .vsel 5 30 17 6),
    (word 0x1A [(5, 30), (6, 25), (3, 20), (2, 0)], .kop 5 6 3 2),
    (word 0x1B [(33, 0), (6, 25), (3, 12), (2, 6)], .kpop 33 6 3 2),
    (word 0x20 [(5, 30), (30, 25), (6, 12)], .vexp2 5 30 6),
    (word 0x21 [(5, 30), (30, 25), (6, 12)], .vlog2 5 30 6),
    (word 0x22 [(5, 30), (30, 25), (6, 12)], .vrcp 5 30 6),
    (word 0x23 [(5, 30), (30, 25), (6, 12)], .vrsqrt 5 30 6),
    (word 0x24 [(5, 30), (30, 25), (6, 12)], .vtanh 5 30 6),
    (word 0x28 [(5, 30), (30, 25), (17, 20), (1, 17), (3, 15), (6, 12), (8, 8), (1, 4), (4, 0)], .vcvt 5 30 17 1 3 6 8 1 4),
    (word 0x29 [(5, 30), (30, 25), (17, 20)], .vpackMx 5 30 17),
    (word 0x2A [(5, 30), (30, 25), (6, 12), (4, 8), (1, 0)], .vunpk 5 30 6 4 true)] = true := by
  decide +kernel

theorem test_words_vector_2 : decodes .v [
    (word 0x2B [(5, 30), (30, 25), (17, 20), (6, 12), (3, 0)], .vscl 5 30 17 6 3),
    (word 0x30 [(5, 30), (30, 25), (6, 12)], .vmov 5 30 6),
    (word 0x31 [(5, 30), (62, 19), (6, 16), (1, 0)], .vbcast 5 62 6 0 true),
    (word 0x32 [(30, 25), (62, 19), (1, 7), (97, 0)], .vext 30 62 true 97),
    (word 0x33 [(5, 30), (30, 25), (17, 20), (6, 12)], .vperm 5 30 17 6),
    (word 0x34 [(5, 30), (30, 25), (6, 12), (2, 5), (5, 0)], .vxg 5 30 0 6 2 5),
    (word 0x35 [(5, 30), (30, 25), (9, 15), (6, 12)], .vcmprs 5 30 9 6),
    (word 0x36 [(5, 30), (30, 25), (6, 12)], .vexpd 5 30 6),
    (word 0x38 [(5, 30), (30, 25), (9, 15), (6, 12), (1, 5), (2, 3), (4, 0)], .vred 5 30 9 6 0 true 2 4),
    (word 0x39 [(5, 30), (30, 25), (9, 15), (6, 12), (1, 5)], .vpfx 5 30 9 6 true 0),
    (word 0x3A [(5, 30), (30, 25), (17, 20), (1, 0)], .vdesc 5 30 17 0 true),
    (word 0x3B [(5, 30), (30, 25), (62, 19), (6, 16), (2, 8), (129, 0)], .vnoise 5 30 62 6 2 129),
    (word 0x40 [(5, 30), (62, 19), (6, 16), (2049, 0)], .vld 5 62 6 2049),
    (word 0x41 [(5, 30), (62, 19), (6, 16), (1, 0)], .vst 5 62 6 1),
    (word 0x42 [(5, 30), (30, 25), (62, 19), (6, 16), (3, 0)], .vldx 5 30 62 6 3),
    (word 0x43 [(5, 30), (30, 25), (62, 19), (6, 16), (1, 0)], .vstx 5 30 62 6 1)] = true := by
  decide +kernel

theorem test_words_matrix : decodes .m [
    (word 0x01 [(33, 29)], .mcall 33),
    (word 0x02 [(5, 31), (62, 25), (16777217, 0)], .mpset 5 62 16777217),
    (word 0x03 [(5, 31), (62, 25)], .mpget 5 62),
    (word 0x04 [(13, 31), (62, 25), (524289, 4)], .dsetMem 13 62 524289),
    (word 0x04 [(13, 31), (62, 25), (6, 0), (1, 24)], .dsetField 13 62 6),
    (word 0x05 [(13, 31), (62, 25), (1, 0)], .dget 13 62 true),
    (word 0x06 [(13, 31), (1, 0)], .dtag 13 true),
    (word 0x07 [(62, 25), (1, 17), (1, 16), (15, 8), (240, 0)], .mzero 62 true true 15 240),
    (word 0x08 [(62, 23), (97, 12), (1, 11), (1025, 0)], .msca 62 97 true 1025),
    (word 0x09 [(1, 31), (62, 23), (2, 0)], .cvRd 1 62 2),
    (word 0x0A [(1, 33), (62, 23), (2, 0)], .cvWr 1 62 2),
    (word 0x0B [(3, 33), (1, 31), (2, 29)], .cvAdd 3 1 2),
    (word 0x0C [(3, 33), (1, 31), (62, 23)], .cvScl 3 1 62),
    (word 0x0D [(62, 25), (33, 6), (63, 0)], .mucode 62 33 63),
    (word 0x0D [(32, 0), (1, 12)], .mucodeClr 32)] = true := by
  decide +kernel

theorem test_words_copy : decodes .c [
    (word 0x01 [(5, 29), (62, 23), (33, 17), (6, 13), (9, 9), (1, 8), (1, 6)], .cp 5 62 33 6 9 true false true false),
    (word 0x02 [(5, 29), (62, 23), (34, 17), (6, 13), (9, 9), (1, 7), (1, 5)], .cp2d 5 62 34 6 9 false true false true),
    (word 0x03 [(5, 29), (62, 23), (33, 17), (6, 13), (1, 6), (1, 5)], .cpMc 5 62 33 6 0 false false true true),
    (word 0x04 [(62, 29), (6, 25)], .cpChain 62 6),
    (word 0x05 [(62, 29), (13, 25)], .cpStat 62 13),
    (word 0x06 [(62, 29), (3, 25)], .agCfg 62 3),
    (word 0x07 [(5, 29), (62, 23), (33, 17), (6, 13), (9, 9), (1, 8), (1, 7), (1, 2), (1, 0)], .cpAg 5 62 33 6 9 true true false false true 1),
    (word 0x08 [(62, 29), (3, 25)], .gqCfg 62 3),
    (word 0x09 [(62, 29), (3, 25), (33554431, 0)], .gqPush 62 3 33554431),
    (word 0x0A [(3, 25)], .gqEnd 3),
    (word 0x0B [(13, 29), (62, 23), (33, 17), (1, 15), (2, 13), (9, 9), (1, 5), (1, 3), (4, 0)], .acpyOut 13 62 33 true 2 9 true false true 4),
    (word 0x0C [(13, 29), (62, 23), (9, 9), (1, 6), (1, 5), (1, 4)], .acpyIn 13 62 9 true true true),
    (word 0x0D [(62, 29), (5, 25)], .cbInit 62 5),
    (word 0x0E [(62, 29), (5, 25), (6, 4), (3, 0)], .cbPush 62 5 6 3),
    (word 0x0F [(5, 29), (62, 23), (34, 17), (6, 13), (9, 9), (1, 8), (1, 7), (1, 6)], .cpSeq 5 62 34 6 9 true true true),
    (word 0x18 [(5, 29), (62, 23), (33, 17), (9, 9), (1, 8), (1, 6), (2, 0)], .lkSend 5 62 33 9 true false true 2),
    (word 0x19 [(5, 29), (62, 23), (33, 17), (9, 9), (1, 7), (1, 5), (5, 0)], .lkRecv 5 62 33 9 false true false true 5),
    (word 0x1A [(62, 29), (13, 25), (1, 0)], .lkStat 62 13 1),
    (word 0x1B [(62, 29), (13, 25)], .lkTide 62 13),
    (word 0x1C [(62, 29)], .lkCirc 62),
    (word 0x1D [(62, 29), (13, 25)], .lkPark 62 13),
    (word 0x1E [(62, 29), (3, 25)], .lkRate 62 3)] = true := by
  decide +kernel

theorem test_words_sync : decodes .y [
    (word 0x01 [(1, 31), (14, 27), (7, 23), (9, 19)], .wait 1 14 7 9),
    (word 0x02 [(40961, 0)], .wtag 40961),
    (word 0x02 [(40961, 0), (1, 16)], .wtagClr 40961),
    (word 0x03 [(62, 23), (33, 17), (65537, 0)], .barInit 62 33 65537),
    (word 0x04 [(5, 29), (62, 23), (33, 17), (1, 16), (32769, 0)], .barArv 5 62 33 true 32769),
    (word 0x04 [(62, 23), (33, 17), (32769, 0), (1, 16)], .barMark 62 33 32769),
    (word 0x05 [(5, 29), (62, 23), (33, 17)], .barWait 5 62 33),
    (word 0x06 [(62, 23), (1, 0)], .barPar 62 true),
    (word 0x07 [(62, 23)], .barRet 62),
    (word 0x08 [(33, 17), (9, 12), (2049, 0)], .flPost 33 9 2049),
    (word 0x08 [(62, 23), (33, 17), (9, 12), (2049, 0), (1, 16)], .flPostR 62 33 9 2049),
    (word 0x09 [(5, 29), (9, 12), (2049, 0)], .flWait 5 9 2049),
    (word 0x0A [(4, 6), (3, 3), (1, 0)], .fenceX 4 3 1),
    (word 0x0B [], .fenceSc),
    (word 0x0C [], .drain),
    (word 0x0D [(62, 23), (33, 17), (129, 0)], .tkWait 62 33 129),
    (word 0x0E [(5, 29), (5, 0)], .cbPop 5 5),
    (word 0x0F [(62, 23), (8193, 3), (5, 0)], .cbRel 62 8193 5),
    (word 0x10 [], .step),
    (word 0x11 [], .seg),
    (word 0x11 [(1, 0)], .segOff),
    (word 0x12 [(2, 0)], .rdv 2),
    (word 0x18 [(2, 0)], .gBar 2),
    (word 0x19 [(6, 29), (62, 23), (33, 17), (6, 2), (1, 0)], .gRed 6 62 33 6 1),
    (word 0x1A [(5, 29), (2, 0)], .gInfo 5 2)] = true := by
  decide +kernel

theorem test_words_bit_network : decodes .x [
    (word 0x01 [(62, 23), (5, 14)], .bnLd 62 5),
    (word 0x02 [(5, 29), (62, 23), (33, 17), (5, 14)], .bnMap 5 62 33 5),
    (word 0x03 [(5, 29), (62, 23), (33, 17), (5, 14)], .bnMapx 5 62 33 5)] = true := by
  decide +kernel

/-- Micro-ops: UOP [63:60], A [59:57], IMM [47:0] (12 R294, R295). -/
theorem test_words_micro : [
    (0x1000000000000001, Instr.ldw true), (0x2000000000000000, .strm), (0x3A00000000000009, .acc 5 9),
    (0x4000000000000000, .grade), (0x5C00000000000000, .tail 6), (0x6000000000000000, .bound),
    (0x7000000000000000, .xmax), (0x8000000000000000, .blk), (0x9000000000000001, .seta true),
    (0xA000000000000021, .loop 33), (0xB00000000000003F, .brz 63), (0xC000000000000000, .uend)].all
    (fun q => decide (decodeMicro q.1 = some q.2)) = true := by
  decide +kernel

/-- A micro-op with a code that has no row, or with a bit of an unused field set, has no meaning (12 R294). -/
theorem test_micro_refused : [0x0000000000000000, 0xD000000000000000, 0xF000000000000000, 0x1000000000000002,
    0x2000000000000001, 0x3A00000000000109, 0x5C00000000000001, 0xA000000000000040, 0x1001000000000000,
    0x3A40000000000009].all (fun w => decide (decodeMicro w = none)) = true := by
  decide +kernel

/-- Words of the spec's own examples (04, 13, 17, 19, 20). -/
theorem test_words_of_the_examples :
    decodeOp .s 0x4B0040800008 = .ok (0, .stD 2 1 8) ∧ decodeOp .s 0x500041880009 = .ok (0, .amo 2 3 4 0 9)
    ∧ decodeOp .m 0x020298000000 = .ok (0, .mpset 5 12 0) ∧ decodeOp .m 0x0D0012000268 = .ok (0, .mucode 9 9 40)
    ∧ decodeOp .c 0x0B0042008000 = .ok (0, .acpyOut 2 4 0 true 0 0 false false false 0)
    ∧ decodeOp .c 0x1902C5A20020 = .ok (0, .lkRecv 22 11 17 0 false false false true 0)
    ∧ decodeOp .c 0x1A0124000002 = .ok (0, .lkStat 9 2 2) := by
  decide +kernel

/-- The guard field: p9, and its inverse (05 R109). -/
theorem test_guard_bits : decodeOp .y (0x10 * 2 ^ 40 + 9 * 2 ^ 35) = .ok (9, .step)
    ∧ decodeOp .y (0x10 * 2 ^ 40 + 25 * 2 ^ 35) = .ok (25, .step) := by
  decide +kernel

/-! ## The checks on an op's fields: an ill-formed term for each, and the decoder refuses its word (05 R111) -/

/-- The word that the encoding tables give a term, as an op of its map. -/
def refuses (i : Instr) : Bool :=
  match opFields i with
  | some (cls, _, _) => decide (decodeOp cls (encodeOp 0 i) = .error .range)
  | none => false

theorem test_ill_formed_terms_are_refused : [
    Instr.pset 0 1 2 0, .pseti 0 1 0 5, .plog 0 1 2 0, .ldQ 3 1 0, .stQ 5 1 0, .amo 1 2 3 2 0, .amo 1 2 3 0 10,
    .amo 1 2 3 1 9, .cas 1 2 3 0, .cas 1 2 4 2, .sqFork 1 2 3, .rep 1 0 1, .sysRd 1 0x003, .sysRd 1 0x016,
    .sysRd 1 0x124, .sysWr 1 0x030, .vaddF 1 2 3 4 0 0, .vsubF 1 2 3 0 0 5, .vmulF 1 2 3 4 0 3, .vfmaF 1 2 3 4 0 4,
    .vaddI 1 2 3 0 1 false false, .vsubI 1 2 3 0 6 true false, .vmulI 1 2 3 0 10 false true, .vminI 1 2 3 0 5 false,
    .vmaxI 1 2 3 0 8 true, .vshl 1 2 3 0 0 true 4, .vshr 1 2 3 0 0 false 4, .vsar 1 2 0 0 2 true 4,
    .vcmp 1 2 3 0 0 7, .vcmp 1 2 3 0 3 0, .vcmp 1 2 3 0 1 6, .kop 1 2 3 6, .kop 1 2 3 4, .kpop 1 2 0 3,
    .vcvt 1 2 0 0 0 0 5 0 0, .vcvt 1 2 0 0 0 0 3 3 0, .vcvt 1 2 0 0 2 0 1 0 0, .vcvt 1 2 0 1 0 0 1 0 0,
    .vcvt 1 2 3 0 0 0 1 0 0, .vcvt 1 2 0 0 0 0 10 0 0, .vcvt 1 2 0 0 0 0 0 1 5, .vunpk 1 2 0 2 false,
    .vscl 1 2 3 0 4, .vbcast 1 2 0 5 false, .vbcast 1 2 0 6 true, .vxg 1 2 3 0 0 1, .vxg 1 2 3 0 3 1,
    .vxg 1 2 0 0 4 1, .vcmprs 1 2 1 0, .vred 1 2 3 0 0 false 0 5, .vred 1 2 0 0 0 false 3 0,
    .vred 1 2 0 0 1 false 1 0, .vred 1 2 3 0 0 false 0 0, .vred 1 2 1 0 0 false 0 3, .vpfx 1 2 1 0 false 0,
    .vpfx 1 2 3 0 true 1, .vpfx 1 2 3 0 false 3, .vdesc 1 2 3 4 false, .vdesc 1 2 3 4 true,
    .vnoise 1 2 3 0 0 0, .vnoise 1 2 4 0 3 0].all (fun i => !i.wellFormed && refuses i) = true := by
  decide +kernel

theorem test_ill_formed_terms_are_refused_2 : [
    Instr.dsetField 1 2 7, .mzero 0 false false 16 240, .mzero 1 true false 0 0, .mzero 1 false true 0 0,
    .msca 3 0 false 0, .msca 4 0 false 1, .mucode 1 0 31, .mucodeClr 31, .cp 1 2 3 0 5 false false false false,
    .cp2d 1 2 3 0 0 false false false false, .cp2d 1 2 4 0 1 false false false false,
    .cpMc 1 2 3 0 15 false false true true, .cpAg 1 2 3 0 1 false false false false false 0,
    .cpSeq 1 2 3 0 0 true false false, .cpSeq 1 2 4 0 1 false false true, .acpyOut 1 2 3 false 0 0 false false false 0,
    .acpyOut 1 2 0 false 0 0 false false false 5, .acpyOut 1 2 0 false 0 0 false true true 0,
    .acpyOut 1 2 0 true 0 0 false true false 0, .acpyOut 1 2 0 false 0 3 false false false 0,
    .acpyIn 1 2 0 true false false, .acpyIn 1 2 3 false false true, .fenceX 5 0 0,
    .fenceX 0 5 0, .fenceX 0 0 7, .gRed 2 3 4 7 0, .gRed 3 4 5 5 0, .lkStat 1 0 3, .lkStat 1 8 2].all
    (fun i => !i.wellFormed && refuses i) = true := by
  decide +kernel

theorem test_terms_whose_words_mean_another : (Instr.sysWr 1 0x018).wellFormed = false
    ∧ decodeOp .s (encodeOp 0 (.sysWr 1 0x018)) = .ok (0, .tlbInv 1)
    ∧ (Instr.barArv 0 1 2 true 0).wellFormed = false
    ∧ decodeOp .y (encodeOp 0 (.barArv 0 1 2 true 0)) = .ok (0, .barMark 1 2 0) := by
  decide +kernel

/-! ## States for single steps -/

/-- A core that runs a node of context 0 and has a handler at 0x100. -/
def runs : Core := { Core.reset with run := .running, trapEntry := 0x100 }

/-- A device in full service whose core 0 is k. -/
def device (k : Core) : State := { State.reset with stage := 4, cores := [(0, k)] }

/-- Core 0 runs with these scalar registers. -/
def withS (l : Tab W64) : State := device { runs with s := l }

/-- What a property of the next state answers; false of a fault or a refusal. -/
def ends (i : Instr) (s : State) (p : State → Bool) : Bool :=
  match exec i s with
  | .next t => p t
  | _ => false

/-- Scalar register n of core 0 is x afterwards. -/
def gives (i : Instr) (s : State) (n : Nat) (x : W64) : Bool := ends i s fun t => (t.core 0).getS n == x

/-- Core 0 is in its handler afterwards, with this trap. -/
def traps (i : Instr) (s : State) (code info : Nat) (addr : W64) : Bool := ends i s fun t =>
  let k := t.core 0
  k.hs && k.pc == 0x100 && k.trapCode.toNat == code && k.trapInfo.toNat == info && k.trapAddr == addr

/-- Words of 8 bytes written to memory. -/
def pokes (s : State) (l : List (Nat × W64)) : State := l.foldl (fun s p => s.writeW p.1 p.2) s

/-- The scratchpad of core 0 begins here (02 R25). -/
def sp : Nat := 0x4000000000

/-! ## Scalar ops, against the tables of 06 -/

theorem test_add_wraps : gives (.add 3 1 2) (withS [(1, 0xFFFFFFFFFFFFFFFF), (2, 1)]) 3 0 = true := by decide +kernel
theorem test_write_to_s0_is_discarded : ends (.li 0 5) (withS []) (fun t => t.core 0 == runs) = true := by decide +kernel
theorem test_sar_keeps_the_sign : gives (.sar 3 1 2) (withS [(1, 0x8000000000000000), (2, 63)]) 3 (-1) = true := by
  decide +kernel
theorem test_shl_takes_six_bits_of_the_count : gives (.shl 3 1 2) (withS [(1, 1), (2, 65)]) 3 2 = true := by decide +kernel
theorem test_slt_is_signed : gives (.slt 3 1 2) (withS [(1, -1), (2, 1)]) 3 1 = true
    ∧ gives (.sltu 3 1 2) (withS [(1, -1), (2, 1)]) 3 0 = true := by decide +kernel
theorem test_count_of_zero_is_64 : gives (.clz 3 1) (withS []) 3 64 = true ∧ gives (.ctz 3 1) (withS []) 3 64 = true := by
  decide +kernel
theorem test_mulh_of_minus_one : gives (.mulh 3 1 2) (withS [(1, -1), (2, 2)]) 3 (-1) = true
    ∧ gives (.mulhu 3 1 2) (withS [(1, -1), (2, 2)]) 3 1 = true := by decide +kernel
/-- 06 R137. -/
theorem test_division_by_zero : gives (.div 3 1 2) (withS [(1, 7)]) 3 (-1) = true
    ∧ gives (.div 3 1 2) (withS [(1, -7)]) 3 1 = true ∧ gives (.divu 3 1 2) (withS [(1, -7)]) 3 (-1) = true
    ∧ gives (.rem 3 1 2) (withS [(1, -7)]) 3 (-7) = true ∧ gives (.remu 3 1 2) (withS [(1, 7)]) 3 7 = true := by
  decide +kernel
theorem test_division_overflow : gives (.div 3 1 2) (withS [(1, 0x8000000000000000), (2, -1)]) 3 0x8000000000000000 = true
    ∧ gives (.rem 3 1 2) (withS [(1, 0x8000000000000000), (2, -1)]) 3 0 = true := by decide +kernel
theorem test_sltui_extends_its_immediate : gives (.sltui 3 1 0x7FFFFF) (withS [(1, 5)]) 3 1 = true := by decide +kernel
theorem test_plog_andn : ends (.plog 3 1 2 3) (device { runs with pwin := 0x0003 }) (fun t => (t.core 0).pwin == 0x000B) = true := by
  decide +kernel
theorem test_br_counts_from_its_bundle : ends (.br 0x7FFFFFFFF) { withS [] with iss := { Issue.none with pcb := 0x40, npc := 0x4A } }
    (fun t => (t.core 0).pc == 0x3E && (t.core 0).bubbleBr == 2) = true := by decide +kernel
theorem test_br_below_zero_is_code_range : traps (.br 0x7FFFFFFFF) (withS []) 2 0x10000 0 = true := by decide +kernel
/-- 06 R164: selector 0 names bit 64, which is bit 0 of S[sb]; selector 1 is 1, selector 2 is 0. -/
theorem test_bn_map_and_mapx : let s := device { runs with s := [(2, 1), (3, 6)], bn := [(0, 0x808140)] }
    gives (.bnMap 3 1 2 0) s 3 3 = true ∧ gives (.bnMapx 3 1 2 0) s 3 7 = true := by decide +kernel

/-! ## Memory, atomics and traps -/

theorem test_ld_b_extends : let s := pokes (withS [(1, 0x10)]) [(sp + 0x10, 0x80)]
    gives (.ldB 2 1 0) s 2 0xFFFFFFFFFFFFFF80 = true ∧ gives (.ldBu 2 1 0) s 2 0x80 = true := by decide +kernel
/-- 02 R18: the store is outstanding after its bundle, and performs later. -/
theorem test_st_d_lowest_byte_first : ends (.stD 2 1 8) (withS [(1, 0x1FFFF0), (2, 0x0102030405060708)])
    (fun t => t.byte (sp + 0x1FFFF8) == 0 && ends (.storePerform 0 0) t
      (fun u => u.byte (sp + 0x1FFFF8) == 8 && u.byte (sp + 0x1FFFFF) == 1)) = true := by decide +kernel
theorem test_ld_q_writes_the_pair : let s := pokes (withS []) [(sp, 11), (sp + 8, 12)]
    gives (.ldQ 4 0 0) s 4 11 = true ∧ gives (.ldQ 4 0 0) s 5 12 = true := by decide +kernel
theorem test_misaligned_load_is_align : traps (.ldW 2 1 0) (withS [(1, 6)]) 5 2 6 = true := by decide +kernel
/-- 02 R23: 0x200000 lies in no window. -/
theorem test_gap_after_the_scratchpad_is_xlate : traps (.ldD 2 1 0) (withS [(1, 0x200000)]) 6 39 0x200000 = true := by
  decide +kernel
/-- What a property of the state answers in which the op of core 0 has returned. -/
def returned (i : Instr) (s : State) (p : State → Bool) : Bool := ends i s fun t => ends (.loadReturn 0 0) t p

/-- The rows of the table of 17 R378. -/
theorem test_amo_fadd : [(0x3F800000, 0x33800000, 0x3F800000), (0x80000000, 0x80000000, 0x80000000),
    (0x00000000, 0x80000000, 0x00000000), (0x7F800000, 0xFF800000, 0x7FC00000)].all (fun r : W64 × W64 × W64 =>
      returned (.amo 3 1 2 0 9) (pokes (withS [(1, 0x40), (2, r.2.1)]) [(sp + 0x40, r.1)])
        fun t => t.readW (sp + 0x40) == r.2.2 && (t.core 0).getS 3 == r.1) = true := by decide +kernel
theorem test_cas_of_another_value : returned (.cas 3 1 2 1) (pokes (withS [(1, 0x40), (2, 8), (3, 9)]) [(sp + 0x40, 7)])
    (fun t => t.readW (sp + 0x40) == 7 && (t.core 0).getS 3 == 7) = true := by decide +kernel
theorem test_trap_resumes_after_its_bundle : ends (.trap 0x7FFFFF) (device { runs with pc := 0x4A }) (fun t =>
    (t.core 0).trapPc == 0x4A && (t.core 0).trapInfo == 0x7FFFFF && (t.core 0).trapCode == 4) = true := by decide +kernel
theorem test_rett_outside_the_handler_is_priv : traps .rett (withS []) 0x11 0 0 = true := by decide +kernel
theorem test_status_bits_clear_by_writing_one : ends (.sysWr 1 0x060) (device { runs with s := [(1, 0x7F)], status := 0x2D })
    (fun t => (t.core 0).status == 0x20) = true := by decide +kernel
theorem test_cmpt_v_names_the_lowest_lane : traps (.cmptV 1 2) (device { runs with
    v := [(1, List.replicate 127 0 ++ [1])] }) 0xD 127 0 = true := by decide +kernel

/-! ## Sequences and barriers, against the traces of 17 R371 and 14 R324 -/

/-- A live sequence of core 0 at 0x80 with LC 10, LR 300 and this window: template word 0x00000001_00010006. -/
def sequence (window : Nat) : State :=
  { pokes (withS [(1, 0x80), (2, 265), (3, 266), (4, 10)]) [
      (sp + 0x80, 10), (sp + 0x88, 300), (sp + 0x90, 1024), (sp + 0x98, 0x100010006)] with marks := [] }.writeNat
    (sp + 0x80 + 0x40) 32 window

theorem test_commit_at_the_last_window_bit : ends (.sqCmt 5 1 2) (sequence 0) (fun t =>
    (t.core 0).getS 5 == 0 && t.readW (sp + 0x80) == 10 && t.readW (sp + 0xD8) == 0x8000000000000000) = true := by decide +kernel
theorem test_commit_past_the_window_is_busy : ends (.sqCmt 5 1 3) (sequence (2 ^ 255)) (fun t =>
    (t.core 0).getS 5 == 1 && t.readW (sp + 0x80) == 10) = true := by decide +kernel
theorem test_commit_of_the_hole_moves_lc : ends (.sqCmt 5 1 4) (sequence (2 ^ 255)) (fun t =>
    (t.core 0).getS 5 == 0 && t.readW (sp + 0x80) == 11 && t.readW (sp + 0xD8) == 0x4000000000000000) = true := by
  decide +kernel
theorem test_second_commit_is_seq_double : traps (.sqCmt 5 1 2) (sequence (2 ^ 255)) 0xB 265 0x80 = true := by decide +kernel

/-- Core 9 of context 2 with a slot at 0x3000 that holds these two words. -/
def barrier (lo hi : W64) (k : Core) : State :=
  { pokes { State.reset with stage := 4, cores := [(9, k)] } [(spBase 9 + 0x3000, lo), (spBase 9 + 0x3008, hi)] with
    armed := [(spBase 9 + 0x3000) / 16], iss := { Issue.none with core := 9 } }

theorem test_bar_init_writes_the_slot : ends (.barInit 1 0 1) { barrier 0 0 { runs with ctx := 2, s := [(1, 0x3000)] } with armed := [] }
    (fun t => t.readW (spBase 9 + 0x3000) == 0x100001B0 && t.readW (spBase 9 + 0x3008) == 0x5A5A520900000000) = true := by
  decide +kernel
theorem test_bar_arv_meets_the_credit : ends (.barArv 5 1 0 false 4)
    (barrier 0x100001B0 0x5A5A520900000400 { runs with ctx := 2, s := [(1, 0x3000)] })
    (fun t => t.readW (spBase 9 + 0x3000) == 0x00040000100001B1 && t.readW (spBase 9 + 0x3008) == 0x5A5A520900000400
      && (t.core 9).getS 5 == 0) = true := by decide +kernel
theorem test_bar_wait_of_an_old_token_is_stale : ends (.barWait 6 1 0)
    (barrier 0x00040000100001B3 0x5A5A520900000400 { runs with ctx := 2, s := [(1, 0x3000)] })
    (fun t => (t.core 9).getS 6 == 1 && (t.core 9).statusBit 0 && (t.core 9).hold == none) = true := by decide +kernel
theorem test_bar_wait_of_the_phase_holds : ends (.barWait 6 1 2)
    (barrier 0x00040000100001B3 0x5A5A520900000400 { runs with ctx := 2, s := [(1, 0x3000), (2, 3)] })
    (fun t => (t.core 9).hold.isSome) = true := by decide +kernel

/-! ## The vector engine, against the tables of 09 -/

/-- Lane 0 of v2 and v3. -/
def lanes (a b : W32) : State := device { runs with v := [(2, a :: List.replicate 127 0), (3, b :: List.replicate 127 0)] }
/-- Lane 0 of v1 is x afterwards. -/
def lane0 (i : Instr) (s : State) (x : W32) : Bool := ends i s fun t => lane ((t.core 0).getV 1) 0 == x

theorem test_vadd_f_rounds_a_tie_to_even : lane0 (.vaddF 1 2 3 0 0 0) (lanes 0x3F800000 0x33800000) 0x3F800000 = true := by
  decide +kernel
theorem test_vadd_f_of_opposite_infinities : lane0 (.vaddF 1 2 3 0 0 0) (lanes 0x7F800000 0xFF800000) 0x7FC00000 = true := by
  decide +kernel
theorem test_vfma_f_rounds_once : lane0 (.vfmaF 1 2 3 4 0 0) (device { runs with
    v := [(2, 0x3F800001 :: List.replicate 127 0), (3, 0x3F7FFFFE :: List.replicate 127 0), (4, 0xBF800000 :: List.replicate 127 0)] })
    0xA8800000 = true := by decide +kernel
theorem test_vadd_i_saturates : ends (.vaddI 1 2 3 0 8 false true) (lanes 0x7F80 0x0180)
    (fun t => lane ((t.core 0).getV 1) 0 == 0x7F80 && (t.core 0).statusBit 3) = true := by decide +kernel
theorem test_vexp2_exact : lane0 (.vexp2 1 2 0) (lanes 0x40400000 0) 0x41000000 = true
    ∧ lane0 (.vexp2 1 2 0) (lanes 0x43000000 0) 0x7F800000 = true := by decide +kernel
theorem test_vrcp_of_the_least_subnormal : lane0 (.vrcp 1 2 0) (lanes 0x00000001 0) 0x7F800000 = true := by decide +kernel
theorem test_vlog2_of_a_power : lane0 (.vlog2 1 2 0) (lanes 0x3E000000 0) 0xC0400000 = true := by decide +kernel
theorem test_vcmp_writes_the_ungoverned_bits : ends (.vcmp 1 2 3 4 0 0) (device { runs with
    k := [(1, BitVec.allOnes 128), (4, 1)] }) (fun t => (t.core 0).getK 1 == 1) = true := by decide +kernel
theorem test_kpop_of_no_bit_is_128 : gives (.kpop 3 1 0 1) (withS []) 3 128 = true := by decide +kernel

/-! ## A step -/

/-- The code words of a bundle that holds only `addi s2, s2, 1`, the first one lowest: step runs it as the first
instruction after reset. -/
theorem test_step_runs_the_bundle : (match step (State.reset.withFetchWord 80 0x0020004100000101FFFF) with
    | .next t => (t.core 0).getS 2 == 1 && (t.core 0).pc == 10
    | _ => false) = true := by decide +kernel

/-- 02 R40: CP accesses go on reading what a copy has overwritten until fence.x CY, CP; a fence of another path is not enough. -/
theorem test_fence_x_orders_paths :
    let s := ((device runs).keepBytes .cp 0x2000 1).writeBy { core := 0, unit := 1 } 0x2000 [7]
    s.byte 0x2000 = 7 ∧ s.seen .cp 0x2000 = 0 ∧ (s.fenceX 0 .mx .cp 3).seen .cp 0x2000 = 0
    ∧ (s.fenceX 0 .cy .cp 3).seen .cp 0x2000 = 7 := by decide +kernel

/-- 06 R131: the result of mul may be read 3 cycles after its issue. -/
theorem test_mul_latency :
    let k : Core := { runs with seq := 4, outs := [{ id := 0, seq := 4, kind := .done, dst := [.s 1], inL := false, pc := 0, asked := none }] }
    let s : State := { device k with iss := { (device k).iss with core := 0, at_ := 4 } }
    (((s.timed 0 (.mul 1 2 3)).core 0).outs.map (·.ready)) = [some 7] := by decide +kernel

/-! ## Witnesses: states and operands that meet the hypotheses of each statement, clause by clause

A theorem witness_X is about Obligations.X. -/

/-- Context 0 maps virtual 0x40000000 on to physical 0 on and virtual 0x60000000 on to the window of chip 1, one
leaf of 512 MB each: CCB at 0x1000, tables at 0x10000, 0x12000 and 0x13000 (08 R188, R194). -/
def mapped (k : Core) : State :=
  { pokes (device { k with ccb := 0x1000 }) [
      (0x1000, 0x10000), (0x10000, 0x12001), (0x12000, 0x13001), (0x13010, 0x33), (0x13018, 0x8004000000033)] with
    ctxs := [(0, some { ccb := 0x1000, conn := some 0, byDispatcher := false, stopping := none, restoring := false })]
    conns := [(0, some false)], dsize := 1, straits := [(0, { Strait.reset with face := true })]
    sched := some { slots := [1], nslot := 0, start := 0 } }

/-- Core 0 of such a device with these scalar registers. -/
def mappedS (l : Tab W64) : State := mapped { runs with s := l }

/-- A divisor; a result that its op has just left, before its latency has passed and after; and a load of each region. -/
theorem witness_LongScalarOpsWriteSdUnderAMark : (withS [(2, 1)]).srcS 2 ≠ 0
    ∧ (∀ n ∈ [2, 3], let o : Out := { id := 7, seq := 0, kind := .done, dst := [.s 1], inL := false, pc := 0, asked := none, ready := some n }
      let k : Core := { runs with outs := [o], seq := 1, stallLoad := 1 }
      o ∈ ((device k).core 0).outs ∧ 7 ≤ o.id ∧ k.outs = [o] ∧ (k.frontCycle < n ↔ n = 3) ∧ (n ≤ k.frontCycle ↔ n = 2)
      ∧ k.hold.isNone = true ∧ k.hidHold.isNone = true ∧ (device k).banksShared 0 = false)
    ∧ (∀ d ∈ [1, 8, 64], (device runs).region (spBase d) = .scratch d) ∧ (device runs).region 0 = .shelf 0
    ∧ (device runs).region cfgBase = .config := by decide +kernel

theorem witness_DivisionTakesNoTrapInItsCorners : (withS []).srcS 2 = 0
    ∧ (withS [(1, 0x8000000000000000), (2, -1)]).srcS 1 = 0x8000000000000000
    ∧ (withS [(1, 0x8000000000000000), (2, -1)]).srcS 2 = 0xFFFFFFFFFFFFFFFF := by decide +kernel

theorem witness_PredicateOpsWriteOnlyThePredicateWindow : (1 : PR) ≠ 0 ∧ (15 : PR) ≠ 0 := by decide +kernel

theorem witness_BitNetworkLoadReadsItsPattern : ∀ a ∈ [0, 0x1FFFC0], let s := withS [(1, .ofNat 64 a)]
    (s.srcS 1).toNat % 64 = 0 ∧ (s.srcS 1).toNat + 64 ≤ 0x200000 ∧ poisoned s.errs (spBase s.cur + a) 64 = none
    ∧ s.gatedAt (spBase s.cur + a) = false := by decide +kernel

/-- The last aligned address of the own scratchpad, for each width. -/
theorem witness_LoadsFromTheOwnScratchpadExtendTheirBytes : ∀ n ∈ [1, 2, 4, 8, 16],
    let s := withS [(1, .ofNat 64 (0x200000 - n))]
    s.reaches (s.srcS 1) n .read (sp + 0x200000 - n) ∧ inOwn s.cur (sp + 0x200000 - n) = true
    ∧ s.loadPoison s.cur (sp + 0x200000 - n) n = none ∧ s.gatedAt (sp + 0x200000 - n) = false
    ∧ (4 : SR).getLsbD 0 = false := by
  unfold State.reaches; decide +kernel

/-- A scratchpad of the cluster, a shelf address and the window of chip 1. -/
theorem witness_LoadsFromElsewhereStayOutstanding : ∀ n ∈ [1, 2, 4, 8, 16],
    ∀ q ∈ [(0x1200000 - n, sp + 0x200000 - n), (0x1200000, sp + 0x200000), (0x40000000, 0), (0x60000000, 2 ^ 51 + 2 ^ 38)],
    let s := mappedS [(1, .ofNat 64 q.1)]
    s.reaches (s.srcS 1) n .read q.2 ∧ (q.1 = 0x1200000 - n ∨ inOwn s.cur q.2 = false)
    ∧ s.loadPoison s.cur q.2 n = none
    ∧ (s.region q.2 = .peer 1 ∨ s.region q.2 = .scratch 0 ∨ s.region q.2 = .scratch 1 ∨ s.region q.2 = .shelf 0)
    ∧ s.routed 1 = true := by
  unfold State.reaches; decide +kernel

/-- An outstanding op of core 0. -/
def producer (kind : OutKind) (dst : List Reg) : State := device { runs with
  outs := [{ id := 0, seq := 0, kind := kind, dst := dst, inL := true, pc := 0, asked := none }], nextId := 1 }

/-- A load of core 0 from pa into s6, or the pair s6, s7, whose request left in frame 2 and which has the answer of a
drawer; chip 1 and drawer 0 are there, and `cycle` cycles have passed since the first frame. -/
def loading (pa n : Nat) (asked : Option Nat) (cycle : Nat) : State := { device { runs with
    outs := [{ id := 4, seq := 0, kind := .load 0 pa n false, dst := if n = 16 then [.s 6, .s 7] else [.s 6], inL := true, pc := 0, asked := asked }]
    nextId := 5 } with
  dsize := 1, gib := [(0, 16)], cycle := .ofNat 64 cycle
  drawerReqs := [{ core := 0, unit := 0, id := 4, pa := pa, ready := 0, strait := 2, frame := some 2, answered := true }] }

/-- Each region, single and as a pair; a load that waits for an earlier store, one that meets an error, one under a
buffered store of its core, and a line of the fabric cache, an answer that has come and one that is still out. -/
theorem witness_ReturningLoadsWriteTheirRegisters :
    (((producer .done []).core 0).outs[0]?.map (·.kind)) = some .done
    ∧ (∀ n ∈ [8, 16], ∀ q ∈ [(0, Region.shelf 0), (0xC00000000 - n, .shelf 0), (sp + 0x200000, .scratch 1), (sp, .scratch 0),
        (2 ^ 45, .drawer 0), (0x4100000000, .config), (2 ^ 51 + 2 ^ 38, .peer 1)],
        let s := loading q.1 n none 500
        (match (s.core 0).outs with
          | [o] => o.id == 4 && (match o.kind with
            | .load _ pa m _ => pa == q.1 && m == n
            | _ => false)
          | _ => false) = true ∧ s.region q.1 = q.2
        ∧ s.inOrder 0 4 q.1 n = true ∧ s.readPoison 0 4 q.1 n = none ∧ s.gatedAt q.1 = false
        ∧ ({ s with errs := [q.1 + n - 1] } : State).readPoison 0 4 q.1 n = some (q.1 + n - 1))
    ∧ (∀ r ∈ (loading (2 ^ 45) 8 none 500).drawerReqs, r.frame = some 2 ∧ r.answered = true
        ∧ 48 * 2 + 404 ≤ (loading (2 ^ 45) 8 none 500).linkCycle)
    ∧ (let s := loading (2 ^ 51 + 2 ^ 38) 8 (some 2) 635
       let f : FabricLine := { isle := 0, line := (2 ^ 51 + 2 ^ 38) / 64, bytes := [] }
       s.fabricLine 0 (2 ^ 51 + 2 ^ 38) = none ∧ s.linkCycle < 48 * 2 + 540
       ∧ 48 * 2 + 540 ≤ (loading (2 ^ 51 + 2 ^ 38) 8 (some 2) 636).linkCycle
       ∧ (loading (2 ^ 51 + 2 ^ 38) 8 (some 2) 636).loadReady 0 ((s.core 0).outs.getD 0 default) (2 ^ 51 + 2 ^ 38) = true
       ∧ ({ s with fabric := [f] } : State).fabricLine (isleOf 0) (2 ^ 51 + 2 ^ 38) = some f)
    ∧ (let x : Sto := { id := 3, seq := 0, va := 0, pa := 4, bytes := [1, 2], performed := false, pc := 0, lanes := [] }
       let k := (loading 0 8 none 0).core 0
       (device { k with stores := [x] }).inOrder 0 4 0 8 = false
       ∧ (let s : State := { device { k with segment := { k.segment with buffer := [x] } } with errs := [4] }
          s.inOrder 0 4 0 8 = true ∧ s.readPoison 0 4 0 8 = none)) := by decide +kernel

/-- A store of core 0 that has issued. -/
def stored (pa : Nat) (performed : Bool) : State := device { runs with
  stores := [{ id := 0, seq := 0, va := 0x1200000, pa := pa, bytes := [1, 2], performed := performed, pc := 0, lanes := [] }] }

theorem witness_StoresToTheOwnScratchpadWriteTheirBytes : (∀ n ∈ [1, 2, 4, 8, 16],
    let s := withS [(1, .ofNat 64 (0x200000 - n))]
    s.reaches (s.srcS 1) n .write (sp + 0x200000 - n) ∧ s.region (sp + 0x200000 - n) = .scratch 0
    ∧ s.overlapsArmed (sp + 0x200000 - n) n = false ∧ s.overlapsMark (sp + 0x200000 - n) n = false
    ∧ inOwn s.cur (sp + 0x200000 - n) = true)
    ∧ (let k := (stored (sp + 0x1FFFFE) false).core 0
       (k.stores.map fun x => (x.performed, x.lanes.isEmpty, inOwn 0 x.pa)) = [(false, true, true)] ∧ k.outs = []) := by
  unfold State.reaches; decide +kernel

theorem witness_StoresElsewherePerformLater :
    (∀ n ∈ [1, 2, 4, 8, 16], let s := mappedS [(1, 0x1200000)]
      s.reaches (s.srcS 1) n .write (sp + 0x200000) ∧ s.region (sp + 0x200000) = .scratch 1
      ∧ s.overlapsArmed (sp + 0x200000) n = false ∧ s.overlapsMark (sp + 0x200000) n = false
      ∧ inOwn s.cur (sp + 0x200000) = false)
    ∧ ((((stored (sp + 0x200000) true).core 0).stores[0]?.map (·.performed)) = some true)
    ∧ (let s := stored (sp + 0x200000) false
       ((s.core 0).stores[0]?.map fun x => (x.performed, x.lanes.isEmpty, s.storeReady 0 x)) = some (false, true, true)
       ∧ s.region (sp + 0x200000) ≠ .config)
    ∧ (let s := stored 0x4100000100 false
       ((s.core 0).stores[0]?.map fun x => (x.performed, x.lanes.isEmpty, s.storeReady 0 x)) = some (false, true, true)
       ∧ s.region 0x4100000100 = .config) := by
  unfold State.reaches; decide +kernel

theorem witness_AccessesWithHighAddressBitsTakeXlate : (0x0200000000000000 : W64).toNat / 2 ^ 57 ≠ 0 := by decide +kernel

/-- The last byte before each gap and the first of it, for the widest op; and an error under the last byte of each width. -/
theorem witness_MisalignedAndUnmappedAccessesTrap : ((withS []).core (withS []).cur).handles
    ∧ (∀ k ∈ [1, 2, 3, 4], (BitVec.ofNat 64 (2 ^ k - 1)).toNat % 2 ^ k ≠ 0)
    ∧ (∀ k ∈ [0, 4], (0x0200000000000000 : W64).toNat % 2 ^ k = 0 ∧ (0x0200000000000000 : W64).toNat / 2 ^ 57 ≠ 0)
    ∧ (∀ k ∈ [0, 4], ∀ a ∈ [0x200000, 0x1000000 - 2 ^ k, 0x2000000, 0x40000000 - 2 ^ k],
        (BitVec.ofNat 64 a).toNat % 2 ^ k = 0 ∧ (0x200000 ≤ a ∧ a < 0x1000000 ∨ 0x2000000 ≤ a ∧ a < 0x40000000))
    ∧ ∀ k ∈ [0, 1, 2, 3, 4], let s : State := { withS [(1, 0x1FFFF0)] with errs := [sp + 0x1FFFF0 + 2 ^ k - 1] }
        (s.core s.cur).seg = false ∧ s.reaches (s.srcS 1) (2 ^ k) .read (sp + 0x1FFFF0)
        ∧ s.region (sp + 0x1FFFF0) = .scratch 0 ∧ (s.loadPoison s.cur (sp + 0x1FFFF0) (2 ^ k)).isSome = true := by
  unfold Core.handles State.reaches; decide +kernel

/-- Both ends of the range of targets, and the first beyond each. -/
theorem witness_TransfersOfControlReachTheirTargets :
    (∀ o ∈ [0, 0x7FFFFFFF], (0 : Int) ≤ 2 * (BitVec.ofNat 35 o).toInt ∧ 2 * (BitVec.ofNat 35 o).toInt ≤ 0xFFFFFFFE)
    ∧ ((0 : Int) + 2 * (0x7FFFFFFFF : BitVec 35).toInt < 0) ∧ ((0xFFFFFFFE : Int) < 0 + 2 * (0x80000000 : BitVec 35).toInt)
    ∧ ((0 : Int) + 2 * (0x1FFFFFF : BitVec 25).toInt < 0) ∧ ((0 : Int) ≤ 2 * (0xFFFFFF : BitVec 25).toInt)
    ∧ (∀ a ∈ [0, 0xFFFFFFFE], (BitVec.ofNat 64 a).getLsbD 0 = false ∧ (BitVec.ofNat 64 a).toNat < 2 ^ 32)
    ∧ ((1 : W64).getLsbD 0 = true) ∧ ((0x100000000 : W64).getLsbD 0 = false ∧ 2 ^ 32 ≤ (0x100000000 : W64).toNat)
    ∧ (withS [(2, 1)]).srcS 2 ≠ 0 ∧ ¬((withS []).srcS 2 ≠ 0)
    ∧ (let pwin : BitVec 16 := 0x8001
       let shifted : BitVec 16 := ((pwin <<< 1) &&& 0xFFFC) ||| 2 ||| 1
       (∃ n ∈ List.range 16, 1 ≤ n ∧ n ≤ 15 ∧ shifted.getLsbD n = true)) ∧ ((withS []).core 0).hs = false
    ∧ ((withS []).core 0).trapEntry ≠ 0xFFFFFFFF := by
  decide +kernel

theorem witness_RepeatsAndTheLoopBufferAreSet :
    (∀ o ∈ [0, 0xFFFFFF], (0 : Int) ≤ 2 * (BitVec.ofNat 25 o).toInt ∧ 2 * (BitVec.ofNat 25 o).toInt ≤ 0xFFFFFFFE)
    ∧ (let r : Rep := { start := 0x40, len := 16, left := 2, pos := 14 }
       { runs with rep := some r }.rep = some r ∧ r.pos + 1 < r.len)
    ∧ (let r : Rep := { start := 0x40, len := 16, left := 2, pos := 15 }
       { runs with rep := some r }.rep = some r ∧ r.len ≤ r.pos + 1 ∧ 1 < r.left)
    ∧ (let r : Rep := { start := 0x40, len := 1, left := 1, pos := 0 }
       { runs with rep := some r }.rep = some r ∧ r.len ≤ r.pos + 1 ∧ r.left ≤ 1) := by decide +kernel

/-- The three states of a core that takes a trap: it handles it, it is in its handler, it has none. -/
theorem witness_TrapEntrySavesTheTrapAndEntersTheHandler : runs.handles ∧ { runs with status := 0x20 }.hs = true
    ∧ { runs with trapEntry := 0xFFFFFFFF }.trapEntry = 0xFFFFFFFF := by
  unfold Core.handles; decide +kernel

theorem witness_TrapsWithNoHandlerFaultTheContext : let s := mapped { runs with trapEntry := 0xFFFFFFFF }
    let k := s.core s.cur
    (k.hs = true ∨ k.trapEntry = 0xFFFFFFFF) ∧ (s.ctx k.ctx).isSome = true ∧ s.gatedAt (k.ccb + 0x18) = false := by
  decide +kernel

theorem witness_RettRestoresWhatTheTrapSaved : ∀ seg ∈ [false, true],
    let s := device { runs with status := 0x20, hidSeg := seg }
    (s.core s.cur).hs = true ∧ (s.core s.cur).hidSeg = seg := by decide +kernel

theorem witness_PrivilegedWritesTrapOutsideHandlerState : runs.handles
    ∧ ∀ m ∈ [0x010, 0x013, 0x015, 0x018, 0x040, 0x053], let n : BitVec 12 := .ofNat 12 m
      (0x010 ≤ n.toNat ∧ n.toNat ≤ 0x013) ∨ n = 0x015 ∨ n = 0x018 ∨ (0x040 ≤ n.toNat ∧ n.toNat ≤ 0x053) := by
  unfold Core.handles; decide +kernel

theorem witness_SysRdReadsTheNamedRegister : (withS []).cur < 256 := by decide +kernel

theorem witness_SysWrWritesTheFieldsOfTheRegister : let s := device { runs with status := 0x20 }
    (s.core s.cur).hs = true
    ∧ (∀ n ∈ [0x100, 0x101, 0x103, 0x123], (n : BitVec 12) ≠ 0x102 ∧ csrListed (n : BitVec 12).toNat = true)
    ∧ (9, 9) ∈ [(0, 0), (1, 2), (2, 2), (3, 4), (4, 4), (5, 5), (6, 2), (7, 2), (8, 8), (9, 9)] ∧ 0x40 + 2 * 9 + 1 = 0x53 := by
  decide +kernel

theorem witness_RequestedTrapsYieldCompareAndHaltEndAsTheSpecSays : runs.handles
    ∧ (let s := withS [(1, 5), (2, 5), (3, 6)]
       s.srcS 1 = s.srcS 2 ∧ s.srcS 1 ≠ s.srcS 3)
    ∧ (∀ done ∈ [false, true], let k := { runs with ndDone := done, node := 0x40200000, launch := 0x40200400 }
       (mapped k |>.core 0).ndDone = done ∧ ends (.ndDone 0 0) (mapped k) (fun _ => true) = true
       ∧ (∀ n ∈ List.range 8, Tab.get none (mapped k |>.core 0).clBind n = none))
    ∧ (let s := device { runs with v := [(1, List.replicate 127 0 ++ [1])] }
       (∀ l, l < 128 → lane (s.srcV 0) l = lane (s.srcV 2) l) ∧ lane (s.srcV 0) 127 ≠ lane (s.srcV 1) 127
       ∧ ∀ j, j < 127 → lane (s.srcV 0) j = lane (s.srcV 1) j) := by
  unfold Core.handles; decide +kernel

/-- Each width, in the own scratchpad and on a shelf; and an atomic that is outstanding. -/
theorem witness_AtomicsReplaceOldByTheCombinedValue :
    (∀ n ∈ [4, 8], ∀ q ∈ [(0x200000 - n, sp + 0x200000 - n, true), (0x40000000, 0, false)],
      let s := mappedS [(1, .ofNat 64 q.1)]
      s.reaches (s.srcS 1) n .atomic q.2.1 ∧ (s.region q.2.1 = .scratch 0 ∨ s.region q.2.1 = .shelf 0)
      ∧ inOwn s.cur q.2.1 = q.2.2 ∧ s.loadPoison s.cur q.2.1 n = none ∧ s.gatedAt q.2.1 = false
      ∧ (({ s with errs := [q.2.1] } : State).loadPoison s.cur q.2.1 n).isSome = true
      ∧ (s.core s.cur).handles ∧ (s.core s.cur).seg = false)
    ∧ ((0 : BitVec 2).toNat ≤ 1 ∧ (1 : BitVec 2).toNat ≤ 1 ∧ (9 : BitVec 4).toNat ≤ 9)
    ∧ ∀ n ∈ [4, 8], ∀ code ∈ [0, 10], ∀ dst ∈ [[], [Reg.s 5]], let s := producer (.atomic 0 n code 1 2) dst
        (s.core 0).outs[0]?.map (fun o => (o.id, o.kind, o.dst)) = some (0, .atomic 0 n code 1 2, dst)
        ∧ s.inOrder 0 0 0 n = true ∧ s.gatedAt 0 = false ∧ s.readPoison 0 0 0 n = none
        ∧ ({ s with errs := [n - 1] } : State).readPoison 0 0 0 n = some (n - 1)
        ∧ (device { runs with
            outs := [{ id := 0, seq := 0, kind := .load 0 0 8 false, dst := [.s 5], inL := true, pc := 0, asked := none },
                     { id := 1, seq := 0, kind := .atomic 0 n code 1 2, dst := dst, inL := true, pc := 0, asked := none }]
            }).inOrder 0 1 0 n = false := by
  unfold State.reaches Core.handles; decide +kernel

/-- Dispensers 0 and 255 of context 0, one of another context, and one that is not valid; and numbers beyond the
last. -/
theorem witness_TicketsCountByOne :
    let s : State := { withS [] with
      tickets := [(0, { valid := true, ctx := 0, serving := 0, next := 1 }), (1, { valid := true, ctx := 1, serving := 0, next := 1 }),
                  (255, { valid := true, ctx := 0, serving := 0, next := 1 })] }
    let good := fun d : W64 => d.toNat ≤ 255 ∧ (s.ticket d.toNat).valid = true ∧ (s.ticket d.toNat).ctx.toNat = (s.core s.cur).ctx
    good 0 ∧ good 255 ∧ ¬good 1 ∧ ¬good 2 ∧ ¬good 256 ∧ (s.core s.cur).handles := by
  unfold Core.handles; decide +kernel

/-! Sequences, bindings and graphs. -/

/-- Some descriptor is what core 0 reads at va, and p holds of it. -/
def named (s : State) (va : W64) (acc : Acc) (p : Desc → Bool) : Bool :=
  match s.descOp (.core s.cur) va acc with
  | .ok d => p d
  | .error _ => false

/-- In use, as a Bool. -/
def live (d : Desc) : Bool := seqLive d.w18 && !seqDropped d.w18

/-- No byte of the descriptor lies in a gated scratchpad. -/
def powered (s : State) (d : Desc) : Bool := (List.range 128).all fun i => !s.gatedAt (d.pa + i)

/-- Both ends of the capacity: LR = 300 and CAP = 1024. -/
theorem witness_ReservationIsOneStepAtTheHome : named (sequence 0) 0x80 .atomic (fun d =>
    live d && powered (sequence 0) d && decide (d.cap < d.lr + 725) && decide (d.lr + 724 ≤ d.cap)) = true := by
  decide +kernel

/-- Slots 9 and 300 beyond each end, 265 committed, 266 past the window, 10 and 265 free, with LC = 10. -/
theorem witness_CommitClosesTheHoleAtTheCommittedLength : runs.handles
    ∧ named (sequence (2 ^ 255)) 0x80 .atomic (fun d =>
      live d && powered (sequence (2 ^ 255)) d && decide (d.lr ≤ 300) && decide (9 < d.lc)
      && d.window.getLsbD (265 - d.lc) && decide (d.lc + 256 ≤ 266) && decide (266 < d.lr)
      && !d.window.getLsbD (10 - d.lc) && decide (d.lc ≤ 10)) = true
    ∧ named (sequence 0) 0x80 .atomic (fun d =>
      powered (sequence 0) d && !d.window.getLsbD (265 - d.lc) && decide (265 < d.lc + 256)) = true := by
  unfold Core.handles; decide +kernel

/-- Tails at 9, 300, 265 (where slot 265 is committed) and 266. -/
theorem witness_RetractCancelsTheReservedTail : named (sequence (2 ^ 255)) 0x80 .atomic (fun d => live d
      && powered (sequence (2 ^ 255)) d && decide (9 < d.lc) && decide (d.lr ≤ 300) && decide (266 < d.lr)
      && (List.range 256).any (fun j => d.window.getLsbD j && decide (265 ≤ d.lc + j))
      && !(List.range 256).any (fun j => d.window.getLsbD j && decide (266 ≤ d.lc + j))) = true := by decide +kernel

/-- A template at 0x80, a parent at 0x100 with its map at 0x400, and its child at 0x180 with FORK = 10. -/
def family (parentW18 childW18 entry : W64) : State := pokes (mappedS [(1, 0x80), (2, 0x100), (3, 10), (4, 0x180)]) [
  (sp + 0x98, 0x100000006), (sp + 0xB8, 0x600),
  (sp + 0x100, 10), (sp + 0x108, 300), (sp + 0x110, 1024), (sp + 0x118, parentW18), (sp + 0x138, 0x400), (sp + 0x400, entry),
  (sp + 0x180, 10), (sp + 0x188, 10), (sp + 0x190, 1034), (sp + 0x198, childW18), (sp + 0x1A0, 10), (sp + 0x1A8, 0x100),
  (sp + 0x1B8, 0x500), (sp + 0x500, 0x4010)]

theorem witness_SequencesAreCreatedReadAndAddressed : let s := family 0x100010006 0x100010106 0x4010
    named s 0x80 .atomic (fun d => !seqLive d.w18 && templateOk d.w18 d.map (seqSlot d.w18)) = true
    ∧ named s 0x180 .homeRead (fun d => live d && decide (10 < d.cap) && decide (d.fork ≤ 10) && decide (1033 < d.cap)
        && (match s.homeWord (.core s.cur) (d.map + .ofNat 64 (8 * ((1033 - d.fork) / seqP d.w18))) with
            | .ok _ => true
            | .error _ => false)
        && decide (9 < d.fork) && (match s.descFor (.core s.cur) d.parent .homeRead with
            | .ok up => (match s.slotAddr (.core s.cur) up 9 7 with
              | .ok a => a == 0x40100240
              | .error _ => false)
            | .error _ => false)
        && decide (d.cap ≤ 1034)) = true ∧ (s.core s.cur).handles := by
  unfold Core.handles; decide +kernel

theorem witness_SequencesGrowForkAndDrop :
    -- grow: no page, no map entry, and one page
    (let s := family 0x100010006 0x100010106 0
     named s 0x100 .atomic (fun d => live d && decide ((s.slab 0 (seqClass d.w18)).count.toNat < 1)
      && decide (seqMapn d.w18 < (d.cap - d.fork) / seqP d.w18 + 1)) = true)
    ∧ (let s : State := { family 0x200010006 0x100010106 0 with slabs := [(0, { lost := 0, count := 1, head := 0x40100000 })] }
       named s 0x100 .atomic (fun d => live d && decide (1 ≤ (s.slab 0 0).count.toNat)
        && decide ((d.cap - d.fork) / seqP d.w18 + 1 ≤ seqMapn d.w18)
        && decide (s.takePages (.core 0) 0 (slabAddr 0 0) 0x40100000 1 = .ok ([0x40100000], 0))
        && decide ((List.range 1).mapM (fun m => s.homeAddr (.core s.cur) (d.map + .ofNat 64 (8 * (1 + m))) .atomic)
            = .ok [sp + 0x408])) = true)
    -- fork: the prefix of 10 slots lies in one page, whose count is full or not
    ∧ (∀ full ∈ [false, true], let s := family 0x100010006 0x100010106 (if full then 0xFF00000000004010 else 0x4010)
       named s 0x80 .atomic (fun c => named s 0x100 .atomic fun d => !seqLive c.w18
        && templateOk c.w18 c.map (seqSlot d.w18) && live d && seqDepth d.w18 != 7 && decide (10 ≤ d.lc)
        && (match s.prefixEntries (.core s.cur) d 10 8 with
            | .ok es => decide (es.length = 1) && (es.any fun q => entryPrc (s.readW q.1) == 255) == full
            | .error _ => false)) = true)
    -- drop: dropped already, pinned, and free to go
    ∧ named (family 0x100030006 0x100010106 0) 0x100 .atomic (fun d => seqLive d.w18 && seqDropped d.w18) = true
    ∧ named (pokes (family 0x100010006 0x100010106 0) [(sp + 0x130, 0x100000000)]) 0x100 .atomic (fun d =>
        live d && d.pins != 0) = true
    ∧ named (pokes (family 0x100010006 0x100010106 0) [(sp + 0x110, 0)]) 0x100 .atomic (fun d =>
        live d && d.pins == 0 && d.parent == 0 && d.cap == d.fork) = true := by decide +kernel

theorem witness_BindingsPinTheirSequencesAndTakePushes :
    (let s := sequence 0
     named s 0x80 .atomic (fun d => live d && !s.gatedAt (d.pa + 0x30)) = true
     ∧ Tab.get none (s.core s.cur).clBind 7 = none)
    ∧ (let s := device { runs with clBind := [(0, some (0x80, sp + 0x80, 3))] }
       Tab.get none (s.core s.cur).clBind 0 = some (0x80, sp + 0x80, 3) ∧ s.gatedAt (sp + 0x80 + 0x30) = false)
    ∧ (let p : Push := { core := 0, reg := 0, gen := 3, lc := 7 }
       let q : Push := { core := 0, reg := 0, gen := 2, lc := 7 }
       let s : State := { device { runs with clBind := [(0, some (0x80, sp + 0x80, 3))] } with
        pushes := [{ core := 1, reg := 0, gen := 3, lc := 7 }, p, { core := 0, reg := 1, gen := 3, lc := 7 }] }
       s.pushes[1]? = some p ∧ (s.pushes[0]?.map fun x => (x.core, x.reg)) ≠ some (p.core, p.reg)
       ∧ Tab.get none (s.core p.core).clBind p.reg = some (0x80, sp + 0x80, p.gen)
       ∧ Tab.get none (s.core q.core).clBind q.reg ≠ some (0x80, sp + 0x80, q.gen)) := by decide +kernel

/-- Node n at virtual 0x40200000 with these words at 0x20 and 0x28, and launch record at 0x40200400 with this
status. -/
def graph (k : Core) (status w20 w28 : W64) : State := pokes (mapped k) [
  (0x200008, 0x40200400), (0x200010, 0x40200600), (0x200018, 0x10001), (0x200020, w20), (0x200028, w28),
  (0x200408, 1), (0x200410, 1), (0x200418, status), (0x200600, 0x40200000)]

/-- A node that waits in the pool. -/
def aNode : PoolNode :=
  { ctx := 0, node := 0x40201000, launch := 0x40200400, service := false, prio := 0, since := 0, order := 0 }

/-- The premises of a decrement that gets as far as the words of node n. -/
def decrements (s : State) (p : (launch st w20 w28 w18 : W64) → Except Trp Bool) : Bool :=
  (do
    let n : W64 := 0x40200000
    let launch ← s.rootWord 0 (n + 8)
    let st ← s.rootWord 0 (launch + 0x18)
    let w20 ← s.rootWord 0 (n + 0x20)
    let w28 ← s.rootWord 0 (n + 0x28)
    let w18 ← s.rootWord 0 (n + 0x18)
    p launch st w20 w28 w18 : Except Trp Bool) == .ok true

/-- A failed launch, a count of 0, of 2 and of 1, the last with the node active and with it idle. -/
theorem witness_ADecrementCountsEntersOrIsRefused : (0x40200000 : W64).toNat % 256 = 0
    ∧ decrements (graph runs 0x10 0 0) (fun _ st _ _ _ => .ok (decide (0x10 ≤ st.toNat % 256))) = true
    ∧ decrements (graph runs 0x0F 0 0) (fun _ st w20 _ _ => .ok (decide (¬0x10 ≤ st.toNat % 256) && w20.toNat % 2 ^ 32 == 0)) = true
    ∧ decrements (graph runs 0 2 0) (fun _ st w20 _ _ => do
        let _ ← (graph runs 0 2 0).rootPut 0 0x40200020 (setFld w20 0 32 1)
        return decide (¬0x10 ≤ st.toNat % 256) && decide (1 < w20.toNat % 2 ^ 32)) = true
    ∧ (∀ state ∈ [1, 2], decrements (graph runs 0 1 (.ofNat 64 (state * 2 ^ 32))) (fun _ _ w20 w28 _ =>
        .ok (w20.toNat % 2 ^ 32 == 1 && fld w28 32 2 == state)) = true)
    ∧ (let s : State := { graph runs 0 0x700000001 0x300000000 with pool := [aNode] }
      decrements s (fun launch _ w20 w28 w18 => do
        let _ ← s.rootPut 0 0x40200020 (setFld w20 0 32 0)
        let t1 ← s.rootPut 0 0x40200020 (setFld w20 0 32 (fld w20 32 32))
        let t2 ← t1.rootPut 0 0x40200028 (setFld w28 32 2 1)
        let live ← t2.rootWord 0 (launch + 0x10)
        let t3 ← t2.rootPut 0 (launch + 0x10) (live + 1)
        let t4 ← match lastEntered t3.pool with
          | some p => t3.rootPut p.ctx (.ofNat 64 (p.node + 0x38)) 0x40200000
          | none => .ok t3
        return w20.toNat % 2 ^ 32 == 1 && fld w28 32 2 == 3 && t1.groupCheck 0 w18 == none
          && decide (t3.pool.length ≤ 4096) && !launchFailed (t3.rootPeek 0 (launch + 0x18))
          && !launchFailed (t4.rootPeek 0 (launch + 0x18))) = true) := by decide +kernel

/-- The full pool: 4,097 such nodes, the last of which has a LINK that the step before has just written. -/
theorem witness_ADecrementCountsEntersOrIsRefused_full : 4096 < (List.replicate 4097 aNode).length
    ∧ lastEntered (List.replicate 4097 aNode) = some aNode := by
  have fold (n : Nat) : (List.replicate n aNode).foldl (fun best p => match best with
      | none => some p
      | some q => if q.order ≤ p.order then some p else best) (some aNode) = some aNode := by
    induction n with
    | zero => rfl
    | succ n h => simpa [List.replicate_succ] using h
  exact ⟨by simp only [List.length_replicate]; omega, by
    rw [lastEntered, List.replicate_succ, List.foldl_cons]; exact fold 4096⟩

/-- nd.done of a running and of a done node, and of one whose words hold an error; nd.spawn of a node whose launch is of this or of another context;
nd.sel of a table with no valid entry and of one that gives node n. -/
theorem witness_NodeOpsReportTheirGraphEffect :
    let k : Core := { runs with node := 0x40200000, launch := 0x40200400, s := [(1, 0x40200000), (2, 0x40200800)] }
    let ok := fun (e : Except Trp Bool) => e == .ok true
    (let s := graph k 0 1 0x300000000
     ok (do return fld (← s.rootWord 0 0x40200028) 32 2 == 3) = true)
    ∧ (let s := graph k 0 1 0x200000000
       ok (do
        let w28 ← s.rootWord 0 0x40200028
        let t1 ← s.rootPut 0 0x40200030 (s.srcS 1)
        let t2 ← t1.rootPut 0 0x40200028 (setFld w28 32 2 3)
        let w18 ← t2.rootWord 0 0x40200018
        let succ ← t2.rootWord 0 0x40200010
        let u := (t2.decrementList 0 k.launch k.node succ (w18.toNat % 2 ^ 16)).endLive 0 k.launch k.node
        return fld w28 32 2 != 3 && u.iss == s.iss) = true)
    ∧ (let s : State := { graph k 0 1 0x200000000 with errs := [0x20002C] }
       (match s.rootWord 0 0x40200028 with
        | .ok _ => false
        | .error _ => true) = true ∧ (s.core 0).ndDone = false
       ∧ ((s.failLaunch 0 k.launch 0x16 k.node).endLive 0 k.launch k.node).iss = s.iss)
    ∧ (∀ x ∈ [0, 1], let s := pokes (graph k 0 2 0) [(0x200408, .ofNat 64 (1 + x * 65536))]
       s.spawnFault s.cur (s.srcS 1) = .ok x ∧ (s.decrement 0 k.launch (s.srcS 1)).2.iss = s.iss)
    ∧ (∀ valid ∈ [0, 1], let s := pokes (graph k 0 2 0) [
         (0x200800, 0x10100), (0x200840, 0x40200000), (0x200848, .ofNat 64 valid)]
       s.selFault s.cur (s.srcS 2) = .ok (if valid = 1 then some (0x40200000, 0) else none)) := by decide +kernel

/-! Vector ops, queued ops and the units they feed. -/

/-- Every pair of formats of vcvt, with the last element of each. -/
theorem witness_ConversionsAndSpecialFunctionsRoundOnce :
    (∀ f ∈ [0, 1, 2, 3, 4, 6, 7, 8, 9], ∀ t ∈ [0, 1, 2, 3, 4, 6, 7, 8, 9],
      (do let a ← fmtOf f
          let b ← fmtOf t
          return decide ((32 / a.width - 1 + 1) * a.width ≤ 32 ∧ (32 / b.width - 1 + 1) * b.width ≤ 32)) = some true)
    ∧ (fmtOf 3).isSome = true ∧ (fmtOf 4).isSome = true ∧ (f32 0x7F800000).isNan = false ∧ (f32 1).isNan = false := by
  decide +kernel

theorem witness_IntegerVectorOpsActOnEachElement : ∀ ty ∈ [0, 6, 7, 8, 9], BitVec.ofNat 4 ty ∈ [0#4, 6#4, 7#4, 8#4, 9#4] := by
  decide +kernel

theorem witness_VectorMovesPermuteLanes : (3 : VR) ≠ 1 ∧ ((6 : BitVec 4) = 6 ∨ (6 : BitVec 4) = 7)
    ∧ ((9 : BitVec 4) = 8 ∨ (9 : BitVec 4) = 9) := by decide +kernel

/-- Running sums of the groups: all zero, infinite from group 3 on, and rising to 1; a leaf with no open group, and
one whose first open group is 7. -/
theorem witness_ReductionsCombineTheGovernedLanes : (3 : VR) ≠ 1 ∧ (2 : BitVec 2).toNat ≤ 2
    ∧ (let zero := Num.fin false 0 0
       let one : W32 := 0x3F800000
       let v := fun (l : List W32) (g : Nat) => f32 (l.getD (16 * g) 0)
       let sums := fun (c : Nat → W32) => (List.range 128).map fun l => c (l / 16)
       zero.lt (v (sums fun _ => 0) 7) = false
       ∧ v (sums fun g => if g < 3 then 0 else 0x7F800000) 7 = .inf false
       ∧ zero.lt (v (sums fun _ => one) 7) = true ∧ v (sums fun _ => one) 7 ≠ .inf false
       ∧ (∀ g, g < 8 → ¬((v (sums fun _ => 0xBF800000) g).isNan = false ∧ (v (sums fun _ => 0xBF800000) g).lt zero = false))
       ∧ (let s := sums fun g => if g < 7 then 0xBF800000 else one
          ((v s 7).isNan = false ∧ (v s 7).lt zero = false)
          ∧ ∀ j, j < 7 → ¬((v s j).isNan = false ∧ (v s j).lt zero = false))) := by decide +kernel

/-- Dense accesses at both ends of the scratchpad and beyond, misaligned ones, and spread ones whose lane 1 is good,
misaligned, and outside; with an armed slot or a marked word under lane 0, and with neither. -/
theorem witness_VectorLoadsAndStoresUseTheOwnScratchpad : let s := withS []
    s.gatedAt (spBase s.cur) = false ∧ s.cur < 260 ∧ (s.core s.cur).handles
    ∧ (∀ a ∈ [0, 0x1FFE00], a % 64 = 0 ∧ a ≤ 0x1FFE00)
    ∧ (∀ a ∈ [1, 0x1FFE3F], a % 64 ≠ 0) ∧ (0x1FFE40 % 64 = 0 ∧ 0x1FFE00 < 0x1FFE40)
    ∧ (∀ x ∈ [4, 0x1FFFFC], x % 4 = 0 ∧ x + 3 ≤ 0x1FFFFF)
    ∧ (∀ x ∈ [2, 0x200000], ¬(x % 4 = 0 ∧ x + 3 ≤ 0x1FFFFF)) ∧ 2 % 4 ≠ 0 ∧ 0x200000 % 4 = 0
    ∧ (∀ l, l < 128 → poisoned s.errs (sp + 4 * l) 4 = none ∧ s.overlapsArmed (sp + 4 * l) 4 = false
        ∧ s.overlapsMark (sp + 4 * l) 4 = false)
    ∧ ({ s with armed := [sp / 16] } : State).overlapsArmed sp 4 = true
    ∧ ({ s with marks := [sp / 8] } : State).overlapsMark sp 4 = true
    ∧ (let x : Sto := { id := 0, seq := 0, va := 0, pa := sp, bytes := [], performed := false, pc := 0
                        lanes := [(sp, 1), (sp + 0x1FFFFC, 2), (sp, 3)] }
       let s := device { runs with stores := [x] }
       s.region x.pa = .scratch 0 ∧ s.storeReady 0 x = true
       ∧ ∀ q ∈ x.lanes, ∀ r ∈ x.lanes, q.1 = r.1 ∨ q.1 + 4 ≤ r.1 ∨ r.1 + 4 ≤ q.1) := by
  unfold Core.handles; decide +kernel

/-- The boundary values of each range that an op checks at issue. -/
theorem witness_QueuedOpsEnterTheirQueue : runs.handles
    ∧ (∀ x ∈ [0, 0x1FFFF0], x % 16 = 0 ∧ x ≤ 0x1FFFF0) ∧ (8 % 16 ≠ 0) ∧ (0x200000 % 16 = 0 ∧ 0x1FFFF0 < 0x200000)
    ∧ (∀ a ∈ [0, 0x1FFE00], a % 8 = 0 ∧ a + 512 ≤ 0x200000) ∧ (4 % 8 ≠ 0) ∧ (0x1FFE08 % 8 = 0 ∧ 0x200000 < 0x1FFE08 + 512)
    ∧ (255 ≤ 255 ∧ 255 < 256) ∧ (0x1FFFFC % 4 = 0 ∧ 0x1FFFFC ≤ 0x1FFFFC) ∧ (2 % 4 ≠ 0)
    ∧ (0x200000 % 4 = 0 ∧ 0x1FFFFC < 0x200000) := by
  unfold Core.handles; decide +kernel

/-- An op that waits in a queue with the registers it read. -/
def entry (i : Instr) (slot : Nat) (vals : List W64) (dst : List Reg) : QEntry :=
  { instr := i, slot := slot, seq := 0, vals := vals, dst := dst }

/-- X and W of a call in d0 and d1: one row of 32 e4m3 elements at 0x400, and 32 rows of 16 columns at 0x800. -/
def tileX : BitVec 128 := .ofNat 128 (0x400 + 31 * 2 ^ 45 + 64 * 2 ^ 57 + 4 * 2 ^ 77 + 2 ^ 81)
def tileW : BitVec 128 := .ofNat 128 (0x800 + 31 * 2 ^ 33 + 15 * 2 ^ 45 + 64 * 2 ^ 57 + 4 * 2 ^ 77 + 2 ^ 81)

/-- A core whose matrix queue holds e. -/
def matrix (e : QEntry) : Core :=
  { runs with mq := [e], mp := [(1, 1), (5, 0x10000)], d := [(0, tileX), (1, tileW)] }

/-- A kind of row with words of its own, for rows m on. -/
def rowsOf (kind : Bool) (m n : Nat) : Tab AccRow :=
  (List.range n).map fun i => (m + i, { kind := kind, anchor := 0, anchored := false, words := [] })

/-- A combination of rows 0 and 1, one block each, into row 2, with scales at xo and wo. -/
def combines (xo wo src : Nat) : State :=
  let e := entry (.msca 4 31 false 0) 3 [.ofNat 64 (src + 2 * 2 ^ 8 + 2 ^ 24), .ofNat 64 (xo + wo * 2 ^ 32)] []
  device { matrix e with acc := rowsOf false 0 2 ++ rowsOf true 2 1 }

/-- An accumulator copy of tile d at the head of C0, over rows of this kind. -/
def accCopier (i : Instr) (d : Nat) (kind : Bool) : State :=
  device { runs with c0q := [entry i 4 [1, 0x100] []], d := [(2, .ofNat 128 d)], acc := rowsOf kind 1 2 }

/-- Two rows of 32 columns of format f, at 0x400, 4,096 bytes apart, with the tag set. -/
def tileD (f : Nat) : Nat := 0x400 + f * 2 ^ 77 + 2 ^ 33 + 31 * 2 ^ 45 + 4096 * 2 ^ 57 + 2 ^ 81

/-- The start checks of the copy at the head of C0. -/
def accStarts (s : State) (p : State → QEntry → AcpyOp → BitVec 128 → Bool) : Bool :=
  let k := s.core 0
  k.engineOn && k.mq.isEmpty && k.c1q.isEmpty && k.call.isNone && k.acpy.isNone && !k.stopped 0 0 && !k.stopped 11 0
  && k.c0q.any fun e => !e.left && match acpyOp e with
      | some o => k.tag o.n && p s e o (k.desc o.n)
      | none => false

/-- A copy that runs: the engine's turn stands first. -/
def accRuns (i : Instr) (d row : Nat) (imgs : List (List Byte)) : State :=
  { device { runs with acpy := some { entry := entry i 4 [1, 0x100] [], d := .ofNat 128 d, images := imgs, row := row
                                      rho := none, rhoInf := false } } with agenda := [.engine 0] }

/-- What a property of the running copy answers. -/
def inCopy (s : State) (p : State → AcpyRun → AcpyOp → Nat → Bool) : Bool :=
  let k := s.core 0
  k.engineOn && k.call.isNone && !k.stopped 0 0 && match k.acpy with
  | some r => (match acpyOp r.entry with
    | some o => p s r o (tilePa 0 r.d r.row)
    | none => false)
  | none => false

/-- Starts that fail by each check and that do not; rows written in f16 with noise, in bf16, and as images; rows read; and
the end. -/
theorem witness_MatrixOpsActAsTheyLeaveTheirQueue_copies :
    (∀ q ∈ [(Instr.acpyOut 2 4 5 false 0 0 false false false 0, tileD 0, false), (.acpyOut 2 4 5 false 0 0 false false false 0, tileD 2, true),
        (.acpyIn 2 4 0 false false true, tileD 5 + 2 ^ 45, true)],
      accStarts (accCopier q.1 q.2.1 q.2.2) (fun s e o d => (s.acpyStartFault 0 e o d).isSome) = true)
    ∧ accStarts (accCopier (.acpyOut 2 4 5 true 0 0 true false false 4) (tileD 0) true)
        (fun s e o d => s.acpyStartFault 0 e o d == none && o.out && o.noise == some 0x100) = true
    ∧ accStarts (accCopier (.acpyIn 2 4 0 true false false) (tileD 0) true)
        (fun s e o d => s.acpyStartFault 0 e o d == none && !o.out && !o.raw) = true
    ∧ (∀ bad ∈ [false, true], accStarts { accCopier (.acpyIn 2 4 0 false false true) (tileD 5) true with
          errs := if bad then [sp + 0x400] else [] }
        (fun s e o d => s.acpyStartFault 0 e o d == none && o.raw && (match s.acpyImages 0 e o d with
          | .ok l => !bad && l.length == 2
          | .error _ => bad)) = true)
    ∧ (∀ m ∈ [0, 1], inCopy (accRuns (.acpyOut 2 4 5 true 0 0 true false false 4) (tileD 0) m []) (fun s r o pa =>
        decide (r.row < dRows r.d) && (fmtOf (dFmt r.d)).isSome && o.noise == some 0x100
        && (List.range 32).all (fun i => let b := sp + 0x100 + 4 * (r.row * 32 + i); poisoned s.errs b 4 == none && !s.gatedAt b)
        && !s.overlapsArmed pa 64 && !s.overlapsMark pa 64) = true)
    ∧ inCopy (accRuns (.acpyOut 2 4 5 true 0 0 true true false 0) (tileD 5) 1 []) (fun s r o pa =>
        decide (r.row < dRows r.d) && o.out && o.raw && !s.overlapsArmed pa 2112 && !s.overlapsMark pa 2112) = true
    ∧ inCopy (accRuns (.acpyIn 2 4 0 true false false) (tileD 0) 1 []) (fun s r o pa =>
        decide (r.row < dRows r.d) && !o.out && !o.raw && (match s.tileElems 0 pa (dFmt r.d) 0 32 with
          | .ok xs => xs.length == 32
          | .error _ => false)) = true
    ∧ inCopy (accRuns (.acpyIn 2 4 0 true false true) (tileD 5) 0 [List.replicate 2112 0, List.replicate 2112 0]) (fun _ r o _ =>
        decide (r.row < dRows r.d) && !o.out && o.raw) = true
    ∧ inCopy (accRuns (.acpyIn 2 4 0 true false false) (tileD 0) 2 []) (fun _ r _ _ => decide (dRows r.d ≤ r.row)) = true
    -- msca: rows that fit, a source row in element mode, scales past the end on each side, and scales at the end
    ∧ (let kinds := fun s : State => ([0, 1, 2].map fun r => ((s.core 0).accRow r).kind)
       kinds (combines 0 0x200 0) = [false, false, true] ∧ ¬0x200000 < 0x1FFFFE + 2 * 1 ∧ ¬0x200000 < 0x1FFFE0 + 1 * 32
       ∧ 0x200000 < 0x1FFFFF + 2 * 1 ∧ 0x200000 < 0x1FFFE1 + 1 * 32
       ∧ (match (combines 0x1FFFFE 0x1FFFE0 0).core 0 |>.mq with
          | [e] => decide (fld (e.val 0) 0 8 = 0 ∧ fld (e.val 0) 8 8 = 2 ∧ fld (e.val 0) 16 8 = 0 ∧ fld (e.val 0) 24 8 = 1
              ∧ fld (e.val 0) 32 32 = 0 ∧ fld (e.val 1) 0 21 = 0x1FFFFE ∧ fld (e.val 1) 32 21 = 0x1FFFE0
              ∧ fld (e.val 1) 21 11 = 0 ∧ fld (e.val 1) 53 11 = 0)
          | _ => false) = true
       ∧ poisoned (combines 0x1FFFFE 0x1FFFE0 0).errs (sp + 0x1FFFE0) 32 = none
       ∧ (combines 0x1FFFFE 0x1FFFE0 0).gatedAt (sp + 0x1FFFFF) = false) := by
  decide +kernel

theorem witness_MatrixOpsActAsTheyLeaveTheirQueue :
    (let e := entry (.mcall 0) 3 [] []
     let k := matrix e
     let s := device k
     k.engineOn = true ∧ k.mq = [e] ∧ k.c0q = [] ∧ k.c1q = [] ∧ k.call = none ∧ k.acpy = none ∧ k.stopped 0 0 = false
     ∧ e.left = false ∧ k.tag ((k.param 0).toNat % 16) = true ∧ k.tag ((k.param 1).toNat % 16) = true
     ∧ s.callFault 0 (s.callState 0 e 0) = none ∧ s.callFault 0 (s.callState 0 e 4) ≠ none)
    ∧ (6 : BitVec 4).toNat ≤ 6
    ∧ (∀ a ∈ [0, 0x1FFFF0], let s := device (matrix (entry (.dsetMem 15 1 0) 3 [.ofNat 64 a] []))
       a + 16 ≤ 0x200000 ∧ s.gatedAt (sp + a) = false ∧ poisoned s.errs (sp + a) 16 = none
       ∧ leNat (s.bytesAt (sp + a) 16) < 2 ^ 82)
    ∧ (let s := device (matrix (entry (.mucode 1 63 63) 3 [0x1FFE00] []))
       0x1FFE00 + 8 * (63 + 1) ≤ 0x200000 ∧ s.gatedAt (sp + 0x1FFE00) = false ∧ poisoned s.errs (sp + 0x1FFE00) 512 = none) := by
  decide +kernel

/-- A core whose copy queue C0 holds e. -/
def copier (e : QEntry) : Core := { runs with c0q := [e] }

theorem witness_CopyGatherAndLinkOpsLeaveForTheirUnits :
    (let e := entry (.cp 1 2 3 7 15 true true false false) 4 [0, 0, 0] []
     let k := { copier e with d := [(15, .ofNat 128 (2 ^ 81))] }
     k.engineOn = true ∧ k.c0q = [e] ∧ k.c1q = [] ∧ k.stopped 11 0 = false ∧ e.left = false
     ∧ waitTag e.instr = some 15 ∧ k.tag 15 = true ∧ chanOf e.instr = some 7 ∧ acpyDesc e.instr = none
     ∧ k.stopped 8 0 = false ∧ ((k.chan 7).fifo.filter fun r => !r.started).length < 8)
    ∧ (∀ q ∈ [0, 3], (copier (entry (.gqPush 1 3 0) 4 [0] [])).stopped 9 q = false
        ∧ ((copier (entry (.gqPush 1 3 0) 4 [0] [])).gqueue q).indices < 64)
    ∧ ((7 : BitVec 4).toNat < 8 ∧ 8 ≤ (8 : BitVec 4).toNat)
    ∧ (∀ v ∈ [0, 0x1C0 + 0x7FF * 2 ^ 24 + 14 * 2 ^ 40], v / 2 ^ 21 % 8 = 0 ∧ v / 2 ^ 36 % 16 = 0 ∧ v < 2 ^ 48 ∧ v % 2 ^ 21 % 64 = 0
        ∧ v % 2 ^ 21 + 64 * (v / 2 ^ 24 % 2 ^ 12 + 1) * (v / 2 ^ 40 % 2 ^ 8 + 1) ≤ 0x200000)
    ∧ ((copier (entry (.cbInit 1 7) 4 [0] [])).cbuf 7).init = false ∧ (0xFFFF : W64).toNat < 2 ^ 16 := by decide +kernel

/-- A copy of n bytes from 0x200 to va, as far as it has run. -/
def copyRun (va n off elem : Nat) (started landed : Bool) (word : Nat) (fp st : Bool) : CopyRun :=
  { entry := entry (.cp 1 2 3 7 15 st false fp false) 4 [.ofNat 64 va, 0x200, .ofNat 64 (n + word)] [], started := started, record := 0
    words := [], ind := none, elem := elem, off := off, down := some false, snap := none, whole := false
    landed := landed, slotNo := 0, noticed := false, spans := [(0x100000000 + 64, 0x100000000 + 65)] }

/-- Core 0 with that copy at the head of channel 7. -/
def copying (r : CopyRun) : State := device { runs with chans := [(7, { fifo := [r], ended := false, last := 0 })] }

/-- A unit of core 0 has no entry of a walk in a drawer to read, and has read none. -/
def calm (s : State) (u : Nat) (p : Path) (vas : List W64) : Bool := (s.walkPending 0 u p vas).isNone && !s.walking 0 u

/-- The premises of the next piece of an element. -/
def pieceOk (s : State) (r : CopyRun) (n : Nat) (src : W64) (dsts : List W64) : Bool :=
  let m := Nat.min (n - r.off) (4096 - ((dsts.headD 0).toNat + r.off) % 4096)
  let pas := dsts.map fun d => match s.writeCheck 0 .cy (d + .ofNat 64 r.off) m with
    | .ok [(pa, l)] => if l = m then pa else 0
    | _ => 0
  !r.landed && r.started && calm s 8 .cy (s.stepVas 0 r) && decide (r.off < n) && r.down == some false && r.snap == none
  && s.drawerFlits (s.readsOf 0 .cy (src + .ofNat 64 r.off) m) == []
  && (match s.memRead 0 .cy (src + .ofNat 64 r.off) m with
    | .ok bs => bs.length == m
    | .error _ => false)
  && pas.all (· != 0) && decide (pas.Pairwise fun a b => a + m ≤ b ∨ b + m ≤ a)

/-- A copy op that has started, and the element in hand. -/
def startedRun (i : Instr) (vals words : List W64) (elem : Nat) : CopyRun :=
  { copyRun 0 0 0 elem true false 0 false false with entry := entry i 4 vals [], words := words }

/-- Rows, a multicast to the first and the last core of the cluster, generated elements on either side, a record, a
slot of a circular buffer, and a slot of a sequence; each at its last element. -/
theorem witness_CopyAndGatherUnitsMoveBytes_elements :
    (let w := 1 + 100 * 2 ^ 16 + 128 * 2 ^ 40
     let r := startedRun (.cp2d 1 2 4 7 15 true false false false) [0x1000, 0x200, 64, .ofNat 64 w] [] 1
     pieceOk (copying r) r 64 (0x200 + 100) [0x1000 + 128] = true ∧ 1 ≤ w % 2 ^ 16)
    ∧ (let r := startedRun (.cpMc 1 2 3 7 15 true false false false) [0x8100000000001000, 0x200, 64] [] 0
       pieceOk (copying r) r 64 0x200 [0x1001000, 0x1000000 + 0x200000 * 7 + 0x1000] = true)
    ∧ (∀ side ∈ [false, true],
       let blk : AgBlock := [0x10, 63 + 7 * 2 ^ 20, 1, 0x100, 0, 0, 0, 0]
       let r := startedRun (.cpAg 1 2 3 7 15 true false false false side 0) [0x1000, 0x4000, 0] blk 1
       agCount blk = 2 ∧ agElem blk = 64 ∧ (copying r).agEntry 0 blk none 1 = .ok none
       ∧ (if side then pieceOk (copying r) r 64 0x4040 [0x1110] else pieceOk (copying r) r 64 0x4110 [0x1040]) = true
       ∧ (copying r).landCheck 0 .cy 0x1110 64 = .ok ())
    ∧ (let r := startedRun (.cpChain 1 7) [0x40] [0, 0x200, 0x1000, 64, 0, 0, 0, 0] 0
       pieceOk (copying r) r 64 0x200 [0x1000] = true)
    ∧ (∀ q ∈ [(0, 0), (0x40, 5)],
       let r : CopyRun := { startedRun (.cpChain 1 7) [0x40] [] 0 with record := q.1 }
       let s := pokes (copying r) [(sp + 0x58, .ofNat 64 q.2)]
       s.drawerFlits (s.readsOf 0 .cy (.ofNat 64 q.1) 64) = [] ∧ (match s.memRead 0 .cy (.ofNat 64 q.1) 64 with
         | .ok bs => decide (leNat ((bs.drop 24).take 8) = q.2 ∨ q.1 = 0)
         | .error _ => false) = true)
    ∧ (let r := startedRun (.cbPush 1 3 7 0) [0x200] [] 0
       let b : CBuf := { init := true, base := 0x1000, slot := 64, nslot := 2, reserved := 1, filled := 0, popped := 0
                         released := 0, landed := [] }
       let s := device { runs with chans := [(7, { fifo := [{ r with slotNo := 3 }], ended := false, last := 0 })], cb := [(3, b)] }
       pieceOk s { r with slotNo := 3 } 64 0x200 [0x1001040] = true)
    ∧ (∀ q ∈ [(0, 0), (1, 64)],
       let r : CopyRun := { startedRun (.cpSeq 1 2 4 7 15 true false false) [0x100, 0x200, 11, 1] [6] 0 with off := q.2 }
       let s0 := family 0x100010006 0x100010106 0x4010
       let s := s0.setCore 0 { s0.core 0 with chans := [(7, { fifo := [r], ended := false, last := 0 })] }
       (q.1 = 0 → (match s.descFor (.core 0) 0x100 .homeRead with
         | .ok e => (match s.slotAddr (.core 0) e 11 8 with
           | .ok dst => pieceOk s r 64 0x200 [dst]
           | .error _ => false)
         | .error _ => false) = true)
       ∧ (q.1 = 1 → named s 0x100 .atomic (fun e => live e && (match s.commitSlot e 11 with
         | .ok (busy, _) => !busy
         | .error _ => false)) = true)) := by
  decide +kernel

theorem witness_CopyAndGatherUnitsMoveBytes :
    -- a landing word that is not good, a start, pieces at both ends, the last element, a completion, and a post
    (let s := copying (copyRun 0x1000 64 0 0 false false (2 ^ 53) false false)
     (s.core 0).engineOn = true ∧ (s.core 0).stopped 8 0 = false ∧ ((s.core 0).chan 7).fifo.length = 1
     ∧ ¬(64 + 2 ^ 53 < 2 ^ 53) ∧ calm s 8 .cy (s.stepVas 0 (copyRun 0x1000 64 0 0 false false (2 ^ 53) false false)) = true)
    ∧ (let s := copying (copyRun 0x1000 64 0 0 false false 0 false false)
       s.landCheck 0 .cy 0x1000 64 = .ok () ∧ calm s 8 .cy (s.stepVas 0 (copyRun 0x1000 64 0 0 false false 0 false false)) = true)
    ∧ (∀ off ∈ [0, 4096], let s := copying (copyRun 0x1000 8192 off 0 true false 0 false false)
       off < 8192 ∧ Nat.min (8192 - off) (4096 - (0x1000 + off) % 4096) = 4096
       ∧ pieceOk s (copyRun 0x1000 8192 off 0 true false 0 false false) 8192 0x200 [0x1000] = true
       ∧ s.writeCheck 0 .cy (0x1000 + .ofNat 64 off) 4096 = .ok [(sp + 0x1000 + off, 4096)])
    ∧ (let r := copyRun 0x1000 64 0 1 true false 0 false false
       r.landed = false ∧ r.started = true ∧ 1 ≤ r.elem)
    ∧ (let s := copying (copyRun 0x1000 64 0 1 true true 0 false false)
       s.owes 0 8 0 = false)
    ∧ (let r := copyRun 0x1000 64 0 1 true true 0x500000000 true false
       let s := copying r
       s.owes 0 8 0 = false ∧ r.spans = [(0x100000040, 0x100000041)] ∧ spCore (64 * 0x100000040) = some 0
       ∧ spCore (64 * (0x100000041 - 1)) = some 0 ∧ s.runsCtx 0 0 = true)
    -- the gather queue: an index with no configuration, an end, a configuration block, and a row
    ∧ (∀ q ∈ [0, 3], let s := copying (copyRun 0 0 0 0 false false 0 false false)
       (s.core 0).stopped 9 q = false ∧ calm s (9 + q) .ga (s.gVas 0 ((s.core 0).gqueue q)) = true)
    ∧ (let block := pokes (device runs) [(sp + 0x800, 0x2000), (sp + 0x808, 0x10000000040), (sp + 0x810, 0x4000), (sp + 0x818, 0)]
       (match block.gLoad 0 0x800 with
        | .error _ => false
        | .ok b => calm block 9 .ga (block.gVas 0 { GQueue.reset with cfg := some b, rows := [3], pcs := [0] }) && !gCombine b && !gTocb b && gRowb b == 64 && block.drawerFlits (block.readsOf 0 .ga (gTbase b + .ofNat 64 (3 * gRstride b)) 64) == []
          && decide (block.memRead 0 .ga (gTbase b + .ofNat 64 (3 * gRstride b)) 64 = .ok (List.replicate 64 0))
          && decide (block.landCheck 0 .ga (gDbase b) 64 = .ok ())
          && decide (block.writeCheck 0 .ga (gDbase b) 64 = .ok [(sp + 0x4000, 64)])) = true) := by
  decide +kernel

/-- A call on the two tiles, at its first micro-op. -/
def aCall (f : Call → Call) : State :=
  let e := entry (.mcall 1) 3 [] []
  let s := device (matrix e)
  device { matrix e with mq := [], call := some (f (s.callState 0 e 1)) }

/-- What a property of the call in hand answers. -/
def inCall (f : Call → Call) (p : State → Call → Bool) : Bool :=
  let s := aCall f
  match (s.core s.cur).call with
  | some x => decide ((s.core s.cur).run = .running) && !(s.core s.cur).preReq && !(s.core s.cur).stopped 0 0 && p s x
  | none => false

theorem witness_MicroOpsActOnTheCallInHand :
    inCall id (fun _ x => decide (x.g < x.k) && x.k % 32 == 0 && !x.z && x.fresh && x.latch.isEmpty && x.m == 1 && !x.kind) = true
    ∧ inCall (fun x => { x with g := 32, z := true, fresh := false }) (fun _ x => decide (x.k ≤ x.g) && x.z && !x.fresh) = true
    ∧ inCall (fun x => { x with k := 33 }) (fun _ x => x.k % 32 != 0) = true
    -- ldw: the 32 grades of W, each of 16 elements
    ∧ inCall id (fun s x => (List.range 32).all fun i =>
        match s.gradeElems 0 x (x.g + i) with
        | .ok e => e.length == 16
        | .error _ => false) = true
    -- tail: misaligned, past the end, and at the last place that fits
    ∧ (2 % 4 ≠ 0 ∧ (0x1FFF80 % 4 = 0 ∧ 0x200000 < 0x1FFF80 + 4 * 32 + 4) ∧ (0x1FFF7C % 4 = 0 ∧ 0x1FFF7C + 4 * 32 + 4 ≤ 0x200000))
    -- xmax and strm: the row of X
    ∧ inCall (fun x => { x with latch := List.replicate 32 (List.replicate 16 0) }) (fun s x =>
        (match s.tileElems 0 (tilePa 0 x.x 0) (dFmt x.x) 0 x.k with
          | .ok e => e.length == 32
          | .error _ => false) && !x.latch.isEmpty && !x.pl && !x.kind && x.pass == 0 && decide (x.m ≤ x.block)
        && decide (x.tgt + x.m ≤ 256) && !((s.core 0).accRow x.tgt).kind) = true
    -- seta: rows that fit, and one row too many
    ∧ inCall (fun x => { x with b := 255 }) (fun _ x => decide (x.b + x.m ≤ 256)) = true
    ∧ inCall (fun x => { x with b := 256 }) (fun _ x => decide (256 < x.b + x.m)) = true := by
  decide +kernel

/-! Sync ops, barriers, groups and links. -/

/-- An initialised buffer with one slot popped. -/
def buffer : CBuf :=
  { init := true, base := 0x1000, slot := 64, nslot := 4, reserved := 2, filled := 2, popped := 1, released := 0, landed := [] }

/-- Core 0 holds at its front end for i. -/
def holding (i : Instr) (stage mark addr : Nat) (f : Core → Core) : State := device (f { runs with
  hold := some { instr := i, slot := 6, seq := 1, a := 0, b := 0, dst := [], stage := stage, mark := mark, addr := addr, ended := none } })

/-- A hold that has not ended, and whether its condition is met. -/
def heldCore (s : State) (i : Instr) (stage : Nat) (p : Core → Bool) : Bool :=
  match (s.core 0).hold with
  | some h => decide (h.instr = i) && h.stage == stage && h.ended.isNone && decide ((s.core 0).run = .running) && p (s.core 0)
  | none => false

/-- Each release with its condition false and true. -/
theorem witness_SyncOpsHoldUntilTheirCondition :
    (let s := device { runs with cb := [(7, buffer)] }
     ((s.core s.cur).cbuf 7).init = true ∧ ((s.core s.cur).cbuf 0).init = false ∧ (s.core s.cur).handles
     ∧ 1 ≤ ((s.core s.cur).cbuf 7).popped - ((s.core s.cur).cbuf 7).released
     ∧ ((s.core s.cur).cbuf 7).popped - ((s.core s.cur).cbuf 7).released < 2)
    ∧ (let s : State := { device { runs with gvalid := 8, gid := 0xFF000000 } with
        groups := [(255, { GroupEntry.reset with valid := true })] }
       (s.core s.cur).gvalid.getLsbD 3 = true ∧ (s.core s.cur).gidAt 3 = 255 ∧ (s.group 255).valid = true
       ∧ (s.group 255).ctx.toNat = (s.core s.cur).ctx)
    ∧ ((255 : W64).toNat ≤ 255 ∧ 255 < (256 : W64).toNat)
    ∧ (let p : Post := { src := 0, dst := 1, ctx := 0, flag := 15, amt := 1, pc := 0 }
       let s : State := { device runs with posts := [{ p with dst := 2 }, p] }
       s.posts[1]? = some p ∧ (s.posts[0]?.map fun q => (q.src, q.dst)) ≠ some (p.src, p.dst))
    ∧ (let i := Instr.wait 15 0 14 1
       heldCore (holding i 0 0 0 id) i 0 (fun k => k.countS == 0 && k.countT == 0) = true
       ∧ heldCore (holding i 0 0 0 fun k => { k with stores := ((stored (sp + 0x200000) false).core 0).stores }) i 0
        (fun k => k.countS == 1) = true)
    -- the first wait is over with and without ops that name the tag, and it is not asked again in the second
    ∧ (let i := Instr.wtagClr 0x8000
       let set := fun k : Core => { k with d := [(15, .ofNat 128 (2 ^ 81))] }
       let names := fun k : Core => { k with mq := [{ entry (.dtag 15 false) 3 [] [] with seq := 0 }] }
       heldCore (holding i 0 0 0 set) i 0 (fun k => k.tag 15 && !k.tagsNamed 0x8000 1) = true
       ∧ heldCore (holding i 0 0 0 fun k => names (set k)) i 0 (fun k => k.tag 15 && k.tagsNamed 0x8000 1) = true
       ∧ heldCore (holding i 1 0 0 id) i 1 (fun k => !k.tag 15 && !k.tagsNamed 0x8000 1) = true
       ∧ heldCore (holding i 0 0 0 id) i 0 (fun k => !k.tag 15) = true)
    ∧ (let i := Instr.flWait 1 15 2
       heldCore (holding i 0 0 0 fun k => { k with f := [(15, 2)] }) i 0 (fun k => decide (2 ≤ (k.flag 15).toNat)) = true
       ∧ heldCore (holding i 0 0 0 fun k => { k with f := [(15, 1)] }) i 0 (fun k => decide (¬2 ≤ (k.flag 15).toNat)) = true)
    ∧ (∀ p ∈ [0, 4], heldCore (holding (.fenceX 0 1 (.ofNat 3 p)) 0 0 0 id) (.fenceX 0 1 (.ofNat 3 p)) 0 (·.pathIdle p 1) = true)
    ∧ heldCore (holding .fenceSc 0 0 0 id) .fenceSc 0 (fun k => k.cpIdle 2 && (List.range 5).all (k.pathIdle · 1)) = true
    ∧ (heldCore (holding .fenceSc 1 0 0 id) .fenceSc 1 (fun _ => true) = true ∧ ¬0 < (holding .fenceSc 1 0 0 id).hbCount.toNat)
    -- a store of the bundle itself holds it
    ∧ heldCore (holding .drain 0 0 0 id) .drain 0 (·.cpIdle 2) = true
    ∧ heldCore (holding .step 0 0 0 id) .step 0 (·.cpIdle 2) = true
    ∧ heldCore (holding .step 0 0 0 fun k => { k with
          stores := [{ id := 0, seq := 1, va := 0, pa := 0, bytes := [1], performed := false, pc := 0, lanes := [] }] })
        .step 0 (fun k => !k.cpIdle 2) = true
    ∧ (let s := holding (.tkWait 1 2 0) 0 0xFFFFFFFF 0 id
       (((s.ticket 0).serving - .ofNat 32 0xFFFFFFFF).toNat < 2 ^ 31))
    ∧ heldCore (holding (.cbPop 1 7) 0 0 0 fun k => { k with cb := [(7, buffer)] }) (.cbPop 1 7) 0
        (fun k => decide (0 < (k.cbuf 7).filled - (k.cbuf 7).popped)) = true
    ∧ heldCore (holding .seg 0 0 0 id) .seg 0 (fun k => k.stores.all fun x => decide (1 < x.seq) || x.performed) = true
    ∧ (let s := holding (.rdv 3) 0 0 255 fun k => { k with gvalid := 8, gid := 0xFF000000, segment := { k.segment with rewinding := 8 } }
       -- a mark on the slots of other groups does not count
       let t := holding (.rdv 3) 0 0 255 fun k => { k with gvalid := 9, gid := 0xFF000000, segment := { k.segment with rewinding := 7 } }
       s.groupRewinding 0 255 = true ∧ t.groupRewinding 0 255 = false ∧ (t.core 0).slotsOf 255 = 8) := by
  unfold Core.handles; decide +kernel

/-- Core 9 with a slot of phase 0 that has `due` of 2 arrivals to come, and the promise `mark` and landings `land`. -/
def slotOf (due mark land : Nat) : State := barrier
  (.ofNat 64 (0xB0 + due * 2 ^ 8 + 2 * 2 ^ 28 + mark * 2 ^ 48)) (.ofNat 64 (mark / 2 ^ 16 + land * 2 ^ 8 + 9 * 2 ^ 32 + 0x5A5A5 * 2 ^ 44))
  { runs with s := [(1, 0x3000), (2, 1), (3, 0x7FFFFF)] }

/-- bar.wait in each stage, in its phase, in the next one and beyond it; bar.par with either parity; and a slot that is
no longer armed, or no longer a slot. -/
theorem witness_SyncOpsHoldUntilTheirCondition_barriers :
    let pa := spBase 9 + 0x3000
    let held := fun (i : Instr) (stage mark : Nat) => ({
      instr := i, slot := 6, seq := 1, a := 0x3000, b := 0, dst := [], stage := stage, mark := mark, addr := pa, ended := none } : Hold)
    let s := fun h => let t := slotOf 2 0 0; t.setCore 9 { t.core 9 with hold := some h }
    (∀ stage ∈ [0, 2], ∀ q ∈ [(0, 0), (15, 1), (14, 2)],
      let t := s (held (.barWait 5 1 2) stage q.1)
      ((t.core 9).hold.any fun h => h.stage == stage && h.mark == q.1 && h.addr == pa && h.ended.isNone) = true
      ∧ (t.core 9).run = .running ∧ t.armed.contains (pa / 16) = true ∧ leNat (t.bytesAt pa 16) / 2 ^ 108 % 2 ^ 20 = 0x5A5A5
      ∧ (leNat (t.bytesAt pa 16) % 16 + 16 - q.1 % 16) % 16 = q.2 ∧ t.gatedAt pa = false)
    ∧ (∀ stage ∈ [0, 2], ∀ par ∈ [0, 1], let t := s (held (.barPar 1 (par == 1)) stage par)
      ((t.core 9).hold.any fun h => h.stage == stage && h.mark == par) = true ∧ t.armed.contains (pa / 16) = true ∧ (leNat (t.bytesAt pa 16) % 2 == par) = (par == 0))
    ∧ ({ s (held (.barWait 5 1 2) 0 0) with armed := [] } : State).armed.contains (pa / 16) = false
    ∧ leNat ((pokes (s (held (.barWait 5 1 2) 0 0)) [(pa + 8, 0)]).bytesAt pa 16) / 2 ^ 108 % 2 ^ 20 ≠ 0x5A5A5 := by
  decide +kernel

/-- Arrivals of 1 and of 2^23 − 1 sectors that fit; no arrival left; a promise too far ahead; a slot that may be
retired; and an unarmed slot. -/
theorem witness_BarriersCountArrivalsAndLandings :
    let pa := spBase 9 + 0x3000
    let short := fun (mark land : Nat) => (BitVec.ofNat 24 mark - BitVec.ofNat 24 land).toInt
    let field := fun (w lo n : Nat) => w / 2 ^ lo % 2 ^ n
    (let s := slotOf 2 0 0
     let w := leNat (s.bytesAt pa 16)
     (s.srcS 1).toNat % 16 = 0 ∧ s.resolve s.cur .cp (s.srcS 1) .homeRead = .ok pa ∧ s.scratchRuns pa 0 = true
     ∧ s.gatedAt pa = false ∧ s.armed.contains (pa / 16) = true ∧ field w 108 20 = 0x5A5A5 ∧ field w 8 20 = 2
     ∧ field w 28 20 = 2 ∧ field w 48 24 = 0 ∧ field w 72 24 = 0 ∧ field w 96 8 = (coreId s.cur).toNat ∧ field w 0 4 = 0
     ∧ (∀ tx ∈ [1, 2 ^ 23 - 1], tx < 2 ^ 23 ∧ short 0 0 + tx < 2 ^ 23) ∧ 2 ^ 23 ≤ 0x7FFFFF + 1)
    ∧ field (leNat ((slotOf 0 0 0).bytesAt pa 16)) 8 20 = 0
    ∧ (let w := leNat ((slotOf 1 1 0).bytesAt pa 16)
       2 ^ 23 ≤ short (field w 48 24) (field w 72 24) + (2 ^ 23 - 1) ∧ field w 8 20 ≠ field w 28 20)
    ∧ (let w := leNat ((slotOf 2 0 1).bytesAt pa 16)
       field w 8 20 = field w 28 20 ∧ field w 72 24 ≠ field w 48 24)
    ∧ (let s := { slotOf 2 0 0 with armed := [] }
       s.armed.contains (pa / 16) = false ∧ (∀ n ∈ [1, 0xFFFFF], 1 ≤ n ∧ n ≤ 0xFFFFF) ∧ 0xFFFFF < 0x7FFFFF)
    -- landings: one that counts, and one at the end of the range
    ∧ (let o : Owed := { core := 9, unit := 8, queue := 0, land := 9, off := 0x3000, left := 2 }
       let s : State := { slotOf 2 0 0 with owed := [o] }
       s.owed[0]? = some o ∧ (s.core 9).stopped 8 0 = false ∧ spBase 9 + 0x3000 = pa
       ∧ -(2 ^ 23) ≤ short 0 0 - 1 ∧ short 0 (2 ^ 23) - 1 < -(2 ^ 23)
       ∧ field (leNat ((slotOf 2 0 (2 ^ 23)).bytesAt pa 16)) 72 24 = 2 ^ 23) := by decide +kernel

/-- A group of two members with none or one arrived; a reduction under way with another op; no valid slot. -/
theorem witness_GroupsCompleteWithTheirLastMember :
    let k : Core := { runs with gvalid := 8, gid := 0xFF000000 }
    let s := fun (arr : BitVec 9) (ract : Bool) => ({ device k with
      groups := [(255, { GroupEntry.reset with valid := true, count := 1, arr := arr, ract := ract, rop := 6 })] } : State)
    (k.gvalid.getLsbD 3 = true ∧ k.gidAt 3 = 255 ∧ ((s 0 false).group 255).valid = true
      ∧ ((s 0 false).group 255).ctx.toNat = k.ctx ∧ k.gvalid.getLsbD 0 = false ∧ k.handles)
    ∧ (((s 0 false).group 255).arr.toNat + 1 < ((s 0 false).group 255).count.toNat + 1)
    ∧ (((s 1 true).group 255).count.toNat + 1 = ((s 1 true).group 255).arr.toNat + 1)
    ∧ ((s 1 true).group 255).ract = true ∧ ((s 1 true).group 255).rop.toNat = (6 : BitVec 3).toNat
    ∧ ((s 1 true).group 255).rop.toNat ≠ (0 : BitVec 3).toNat
    -- a member whose context is saved
    ∧ (let s0 : State := { mapped k with groups := (s 1 true).groups }
       let regs := (holding (.gRed 7 1 2 3 3) 0 0 255 id).core 0
       let y : SavedCore :=
         { ctx := 0, core := 5, regs := regs, lock := false, broken := false, arms := [], record := [], owed := [] }
       let s : State := { s0 with saved := [y] }
       let a := s.saveSlot 0 0x1000 5
       (s.ctx 0).isSome = true ∧ (y.regs.hold.map fun h => (h.onGroup 255, h.instr)) = some (true, .gRed 7 1 2 3 3)
       ∧ y.regs.hidHold = none ∧ (3 : BitVec 3).toNat < 5 ∧ (7 : SR) ≠ 0 ∧ s.saveable a = true
       ∧ s.gatedAt (a + 0x28BC00 + 8 * 7) = false)
    ∧ (∀ stage ∈ [0, 2, 3], heldCore (holding (.gRed 4 1 2 6 3) stage 0 255 id) (.gRed 4 1 2 6 3) stage (fun _ => true) = true
        ∧ heldCore (holding (.gBar 3) stage 0 255 id) (.gBar 3) stage (fun _ => true) = true)
    ∧ (4 : SR).toNat % 2 = 0 ∧ (4 : SR) ≠ 0 := by
  unfold Core.handles; decide +kernel

/-- A core of a device whose context 0 owns the straits, with e at the head of C0. -/
def linking (e : QEntry) : State :=
  { mapped { runs with c0q := [e] } with
    linkCtl := 0x10, framesOn := true, straits := [(0, { Strait.reset with face := true })], dstraits := [(0, 2)], gib := [(0, 1)] }

theorem witness_LinkOpsActAtTheirQueueAndPiecesAreAcknowledged :
    (let e := entry (.lkSend 1 2 3 0 false false false 1) 4 [0x8100000000000000, 0x200, 64] []
     let s := linking e
     s.sendChip 0 0x8100000000000000 = some 1 ∧ (s.core 0).linkStopped 0 1 = false ∧ s.chip.toNat ≠ 1 ∧ s.routed 1 = true
     ∧ ((s.core 0).sends 1).length < 16 ∧ s.routed 2 = false ∧ (0x8100000000000000 : W64).getLsbD 63 = true
     ∧ 0x8100000000000000 / 2 ^ 60 % 8 = 0 ∧ 0x8100000000000000 / 2 ^ 32 % 2 ^ 13 = 0 ∧ 0x9100000000000000 / 2 ^ 60 % 8 ≠ 0
     ∧ (let full := (List.replicate 16 ({ entry := e, sent := 0, acked := [] } : SendOp))
      16 ≤ full.length)
     ∧ 64 + 2 ^ 32 < 2 ^ 53 ∧ (64 + 2 ^ 32) / 2 ^ 32 % 2 ^ 4 ≠ 0
     -- in memory mode: the window of chip 1 to its end, beyond it, an address that is no window, and one that is not mapped
     ∧ s.sendChip 0 0x60000000 = some 1
     ∧ (match s.resolveRange 0 .lk 0x60000000 64 .write with
        | .ok l => s.peerOf l == some 1
        | .error _ => false) = true
     ∧ (match s.resolveRange 0 .lk 0x40000000 64 .write with
        | .ok l => s.sendChip 0 0x40000000 == none && s.peerOf l == none
        | .error _ => false) = true
     ∧ (∀ a ∈ [(0x7FFFFFC0, some 1), (0x80000000, none)], s.sendChip 0 a.1 = a.2 ∧ (match s.resolveRange 0 .lk a.1 128 .write with
        | .ok _ => false
        | .error _ => true) = true))
    ∧ (∀ q ∈ [(0, 0x200000, 15), (0x1FFFC0, 64, 0)], q.1 % 64 = 0 ∧ q.2.2 < 16 ∧ q.1 + q.2.1 ≤ 0x200000)
    ∧ (0x20 % 64 ≠ 0 ∧ 16 ≤ 16 ∧ 0x200000 < 0x1FFFC0 + 65) := by
  decide +kernel

theorem witness_LinkOpsActAtTheirQueueAndPiecesAreAcknowledged_control :
    (let s := linking (entry (.lkTide 1 1) 4 [0x1FFF80] [])
     s.linkCtl.getLsbD 4 = true ∧ s.linkCtl.toNat % 16 = (s.core 0).ctx ∧ (device runs).linkCtl.getLsbD 4 = false
     ∧ 0x1FFF80 % 128 = 0 ∧ 0x1FFF80 + 128 ≤ 0x200000 ∧ 0x40 % 128 ≠ 0 ∧ 0x200000 < 0x200000 + 128
     ∧ (let t := pokes s [(sp + 0x1FFF80, 0x400040004000C000)]
        (match t.memRead 0 .cy 0x1FFF80 128 with
          | .ok bs => leNat (bs.take 2) == 0xC000 && leNat ((bs.drop 2).take 2) == 0x4000 && t.drawersServed 1 (entries16 bs)
          | .error _ => false) = true
        ∧ (Tab.get 0 t.dstraits 0).getLsbD 1 = true ∧ (t.strait 1).face = false))
    ∧ (let s := linking (entry (.lkCirc 1) 4 [0x1FFF40] [])
       0x1FFF40 % 64 = 0 ∧ 0x1FFF40 + 192 ≤ 0x200000 ∧ 0x200000 < 0x1FFF80 + 192
       ∧ s.memRead 0 .cy 0x1FFF40 192 = .ok (List.replicate 192 0) ∧ 0x1FFF20 % 64 ≠ 0 ∧ 0x1FFF20 + 192 ≤ 0x200000
       ∧ s.memRead 0 .cy 0x1FFF20 192 = .ok (List.replicate 192 0)
       ∧ (match ({ s with errs := [sp + 0x1FFFFF] } : State).memRead 0 .cy 0x1FFF40 192 with
          | .ok _ => false
          | .error _ => true) = true)
    ∧ ((0x1FF : W64).getLsbD 0 = true ∧ (0x1FF : W64).toNat < 2 ^ 9 ∧ (0x1FE : W64).getLsbD 0 = false
       ∧ ((linking (entry (.lkPark 1 1) 4 [0x1FF] [])).strait 1).face = false) := by
  decide +kernel

/-- A device whose strait 0 carries data of chip 1 in this frame, at the end of which the next one is due. -/
def hearing (s : State) : State :=
  { s with
    framesOn := true, dsize := 1, frame := 5, slotDue := 15750, dispCtl := 8, hbCount := 10
    sched := some { slots := [1], nslot := 0, start := 0 }
    straits := [(0, { Strait.reset with face := true })] }

/-- Acknowledgements: of a first op that stays, of one that completes, of one that has not come back yet, and a refused
one; with no frame due, and with none that carries. -/
theorem witness_LinkOpsActAtTheirQueueAndPiecesAreAcknowledged_acks :
    (let x : SendOp := { entry := entry (.lkSend 1 2 3 0 true false true 1) 4 [0x8100000000000000, 0x200, 600] [], sent := 3
                         leftIn := [(0, 3)], acked := [] }
     let s := hearing (device { runs with sendq := [(1, [x])] })
     s.runsCtx 0 0 = true ∧ ((s.core 0).sends 1)[0]? = some x ∧ 0 < x.pieces.length ∧ 0 ∉ x.acked
     ∧ ((x.pieces.take 1).map fun p => (p.2.2 + 255) / 256).sum ≤ x.sent ∧ x.again = [] ∧ Tab.get 0 x.leftIn 0 + 2 ≤ s.frame
     ∧ s.nextFrame.isSome = true ∧ s.hears 1 = true ∧ s.hears 2 = false ∧ ({ s with framesOn := false } : State).nextFrame = none
     ∧ ¬Tab.get 0 x.leftIn 0 + 2 ≤ 4 ∧ x.done = false
     ∧ ({ x with acked := List.range x.pieces.length } : SendOp).done = true ∧ (s.core 0).linkStopped 0 1 = false) := by
  decide +kernel

/-- The acknowledgement of the last piece of a send of a saved core. -/
theorem witness_LinkOpsActAtTheirQueueAndPiecesAreAcknowledged_saved :
    let x : SendOp := { entry := entry (.lkSend 1 2 3 5 true false true 1) 4 [0x8100000000000000, 0x200, 64 + 3 * 2 ^ 32] [], sent := 1
                        leftIn := [(0, 3)], acked := [] }
    let v : SavedCore := { ctx := 0, core := 0, lock := false, regs := { runs with ccb := 0x1000, sendq := [(1, [x])] }
                           arms := [], record := [], owed := [], broken := false }
    let s : State := { hearing (pokes (mapped Core.reset) [(0x1010, 0x10000000)]) with saved := [v], cores := [] }
    let k := s.heldRegs v
    s.saved = [v] ∧ (s.ctx 0).isSome = true ∧ s.runsCtx 0 0 = false ∧ s.nextFrame.isSome = true ∧ s.hears 1 = true
    ∧ k.sends 1 = [x] ∧ x.pieces.length = 1 ∧ ((x.pieces.take 0).map fun p => (p.2.2 + 255) / 256).sum = 0
    ∧ ((x.pieces.take 1).map fun p => (p.2.2 + 255) / 256).sum = 1 ∧ x.again = [] ∧ Tab.get 0 x.leftIn 0 + 2 ≤ s.frame
    ∧ ({ x with acked := [0] } : SendOp).done = true ∧ k.linkStopped 0 1 = false ∧ s.saveable (s.saveSlot 0 0x1000 0) = true := by
  decide +kernel

/-- Pieces of a peer: to a shelf, to a place outside the shelves, and to a receive (its last bytes, its first, one
that does not fit, and a halted core). -/
theorem witness_LinkOpsActAtTheirQueueAndPiecesAreAcknowledged_pieces :
    (let s := hearing (device runs)
     let p : LinkPiece := { chip := 1, op := 0, msg := false, core := 0, recv := 0, base := 0x2000, total := 2, pos := 0, data := [1, 2] }
     s.framesOn = true ∧ s.hears p.chip.toNat = true ∧ s.hears 0 = false ∧ p.chip ≠ s.chip ∧ p.chip.toNat ≤ s.dsize.toNat ∧ p.data ≠ [] ∧ p.pos + p.data.length ≤ p.total
     ∧ s.region 0x2000 = .shelf 0 ∧ s.region 0x2001 = .shelf 0 ∧ s.overlapsMark 0x2000 2 = false ∧ s.region sp = .scratch 0
     ∧ ({ s with marks := [0x2000 / 8] } : State).overlapsMark 0x2001 1 = true)
    ∧ (let r : Recv := { Recv.reset with posted := true, base := 0x1000, n := 64, chip := 1, flag := 15, fp := true }
       let k : Core := { runs with recvs := [(7, r)] }
       let s := hearing (device k)
       (s.core 0).recv 7 = r ∧ (s.core 0).run ≠ .halted ∧ (∀ v ∈ s.saved, v.core ≠ 0) ∧ (s.core 0).inbound = []
       ∧ (∀ q ∈ [(62, 2), (0, 64)], q.1 + q.2 ≤ r.n) ∧ r.n < 63 + 2 ∧ s.overlapsArmed (sp + 0x1000) 64 = false ∧ r.bc = false
       ∧ (1, 5) ∉ (s.core 0).refused ∧ (1, 5) ∈ ({ k with refused := [(1, 5)] } : Core).refused
       ∧ s.overlapsMark (sp + 0x1000) 64 = false ∧ ({ s with armed := [(sp + 0x1030) / 16] } : State).overlapsArmed (sp + 0x103F) 1 = true
       ∧ ({ s with marks := [(sp + 0x1038) / 8] } : State).overlapsMark (sp + 0x103F) 1 = true
       ∧ ({ k with run := .halted } : Core).run = .halted)
    ∧ (let s := hearing (device runs)
       s.hears 1 = true ∧ s.region (0x2040 / 64 * 64) = .shelf 0 ∧ (1 : BitVec 4) ≠ s.chip ∧ (1 : BitVec 4).toNat ≤ s.dsize.toNat) := by
  decide +kernel

/-! Frames, contexts, configuration, power, the host and the step. -/

/-- A device whose frames run: strait 1 is a drawer strait. -/
def framed (f : State → State) : State := f { mapped runs with
  framesOn := true, frame := 63, cycle := 3071, hbCount := 47, slotDue := 15750, dispCtl := 8
  gib := [(0, 1)], dstraits := [(0, 2)]
  straits := [(0, { Strait.reset with face := true }), (1, { Strait.reset with table := [(0, 0xC000), (1, 0x4000)] })] }

/-- A frame boundary and a tide boundary; a slot boundary with and without a schedule; a retraining that can begin, and
one that ends or does not; a group that has woken or not; a drawer request; a stall; a pair that differs. -/
theorem witness_FramesTidesSlotsAndRetrainingFollowTheClock :
    (∀ f ∈ [62, 63], let s := framed fun s => { s with frame := f, cycle := .ofNat 64 (48 * f + 47), hbCount := .ofNat 64 ((48 * f + 47) / 64) }
      s.framesOn = true ∧ s.frameBase.toNat + 48 * (f + 1) ≤ s.due ∧ 48 * (f + 1) < 2 ^ 64 ∧ ((f + 1) % 64 = 0 ↔ f = 63)
      ∧ 48 * (f + 1) < s.slotDue ∧ s.drawerReqs = [] ∧ s.frameReady (f + 1) = true ∧ (s.core 0).sendq = [] ∧ s.retraining = [])
    ∧ (let s := framed fun s => { s with frame := 327, cycle := 15743, hbCount := 246, slotDue := 15744, schedNext := some ([1], 0), power := { s.power with periods := 3 } }
       s.framesOn = true ∧ s.frameBase.toNat + s.slotDue ≤ s.due ∧ s.schedNext = some ([1], 0)
       ∧ (∀ x ∈ s.sched.toList, (s.slotDue - x.start) % (15750 * (x.nslot + 1)) ≠ 0)
       ∧ ({ s with sched := none } : State).sched = none)
    ∧ ((framed id).strait 1).retrain = none
    ∧ (∀ b ∈ [63, 64], let s := framed fun s => { s with straits := [(1, { s.strait 1 with retrain := some (27, b) })] }
       s.frameBase.toNat + 48 * (s.frame + 1) ≤ s.due ∧ 48 * (s.frame + 1) < s.slotDue ∧ s.drawerReqs = [] ∧ (s.strait 1).retrain = some (27, b) ∧ (s.frame + 1 ≤ b ↔ b = 64))
    ∧ (∀ b ∈ [14, 15], let s := framed fun s => { s with straits := [(1, { s.strait 1 with tx := [(0, .lit), (7, .waking b)] })] }
       groupAt (s.strait 1).tx 7 = .waking b ∧ s.frameBase.toNat + 48 * (s.frame + 1) ≤ s.due ∧ (s.frame + 1 < b + 50 ↔ b = 15) ∧ (s.strait 1).retrain = none) := by decide +kernel

theorem witness_FramesTidesSlotsAndRetrainingFollowTheClock_requests :
    (let r : DrawerReq := { core := 0, unit := 0, id := 0, pa := 2 ^ 45, ready := 0, strait := 0, frame := none, answered := false }
       let s := framed fun s => { s with frame := 1, drawerReqs := [{ r with ready := 7 }, r, { r with ready := 10 ^ 9 }, { r with frame := some 0 }] }
       s.drawerReqs[1]? = some r ∧ s.requestLeaves r = some 1 ∧ s.requestLeaves { r with ready := 10 ^ 9 } = none
       ∧ (48 * 0 + 384 ≤ s.linkCycle))
    -- what a retraining that begins calls back: a request whose answer it keeps, and a window load asked in its frames
    ∧ (let r : DrawerReq := { core := 0, unit := 0, id := 0, pa := 2 ^ 45, ready := 0, strait := 1, frame := some 63, answered := false }
       let o : Out := { id := 0, seq := 0, kind := .load 0 0x8004000000000 8 false, dst := [.s 1], inL := true, pc := 0, asked := some 62 }
       let s := framed fun s => { s with drawerReqs := [r], straits := [(0, { Strait.reset with face := true, table := [(52, 0x8000), (62, 0x8000)] })] }
       s.framesOn = true ∧ (s.strait 0).retrain = none ∧ (r.strait = 1 ∧ r.answered = false ∧ s.frame < 63 + 7)
       ∧ s.strandsLoad 0 o = true ∧ s.strandsLoad 1 o = false ∧ s.strandsLoad 0 { o with asked := some 52 } = false) := by
  decide +kernel

/-- Core 0 waits for a load whose request strait 1 cannot send, and has counted n of its limit. -/
def stalled (limit n : Nat) (h : Bool) : State :=
  let o : Out := { id := 0, seq := 0, kind := .load 0 (2 ^ 45) 8 false, dst := [.s 1], inL := true, pc := 0, asked := none }
  framed fun s => { s with
    cores := [(0, { runs with ccb := 0x1000, outs := [o], stallLimit := .ofNat _ limit, heldFor := [(1, n)], status := if h then 32 else 0
                              code := [0xFFFF, 0x0101, 0x8000, 0x0040, 0x0020] })]
    drawerReqs := [{ core := 0, unit := 0, id := 0, pa := 2 ^ 45, ready := 0, strait := 0, frame := none, answered := false }]
    straits := [(1, { s.strait 1 with retrain := some (50, 100) })] }

/-- A core that is held, at its limit and one cycle short of it; one that is not held; and one whose limit is not due. -/
theorem witness_FramesTidesSlotsAndRetrainingFollowTheClock_stalls :
    (∀ h ∈ [false, true], ∀ n ∈ [670, 671], let s := stalled 671 n h
      (s.core 0).run = .running ∧ (s.core 0).stallLimit ≠ 0 ∧ 1 ∉ (s.core 0).stallTaken ∧ (s.core 0).stallDue = none
      ∧ s.heldBy 0 1 = true ∧ s.delaysAccess 0 1 = true ∧ s.retraining ≠ [] ∧ (s.core 0).hs = h
      ∧ (let d := max s.cycle.toNat ((s.core 0).issCycle + 1) + (671 - n)
         s.stallsDue.filter (fun x => x.1 ≤ d) = [(d, 0, 1)] ∧ d ≤ s.due ∧ (n = 670 → s.cycle.toNat < d)))
    ∧ (stalled 671 0 false).due < 3071 + 671 ∧ (stalled 671 0 false).heldBy 0 0 = false
    ∧ (stalled 671 0 false).heldBy 1 1 = false := by decide +kernel

/-- What else may differ between the copies of a pair: a CP access, a post, a send, a home request. -/
theorem witness_FramesTidesSlotsAndRetrainingFollowTheClock_pairs :
    (let s := pokes (stalled 671 0 false) [(0x1018, 0x40)]
     s.lockstep 0 = true ∧ (s.core 0).egress 0 0 = some (0, 2 ^ 45) ∧ (s.core 0).seg = false)
    ∧ (let p : Post := { src := 0, dst := 8, ctx := 0, flag := 0, amt := 1, pc := 4 }
       let q : Post := { p with dst := 7 }
       [q, p].find? (fun x => x.src == 0 && x.dst / 8 != 0 / 8) = some p)
    ∧ (let x : SendOp := { entry := entry (.lkSend 1 2 3 0 true false true 1) 4 [0x8100000000000000, 0x200, 600] [], sent := 2, acked := [] }
       (x.next 5).isSome = true ∧ ({ x with sent := 600 }.next 5) = none ∧ ((device { runs with sendq := [(1, [x])] }).core 0).sends 1 = [x])
    ∧ ((device { runs with homeReq := true }).core 0).homeReq = true := by decide +kernel

/-- A piece of a channel that is written to the shelf and one that is read from there, and the row of a gather. -/
theorem witness_FramesTidesSlotsAndRetrainingFollowTheClock_pieces :
    (let r := { copyRun 0x40000000 64 0 0 true false 0 false false with entry := { entry (.cp 1 2 3 7 15 true false false false) 4
          [0x40000000, 0x200, 64] [] with pc := 6 } }
     let s := mapped { runs with chans := [(7, { fifo := [r], ended := false, last := 0 })] }
     ((s.core 0).chan 7).fifo = [r]
     ∧ (match s.pieceInHand 0 r with
        | some (_, n, w) => n == 64 && w.any fun q => leavesCluster 0 q.1
        | none => false) = true
     ∧ (match s.chanEgress 0 7 with
        | some (pc, _) => pc == 6
        | none => false) = true)
    ∧ (let g : GQueue := { GQueue.reset with cfg := some [0x40000000, 0x4000000040, 0x4000, 0, 0, 0, 0, 0], rows := [3], pcs := [8] }
       (match (mapped { runs with gq := [(1, g)] }).gEgress 0 1 with
        | some (pc, _) => pc == 8
        | none => false) = true) := by decide +kernel

/-- A landing count and a flag post at core 8, of an op of core 0, which is in another cluster. -/
theorem witness_FramesTidesSlotsAndRetrainingFollowTheClock_landings :
    (let r := copyRun 0x1000 64 0 1 true true 0 false false
     let o : Owed := { core := 0, unit := 8, queue := 0, land := 8, off := 0, left := 2 }
     let s : State := { copying r with owed := [o] }
     s.owed[0]? = some o ∧ o.core = 0 ∧ o.land / 8 ≠ 0 / 8 ∧ o.unit ≠ 9 ∧ ((s.core 0).chan (o.unit - 1)).fifo = [r])
    ∧ (let at8 := spBase 8 / 64
       let r : CopyRun := { copyRun 0x1000 64 0 1 true true 0x500000000 true false with spans := [(at8, at8 + 1)] }
       let s0 := copying r
       let s : State := { s0 with cores := s0.cores ++ [(8, runs)] }
       s.completing 0 7 = some r ∧ r.inRecord = false ∧ r.noticed = false ∧ ((s.core 0).chan 7).fifo = [r]
       ∧ s.noticeLeaves 0 r.notice (s.copyLands 0 r) = true)
    ∧ ((device runs).core 0).ndDone = false := by decide +kernel

/-- A bundle whose op of slot Y works on a group. -/
theorem witness_FramesTidesSlotsAndRetrainingFollowTheClock_issue :
    let bits := 0x40 + encodeOp 0 (.gBar 0) * 2 ^ 8
    let s : State := { device { runs with gvalid := 1, code := [0xFFFF] ++ (List.range 4).map fun i => bits / 2 ^ (16 * i) % 65536 } with
      groups := [(0, { GroupEntry.reset with valid := true })] }
    let t := s.boundary 0
    (s.core 0).homeReq = false ∧ (t.iss.active, t.iss.core) = (true, 0)
    ∧ (t.iss.ops.any fun o => o.slot == 6 && decide (o.instr = .gBar 0) && t.opLeaves 0 o.instr) = true := by decide +kernel

/-- A node of context 0 in the pool, with its record, launch record and kernel image. -/
def pooled (f : State → State) : State := f { pokes (graph Core.reset 0 0 0x100000000) [
    (0x200000, 0x40201000), (0x200018, 0), (0x201020, 0x100000000), (0x201030, 0x40)] with
  dispCtl := 0x400, pool := [{ ctx := 0, node := 0x40200000, launch := 0x40200400, service := false, prio := 0, since := 0, order := 0 }] }

/-- The node goes to core 1, as core 0 was chosen last; its record reads or does not, and keeps the layout or not; its
image is read and copied, or its copy meets an error. -/
theorem witness_DispatchStopSaveAndRestoreOfContexts :
    let p : PoolNode := { ctx := 0, node := 0x40200000, launch := 0x40200400, service := false, prio := 0, since := 0, order := 0 }
    let s := pooled id
    (pooled fun s => { s with pool := [] }).placeNext.isNone = true ∧ (∀ z, z < 16 → s.mayRestore z = false)
    ∧ s.placeNext.map (·.1) = some [(p, 1)] ∧ s.ctxRuns 0 = true ∧ s.seatOpen 0 1 = true
    ∧ (match (pooled fun s => { s with errs := [0x200000] }).readNode 0 0x40200000 with
        | .ok _ => false
        | .error _ => true) = true
    ∧ (match s.readNode 0 0x40200000, (pokes s [(0x200018, 0x80000)]).readNode 0 0x40200000 with
        | .ok r, .ok q => r.ok && !q.ok
            && (match s.rootPut 0 0x40200028 (setFld (setFld (r.word 0x28) 32 2 2) 34 8 1) with
              | .error _ => false
              | .ok v1 => match v1.fetchKernel 0 (r.word 0) with
                | .error _ => false
                | .ok (h, _, _) => h.imgLen == 0x40
                    && (((v1.disarmAll 1).setCore 1 ((v1.core 1).dispatched p 0x1000)).copyImages 1 p r h).2)
            && (r.operands.all fun q => q.2.2 == 0)
            && (let bad := pooled fun s => { s with errs := [0x201080] }
                match bad.rootPut 0 0x40200028 (setFld (setFld (r.word 0x28) 32 2 2) 34 8 1) with
                | .error _ => false
                | .ok v1 => match v1.fetchKernel 0 (r.word 0) with
                  | .error _ => false
                  | .ok (h, _, _) => !(((v1.disarmAll 1).setCore 1 ((v1.core 1).dispatched p 0x1000)).copyImages 1 p r h).2)
        | _, _ => false) = true := by decide +kernel

/-- A node of context 0 has waited 10 µs for a service core, and all four run context 1, of a lower priority; the save
and the restore of the one core of context 0. -/
theorem witness_DispatchStopSaveAndRestoreOfContexts_contexts :
    (let p : PoolNode := { ctx := 0, node := 0x40200000, launch := 0x40200400, service := true, prio := 0, since := 0, order := 0 }
     let y : Ctx := { ccb := 0x1100, conn := some 0, byDispatcher := false, stopping := none, restoring := false }
     let s := { pokes (mapped Core.reset) [(0x1118, 0x10)] with
      pool := [p], cycle := 15000, cores := [256, 257, 258, 259].map fun c => (c, { runs with ctx := 1, ccb := 0x1100 })
      ctxs := [(0, some { y with ccb := 0x1000 }), (1, some y)] }
     s.starved p = true ∧ s.isRunning 1 = true ∧ s.ctx 1 = some y ∧ s.ctxPrio 0 < s.ctxPrio 1 ∧ s.isRunning 0 = false)
    ∧ (let s := { pokes (mapped { runs with run := .halted }) [(0x1010, 0x10000000)] with
        ctxs := [(0, some { ccb := 0x1000, conn := some 0, byDispatcher := true, stopping := some 1, restoring := false })] }
       s.ctxRests 0 = true ∧ s.ctxCores 0 = [0] ∧ Memory.wf s.mem = true ∧ (s.ccbWord 0x1000 0x10).toNat = 0x10000000
       ∧ s.saveable 0x10000000 = true ∧ (0x1000 + 0x20 ≤ 0x10000000 ∨ 0x10000000 + 0x400000 ≤ 0x1000)
       ∧ s.gatedAt 0x1018 = false ∧ Tab.wf 0 (s.core 0).s = true ∧ Tab.wf 0 (s.core 0).f = true)
    ∧ (let v : SavedCore := { ctx := 0, core := 0, lock := false, regs := { runs with ccb := 0x1000, node := 0x40200000 }, arms := [sp / 16], record := [], owed := [], broken := false }
       let s := { pokes (pooled id) [(0x1010, 0x10000000), (0x1018, 0x100)] with
        pool := [], saved := [v]
        ctxs := [(0, some { ccb := 0x1000, conn := some 0, byDispatcher := true, stopping := none, restoring := true })] }
       s.coreFree 0 = true ∧ s.lockstep 0 = false ∧ s.savedGangs v = [] ∧ s.saveable 0x10000000 = true
       ∧ s.savedBroken { v with record := s.recordCells 0x10000000 } 0x10000000 = false ∧ Memory.wf s.mem = true
       ∧ (0x1000 + 0x20 ≤ spBase 0 ∨ spBase 0 + 0x200000 ≤ 0x1000) ∧ s.gatedAt 0x1018 = false
       ∧ (match s.readNode 0 0x40200000 with
          | .ok n => (match s.fetchKernel 0 (n.word 0) with
            | .ok _ => true
            | .error _ => false)
          | .error _ => false) = true
       ∧ ({ s with ctxs := [(0, some { ccb := 0x1000, conn := some 0, byDispatcher := true, stopping := none, restoring := false })] } : State).mayRestore 0 = true
       ∧ (∀ z, z < 16 → z ≠ 0 → ({ s with ctxs := [(0, some { ccb := 0x1000, conn := some 0, byDispatcher := true, stopping := none, restoring := false })] } : State).mayRestore z = false)
       ∧ v ∈ s.saved) := by
  decide +kernel

/-- A compaction job at 0x300000 on the sequence at 0x80 of core 0 … of a mapped descriptor at 0x40310000. -/
def compacting (first pages w18 : W64) (count : BitVec 32) (f : State → State) : State := f { pokes (mapped runs) [
    (0x300000, 0x40310000), (0x300010, .ofNat 64 (first.toNat + pages.toNat * 2 ^ 32)),
    (0x310000, 1024), (0x310008, 1024), (0x310010, 1024), (0x310018, w18), (0x310038, 0x40320000), (0x320000, 0x4033)] with
  job := some { pa := 0x300000, pos := 0, moved := 0, swap := none, desc := 0, cls := 0, lost := false }
  slabs := [(0, { lost := 0, count := count, head := 0x40340000 })] }

/-- What holds of the descriptor of the job. -/
def compacts (s : State) (p : Desc → Bool) : Bool :=
  match s.descOp (.root (s.jobCtx 0x300000)) (s.jobDesc 0x300000) .homeRead with
  | .ok d => p d
  | .error _ => false

/-- A record that can be written or not; a job is taken, with its reserved bits clear or not; it has no page left; its descriptor cannot be read, is not in
use, has no movable page there, finds no free page, or gives a page; the swap is due; a page waits or not. -/
theorem witness_CompactionFreeingAndConfigurationWrites :
    (let s := compacting 0 1 0x100010006 1 id
     s.jobReadable 0x300000 = true ∧ poisoned s.errs 0x300000 64 = none ∧ s.gatedAt 0x300018 = false
     ∧ s.jobReadable (2 ^ 45) = false)
    ∧ (∀ w ∈ [0, 16], let s := pokes (compacting 0 1 0x100010006 1 fun s => { s with job := none, jobs := [0x300000] }) [(0x300008, .ofNat 64 w)]
      s.job = none ∧ s.jobs = [0x300000] ∧ s.jobReadable 0x300000 = true ∧ s.gatedAt 0x300018 = false
      ∧ poisoned s.errs 0x300000 64 = none ∧ s.jobReserved 0x300000 = (w == 16))
    ∧ (compacting 0 0 0x100010006 1 id).jobPages 0x300000 ≤ 0 ∧ 0 < (compacting 0 1 0x100010006 1 id).jobPages 0x300000
    ∧ compacts (compacting 0 1 0x100010006 1 fun s => { s with errs := [0x310000] }) (fun _ => true) = false
    ∧ compacts (compacting 0 1 0x100030006 1 id) (fun d => !live d) = true
    ∧ compacts (compacting 1 1 0x200010006 1 id) (fun d => live d && !decide (1 < d.pages)) = true
    ∧ compacts (compacting 0 1 0x100010006 0 id) (fun d => live d && decide (0 < d.pages)
        && decide (d.fork + 1 * seqP d.w18 ≤ d.lc) && ((compacting 0 1 0x100010006 0 id).slab 0 (seqClass d.w18)).count == 0) = true
    ∧ compacts (compacting 0 1 0x100010006 1 id) (fun d => (match (compacting 0 1 0x100010006 1 id).copyPage 0 d 0 with
        | .ok (q, _) => decide (q = (0x320000, 0x40330000, 0x40340000))
        | .error _ => false)) = true
    ∧ compacts (compacting 0 1 0x100010006 1 fun s => { s with slabs := [(0, { lost := 0, count := 1, head := 8 })] }) (fun d =>
        (match (compacting 0 1 0x100010006 1 fun s => { s with slabs := [(0, { lost := 0, count := 1, head := 8 })] }).copyPage 0 d 0 with
          | .ok _ => false
          | .error _ => true)) = true
    -- the swap: of a sequence that is in use, that has been dropped since, and whose descriptor cannot be read
    ∧ compacts (compacting 0 1 0x100010006 1 id) live = true ∧ compacts (compacting 0 1 0x100030006 1 id) (fun d => !live d) = true
    ∧ (∀ l ∈ [false, true], ({ pa := 0x300000, pos := 0, moved := 0, swap := some (0x320000, 0x40330000, 0x40340000), desc := 0x310000
                               cls := 0, lost := l } : Job).lost = l)
    ∧ (∀ e ∈ [0x320000, 0x320007], poisoned [e] 0x320000 8 = some e)
    ∧ ((0x320000 + 8 ≤ 0x300018 ∨ 0x300020 ≤ 0x320000) ∧ (compacting 0 1 0x100010006 1 id).gatedAt 0x320000 = false)
    ∧ (∀ va ∈ [0x40340000, 0x1000], let f : FreePage := { ctx := 0, cls := 0, va := va, waits := [(0, 0)] }
       let s := compacting 0 1 0x100010006 1 fun s => { s with frees := [f] }
       s.frees[0]? = some f ∧ s.stillHolds (0, 0) = true ∧ s.stillHolds (7, 0) = false
       ∧ (match s.rootPut 0 (.ofNat 64 va) 0x40340000 with
          | .ok _ => true
          | .error _ => false) = (va == 0x40340000))
    ∧ (∀ g ∈ [0, 255], (BitVec.ofNat 24 (0x20000 + 32 * g)).toNat / 8 * 8 = 0x20000 + 32 * g)
    ∧ (∀ n ∈ [0, 255], (BitVec.ofNat 24 (0x31008 + 16 * n)).toNat / 8 * 8 = 0x31008 + 16 * n)
    ∧ (let s := State.reset
       s.framesOn = false ∧ ({ s with framesOn := true } : State).sched = none) := by decide +kernel

/-- A tick, a control period, a cluster that may be gated and one that may not, a gated one, the stages, and a device
with and without a running context before stage 4. -/
theorem witness_PowerBringUpAndResetLeaveTheStatedValues :
    64 * (State.reset.hbCount.toNat + 1) ≤ State.reset.due
    ∧ (let s : State := { State.reset with cycle := 4090, hbCount := 63, dispCtl := 8 }
       4096 * (s.power.periods + 1) ≤ s.due ∧ ({ s.power with ballastRan := true, capW := 5 } : Power).capW ≠ 0)
    -- under pack 1,024 cycles after the last node, not under spread, and at once after a stop of every context
    ∧ (∀ cl ∈ [0, 31], let s : State := { State.reset with stage := 4, hbCount := 16, dispCtl := 0 }
       cl < 32 ∧ s.power.gated.getLsbD cl = false ∧ s.dispCtl.getLsbD 3 = false ∧ s.power.rampDown.getLsbD cl = false ∧ 0 + 1024 ≤ s.due
       ∧ ∀ i, i < 8 → (s.core (8 * cl + i)).run = .free ∧ (s.core (8 * cl + i)).idleFrom = 0)
    ∧ (∀ cl ∈ [0, 31], let s : State := { State.reset with stage := 2, dispCtl := 8, power := { Power.reset with rampDown := 0x80000001 } }
       s.power.rampDown.getLsbD cl = true ∧ 0 ≤ s.due)
    ∧ ({ State.reset with dispCtl := 8 } : State).dispCtl.getLsbD 3 = true ∧ ¬0 + 1024 ≤ State.reset.due
    ∧ ({ State.reset with power := { Power.reset with gated := 0x80000000 } } : State).power.gated.getLsbD 31 = true
    ∧ (let s : State := { State.reset with stage := 3 }
       s.service = 0 ∧ s.runningCtxs = [] ∧ s.anyStopping = false ∧ s.clockStop = [])
    ∧ (let s := { mapped runs with stage := 3 }
       s.service = 0 ∧ s.runningCtxs = [0] ∧ (s.ctx 0).isSome = true)
    ∧ (∀ r ∈ [false, true], let s : State := { mapped runs with stage := 4, clockStop := [0], ctxs := [(0, some {
          ccb := 0x1000, conn := some 0, byDispatcher := false, stopping := none, restoring := r })] }
       s.service = 0 ∧ ((s.ctx 0).map (·.restoring)) = some r) := by decide +kernel

/-- A request of connection 0 for context 0: its operation, its address, its argument and its length. -/
def request (opc : Nat) (addr arg : W64) (len : Nat) (payload : List Byte) : HostReq :=
  { conn := 0, w0 := .ofNat 64 opc, addr := addr, w2 := .ofNat 64 len, arg := arg, payload := payload }

theorem witness_HostRequestsAreAnsweredWithTheirResult : let s := mapped runs
    s.takesRequest (request 1 0 0 0 []) = true ∧ ({ s with stage := 1 } : State).takesRequest (request 1 0 0 0 []) = false
    ∧ (request 1 0 0 0 []).bad 1 = false ∧ (request 1 0 0 1 []).bad 2 = true ∧ (request 1 0 0 65537 []).bad 1 = true
    ∧ s.resident 0 = true ∧ ({ s with ctxs := [] } : State).resident 0 = false
    ∧ (∀ n ∈ [1, 64], (request 2 0x40200000 0 n []).bad 2 = false
        ∧ s.hostRuns (request 2 0x40200000 0 n []) 0x40200000 n .read = .ok [(0x200000, n)])
    ∧ s.region 0x200000 = .shelf 0 ∧ s.gatedAt 0x200000 = false ∧ poisoned s.errs 0x200000 64 = none
    ∧ (match s.hostRuns (request 2 0x1000 0 8 []) 0x1000 8 .read with
        | .ok _ => false
        | .error _ => true) = true
    ∧ (request 3 0x40200000 0 2 [1, 2]).bad 3 = false
    ∧ s.hostRuns (request 3 0x40200000 0 2 [1, 2]) 0x40200000 2 .write = .ok [(0x200000, 2)]
    ∧ s.overlapsArmed 0x200000 2 = false ∧ ({ s with marks := [0x40000] } : State).overlapsMark 0x200000 2 = true
    ∧ (match s.hostRead (request 4 0x40200400 0 0 []) 0x40200410 24 with
        | .ok _ => true
        | .error _ => false) = true := by decide +kernel

theorem witness_HostRequestsAreAnsweredWithTheirResult_contexts : let s := graph runs 0 1 0
    (let r := request 1 0x40200400 0 0 []
     r.addr.toNat % 64 = 0 ∧ (0x40200410 : W64).toNat % 64 ≠ 0
     ∧ (match s.hostRead r r.addr 64 with
        | .error _ => false
        | .ok bs => leNat ((bs.drop 8).take 8) == 1 && leNat ((bs.drop 0x18).take 8) == 0 && (bs.drop 0x28).all (· == 0)
          && (match s.acceptLaunch r 1 0 with
            | .ok _ => true
            | .error _ => false)) = true
     ∧ (match (pokes s [(0x200408, 0x100001)]).hostRead r r.addr 64 with
        | .error _ => false
        | .ok bs => leNat ((bs.drop 8).take 8) / 2 ^ 20 != 0) = true)
    ∧ (let full : State := { s with ctxs := (List.range 16).map fun i => (i, s.ctx 0) }
       full.residents = 16 ∧ s.residents ≠ 16 ∧ (s.ctx 0).isSome = true ∧ s.ctx 5 = none)
    ∧ (0x2010 % 256 ≠ 0 ∧ 0x2000 % 256 = 0 ∧ s.region 0x2000 = .shelf 0 ∧ poisoned s.errs 0x2000 256 = none
       ∧ s.gatedAt 0x2018 = false ∧ (∀ i, i < 40 → s.byte (0x2000 + 0x40 + i) = 0)
       ∧ ¬(∀ i, i < 40 → (pokes s [(0x2040, 1)]).byte (0x2000 + 0x40 + i) = 0))
    ∧ (∀ c ∈ [0, 1, 2], ((pokes s [(0x1018, .ofNat 64 (c * 256))]).ccbWord 0x1000 0x18).toNat / 2 ^ 8 % 4 = c)
    ∧ (2 ≤ s.stage ∧ (1 : BitVec 4).toNat < 2 ∧ ¬((2 : BitVec 4).toNat < 2)) := by decide +kernel

/-- Connection 0 stands, and context 0 was opened on it; an answer is owed on it. -/
theorem witness_HostRequestsAreAnsweredWithTheirResult_connections :
    let s : State := { mapped runs with agenda := [.connectionEnd 0], owedAnswers := [(0, request 8 0 0 0 [])] }
    s.agenda = .connectionEnd 0 :: [] ∧ Tab.get none s.conns 0 = some false ∧ (s.ctx 0).map (·.conn) = some (some 0)
    ∧ ∃ q ∈ s.owedAnswers, q.2.conn = 0 := by decide +kernel

/-- Core 0 at a bundle of one op of slot S with this guard and word. -/
def fetching (w : Nat) (pwin : BitVec 16) : State :=
  let bits := 1 + w * 2 ^ 8
  { device { runs with pwin := pwin, code := [0xFFFF] ++ (List.range 4).map fun i => bits / 2 ^ (16 * i) % 65536 } with
    agenda := [.event (.bundleFetch 0)] }

/-- The premises of a bundle of one op: that it decodes, and that nothing holds it back. -/
def fetches (s : State) (answer : Bool) (p : Core → SlotOp → Bool) : Bool :=
  let k := s.core 0
  match decodeCodeWord k.code k.dict k.pc with
  | .image bits _ => paddingZero bits && match bundleOps bits with
    | [(slot, w)] => match decodeOp (slotClass slot) w with
      | .ok (pg, i) =>
        let o : SlotOp := { slot := slot, pg := pg, instr := i, raw := w }
        let v : State := { s with agenda := [] }
        let u := v.offers 0 10 [o] answer
        decide (k.run = .running) && k.stallDue.isNone && k.cmptDue.isNone && k.uncorrDue.isNone && !k.preReq && k.hold.isNone && k.rep.isNone && !k.segment.mode && !k.segment.closing && !k.seg && k.efaults.isEmpty
          && !k.brkMask.getLsbD 8 && !k.opWaits [o] && !k.skewed && !k.pastLimit [o] && !k.marked [o] && !s.hasDrawers
          && !v.bundleWalks 0 [o] 10 && !v.walking 0 0 && decide (u.cycle.toNat < u.due) && decide (u.due ≤ 2 ^ 64)
          && !(v.offers 0 10 [o] false).opAwaits 0 o.instr && (u.bundleFault exec).isNone && p k o
      | .error _ => false
    | _ => false
  | _ => false

/-- An op whose guard holds and one whose guard does not, under p9; and a home-decided op that asks and is answered. -/
theorem witness_StepRunsTheDecodedInstruction :
    fetches (fetching (0x20 * 2 ^ 40 + 9 * 2 ^ 35 + 2 * 2 ^ 29 + 1) 0x0201) false (fun k o => k.pwin.getLsbD (o.pg.toNat % 16)
      && !homeDecided o.instr && decide (o.instr = .addi 2 0 1)) = true
    ∧ fetches (fetching (0x20 * 2 ^ 40 + 9 * 2 ^ 35 + 2 * 2 ^ 29 + 1) 0x0001) false (fun k o => !k.pwin.getLsbD (o.pg.toNat % 16)
        && o.pg.toNat % 16 != 0 && !o.pg.getLsbD 4) = true
    ∧ fetches (fetching (0x59 * 2 ^ 40) 0x0001) false (fun _ o => homeDecided o.instr) = true
    ∧ (let s := { fetching (0x59 * 2 ^ 40 + 2 ^ 23) 0x0001 with mem := (sequence 0).mem }
       fetches (s.setCore 0 { s.core 0 with homeReq := true, s := [(1, 0x80)] }) true (fun k o => k.homeReq && homeDecided o.instr)) = true
    ∧ (Instr.heartbeatTick.isEvent = true ∧ (match exec .heartbeatTick State.reset with
        | .next u => !u.iss.active
        | _ => false) = true)
    ∧ ((aCall fun x => x).core 0).microOp.isSome = true
    ∧ ((State.reset).cycle.toNat < State.reset.due ∧ State.reset.due ≤ 2 ^ 64) := by decide +kernel

/-- A host READ of an address whose page table lies in a drawer, before its entry has been read. -/
theorem witness_StepRunsTheDecodedInstruction_entries :
    let i := Instr.read (request 2 0x40200000 0 8 [])
    let v : State := { pokes (mapped runs) [(0x1000, 2 ^ 45)] with gib := [(0, 16)], stage := 4 }
    let run := fun t : State => match exec i t with
      | .next u => u.settle exec
      | r => r
    i.isEvent = true ∧ i.walksNot = false ∧ v.hasDrawers = true ∧ v.enough run [] = false
    ∧ v.enough run (v.entriesHere fun _ => true) = false ∧ (device runs).hasDrawers = false := by decide +kernel

/-- The sum of s1 and s2 into s2, where s2 waits for a producer: until its latency has passed, or for ever. -/
theorem witness_StepRunsTheDecodedInstruction_marked : ∀ ready ∈ [none, some 1],
    let s := fetching (0x01 * 2 ^ 40 + 2 * 2 ^ 29 + 2 * 2 ^ 17) 0x0001
    let o : Out := { id := 0, seq := 0, kind := .done, dst := [.s 2], inL := false, pc := 0, asked := none, ready := ready }
    let k := { s.core 0 with outs := [o] }
    let op : SlotOp := { slot := 0, pg := 0, instr := .addi 2 2 1, raw := 0 }
    k.opWaits [op] = false ∧ k.skewed = false ∧ k.pastLimit [op] = false ∧ k.marked [op] = true
    ∧ { k with seq := 1 }.marked [op] = ready.isNone := by decide +kernel

theorem witness_EncodedInstructionsDecodeToThemselves : (Instr.addi 2 2 1).wellFormed = true
    ∧ ((opFields (.addi 2 2 1)).isSome = true) ∧ (opFields (.vmaxI 1 1 0 0 8 false)).isSome = true
    ∧ (microFields (.acc 5 9)).isSome = true ∧ (3 : BitVec 5) ≠ 16 := by decide +kernel

theorem witness_EveryStepGoesOnAndKeepsMemoryCanonical : State.reset.memOk ∧ (mapped runs).memOk := by
  unfold State.memOk; decide +kernel

end Sys2Proof.Tests
end

section
/-! SUPPORT. Queued ops enter the queue of their slot (01 R17): what an op carries into its queue, and the checks at issue of
the ops that have some (12 R280, R282, R290, R298). -/

namespace Sys2Proof.Machine

open Sys2Proof

/-- A queued op whose registers are known enters its queue with them. -/
theorem enqueues_with {i : Instr} {s : State} {vals : List W64} {dst : List Reg}
    (h : exec i s = .next (s.queueOp i)) (hv : queuedVals s i = vals) (hd : writtenRegs i = dst) :
    Enqueues s i s.iss.slot vals dst := hv ▸ hd ▸ enqueues_of_queueOp h

/-- The one scalar destination of an op: s0 is none. -/
theorem filter_fixed_sr (r : SR) :
    [Reg.s r.toNat].filter (!·.fixed) = if r = 0 then [] else [Reg.s r.toNat] := by
  split
  · subst r; rfl
  · have hr : r.toNat ≠ 0 := fun h => ‹r ≠ 0› ((sr_toNat_eq_zero r).mp h)
    have hf : (Reg.s r.toNat).fixed = false := by
      unfold Reg.fixed; split <;> simp_all
    simp [hf]

/-- An op whose check at issue fails takes its trap. -/
theorem traps_of_preciseTrap {i : Instr} {s : State} {t : Trp} (h : exec i s = .next (s.preciseTrap t))
    (hu : t.code ≠ .uncorr) (hk : (s.core s.cur).handles) :
    TrapsPrecisely s i t.code (.ofNat 64 t.info) t.addr :=
  ⟨_, h, preciseTrap_enters s t hk (.inl hu)⟩

/-! ## mcall -/

/-- mcall joins the M queue and its bundle is remembered (11 R262). -/
theorem exec_mcall_enqueues (s : State) (r : BitVec 6) :
    ∃ t, exec (.mcall r) s = .next t ∧ OnlyCore s.cur s t
      ∧ t.core s.cur = { (s.core s.cur).enqueue s.iss.slot
          { instr := .mcall r, slot := s.iss.slot, seq := s.iss.seq, vals := [], dst := []
            pc := (s.core s.cur).issPc } with lastMcall := some s.iss.seq } :=
  ⟨_, rfl, onlyCore_trans (onlyCore_modCur s _) (onlyCore_modCur (s.queueOp (.mcall r)) _), core_modCur2 s _ _⟩

/-! ## dset in memory mode (12 R282) -/

/-- The address of dset: S[sa] + 16 × sext(off). -/
theorem dsetAddr_eq (a : W64) (off : BitVec 20) :
    dsetAddr a off = .ofNat 64 (a.toNat + (.ofInt 64 (16 * off.toInt) : W64).toNat) := by
  have h : sx (off ++ 0#4) = (.ofInt 64 (16 * off.toInt) : W64) := by
    show (BitVec.ofInt 64 (off ++ 0#4).toInt) = _
    rw [BitVec.toInt_append]
    simp
  unfold dsetAddr
  rw [h]
  apply BitVec.eq_of_toNat_eq
  simp

theorem exec_dsetMem_ok (s : State) (n : BitVec 4) (sa : SR) (off : BitVec 20)
    (h16 : (dsetAddr (s.srcS sa) off).toNat % 16 = 0) (hin : (dsetAddr (s.srcS sa) off).toNat ≤ 0x1FFFF0) :
    exec (.dsetMem n sa off) s = .next (s.queueOp (.dsetMem n sa off)) := by
  have hf : dsetFault (dsetAddr (s.srcS sa) off) = none := by
    unfold dsetFault; rw [if_neg (by omega), if_neg (by omega)]
  show execDsetMem n sa off s = _
  unfold execDsetMem; rw [hf]

theorem exec_dsetMem_align (s : State) (n : BitVec 4) (sa : SR) (off : BitVec 20)
    (h16 : (dsetAddr (s.srcS sa) off).toNat % 16 ≠ 0) :
    exec (.dsetMem n sa off) s = .next (s.preciseTrap (alignTrap 4 (dsetAddr (s.srcS sa) off))) := by
  have hf : dsetFault (dsetAddr (s.srcS sa) off) = some (alignTrap 4 (dsetAddr (s.srcS sa) off)) := by
    unfold dsetFault; rw [if_pos h16]
  show execDsetMem n sa off s = _
  unfold execDsetMem; rw [hf]

theorem exec_dsetMem_xlate (s : State) (n : BitVec 4) (sa : SR) (off : BitVec 20)
    (h16 : (dsetAddr (s.srcS sa) off).toNat % 16 = 0) (hout : 0x1FFFF0 < (dsetAddr (s.srcS sa) off).toNat) :
    exec (.dsetMem n sa off) s = .next (s.preciseTrap (xlateTrap 7 4 (dsetAddr (s.srcS sa) off))) := by
  have hf : dsetFault (dsetAddr (s.srcS sa) off) = some (xlateTrap 7 4 (dsetAddr (s.srcS sa) off)) := by
    unfold dsetFault; rw [if_neg (by omega), if_pos hout]
  show execDsetMem n sa off s = _
  unfold execDsetMem; rw [hf]

/-! ## mucode (12 R298) -/

theorem exec_mucode_ok (s : State) (sa : SR) (n r : BitVec 6) (h8 : (s.srcS sa).toNat % 8 = 0)
    (hin : (s.srcS sa).toNat + 8 * (n.toNat + 1) ≤ 0x200000) :
    exec (.mucode sa n r) s = .next (s.queueOp (.mucode sa n r)) := by
  have hf : mucodeFault (s.srcS sa) n = none := by
    unfold mucodeFault; rw [if_neg (by omega), if_neg (by omega)]
  show execMucode sa n r s = _
  unfold execMucode; rw [hf]

theorem exec_mucode_align (s : State) (sa : SR) (n r : BitVec 6) (h8 : (s.srcS sa).toNat % 8 ≠ 0) :
    exec (.mucode sa n r) s = .next (s.preciseTrap (alignTrap 3 (s.srcS sa))) := by
  have hf : mucodeFault (s.srcS sa) n = some (alignTrap 3 (s.srcS sa)) := by
    unfold mucodeFault; rw [if_pos h8]
  show execMucode sa n r s = _
  unfold execMucode; rw [hf]

theorem exec_mucode_xlate (s : State) (sa : SR) (n r : BitVec 6) (h8 : (s.srcS sa).toNat % 8 = 0)
    (hout : 0x200000 < (s.srcS sa).toNat + 8 * (n.toNat + 1)) :
    exec (.mucode sa n r) s = .next (s.preciseTrap (xlateTrap 7 4 (s.srcS sa))) := by
  have hf : mucodeFault (s.srcS sa) n = some (xlateTrap 7 4 (s.srcS sa)) := by
    unfold mucodeFault; rw [if_neg (by omega), if_pos hout]
  show execMucode sa n r s = _
  unfold execMucode; rw [hf]

/-! ## The accumulator copies (12 R290) -/

/-- The checks of an accumulator copy, in their order. -/
theorem acpyFault_row (raw : Nat) (sr : W64) (sn : Option W64) (h : 255 < sr.toNat) :
    acpyFault raw sr sn = some ⟨.illegalOp, raw, 0⟩ := if_pos h

theorem acpyFault_none (raw : Nat) (sr : W64) (h : sr.toNat ≤ 255) : acpyFault raw sr none = none :=
  if_neg (by omega)

theorem acpyFault_noise (raw : Nat) (sr a : W64) (h : sr.toNat ≤ 255) :
    acpyFault raw sr (some a) =
      if a.toNat % 4 ≠ 0 then some (alignTrap 2 a)
      else if 0x1FFFFC < a.toNat then some (xlateTrap 7 4 a) else none := if_neg (by omega)

section
variable {s : State} {n : BitVec 4} {sr sn : SR} {upd : Bool} {cvc : BitVec 2} {flag : BitVec 4}
  {post raw wrap : Bool} {rm : BitVec 3}

theorem exec_acpyOut_ok (h : acpyFault s.slotWord (s.srcS sr) (if rm = 4 then some (s.srcS sn) else none) = none) :
    exec (.acpyOut n sr sn upd cvc flag post raw wrap rm) s =
      .next (s.queueOp (.acpyOut n sr sn upd cvc flag post raw wrap rm)) := by
  show execAcpyOut n sr sn upd cvc flag post raw wrap rm s = _
  unfold execAcpyOut; rw [h]

theorem exec_acpyOut_fault {t : Trp}
    (h : acpyFault s.slotWord (s.srcS sr) (if rm = 4 then some (s.srcS sn) else none) = some t) :
    exec (.acpyOut n sr sn upd cvc flag post raw wrap rm) s = .next (s.preciseTrap t) := by
  show execAcpyOut n sr sn upd cvc flag post raw wrap rm s = _
  unfold execAcpyOut; rw [h]

theorem exec_acpyIn_ok (h : (s.srcS sr).toNat ≤ 255) :
    exec (.acpyIn n sr flag upd post raw) s = .next (s.queueOp (.acpyIn n sr flag upd post raw)) := by
  show execAcpyIn n sr flag upd post raw s = _
  unfold execAcpyIn; rw [acpyFault_none _ _ h]

theorem exec_acpyIn_fault (h : 255 < (s.srcS sr).toNat) :
    exec (.acpyIn n sr flag upd post raw) s = .next (s.preciseTrap ⟨.illegalOp, s.slotWord, 0⟩) := by
  show execAcpyIn n sr flag upd post raw s = _
  unfold execAcpyIn; rw [acpyFault_row _ _ _ h]

/-- acpy.out passes its checks: the row, and for rm = 4 the noise array. -/
theorem acpyFault_ok (h : (s.srcS sr).toNat ≤ 255)
    (hn : rm = 4 → (s.srcS sn).toNat % 4 = 0 ∧ (s.srcS sn).toNat ≤ 0x1FFFFC) :
    acpyFault s.slotWord (s.srcS sr) (if rm = 4 then some (s.srcS sn) else none) = none := by
  by_cases hr : rm = 4
  · have ⟨h4, hin⟩ := hn hr
    rw [if_pos hr, acpyFault_noise _ _ _ h, if_neg (by omega), if_neg (by omega)]
  · rw [if_neg hr]; exact acpyFault_none _ _ h

end

/-- Settles O43: a queued op's meaning is queueOp once its checks at issue pass, and a precise trap where they fail. -/
theorem queuedOpsEnterTheirQueue : Obligations.QueuedOpsEnterTheirQueue := by
  unfold Obligations.QueuedOpsEnterTheirQueue
  intro s sd sa sb sc n q n3 b3 ch c3 n2 q2 m2 n6 r6 off imm h st wt fp bc upd raw wrap m1 b8 n7 anchor rm
    slot a b c pair out goes x len traps
  have one : ∀ i, destRegs i = [Reg.s sd.toNat] → writtenRegs i = out sd := fun i hi => by
    unfold writtenRegs; rw [hi]; exact filter_fixed_sr sd
  have hx : dsetAddr a off = x := dsetAddr_eq a off
  refine ⟨exec_mcall_enqueues s r6, enqueues_with rfl rfl rfl, enqueues_with rfl rfl (one _ rfl),
    enqueues_with rfl rfl rfl, enqueues_with rfl rfl (one _ rfl), enqueues_with rfl rfl rfl, enqueues_with rfl rfl rfl,
    enqueues_with rfl rfl rfl, enqueues_with rfl rfl (one _ rfl), enqueues_with rfl rfl rfl, enqueues_with rfl rfl rfl,
    enqueues_with rfl rfl rfl, enqueues_with rfl rfl rfl, enqueues_with rfl rfl rfl, enqueues_with rfl rfl rfl,
    enqueues_with rfl rfl rfl, enqueues_with rfl rfl rfl, enqueues_with rfl rfl (one _ rfl), enqueues_with rfl rfl rfl,
    enqueues_with rfl rfl rfl, enqueues_with rfl rfl rfl, enqueues_with rfl rfl rfl, enqueues_with rfl rfl rfl,
    enqueues_with rfl rfl rfl, enqueues_with rfl rfl rfl, enqueues_with rfl rfl rfl, enqueues_with rfl rfl rfl,
    enqueues_with rfl rfl rfl, enqueues_with rfl rfl (one _ rfl), enqueues_with rfl rfl rfl, enqueues_with rfl rfl rfl,
    enqueues_with rfl rfl rfl, enqueues_with rfl rfl rfl, ?dsetOk, ?dsetAlign, ?dsetXlate, ?mucodeOk, ?mucodeAlign,
    ?mucodeXlate, ?acpyRow, ?acpyRest⟩
  case dsetOk => exact fun h16 hin => enqueues_with (exec_dsetMem_ok s n sa off (hx ▸ h16) (hx ▸ hin)) rfl rfl
  case dsetAlign =>
    intro h16 hk
    have ht := traps_of_preciseTrap (exec_dsetMem_align s n sa off (hx ▸ h16)) (by nofun) hk
    rwa [show dsetAddr (s.srcS sa) off = x from hx] at ht
  case dsetXlate =>
    intro h16 hout hk
    have ht := traps_of_preciseTrap (exec_dsetMem_xlate s n sa off (hx ▸ h16) (hx ▸ hout)) (by nofun) hk
    rwa [show dsetAddr (s.srcS sa) off = x from hx] at ht
  case mucodeOk => exact fun h8 hin => enqueues_with (exec_mucode_ok s sa n6 r6 h8 hin) rfl rfl
  case mucodeAlign => exact fun h8 hk => traps_of_preciseTrap (exec_mucode_align s sa n6 r6 h8) (by nofun) hk
  case mucodeXlate => exact fun h8 hout hk => traps_of_preciseTrap (exec_mucode_xlate s sa n6 r6 h8 hout) (by nofun) hk
  case acpyRow =>
    exact fun hrow => ⟨fun hk => traps_of_preciseTrap (exec_acpyOut_fault (acpyFault_row _ _ _ hrow)) (by nofun) hk,
      fun hk => traps_of_preciseTrap (exec_acpyIn_fault hrow) (by nofun) hk⟩
  case acpyRest =>
    intro hrow
    have noise := acpyFault_noise s.slotWord a b hrow
    refine ⟨enqueues_with (exec_acpyIn_ok hrow) rfl rfl,
      fun hn => enqueues_with (exec_acpyOut_ok (acpyFault_ok hrow hn)) rfl rfl, fun hrm h4 hk => ?_,
      fun hrm h4 hout hk => ?_⟩
    · rw [if_pos h4] at noise
      exact traps_of_preciseTrap (exec_acpyOut_fault (by rw [if_pos hrm]; exact noise)) (by nofun) hk
    · rw [if_neg (by omega), if_pos hout] at noise
      exact traps_of_preciseTrap (exec_acpyOut_fault (by rw [if_pos hrm]; exact noise)) (by nofun) hk

end Sys2Proof.Machine
end

section
/-! SUPPORT. The head of C0 as it leaves its queue: what a departure that changes its core alone does (01 R17), what the
checkpoint of an open segment takes of it (08 R201), and which unit each op goes to (14 R302, R319, R329, 19 R410, R414). -/

namespace Sys2Proof.Machine

open Sys2Proof

/-! ## Checkpoints -/

/-- An entry that an op has changed is carried, and any other stays as it was in the checkpoint. -/
theorem get_carryTab {α : Type} [DecidableEq α] (d : α) (n : Nat) (old new t : Tab α) (i : Nat) :
    Tab.get d (carryTab d n old new t) i =
      if i < n ∧ Tab.get d new i ≠ Tab.get d old i then Tab.get d new i else Tab.get d t i := by
  unfold carryTab
  induction n with
  | zero => simp
  | succ n ih =>
    rw [List.range_succ, List.foldl_append, List.foldl_cons, List.foldl_nil]
    by_cases hn : Tab.get d new n = Tab.get d old n
    · rw [if_pos hn, ih]
      by_cases hi : i = n
      · subst hi; simp [hn]
      · simp [show i < n + 1 ↔ i < n by omega]
    · rw [if_neg hn, Tab.get_put, ih]
      by_cases hi : i = n
      · subst hi; simp [hn]
      · simp [hi, show i < n + 1 ↔ i < n by omega]

theorem carried_carryTab {α : Type} [DecidableEq α] (d : α) {n i : Nat} (old new t : Tab α) (hi : i < n) :
    Carried d old new t (carryTab d n old new t) i := by
  unfold Carried
  rw [get_carryTab]
  by_cases h : Tab.get d new i = Tab.get d old i
  · exact .inr ⟨by simp [h], h⟩
  · exact .inl ⟨by simp [hi, h], h⟩

/-- A table that an op has left alone carries nothing. -/
theorem carryTab_same {α : Type} [DecidableEq α] (d : α) (n : Nat) (old t : Tab α) : carryTab d n old old t = t := by
  unfold carryTab
  generalize List.range n = l
  induction l with
  | nil => rfl
  | cons i l ih => rw [List.foldl_cons, if_pos rfl, ih]

/-- An op that writes no scalar, parameter or coverage register changes no checkpoint. -/
theorem Core.carry_sameRegs (old new : Core) (seq : Nat) (hs : new.s = old.s) (hm : new.mp = old.mp)
    (hc : new.cv = old.cv) : old.carry new seq = new := by
  unfold Core.carry
  split
  · simp only [← hs, ← hm, ← hc, carryTab_same]
  · rfl

/-- What carry gives is the checkpoint that Checkpoints speaks of. -/
theorem checkpoints_carry (old new : Core) (seq : Nat) (hseg : new.segment = old.segment) (hst : new.seg = old.seg) :
    Checkpoints old (old.carry new seq) seq := by
  unfold Checkpoints Core.carry
  rw [hst, hseg]
  by_cases h : old.seg = true ∧ seq ≤ old.segment.first
  · have h' : (old.seg && decide (seq ≤ old.segment.first)) = true := by simp [h]
    simp only [h, and_self, if_true]
    exact ⟨by simp, by simp, fun r => carried_carryTab 0 _ _ _ r.isLt, fun n => carried_carryTab 0 _ _ _ n.isLt,
      fun n => carried_carryTab 0 _ _ _ n.isLt⟩
  · have h' : ¬(old.seg && decide (seq ≤ old.segment.first)) = true := by simpa using h
    simp only [h, h', if_false]
    exact hseg

/-! ## The head of a slot queue -/

/-- Op e heads the C0 queue of core c with C1 empty, and neither a stop nor its tag holds it back. -/
structure State.headsC0 (s : State) (c : Nat) (e : QEntry) (rest : List QEntry) : Prop where
  engineOn : (s.core c).engineOn = true
  c0q : (s.core c).c0q = e :: rest
  c1q : (s.core c).c1q = []
  runs : (s.core c).stopped 11 0 = false
  inQueue : e.left = false
  tagged : ∀ d, waitTag e.instr = some d → (s.core c).tag d = true
  behind : ∀ x ∈ rest, x.left = false ∧ x.seq ≠ e.seq

/-- Of a queue from which no op has left, its head alone may act. -/
theorem leavers_head {e : QEntry} {rest : List QEntry} (he : e.left = false) (hr : ∀ x ∈ rest, x.left = false) :
    leavers (e :: rest) = [e] := by
  have hf : (e :: rest).filter (·.left) = [] := by
    rw [List.filter_eq_nil_iff]
    intro x hx
    rcases List.mem_cons.mp hx with rfl | hx
    · simp [he]
    · simp [hr x hx]
  unfold leavers
  rw [hf, List.find?_cons_of_pos (by simp [he])]
  rfl

theorem dropOp_head {e : QEntry} {rest : List QEntry} (hr : ∀ x ∈ rest, x.seq ≠ e.seq) :
    dropOp e.seq (e :: rest) = rest := by
  unfold dropOp
  rw [List.filter_cons_of_neg (by simp), List.filter_eq_self]
  intro x hx; simpa using hr x hx

/-- An op that is neither an mcall nor an accumulator copy leaves its queue with no view changed. -/
theorem State.onLeave_quiet (s : State) (c : Nat) {e : QEntry} (hm : ∀ r, e.instr ≠ .mcall r)
    (ha : isAcpy e.instr = false) : s.onLeave c e = s := by
  unfold State.onLeave
  split
  · exact absurd ‹_› (hm _)
  · simp [ha]
  · rfl

/-- What names no descriptor as an accumulator copy is none. -/
theorem isAcpy_of_acpyDesc {e : QEntry} (h : acpyDesc e.instr = none) : isAcpy e.instr = false := by
  unfold isAcpy
  split
  · rename_i hi; rw [hi] at h; cases h
  · rename_i hi; rw [hi] at h; cases h
  · rfl

theorem acpyOp_of_acpyDesc {e : QEntry} (h : acpyDesc e.instr = none) : acpyOp e = none := by
  unfold acpyOp
  split
  · rename_i hi; rw [hi] at h; cases h
  · rename_i hi; rw [hi] at h; cases h
  · rfl

/-- A gather op is no mcall, no accumulator copy and no op of a channel. -/
theorem gatherOf_some {i : Instr} {q : Nat} (h : gatherOf i = some q) :
    (∀ r, i ≠ .mcall r) ∧ acpyDesc i = none ∧ chanOf i = none := by
  unfold gatherOf at h
  split at h
  · exact ⟨nofun, rfl, rfl⟩
  · exact ⟨nofun, rfl, rfl⟩
  · exact ⟨nofun, rfl, rfl⟩
  · cases h

section
variable {s : State} {c : Nat} {e : QEntry} {rest : List QEntry} (h : s.headsC0 c e rest)
include h

/-- The head of C0 that changes its core by f leaves its queue, and the checkpoint of an open segment takes what it wrote. -/
theorem State.headsC0.departs {f : Core → Core} (hm : ∀ r, e.instr ≠ .mcall r) (ha : isAcpy e.instr = false)
    (hd : s.departC c 0 [] e = .leaves (s.modCore c f)) (hq : (f (s.core c)).c0q = (s.core c).c0q) :
    ∃ t, exec (.queuedOpDepart c 1) s = .next t ∧ OnlyCore c s t
      ∧ t.core c = (s.core c).carry { f (s.core c) with c0q := rest } e.seq := by
  obtain ⟨hon, hc0, hc1, -, hin, -, hrest⟩ := h
  have hl : leavers ((s.core c).queueAt 1) = [e] := by
    show leavers (s.core c).c0q = _
    rw [hc0]; exact leavers_head hin fun x hx => (hrest x hx).1
  have hda : s.departAt c 1 e = .leaves (s.modCore c f) := by
    rw [← hd, ← hc1]; rfl
  refine ⟨(s.modCore c f).modCore c fun x => (s.core c).carry (x.modQueue 1 (dropOp e.seq)) e.seq, ?_,
    onlyCore_trans (onlyCore_modCore s c f) (onlyCore_modCore _ c _), ?_⟩
  · show execQueuedOpDepart c 1 s = _
    unfold execQueuedOpDepart
    simp only [hon, if_true, hl, State.departFirst, s.onLeave_quiet c hm ha, hda]
  · have hdrop : (f (s.core c)).modQueue 1 (dropOp e.seq) = { f (s.core c) with c0q := rest } := by
      show { f (s.core c) with c0q := dropOp e.seq (f (s.core c)).c0q } = _
      rw [hq, hc0, dropOp_head fun x hx => (hrest x hx).2]
    rw [State.core_modCore_same, State.core_modCore_same, hdrop]

/-- The same where the op writes no register that a checkpoint takes. -/
theorem State.headsC0.departs_sameRegs {f : Core → Core} (hm : ∀ r, e.instr ≠ .mcall r) (ha : isAcpy e.instr = false)
    (hd : s.departC c 0 [] e = .leaves (s.modCore c f)) (hq : (f (s.core c)).c0q = (s.core c).c0q)
    (hs : (f (s.core c)).s = (s.core c).s) (hmp : (f (s.core c)).mp = (s.core c).mp)
    (hcv : (f (s.core c)).cv = (s.core c).cv) :
    ∃ t, exec (.queuedOpDepart c 1) s = .next t ∧ OnlyCore c s t
      ∧ t.core c = { f (s.core c) with c0q := rest } := by
  obtain ⟨t, ht, ho, hc⟩ := h.departs hm ha hd hq
  exact ⟨t, ht, ho, hc.trans (Core.carry_sameRegs _ _ _ hs hmp hcv)⟩

/-- The head of C0 gives its word to sd. -/
theorem State.headsC0.gives {sd : SR} {x : W64} (hm : ∀ r, e.instr ≠ .mcall r) (ha : isAcpy e.instr = false)
    (hd : s.departC c 0 [] e = .leaves (s.modCore c (·.setS sd.toNat x))) :
    ∃ t, exec (.queuedOpDepart c 1) s = .next t ∧ OnlyCore c s t
      ∧ ScalarIs (s.core c) (t.core c) sd x ∧ Checkpoints (s.core c) (t.core c) e.seq
      ∧ t.core c = { s.core c with c0q := rest, s := (t.core c).s, segment := (t.core c).segment } := by
  obtain ⟨t, ht, ho, hc⟩ := h.departs hm ha hd (by rw [Core.setS_eq])
  refine ⟨t, ht, ho, ?_⟩
  rw [hc]
  refine ⟨?_, checkpoints_carry _ _ _ (by rw [Core.setS_eq]) (by rw [Core.setS_eq]; rfl), ?_⟩
  · rw [Core.carry_eq]
    exact scalarIs_setS (s.core c) sd x
  · rw [Core.carry_eq, Core.setS_eq]

/-! ## Where each op goes -/

/-- A copy op goes to its channel. -/
theorem State.headsC0.departC_chan {ch : Nat} (ha : acpyOp e = none) (hc : chanOf e.instr = some ch) :
    s.departC c 0 [] e = s.departChan c [] e ch := by
  unfold State.departC
  cases hw : waitTag e.instr with
  | none => simp [h.runs, ha, hc]
  | some d => simp [h.runs, h.tagged d hw, ha, hc]

/-- A gather op goes to its queue, once its tag, if any, is set. -/
theorem State.headsC0.departC_gather {g : Nat} (ha : acpyOp e = none) (hc : chanOf e.instr = none)
    (hg : gatherOf e.instr = some g) : s.departC c 0 [] e = s.departGather c [] e g := by
  unfold State.departC
  cases hw : waitTag e.instr with
  | none => simp [h.runs, ha, hc, hg]
  | some d => simp [h.runs, h.tagged d hw, ha, hc, hg]

theorem State.headsC0.departC_cpStat {sd : SR} {n : BitVec 4} (hi : e.instr = .cpStat sd n) :
    s.departC c 0 [] e = .leaves (s.modCore c (·.setS sd.toNat ((s.core c).copyStatus n.toNat))) := by
  unfold State.departC acpyOp
  simp only [hi, h.runs, waitTag, chanOf, gatherOf, Bool.or_true, Bool.not_true, Bool.or_false, Bool.false_eq_true, if_false]

theorem State.headsC0.departC_cbInit {sa : SR} {b : BitVec 3} (hi : e.instr = .cbInit sa b) :
    s.departC c 0 [] e = departOf 11 0 (s.cbSetUp c b.toNat (e.val 0)) := by
  unfold State.departC acpyOp
  simp only [hi, h.runs, waitTag, chanOf, gatherOf, Bool.or_true, Bool.not_true, Bool.or_false, Bool.false_eq_true, if_false]

theorem State.headsC0.departC_lkStat {sd : SR} {q : BitVec 4} {kind : BitVec 2} (hi : e.instr = .lkStat sd q kind) :
    s.departC c 0 [] e = .leaves (s.modCore c (·.setS sd.toNat (s.linkStatus c q.toNat kind.toNat))) := by
  unfold State.departC acpyOp State.departLink State.linkWaits State.linkQueue State.linkAct
  simp only [hi, h.runs, waitTag, chanOf, gatherOf, Bool.or_true, Bool.not_true, Bool.or_false, Bool.false_eq_true, if_false]

/-- lk.rate of a 16-bit value: its queue is not stopped, and no earlier op of it waits to be retried. -/
theorem State.headsC0.departC_lkRate {sa : SR} {q : BitVec 2} (hi : e.instr = .lkRate sa q)
    (hs : (s.core c).linkStopped 2 0 = false) (hv : (e.val 0).toNat < 2 ^ 16) :
    s.departC c 0 [] e = .leaves (s.modCore c fun k =>
      { k with rateNext := Tab.put none k.rateNext q.toNat (some (.ofNat 16 (fld (e.val 0) 0 16))) }) := by
  have hown : ((s.core c).c0q.any fun x => x.left && s.linkQueue c x == some (2, 0)) = false := by
    rw [h.c0q, List.any_eq_false]
    intro x hx
    rcases List.mem_cons.mp hx with rfl | hx
    · simp [h.inQueue]
    · simp [(h.behind x hx).1]
  have hw : s.linkWaits c (s.core c).c0q e = false := by
    unfold State.linkWaits
    have hq : s.linkQueue c e = some (2, 0) := by unfold State.linkQueue; rw [hi]
    simp only [hq, hs, hown, Bool.and_false, Bool.or_false]
  have hf : fld (e.val 0) 16 48 = 0 := by
    unfold fld bitsAt; rw [Nat.div_eq_of_lt hv, Nat.zero_mod]
  unfold State.departC acpyOp State.departLink State.linkAct State.rateSet
  simp only [hi, h.runs, hw, hf, waitTag, chanOf, gatherOf, Bool.or_true, Bool.not_true, Bool.or_false,
    Bool.false_eq_true, if_false, if_true, ne_eq, not_true_eq_false]

/-! ## Channels and gather queues -/

/-- A channel with room receives the op at its end. -/
theorem State.headsC0.joinsChan {ch : Nat} (ha : acpyDesc e.instr = none)
    (hc : chanOf e.instr = some ch) (hs : (s.core c).stopped (1 + ch) 0 = false) (hroom : (s.core c).waitingIn ch < 8) :
    ∃ t, exec (.queuedOpDepart c 1) s = .next t ∧ OnlyCore c s t
      ∧ (∀ j, (t.core c).chan j = if j = ch then
          { (s.core c).chan j with fifo := ((s.core c).chan j).fifo ++ [.enter e] } else (s.core c).chan j)
      ∧ t.core c = { s.core c with c0q := rest, chans := (t.core c).chans } := by
  have hm : ∀ r, e.instr ≠ .mcall r := fun r hr => by rw [hr] at hc; cases hc
  have hd : s.departC c 0 [] e = .leaves (s.modCore c fun k =>
      k.setChan ch { k.chan ch with fifo := (k.chan ch).fifo ++ [.enter e] }) := by
    rw [h.departC_chan (acpyOp_of_acpyDesc ha) hc]
    unfold State.departChan
    exact if_neg (by simp [hs, anyBefore, hroom])
  obtain ⟨t, ht, ho, hk⟩ := h.departs_sameRegs hm (isAcpy_of_acpyDesc ha) hd rfl rfl rfl rfl
  refine ⟨t, ht, ho, fun j => ?_, by rw [hk]; rfl⟩
  rw [hk]
  show ((s.core c).setChan ch _).chan j = _
  rw [Core.chan_setChan]
  split
  · subst j; rfl
  · rfl

/-- A gather queue receives the item of the op at its end. -/
theorem State.headsC0.joinsGather {q : Nat} {item : GItem} (hg : gatherOf e.instr = some q) (hit : gatherItem e = item)
    (hs : (s.core c).stopped 9 q = false)
    (hroom : ∀ sa q' imm, e.instr = .gqPush sa q' imm → ((s.core c).gqueue q).indices < 64) :
    ∃ t, exec (.queuedOpDepart c 1) s = .next t ∧ OnlyCore c s t
      ∧ (∀ j, (t.core c).gqueue j = if j = q then
          { (s.core c).gqueue j with items := ((s.core c).gqueue j).items ++ [item] } else (s.core c).gqueue j)
      ∧ t.core c = { s.core c with c0q := rest, gq := (t.core c).gq } := by
  obtain ⟨hm, ha, hc⟩ := gatherOf_some hg
  have hd : s.departC c 0 [] e = .leaves (s.modCore c fun k =>
      k.setGq q { k.gqueue q with items := (k.gqueue q).items ++ [item] }) := by
    rw [h.departC_gather (acpyOp_of_acpyDesc ha) hc hg, ← hit]
    unfold State.departGather
    refine if_neg ?_
    simp only [hs, anyBefore, List.any_nil, Bool.false_or]
    split
    · simp [hroom _ _ _ ‹_›]
    · exact Bool.false_ne_true
  obtain ⟨t, ht, ho, hk⟩ := h.departs_sameRegs hm (isAcpy_of_acpyDesc ha) hd rfl rfl rfl rfl
  refine ⟨t, ht, ho, fun j => ?_, by rw [hk]; rfl⟩
  rw [hk]
  show ((s.core c).setGq q _).gqueue j = _
  rw [Core.gqueue_setGq]
  split
  · subst j; rfl
  · rfl

/-! ## Buffers and rates -/

/-- cb.init of a buffer that is not in use, with a geometry word within its limits, sets its geometry (14 R329). -/
theorem State.headsC0.setsUpBuffer {sa : SR} {b : BitVec 3} (hi : e.instr = .cbInit sa b)
    (hok : cbInitBad ((s.core c).cbuf b.toNat) (e.val 0) = false) :
    ∃ t, exec (.queuedOpDepart c 1) s = .next t ∧ OnlyCore c s t
      ∧ (∀ j, (t.core c).cbuf j = if j = b.toNat then cbInitial (e.val 0) else (s.core c).cbuf j)
      ∧ t.core c = { s.core c with c0q := rest, cb := (t.core c).cb } := by
  have hd : s.departC c 0 [] e = .leaves (s.modCore c (·.setCb b.toNat (cbInitial (e.val 0)))) := by
    rw [h.departC_cbInit hi]
    unfold State.cbSetUp
    rw [if_neg (by simp [hok])]; rfl
  obtain ⟨t, ht, ho, hk⟩ := h.departs_sameRegs (by rw [hi]; nofun) (by rw [hi]; rfl) hd rfl rfl rfl rfl
  refine ⟨t, ht, ho, fun j => ?_, by rw [hk]; rfl⟩
  rw [hk]
  exact Core.cbuf_setCb (s.core c) b.toNat j (cbInitial (e.val 0))

/-- The value of lk.rate waits for the next frame boundary (19 R414). -/
theorem State.headsC0.setsRate {sa : SR} {q : BitVec 2} (hi : e.instr = .lkRate sa q)
    (hs : (s.core c).linkStopped 2 0 = false) (hv : (e.val 0).toNat < 2 ^ 16) :
    ∃ t, exec (.queuedOpDepart c 1) s = .next t ∧ OnlyCore c s t
      ∧ (∀ j, Tab.get none (t.core c).rateNext j =
          if j = q.toNat then some ((e.val 0).setWidth 16) else Tab.get none (s.core c).rateNext j)
      ∧ t.core c = { s.core c with c0q := rest, rateNext := (t.core c).rateNext } := by
  obtain ⟨t, ht, ho, hk⟩ := h.departs_sameRegs (by rw [hi]; nofun) (by rw [hi]; rfl) (h.departC_lkRate hi hs hv)
    rfl rfl rfl rfl
  have hw : BitVec.ofNat 16 (fld (e.val 0) 0 16) = (e.val 0).setWidth 16 := by
    apply BitVec.eq_of_toNat_eq; simp [fld, bitsAt]
  refine ⟨t, ht, ho, fun j => ?_, by rw [hk]⟩
  rw [hk, ← hw]
  exact Tab.get_put none (s.core c).rateNext q.toNat j (some (.ofNat 16 (fld (e.val 0) 0 16)))

end

/-- A geometry word within its limits, for a buffer that is not in use, breaks no rule of cb.init (14 R329). -/
theorem cbInitBad_ok {x : CBuf} {w : W64} (h21 : w.toNat / 2 ^ 21 % 8 = 0) (h36 : w.toNat / 2 ^ 36 % 16 = 0)
    (h48 : w.toNat < 2 ^ 48) (hbase : w.toNat % 2 ^ 21 % 64 = 0)
    (hin : w.toNat % 2 ^ 21 + 64 * (w.toNat / 2 ^ 24 % 2 ^ 12 + 1) * (w.toNat / 2 ^ 40 % 2 ^ 8 + 1) ≤ 0x200000)
    (hx : x.init = false) : cbInitBad x w = false := by
  have e0 : fld w 0 21 = w.toNat % 2 ^ 21 := by simp [fld, bitsAt]
  have e21 : fld w 21 3 = 0 := h21
  have e24 : fld w 24 12 = w.toNat / 2 ^ 24 % 2 ^ 12 := rfl
  have e36 : fld w 36 4 = 0 := h36
  have e40 : fld w 40 8 = w.toNat / 2 ^ 40 % 2 ^ 8 := rfl
  have e48 : fld w 48 16 = 0 := by unfold fld bitsAt; rw [Nat.div_eq_of_lt h48, Nat.zero_mod]
  unfold cbInitBad
  simp only [e0, e21, e24, e36, e40, e48, hbase, hx, Nat.not_lt.mpr hin, decide_false, bne_self_eq_false, Bool.or_false,
    Bool.false_and]

/-- Settles O45, from what each op is and the one lemma on a head of C0 that changes its core alone. -/
theorem copyGatherAndLinkOpsLeaveForTheirUnits : Obligations.CopyGatherAndLinkOpsLeaveForTheirUnits := by
  unfold Obligations.CopyGatherAndLinkOpsLeaveForTheirUnits
  intro s c e rest k hon hc0 hc1 hruns hin htag hrest v leaves gives joins
  have h : s.headsC0 c e rest := ⟨hon, hc0, hc1, hruns, hin, htag, hrest⟩
  refine ⟨?chan, ?_, ?_, ?_, ?_, ?_, ?_, ?_, ?gqCfg, ?gqEnd, ?gqPush, ?cpStat, ?cpStatBuffer, ?lkStat, ?cbInit, ?lkRate⟩
  case chan =>
    intro ch hch ha hs hroom
    exact h.joinsChan ha hch hs hroom
  case gqCfg =>
    intro sa q hi hs
    exact h.joinsGather (by rw [hi]; rfl) (by unfold gatherItem; rw [hi]) hs (by rw [hi]; nofun)
  case gqEnd =>
    intro q hi hs
    exact h.joinsGather (by rw [hi]; rfl) (by unfold gatherItem; rw [hi]) hs (by rw [hi]; nofun)
  case gqPush =>
    intro sa q imm hi hroom hs
    have hidx : (e.val 0 + imm.setWidth 64).toNat % 2 ^ 32 = (v.toNat + imm.toNat) % 2 ^ 32 := by
      show ((e.val 0) + imm.setWidth 64).toNat % 2 ^ 32 = ((e.val 0).toNat + imm.toNat) % 2 ^ 32
      bv_omega
    have hit : gatherItem e = .idx ((v.toNat + imm.toNat) % 2 ^ 32) e.seq e.pc := by
      unfold gatherItem; simp only [hi, hidx]
    exact h.joinsGather (by rw [hi]; rfl) hit hs fun _ _ _ _ => hroom
  case cpStat =>
    intro sd n hi hn
    have hd := h.departC_cpStat hi
    rw [show (s.core c).copyStatus n.toNat = k.chanStatus n.toNat from if_pos hn] at hd
    exact h.gives (by rw [hi]; nofun) (by rw [hi]; rfl) hd
  case cpStatBuffer =>
    intro sd n hi hn
    have hd := h.departC_cpStat hi
    rw [show (s.core c).copyStatus n.toNat = (k.cbuf (n.toNat - 8)).status from if_neg (by omega)] at hd
    exact h.gives (by rw [hi]; nofun) (by rw [hi]; rfl) hd
  case lkStat =>
    intro sd q kind hi
    exact h.gives (by rw [hi]; nofun) (by rw [hi]; rfl) (h.departC_lkStat hi)
  case cbInit =>
    intro sa b hi h21 h36 h48 base slot n hbase hfits hfree
    have hgeo : cbInitial (e.val 0) = { init := true, base := base, slot := slot, nslot := n, reserved := 0, filled := 0
                                        popped := 0, released := 0, landed := [] } := by
      unfold cbInitial
      rw [show fld (e.val 0) 0 21 = base by simp [fld, bitsAt, base, v, QEntry.val]]
      rfl
    have hset := h.setsUpBuffer hi (cbInitBad_ok h21 h36 h48 hbase hfits hfree)
    rwa [hgeo] at hset
  case lkRate =>
    intro sa q hi hs hv
    exact h.setsRate hi hs hv
  all_goals intros; rw [‹e.instr = _›]; rfl

end Sys2Proof.Machine
end

section
/-! SUPPORT. Power: one bit of a mask, the scale of a control period (21 R424), the time at which a cluster is gated
and what its wake leaves (21 R421). -/

namespace Sys2Proof.Machine

open Sys2Proof

/-! ## One bit of a mask -/

theorem getLsbD_ofNat_two_pow (n i j : Nat) : (BitVec.ofNat n (2 ^ i)).getLsbD j = (decide (j < n) && decide (i = j)) := by
  rw [BitVec.getLsbD_ofNat, Nat.testBit_two_pow]

theorem getLsbD_setFld_set {n i : Nat} (x : BitVec n) (hi : i < n) (j : Nat) :
    (setFld x i 1 1).getLsbD j = (x.getLsbD j || j == i) := by
  have h : setFld x i 1 1 = (x &&& ~~~(BitVec.ofNat n (2 ^ i))) ||| BitVec.ofNat n (2 ^ i) :=
    congr (congrArg (fun m v => (x &&& ~~~(BitVec.ofNat n m)) ||| BitVec.ofNat n v) (Nat.one_mul (2 ^ i)))
      (Nat.one_mul (2 ^ i))
  rw [h, BitVec.getLsbD_or, BitVec.getLsbD_and, BitVec.getLsbD_not, getLsbD_ofNat_two_pow]
  by_cases hj : j = i
  · subst hj; simp [hi]
  · by_cases hn : j < n
    · simp [hn, hj, Ne.symm hj]
    · simp [hn, hj, BitVec.getLsbD_of_ge x j (by omega)]

theorem getLsbD_setFld_clear {n : Nat} (x : BitVec n) (i j : Nat) :
    (setFld x i 1 0).getLsbD j = (x.getLsbD j && j != i) := by
  have h : setFld x i 1 0 = x &&& ~~~(BitVec.ofNat n (2 ^ i)) := by
    have h0 : setFld x i 1 0 = (x &&& ~~~(BitVec.ofNat n (2 ^ i))) ||| 0#n :=
      congr (congrArg (fun m v => (x &&& ~~~(BitVec.ofNat n m)) ||| BitVec.ofNat n v) (Nat.one_mul (2 ^ i)))
        (Nat.zero_mul (2 ^ i))
    rw [h0, BitVec.or_zero]
  rw [h, BitVec.getLsbD_and, BitVec.getLsbD_not, getLsbD_ofNat_two_pow]
  by_cases hn : j < n
  · by_cases hj : j = i
    · simp [hj]
    · simp [hn, hj, Ne.symm hj]
  · simp [BitVec.getLsbD_of_ge x j (by omega)]

/-! ## The heartbeat and the control period -/

/-- A heartbeat tick that is the next boundary due comes at its cycle. -/
theorem exec_heartbeatTick_due (s : State) (h : s.dueTick ≤ s.due) :
    exec .heartbeatTick s = .next { s.passTo s.dueTick with hbCount := s.hbCount + 1 } := by
  show execHeartbeatTick s = _
  unfold execHeartbeatTick State.boundaryDue
  exact if_pos (decide_eq_true h)

theorem exec_controlPeriodEnd_due (s : State) (pkg : BitVec 16) (slope : Bool) (h : s.duePeriod ≤ s.due) :
    exec (.controlPeriodEnd pkg slope) s = .next { s.passTo s.duePeriod with power := s.power.endPeriod pkg slope } := by
  show execControlPeriodEnd pkg slope s = _
  unfold execControlPeriodEnd State.boundaryDue
  exact if_pos (decide_eq_true h)

/-- The scale stays a 16-bit number. -/
theorem Power.nextScale_lt (p : Power) (pkg : Nat) : p.nextScale pkg < 2 ^ 16 := by
  have h := p.scale.isLt
  unfold Power.nextScale
  simp only
  split
  · exact Nat.lt_of_le_of_lt (Nat.min_le_right _ _) (by omega)
  · split
    · exact Nat.max_lt.mpr ⟨by omega, by omega⟩
    · exact h

theorem Power.endPeriod_scale (p : Power) (pkg : BitVec 16) (slope : Bool) :
    (p.endPeriod pkg slope).scale.toNat =
      (if p.capW ≠ 0 ∧ p.capW.toNat < pkg.toNat then min (p.scale.toNat + p.step.toNat) 0xFFFF
       else if p.capW = 0 ∨ 16 * pkg.toNat < 15 * p.capW.toNat then max (p.scale.toNat - p.step.toNat) 0x100
       else p.scale.toNat) := by
  show (BitVec.ofNat 16 (p.nextScale pkg.toNat)).toNat = _
  rw [BitVec.toNat_ofNat, Nat.mod_eq_of_lt (p.nextScale_lt _)]
  have h0 : p.capW.toNat = 0 ↔ p.capW = 0 := bv_toNat_inj p.capW 0
  unfold Power.nextScale
  simp only [ne_eq, h0]

theorem Power.endPeriod_capExcess (p : Power) (pkg : BitVec 16) (slope : Bool) :
    (p.endPeriod pkg slope).capExcess = (if p.ballastRan = true ∧ p.capW ≠ 0 ∧ p.capW.toNat < pkg.toNat then
      p.capExcess + .ofNat 64 ((pkg.toNat - p.capW.toNat) * 4096 / 1500) else p.capExcess) := by
  have hc : p.conflict pkg.toNat = true ↔ p.ballastRan = true ∧ p.capW ≠ 0 ∧ p.capW.toNat < pkg.toNat := by
    simp [Power.conflict, and_assoc]
  unfold Power.endPeriod Power.excess
  simp only [hc]

/-! ## Gating -/

theorem foldl_max_le_iff (l : List Nat) (b m : Nat) : l.foldl Nat.max b ≤ m ↔ b ≤ m ∧ ∀ x ∈ l, x ≤ m := by
  induction l generalizing b with
  | nil => simp
  | cons x l ih =>
    rw [List.foldl_cons, ih, show Nat.max b x ≤ m ↔ b ≤ m ∧ x ≤ m from Nat.max_le]
    simp [and_assoc]

/-- The greatest of a list of numbers. -/
theorem foldl_max_eq {l : List Nat} {m : Nat} (hle : ∀ x ∈ l, x ≤ m) (hm : m ∈ l) : l.foldl Nat.max 0 = m :=
  Nat.le_antisymm ((foldl_max_le_iff l 0 m).mpr ⟨Nat.zero_le m, hle⟩)
    (((foldl_max_le_iff l 0 _).mp (Nat.le_refl _)).2 m hm)

section
variable {s : State} {cl last : Nat} (hcl : cl < 32) (hon : s.power.gated.getLsbD cl = false)
  (hle : ∀ i, i < 8 → (s.core (8 * cl + i)).idleFrom ≤ last) (hlast : ∃ i, i < 8 ∧ (s.core (8 * cl + i)).idleFrom = last)
include hcl hon hle hlast

/-- When a cluster that is not gated is gated as things stand: `last` is when the last of its nodes left. -/
theorem State.gateAt_eq :
    s.gateAt cl =
      if ¬(∀ i, i < 8 → (s.core (8 * cl + i)).run = .free) then none
      else if s.power.rampDown.getLsbD cl = true then some last
      else if s.dispCtl.getLsbD 3 = true then none
      else some (last + 1024) := by
  have hmax : (((List.range 8).map fun i => s.core (8 * cl + i)).map (·.idleFrom)).foldl Nat.max 0 = last := by
    apply foldl_max_eq
    · simpa using hle
    · simpa using hlast
  have hfree : (((List.range 8).map fun i => s.core (8 * cl + i)).all fun k => k.run == .free) = true ↔
      ∀ i, i < 8 → (s.core (8 * cl + i)).run = .free := by simp
  unfold State.gateAt
  simp only [hmax, hon, Nat.not_le.mpr hcl, decide_false, Bool.false_or, Bool.not_eq_true', ← hfree, Bool.not_eq_true]

/-- It is gated once its cores are free and its policy gates it (21 R421, R427). -/
theorem State.gateAt_free (hfree : ∀ i, i < 8 → (s.core (8 * cl + i)).run = .free)
    (hgates : s.power.rampDown.getLsbD cl = true ∨ s.dispCtl.getLsbD 3 = false) :
    s.gateAt cl = some (if s.power.rampDown.getLsbD cl then last else last + 1024) := by
  rw [State.gateAt_eq hcl hon hle hlast, if_neg fun hno => hno hfree]
  split
  · rfl
  · rw [if_neg (by simpa using hgates.resolve_left ‹_›)]

theorem State.gateAt_none (h : ¬((∀ i, i < 8 → (s.core (8 * cl + i)).run = .free) ∧
    (s.power.rampDown.getLsbD cl = true ∨ s.dispCtl.getLsbD 3 = false))) : s.gateAt cl = none := by
  rw [State.gateAt_eq hcl hon hle hlast]
  by_cases hfree : ∀ i, i < 8 → (s.core (8 * cl + i)).run = .free
  · have hg := not_or.mp (not_and.mp h hfree)
    rw [if_neg fun hno => hno hfree, if_neg hg.1, if_pos (by simpa using hg.2)]
  · rw [if_pos hfree]

end

theorem exec_clusterGate_none {s : State} {cl : Nat} (h : s.gateAt cl = none) : exec (.clusterGate cl) s = .next s := by
  show execClusterGate cl s = _
  unfold execClusterGate; rw [h]

/-- The gating of a cluster that is due comes at its cycle, and one that is not waits. -/
theorem exec_clusterGate_some {s : State} {cl d : Nat} (h : s.gateAt cl = some d) :
    exec (.clusterGate cl) s = if d ≤ s.due then
        .next { s.passTo (max s.cycle.toNat d) with
          power := { s.power with gated := setFld s.power.gated cl 1 1, woken := setFld s.power.woken cl 1 0 } }
      else .next s := by
  show execClusterGate cl s = _
  unfold execClusterGate State.boundaryDue
  simp only [h, decide_eq_true_eq]

/-! ## The wake of a cluster -/

/-- pa lies in a scratchpad of cluster cl. -/
def inCluster (cl pa : Nat) : Bool :=
  match spCore pa with
  | some c => c < 256 && clusterOf c == cl
  | none => false

/-- The scratchpads of the clusters lie one after another, 2 MiB for each core (02 R25). -/
theorem inCluster_iff_range (cl a : Nat) :
    inCluster cl a = true ↔ (0x4000000000 ≤ a ∧ a < 0x4000000000 + 256 * 0x200000) ∧
      (a - 0x4000000000) / 0x200000 / 8 = cl := by
  unfold inCluster spCore clusterOf
  by_cases hr : 0x4000000000 ≤ a ∧ a < 0x4000000000 + 256 * 0x200000
  · have h256 : (a - 0x4000000000) / 0x200000 < 256 := by omega
    rw [if_pos hr]
    simp only [hr, h256, decide_true, Bool.true_and, beq_iff_eq, and_self, true_and]
  · rw [if_neg hr]
    by_cases hs : 2 ^ 52 ≤ a ∧ a < 2 ^ 52 + 4 * 0x200000
    · simp only [if_pos hs, hr, false_and, Nat.not_lt.mpr (Nat.le_add_right 256 _), decide_false, Bool.false_and,
        Bool.false_eq_true]
    · simp only [if_neg hs, hr, false_and, Bool.false_eq_true]

theorem inCluster_iff {cl : Nat} (hcl : cl < 32) (a : Nat) :
    inCluster cl a = true ↔ ∃ i, i < 8 ∧ spBase (8 * cl + i) ≤ a ∧ a < spBase (8 * cl + i) + 0x200000 := by
  have hb : ∀ i, i < 8 → spBase (8 * cl + i) = 0x4000000000 + (8 * cl + i) * 0x200000 :=
    fun i hi => if_pos (by omega)
  rw [inCluster_iff_range]
  constructor
  · rintro ⟨⟨hlo, hhi⟩, hq⟩
    refine ⟨(a - 0x4000000000) / 0x200000 % 8, by omega, ?_⟩
    rw [hb _ (by omega)]
    omega
  · rintro ⟨i, hi, h1, h2⟩
    rw [hb i hi] at h1 h2
    omega

/-- What zeroCluster leaves: nothing inside, everything outside. -/
theorem State.zeroCluster_eq (s : State) (cl : Nat) :
    s.zeroCluster cl = { s with
      mem := s.mem.filter fun c => !inCluster cl c.1
      errs := s.errs.filter fun e => !inCluster cl e
      kept := s.kept.filter fun x => !inCluster cl x.pa
      armed := s.armed.filter fun a => !inCluster cl (16 * a) } := rfl

theorem State.zeroCluster_byte (s : State) (cl a : Nat) :
    (s.zeroCluster cl).byte a = if inCluster cl a = true then 0 else s.byte a := by
  have h := Tab.get_filter unlistedByte (fun x => !inCluster cl x) s.mem a
  show Memory.get (s.mem.filter fun c => !inCluster cl c.1) a = _
  unfold Memory.get
  rw [h]
  cases inCluster cl a <;> rfl

/-- A fold that changes cores changes nothing else. -/
theorem State.foldModCore_eq (f : Core → Core) (b : Nat) (l : List Nat) (s : State) :
    l.foldl (fun t i => t.modCore (b + i) f) s =
      { s with cores := (l.foldl (fun t i => t.modCore (b + i) f) s).cores } := by
  induction l generalizing s with
  | nil => rfl
  | cons i l ih => rw [List.foldl_cons, ih]; rfl

/-- Cores after a change of each of a list of them that does the same once or twice. -/
theorem State.core_foldModCore {f : Core → Core} (hf : ∀ k, f (f k) = f k) (b : Nat) (l : List Nat) (s : State) (c : Nat) :
    (l.foldl (fun t i => t.modCore (b + i) f) s).core c = if ∃ i ∈ l, c = b + i then f (s.core c) else s.core c := by
  induction l generalizing s with
  | nil => simp
  | cons i l ih =>
    rw [List.foldl_cons, ih]
    by_cases hc : c = b + i
    · subst hc
      simp [hf]
    · simp [State.core_modCore_other _ _ hc, hc]

/-- The cores of a cluster are idle from now on, and nothing else changes. -/
theorem State.idleCluster_eq (s : State) (cl : Nat) :
    s.idleCluster cl = { s with cores := (s.idleCluster cl).cores } := State.foldModCore_eq _ _ _ s

@[simp] theorem State.idleCluster_mem (s : State) (cl : Nat) : (s.idleCluster cl).mem = s.mem := by
  rw [State.idleCluster_eq]
@[simp] theorem State.idleCluster_errs (s : State) (cl : Nat) : (s.idleCluster cl).errs = s.errs := by
  rw [State.idleCluster_eq]
@[simp] theorem State.idleCluster_armed (s : State) (cl : Nat) : (s.idleCluster cl).armed = s.armed := by
  rw [State.idleCluster_eq]
@[simp] theorem State.idleCluster_kept (s : State) (cl : Nat) : (s.idleCluster cl).kept = s.kept := by
  rw [State.idleCluster_eq]
@[simp] theorem State.idleCluster_power (s : State) (cl : Nat) : (s.idleCluster cl).power = s.power := by
  rw [State.idleCluster_eq]
@[simp] theorem State.idleCluster_byte (s : State) (cl a : Nat) : (s.idleCluster cl).byte a = s.byte a := by
  unfold State.byte; rw [State.idleCluster_mem]

theorem State.core_idleCluster (s : State) (cl c : Nat) :
    (s.idleCluster cl).core c = if c / 8 = cl then { s.core c with idleFrom := s.cycle.toNat } else s.core c := by
  have hc : (∃ i ∈ List.range 8, c = 8 * cl + i) ↔ c / 8 = cl := by
    simp only [List.mem_range]
    exact ⟨fun ⟨i, hi, h⟩ => by omega, fun h => ⟨c % 8, by omega, by omega⟩⟩
  unfold State.idleCluster
  rw [State.core_foldModCore (f := fun k => { k with idleFrom := s.cycle.toNat }) fun _ => rfl]
  simp only [hc]

/-- The power block after the wake of a cluster. -/
def Power.wake (p : Power) (cl : Nat) : Power :=
  { p with gated := setFld p.gated cl 1 0, woken := setFld p.woken cl 1 1, rampDown := setFld p.rampDown cl 1 0 }

/-- A gated cluster wakes with its scratchpads zeroed and its cores idle (21 R421). -/
theorem exec_clusterWake {s : State} {cl : Nat} (hcl : cl < 32) (hg : s.power.gated.getLsbD cl = true) :
    exec (.clusterWake cl) s =
      .next ((({ s with power := s.power.wake cl } : State).zeroCluster cl).idleCluster cl) :=
  if_pos ⟨hcl, hg⟩

end Sys2Proof.Machine
end

section
/-! SUPPORT. Bring-up (21 R428): the standard tide tables and the drawers of stage 3, and for stage 4 what the start of
frame 0 and the stop of a running context can do. -/

namespace Sys2Proof.Machine

open Sys2Proof

/-! ## Tables and straits filled by number -/

/-- A table filled from number m on. -/
theorem Tab.get_foldPut {α : Type} [DecidableEq α] (d : α) (g : Nat → α) (m n : Nat) (t : Tab α) (j : Nat) :
    Tab.get d ((List.range n).foldl (fun x i => Tab.put d x (i + m) (g (i + m))) t) j =
      if m ≤ j ∧ j < n + m then g j else Tab.get d t j := by
  induction n with
  | zero => rw [if_neg (by omega)]; rfl
  | succ n ih =>
    rw [List.range_succ, List.foldl_append, List.foldl_cons, List.foldl_nil, Tab.get_put, ih]
    by_cases hj : j = n + m
    · subst hj; simp
    · simp [hj, show (m ≤ j ∧ j < n + 1 + m) ↔ (m ≤ j ∧ j < n + m) by omega]

/-- The standard tide table of a strait (19 R389). -/
theorem BringUpFind.get_table (f : BringUpFind) (t j : Nat) :
    Tab.get 0 (f.table t) j = if 1 ≤ j ∧ j < 64 then f.entry t j else if j = 0 then 0xC000 else 0 := by
  unfold BringUpFind.table
  rw [Tab.get_foldPut 0 (f.entry t) 1 63]
  by_cases h : 1 ≤ j ∧ j < 64
  · rw [if_pos h, if_pos h]
  · rw [if_neg h, if_neg h]
    simp [Tab.get, eq_comm]

/-- A fold that sets straits changes nothing else. -/
theorem State.foldSetStrait_eq (f : Nat → Strait) (l : List Nat) (s : State) :
    l.foldl (fun t i => t.setStrait i (f i)) s =
      { s with straits := (l.foldl (fun t i => t.setStrait i (f i)) s).straits } := by
  induction l generalizing s with
  | nil => rfl
  | cons i l ih => rw [List.foldl_cons, ih]; rfl

theorem State.strait_foldSetStrait (f : Nat → Strait) (l : List Nat) (s : State) (j : Nat) :
    (l.foldl (fun t i => t.setStrait i (f i)) s).strait j = if j ∈ l then f j else s.strait j := by
  induction l generalizing s with
  | nil => simp
  | cons i l ih =>
    rw [List.foldl_cons, ih, State.strait_setStrait]
    by_cases hj : j = i
    · subst hj; simp
    · simp [hj]

theorem State.mapStraits_eq (s : State) (f : Strait → Strait) :
    s.mapStraits f = { s with straits := (s.mapStraits f).straits } := State.foldSetStrait_eq (fun i => f (s.strait i)) _ s

/-! ## Stage 3 -/

theorem State.takeFind_eq (s : State) (f : BringUpFind) :
    s.takeFind f = { s with chip := f.chip, dsize := f.dsize, gib := (s.takeFind f).gib, dstraits := (s.takeFind f).dstraits
                            straits := (s.takeFind f).straits } := by
  unfold State.takeFind
  simp only
  rw [State.foldSetStrait_eq]

theorem State.takeFind_gib (s : State) (f : BringUpFind) {d : Nat} (hd : d < 4) :
    Tab.get 0 (s.takeFind f).gib d = f.gib.getD d 0 := by
  have h := Tab.get_foldPut 0 (fun d => f.gib.getD d 0) 0 4 [] d
  rw [if_pos ⟨Nat.zero_le d, hd⟩] at h
  unfold State.takeFind
  simp only
  rw [State.foldSetStrait_eq]
  exact h

theorem State.takeFind_dstraits (s : State) (f : BringUpFind) {d : Nat} (hd : d < 4) :
    Tab.get 0 (s.takeFind f).dstraits d = f.straits.getD d 0 := by
  have h := Tab.get_foldPut 0 (fun d => f.straits.getD d 0) 0 4 [] d
  rw [if_pos ⟨Nat.zero_le d, hd⟩] at h
  unfold State.takeFind
  simp only
  rw [State.foldSetStrait_eq]
  exact h

theorem State.takeFind_strait (s : State) (f : BringUpFind) {i : Nat} (hi : i < 16) :
    (s.takeFind f).strait i = { s.strait i with face := f.faces.getLsbD i, table := f.table i } := by
  unfold State.takeFind
  simp only
  rw [State.strait_foldSetStrait, if_pos (List.mem_range.mpr hi)]
  rfl

theorem exec_bringupStage3_fails {s : State} (h : s.stage = 2) (f : BringUpFind) :
    exec (.bringupStage3 false f) s = .next { s with stage := 3, service := 2 } := by
  show execBringupStage3 false f s = _
  simp [execBringupStage3, h]

theorem exec_bringupStage3_finds {s : State} (h : s.stage = 2) (f : BringUpFind) :
    exec (.bringupStage3 true f) s = .next { s.takeFind f with stage := 3 } := by
  show execBringupStage3 true f s = _
  simp [execBringupStage3, h]

/-! ## The sends of a frame -/

/-- From s to t only what cores and straits send on may have changed: the cores, the lines of the fabric caches, what
has left or waits, the requests to drawers and the number of the next choice. -/
def SendsOnly (s t : State) : Prop :=
  t = { s with cores := t.cores, fabric := t.fabric, linkOut := t.linkOut, linkWait := t.linkWait
               drawerReqs := t.drawerReqs, readsAsked := t.readsAsked, freeNo := t.freeNo }

theorem SendsOnly.refl (s : State) : SendsOnly s s := rfl

theorem SendsOnly.strait {s t : State} (h : SendsOnly s t) (i : Nat) : t.strait i = s.strait i := by
  unfold SendsOnly at h; rw [h]; rfl

theorem SendsOnly.trans {s t u : State} (h : SendsOnly s t) (h' : SendsOnly t u) : SendsOnly s u := by
  unfold SendsOnly at *
  rw [h', h]

theorem SendsOnly.foldl {α : Type} {f : State → α → State} (hf : ∀ t a, SendsOnly t (f t a)) (l : List α) (s : State) :
    SendsOnly s (l.foldl f s) := by
  induction l generalizing s with
  | nil => exact .refl s
  | cons a l ih => exact (hf s a).trans (ih (f s a))

theorem sendsOnly_freshen (s : State) : SendsOnly s s.freshen := rfl
theorem sendsOnly_modCore (s : State) (c : Nat) (f : Core → Core) : SendsOnly s (s.modCore c f) := rfl
theorem sendsOnly_mapCores (s : State) (f : Core → Core) : SendsOnly s (s.mapCores f) := rfl
theorem sendsOnly_fillPeer (s : State) (isle : Nat) (l : List (Nat × Nat)) : SendsOnly s (s.fillPeer isle l) := rfl
theorem sendsOnly_askPeers (s : State) (n : Nat) : SendsOnly s (s.askPeers n) := rfl
theorem sendsOnly_linkOut (s : State) (out : List LinkOut) : SendsOnly s { s with linkOut := out } := rfl
theorem sendsOnly_links (s : State) (out : List LinkOut) (wait : List (Nat × LinkOut)) :
    SendsOnly s { s with linkOut := out, linkWait := wait } := rfl

theorem sendsOnly_noteTlb (s : State) (c : Nat) (p : Path) (va : W64) : SendsOnly s (s.noteTlb c p va) := by
  unfold State.noteTlb
  split
  · rfl
  · split <;> rfl

theorem sendsOnly_askFlits (s : State) (c unit : Nat) (l : List Nat) : SendsOnly s (s.askFlits c unit l) := by
  unfold State.askFlits
  refine SendsOnly.trans (t := { s with readsAsked := s.readsAsked ++ [(c, unit)] }) rfl (.foldl (fun t pa => ?_) l _)
  split <;> rfl

theorem sendsOnly_askWalk (s : State) (c u pa : Nat) : SendsOnly s (s.askWalk c u pa) := by
  unfold State.askWalk
  split
  · rfl
  · exact sendsOnly_askFlits s c _ _

theorem sendsOnly_walked (s : State) (c u : Nat) (p : Path) (vas : List W64) : SendsOnly s (s.walked c u p vas) := by
  unfold State.walked
  split
  · exact (SendsOnly.foldl (fun t va => sendsOnly_noteTlb t c p va) vas s).trans rfl
  · rfl

theorem sendsOnly_askSend (s : State) (c chip : Nat) : SendsOnly s (s.askSend c chip) := by
  unfold State.askSend
  split
  · split
    · exact sendsOnly_askWalk s c _ _
    · rfl
  · rfl

/-- One flit that leaves, or the fault of its piece. -/
theorem sendsOnly_flitOf (s : State) (c chip i : Nat) (x : SendOp) (f : Nat) : SendsOnly s (s.flitOf c chip i x f) := by
  unfold State.flitOf
  split
  · rfl
  · split
    · rfl
    · simp only
      split
      · exact (((sendsOnly_freshen s).trans (sendsOnly_modCore _ c _)).trans ((sendsOnly_fillPeer _ _ _).trans
          (sendsOnly_noteTlb _ c .lk _))).trans (sendsOnly_linkOut _ _)
      · exact (sendsOnly_freshen s).trans (sendsOnly_modCore _ c _)

theorem sendsOnly_sendFlit {s t : State} {c chip : Nat} (h : s.sendFlit c chip = some t) : SendsOnly s t := by
  unfold State.sendFlit at h
  split at h
  · simp only at h
    split at h
    · cases h
    · cases h
      exact (sendsOnly_walked s c _ _ _).trans (sendsOnly_flitOf _ c chip _ _ _)
  · cases h

theorem sendsOnly_shareFrame (chip fuel : Nat) :
    ∀ (s : State) (room : Nat) (l : List Nat), SendsOnly s (s.shareFrame chip fuel room l) := by
  induction fuel with
  | zero => exact fun s room l => by unfold State.shareFrame; rfl
  | succ fuel ih =>
    intro s room l
    match room, l with
    | 0, _ => rfl
    | _ + 1, [] => rfl
    | room + 1, c :: cs =>
      unfold State.shareFrame
      split
      · exact ih s (room + 1) cs
      · exact (sendsOnly_sendFlit ‹_›).trans (ih _ room (cs ++ [c]))

theorem sendsOnly_sendTo (s : State) (n chip : Nat) : SendsOnly s (s.sendTo n chip) := by
  unfold State.sendTo
  exact ((SendsOnly.foldl (fun t c => sendsOnly_askSend t c chip) _ s).trans (sendsOnly_shareFrame chip _ _ _ _)).trans
    (sendsOnly_freshen _)

/-! ## A frame begins -/

/-- The device as frame n begins, before its traffic: accepted rates and parkings act (19 R413, R414). -/
def State.enterFrame (s : State) (n : Nat) : State :=
  (({ s.dropOrphans n with frame := n, turning := false } : State).mapCores Core.takeRates).mapStraits (·.parkAt n)

/-- Frame n begins: what waits for it leaves, the peers are asked, every chip is sent to, and sends complete (19 R388). -/
theorem State.beginFrame_steps (s : State) (n : Nat) :
    let u := s.enterFrame n
    let leaving : State := { u with linkOut := u.linkOut ++ (u.linkWait.filter (u.waitLeaves n)).map fun w => w.2
                                    linkWait := u.linkWait.filter fun w => !u.waitLeaves n w }
    s.beginFrame n =
      ((List.range 16).foldl (fun t chip => t.sendTo n chip) (leaving.askPeers n)).mapCores Core.popAllSends := rfl

theorem sendsOnly_beginFrame (s : State) (n : Nat) : SendsOnly (s.enterFrame n) (s.beginFrame n) := by
  rw [State.beginFrame_steps]
  exact (((sendsOnly_links (s.enterFrame n) _ _).trans (sendsOnly_askPeers _ n)).trans
    (.foldl (fun t chip => sendsOnly_sendTo t n chip) _ _)).trans (sendsOnly_mapCores _ _)

/-- Of the device a frame that begins changes its number, the straits and what its sends change (19 R388). -/
theorem State.beginFrame_eq (s : State) (n : Nat) :
    s.beginFrame n = { s with
      frame := n, turning := false, straits := (s.beginFrame n).straits, cores := (s.beginFrame n).cores
      fabric := (s.beginFrame n).fabric, linkOut := (s.beginFrame n).linkOut, linkWait := (s.beginFrame n).linkWait
      drawerReqs := (s.beginFrame n).drawerReqs, readsAsked := (s.beginFrame n).readsAsked
      freeNo := (s.beginFrame n).freeNo } := by
  have h := sendsOnly_beginFrame s n
  have he := State.mapStraits_eq
    (({ s.dropOrphans n with frame := n, turning := false } : State).mapCores Core.takeRates) (·.parkAt n)
  unfold SendsOnly at h
  generalize s.beginFrame n = t at h ⊢
  rw [h]
  unfold State.enterFrame
  rw [he]
  rfl

theorem State.strait_beginFrame (s : State) (n i : Nat) :
    (s.beginFrame n).strait i = if i < 16 then (s.strait i).parkAt n else s.strait i := by
  rw [(sendsOnly_beginFrame s n).strait]
  exact State.strait_mapStraits _ _ i

/-- Parking leaves the tide table of a strait. -/
theorem Strait.parkAt_table (x : Strait) (n : Nat) : (x.parkAt n).table = x.table := by
  unfold Strait.parkAt; split <;> rfl

theorem Strait.parkAt_accepted (x : Strait) (n : Nat) : (x.parkAt n).accepted = x.accepted := by
  unfold Strait.parkAt; split <;> rfl

/-! ## Stage 4 -/

/-- A slot boundary at link cycle 0 has come before frame 0 (19 R394). -/
theorem State.firstSlot_eq (s : State) :
    s.firstSlot = { s with slotDue := if s.slotDue = 0 then 15750 else s.slotDue, sched := s.firstSlot.sched
                           schedNext := s.firstSlot.schedNext } := by
  unfold State.firstSlot
  split
  · simp only
    split <;> rfl
  · rfl

/-- The origin of the slots at link cycle 0 is the circuit epoch. -/
theorem originAfter_epochWord (s : State) : originAfter s.epochWord 0 = s.linkCtl.toNat / 2 ^ 32 := by
  have h := s.linkCtl.isLt
  unfold originAfter State.epochWord fld bitsAt
  omega

/-- The device with its clock at 1.5 GHz as frame 0 is due, with the accepted tide tables in force (19 R388, R390). -/
def State.clocked (s : State) : State :=
  ({ s with stage := 4, framesOn := true, frameBase := s.cycle, slotDue := originAfter s.epochWord 0 } :
    State).firstSlot.mapStraits Strait.takeTable

theorem State.clocked_eq (s : State) :
    s.clocked = { s with
      stage := 4, framesOn := true, frameBase := s.cycle
      slotDue := if s.linkCtl.toNat / 2 ^ 32 = 0 then 15750 else s.linkCtl.toNat / 2 ^ 32
      sched := s.clocked.sched, schedNext := s.clocked.schedNext, straits := s.clocked.straits } := by
  unfold State.clocked
  rw [State.mapStraits_eq, State.firstSlot_eq, originAfter_epochWord]

theorem State.strait_clocked (s : State) (i : Nat) :
    s.clocked.strait i = if i < 16 then (s.strait i).takeTable else s.strait i := by
  unfold State.clocked
  rw [State.strait_mapStraits]
  unfold State.strait
  rw [State.firstSlot_eq]

/-- Frame 0 begins with the tide tables accepted before it (19 R390). -/
theorem State.startFrames_strait (s : State) {i : Nat} (hi : i < 16) :
    (s.startFrames.strait i).table = (s.strait i).coming.table ∧ (s.startFrames.strait i).accepted = none := by
  have h : s.startFrames.strait i = ((s.strait i).takeTable).parkAt 0 := by
    show (s.clocked.beginFrame 0).strait i = _
    rw [State.strait_beginFrame, if_pos hi, State.strait_clocked, if_pos hi]
  rw [h, Strait.parkAt_table, Strait.parkAt_accepted]
  exact ⟨rfl, rfl⟩

/-- What the start of frame 0 changes (19 R388, R394). -/
theorem State.startFrames_eq (s : State) :
    s.startFrames = { s with
      stage := 4, framesOn := true, frameBase := s.cycle, frame := 0, turning := false
      slotDue := if s.linkCtl.toNat / 2 ^ 32 = 0 then 15750 else s.linkCtl.toNat / 2 ^ 32
      sched := s.startFrames.sched, schedNext := s.startFrames.schedNext, straits := s.startFrames.straits
      cores := s.startFrames.cores, fabric := s.startFrames.fabric, linkOut := s.startFrames.linkOut
      linkWait := s.startFrames.linkWait, drawerReqs := s.startFrames.drawerReqs
      readsAsked := s.startFrames.readsAsked, freeNo := s.startFrames.freeNo } := by
  have h : s.startFrames = _ := s.clocked.beginFrame_eq 0
  have hb : s.clocked.beginFrame 0 = s.startFrames := rfl
  rw [hb] at h
  generalize s.startFrames = t at h ⊢
  rw [h, s.clocked_eq]

@[simp] theorem State.startFrames_service (s : State) : s.startFrames.service = s.service := by rw [s.startFrames_eq]
@[simp] theorem State.startFrames_cycle (s : State) : s.startFrames.cycle = s.cycle := by rw [s.startFrames_eq]
@[simp] theorem State.startFrames_mem (s : State) : s.startFrames.mem = s.mem := by rw [s.startFrames_eq]

/-- Stage 4 with nothing to stop starts the frames. -/
theorem exec_bringupStage4_starts {s : State} (h3 : s.stage = 3) (h0 : s.service = 0) (hrun : s.runningCtxs = [])
    (hstop : s.anyStopping = false) (hclock : s.clockStop = []) : exec .bringupStage4 s = .next s.startFrames := by
  show execBringupStage4 s = _
  simp [execBringupStage4, h3, h0, hrun, hstop, hclock]

/-- Stage 4 stops the one context that runs first. -/
theorem exec_bringupStage4_stops {s : State} {x : Nat} (h3 : s.stage = 3) (h0 : s.service = 0)
    (hrun : s.runningCtxs = [x]) : exec .bringupStage4 s =
      .next ((({ s with clockStop := s.clockStop ++ [x] } : State).requestStop x).setStopping x 1 false) := by
  show execBringupStage4 s = _
  simp [execBringupStage4, h3, h0, hrun]

/-- Full service begins once every context that was stopped is restored. -/
theorem exec_bringupStage4_serves {s : State} (h4 : s.stage = 4) (h0 : s.service = 0) : exec .bringupStage4 s =
      if s.clockStop.any s.restores then .next s else .next { s with service := 1, clockStop := [] } := by
  show execBringupStage4 s = _
  simp [execBringupStage4, h4, h0]

theorem State.any_restores_iff (s : State) :
    s.clockStop.any s.restores = true ↔ ∃ x ∈ s.clockStop, ∃ y, s.ctx x = some y ∧ y.restoring = true := by
  have h : ∀ x, s.restores x = true ↔ ∃ y, s.ctx x = some y ∧ y.restoring = true := by
    intro x
    unfold State.restores
    cases s.ctx x <;> simp
  simp only [List.any_eq_true, h]

/-- A stop is asked of every core that runs a node of the context, and of no other (08 R189). -/
theorem State.core_requestStop (s : State) (x c : Nat) :
    (s.requestStop x).core c = if (s.core c).run = .running ∧ (s.core c).ctx = x then { s.core c with preReq := true }
      else s.core c := by
  let f := fun k : Core => if k.run = .running ∧ k.ctx = x then { k with preReq := true } else k
  have h : s.requestStop x = s.mapCores f := by
    unfold State.requestStop State.mapCores
    congr 1
    apply List.map_congr_left
    intro p _
    show _ = (p.1, if p.2.run = .running ∧ p.2.ctx = x then { p.2 with preReq := true } else p.2)
    split <;> rfl
  rw [h]
  exact State.core_mapCores s f c (if_neg (by simp [Core.reset]))

/-- The mark of a stop that is under way in a resident context. -/
theorem State.setStopping_some (s : State) {x : Nat} {y : Ctx} (h : s.ctx x = some y) (why : Nat) (byDisp : Bool) :
    s.setStopping x why byDisp = { s with ctxs := Tab.put none s.ctxs x (some { y with
      stopping := some (max why (y.stopping.getD 0)), byDispatcher := byDisp, restoring := false }) } := by
  unfold State.setStopping
  rw [h]

end Sys2Proof.Machine
end

section
/-! SUPPORT. What power, bring-up and reset leave (01 R13, 21 R421 to R428), clause by clause. -/

namespace Sys2Proof.Machine

open Sys2Proof

/-- The end of a control period, with its scale and its excess (21 R424, R426). -/
theorem controlPeriodEnd_leaves (s : State) (pkg : BitVec 16) (slope : Bool) (hd : 4096 * (s.power.periods + 1) ≤ s.due) :
    let p := s.power
    ∃ t, exec (.controlPeriodEnd pkg slope) s = .next t
      ∧ t = { s.passTo (4096 * (p.periods + 1)) with power := t.power }
      ∧ t.power = { p with
          pkgW := pkg, scale := t.power.scale, slope := t.power.slope, capExcess := t.power.capExcess
          ballastRan := false, periods := p.periods + 1 }
      ∧ t.power.scale.toNat =
        (if p.capW ≠ 0 ∧ p.capW.toNat < pkg.toNat then min (p.scale.toNat + p.step.toNat) 0xFFFF
         else if p.capW = 0 ∨ 16 * pkg.toNat < 15 * p.capW.toNat then max (p.scale.toNat - p.step.toNat) 0x100
         else p.scale.toNat)
      ∧ (p.ballastRan = true → t.power.slope = true)
      ∧ t.power.capExcess = (if p.ballastRan = true ∧ p.capW ≠ 0 ∧ p.capW.toNat < pkg.toNat then
          p.capExcess + .ofNat 64 ((pkg.toNat - p.capW.toNat) * 4096 / 1500) else p.capExcess) := by
  refine ⟨_, exec_controlPeriodEnd_due s pkg slope hd, rfl, rfl, s.power.endPeriod_scale pkg slope, fun hb => ?_,
    s.power.endPeriod_capExcess pkg slope⟩
  show (slope || s.power.ballastRan) = true
  rw [hb, Bool.or_true]

/-- What the wake of a gated cluster leaves (21 R421). -/
theorem clusterWake_leaves (s : State) (cl : Nat) (hcl : cl < 32) (hg : s.power.gated.getLsbD cl = true) :
    let inside := fun a => ∃ i, i < 8 ∧ spBase (8 * cl + i) ≤ a ∧ a < spBase (8 * cl + i) + 0x200000
    ∃ t, exec (.clusterWake cl) s = .next t
      ∧ t = { s with cores := t.cores, power := t.power, mem := t.mem, errs := t.errs, armed := t.armed
                     kept := t.kept }
      ∧ (∀ x, x ∈ t.kept ↔ x ∈ s.kept ∧ ¬inside x.pa)
      ∧ t.power = { s.power with gated := t.power.gated, woken := t.power.woken, rampDown := t.power.rampDown }
      ∧ (∀ i, t.power.gated.getLsbD i = (s.power.gated.getLsbD i && i != cl)
          ∧ t.power.woken.getLsbD i = (s.power.woken.getLsbD i || i == cl)
          ∧ t.power.rampDown.getLsbD i = (s.power.rampDown.getLsbD i && i != cl))
      ∧ (∀ a, (inside a → t.byte a = 0 ∧ a ∉ t.errs)
          ∧ (¬inside a → t.byte a = s.byte a ∧ (a ∈ t.errs ↔ a ∈ s.errs)))
      ∧ (∀ a, a ∈ t.armed ↔ a ∈ s.armed ∧ ¬inside (16 * a))
      ∧ ∀ c, t.core c = if c / 8 = cl then { s.core c with idleFrom := s.cycle.toNat } else s.core c := by
  intro inside
  have hin : ∀ a, inside a ↔ inCluster cl a = true := fun a => (inCluster_iff hcl a).symm
  let z : State := ({ s with power := s.power.wake cl } : State).zeroCluster cl
  have hbyte : ∀ a, (z.idleCluster cl).byte a = if inCluster cl a = true then 0 else s.byte a := fun a => by
    rw [State.idleCluster_byte]; exact State.zeroCluster_byte { s with power := s.power.wake cl } cl a
  have herrs : ∀ a, a ∈ (z.idleCluster cl).errs ↔ a ∈ s.errs ∧ ¬inCluster cl a = true := fun a => by
    rw [State.idleCluster_errs]
    show a ∈ s.errs.filter (fun e => !inCluster cl e) ↔ _
    simp
  refine ⟨z.idleCluster cl, exec_clusterWake hcl hg, ?rest, fun x => ?kept, ?block, fun i => ?power,
    fun a => ⟨fun ha => ?inside, fun ha => ?outside⟩, fun a => ?armed, fun c => ?core⟩
  case rest =>
    have hi := z.idleCluster_eq cl
    generalize z.idleCluster cl = t at hi ⊢
    rw [hi]
    rfl
  case kept =>
    rw [State.idleCluster_kept, hin]
    show x ∈ s.kept.filter (fun x => !inCluster cl x.pa) ↔ _
    simp
  case block => rw [State.idleCluster_power]; rfl
  case power =>
    rw [State.idleCluster_power]
    exact ⟨getLsbD_setFld_clear _ cl i, getLsbD_setFld_set _ hcl i, getLsbD_setFld_clear _ cl i⟩
  case inside =>
    rw [hin] at ha
    rw [hbyte, if_pos ha, herrs]
    exact ⟨rfl, fun he => he.2 ha⟩
  case outside =>
    rw [hin] at ha
    rw [hbyte, if_neg ha, herrs]
    exact ⟨rfl, and_iff_left ha⟩
  case armed =>
    rw [State.idleCluster_armed, hin]
    show a ∈ s.armed.filter (fun a => !inCluster cl (16 * a)) ↔ _
    simp
  case core => exact State.core_idleCluster z cl c

/-- What stage 3 leaves when it has found the domain (21 R428, 19 R389, R406). -/
theorem bringupStage3_leaves (s : State) (f : BringUpFind) (h : s.stage = 2) :
    ∃ t, exec (.bringupStage3 true f) s = .next t
      ∧ t = { s with stage := 3, chip := f.chip, dsize := f.dsize, gib := t.gib, dstraits := t.dstraits
                     straits := t.straits }
      ∧ (∀ d, d < 4 → Tab.get 0 t.gib d = f.gib.getD d 0 ∧ Tab.get 0 t.dstraits d = f.straits.getD d 0)
      ∧ ∀ i, i < 16 → let x := t.strait i
        let found := (List.range 4).filter fun d => f.gib.getD d 0 != 0 && (f.straits.getD d 0).getLsbD i
        x = { s.strait i with face := f.faces.getLsbD i, table := x.table }
        ∧ Tab.get 0 x.table 0 = 0xC000
        ∧ ∀ n, 1 ≤ n → n < 64 → Tab.get 0 x.table n =
          if f.faces.getLsbD i = true then 0x8000
          else if found = [] then 0 else .ofNat 16 (0x4000 + found.getD (n % found.length) 0) := by
  let t : State := { s.takeFind f with stage := 3 }
  have hs : t = { s with stage := 3, chip := f.chip, dsize := f.dsize, gib := t.gib, dstraits := t.dstraits
                         straits := t.straits } := by
    show ({ s.takeFind f with stage := 3 } : State) = _
    rw [State.takeFind_eq]
  refine ⟨t, exec_bringupStage3_finds h f, hs, fun d hd => ⟨s.takeFind_gib f hd, s.takeFind_dstraits f hd⟩, fun i hi => ?_⟩
  have hx : t.strait i = { s.strait i with face := f.faces.getLsbD i, table := f.table i } := s.takeFind_strait f hi
  intro x found
  have ht : x.table = f.table i := congrArg Strait.table hx
  refine ⟨by rw [ht]; exact hx, by rw [ht, BringUpFind.get_table]; rfl, fun n h1 h64 => ?_⟩
  rw [ht, BringUpFind.get_table, if_pos ⟨h1, h64⟩]
  show (if f.faces.getLsbD i = true then (0x8000 : BitVec 16)
    else if found.isEmpty = true then 0 else .ofNat 16 (0x4000 + found.getD (n % found.length) 0)) = _
  simp only [List.isEmpty_iff]

/-- What stage 4 leaves when it stops the one context that runs (21 R428, 08 R189). -/
theorem bringupStage4_stops_leaves (s : State) (x : Nat) (y : Ctx) (h3 : s.stage = 3) (h0 : s.service = 0)
    (hrun : s.runningCtxs = [x]) (hx : s.ctx x = some y) :
    ∃ t, exec .bringupStage4 s = .next t
      ∧ t = { s with cores := t.cores, ctxs := t.ctxs, clockStop := s.clockStop ++ [x] }
      ∧ (∀ z, t.ctx z = if z = x then some { y with
          stopping := some (max 1 (y.stopping.getD 0)), byDispatcher := false, restoring := false } else s.ctx z)
      ∧ ∀ c, t.core c = if (s.core c).run = .running ∧ (s.core c).ctx = x then { s.core c with preReq := true }
          else s.core c := by
  let u : State := ({ s with clockStop := s.clockStop ++ [x] } : State).requestStop x
  have hu : u.ctx x = some y := hx
  refine ⟨_, (exec_bringupStage4_stops h3 h0 hrun).trans (congrArg Host.Outcome.next (u.setStopping_some hu 1 false)), rfl,
    fun z => ?_, fun c => State.core_requestStop { s with clockStop := s.clockStop ++ [x] } x c⟩
  exact Tab.get_put none s.ctxs x z (some { y with
    stopping := some (max 1 (y.stopping.getD 0)), byDispatcher := false, restoring := false })

/-- What a reset core holds (log 3, DESIGN CHOICE). -/
theorem reset_core (c : Nat) : State.reset.core c = Core.reset := rfl

/-- What a reset strait holds (19 R389, R406). -/
theorem reset_strait (i : Nat) : State.reset.strait i = Strait.reset := rfl

/-- Settles O55: each event is its meaning's equation, with the parts that it changes. -/
theorem powerBringUpAndResetLeaveTheStatedValues : Obligations.PowerBringUpAndResetLeaveTheStatedValues := by
  unfold Obligations.PowerBringUpAndResetLeaveTheStatedValues
  refine ⟨fun s h => exec_heartbeatTick_due s h, fun s pkg slope => controlPeriodEnd_leaves s pkg slope, fun _ _ => rfl,
    ?gate, fun s cl => clusterWake_leaves s cl, fun _ => rfl,
    fun s f h => ⟨exec_bringupStage3_fails h f, bringupStage3_leaves s f h⟩, ?stage4, ?serves, fun _ => rfl, ?reset⟩
  case gate =>
    intro s cl last hcl hon free hle hlast gates d
    refine ⟨fun hfree hgates hd => ?_, fun hno => ?_⟩
    · have hg := State.gateAt_free hcl hon hle hlast hfree hgates
      refine ⟨_, (exec_clusterGate_some hg).trans (if_pos hd), rfl, rfl, fun i => ⟨?_, ?_⟩⟩
      · exact getLsbD_setFld_set _ hcl i
      · exact getLsbD_setFld_clear _ cl i
    · by_cases hfg : free ∧ gates
      · have hg := State.gateAt_free hcl hon hle hlast hfg.1 hfg.2
        exact (exec_clusterGate_some hg).trans (if_neg fun hd => hno ⟨hfg.1, hfg.2, hd⟩)
      · exact exec_clusterGate_none (State.gateAt_none hcl hon hle hlast hfg)
  case stage4 =>
    intro s h3 h0
    refine ⟨fun hrun hstop hclock => ?_, fun x y hrun hx => bringupStage4_stops_leaves s x y h3 h0 hrun hx⟩
    have ht := s.startFrames_eq
    exact ⟨s.startFrames, exec_bringupStage4_starts h3 h0 hrun hstop hclock, congrArg State.stage ht,
      s.startFrames_service.trans h0, congrArg State.framesOn ht, congrArg State.frameBase ht, congrArg State.frame ht,
      s.startFrames_cycle, congrArg State.slotDue ht, s.startFrames_mem, fun i hi => s.startFrames_strait hi⟩
  case serves =>
    intro s h4 h0 waits
    have hw : s.clockStop.any s.restores = true ↔ waits := s.any_restores_iff
    exact ⟨fun h => (exec_bringupStage4_serves h4 h0).trans (if_pos (hw.mpr h)),
      fun h => (exec_bringupStage4_serves h4 h0).trans (if_neg fun ha => h (hw.mp ha))⟩
  case reset =>
    refine ⟨State.reset_mem_wf, fun _ => rfl, rfl, rfl, rfl, rfl, rfl, rfl, rfl, rfl, rfl, rfl, rfl, rfl, rfl, rfl, rfl, rfl,
      rfl, rfl, rfl, rfl, fun _ => rfl, fun _ => ⟨rfl, rfl, rfl⟩, fun i => ?_, fun c => ?_⟩
    · rw [reset_strait]
      exact ⟨by decide, by decide, rfl, fun n hn => if_neg (Ne.symm hn)⟩
    · rw [reset_core]
      exact ⟨rfl, rfl, rfl, rfl, rfl, rfl, rfl, rfl, rfl, rfl, rfl, rfl, rfl, rfl, rfl, rfl⟩

end Sys2Proof.Machine
end

section
/-! SUPPORT. Accesses that trap: addresses with a non-zero bit in [63:57] or in a range that nothing maps (02 R22, R29), and the
precise trap of a CP load or store that does not pass its checks (08 R181). -/

namespace Sys2Proof.Machine

open Sys2Proof

/-! ## Addresses that do not resolve -/

/-- Bits [63:57] of an address, as a field and as a quotient (02 R22). -/
theorem fld_high_eq (va : W64) : fld va 57 7 = va.toNat / 2 ^ 57 :=
  Nat.mod_eq_of_lt (by have := va.isLt; omega)

/-- An address with a high bit resolves on no path (02 R22). -/
theorem resolve_of_high (s : State) (c : Nat) (p : Path) {va : W64} (acc : Acc) (h : va.toNat / 2 ^ 57 ≠ 0) :
    s.resolve c p va acc = .error (xlateTrap 7 3 va) := by
  unfold State.resolve
  rw [fld_high_eq, if_pos h]

/-- It resolves through no root either (02 R22, R23). -/
theorem resolveRoot_of_high (s : State) (x : Nat) {va : W64} (acc : Acc) (h : va.toNat / 2 ^ 57 ≠ 0) :
    s.resolveRoot x va acc = .error (xlateTrap 7 3 va) := by
  unfold State.resolveRoot
  rw [fld_high_eq, if_pos h]

/-- An address between the windows, below the translated range, resolves on no path (02 R22). -/
theorem resolve_of_unmapped (s : State) (c : Nat) (p : Path) {va : W64} (acc : Acc)
    (h : 0x200000 ≤ va.toNat ∧ va.toNat < 0x1000000 ∨ 0x2000000 ≤ va.toNat ∧ va.toNat < 0x40000000) :
    s.resolve c p va acc = .error (xlateTrap 7 4 va) := by
  have hhigh : ¬fld va 57 7 ≠ 0 := by rw [fld_high_eq]; omega
  have hown : ¬va.toNat < 0x200000 := by omega
  have hcluster : ¬(0x1000000 ≤ va.toNat ∧ va.toNat < 0x2000000 ∧ c < 256) := by omega
  have hlow : va.toNat < 0x40000000 := by omega
  unfold State.resolve
  rw [if_neg hhigh, if_neg hown, if_neg hcluster, if_pos hlow]

/-- Settles O14: both ways to resolve an address look at bits [63:57] first. -/
theorem accessesWithHighAddressBitsTakeXlate : Obligations.AccessesWithHighAddressBitsTakeXlate := by
  unfold Obligations.AccessesWithHighAddressBitsTakeXlate
  intro s c x p va acc h
  exact ⟨⟨_, resolve_of_high s c p acc h, rfl, rfl⟩, ⟨_, resolveRoot_of_high s x acc h, rfl, rfl⟩⟩

/-! ## The checks of a CP access -/

theorem loadCheck_of_misaligned (s : State) (c : Nat) {va : W64} {log2 : Nat} (h : va.toNat % 2 ^ log2 ≠ 0) :
    s.loadCheck c va log2 = .error (alignTrap log2 va) := by
  unfold State.loadCheck
  rw [if_pos h]

theorem storeCheck_of_misaligned (s : State) (c : Nat) {va : W64} {log2 : Nat} (h : va.toNat % 2 ^ log2 ≠ 0) :
    s.storeCheck c va log2 = .error (alignTrap log2 va) := by
  unfold State.storeCheck
  rw [if_pos h]

theorem loadCheck_of_unresolved {s : State} {c : Nat} {va : W64} {log2 : Nat} {t : Trp} (h : va.toNat % 2 ^ log2 = 0)
    (ht : s.resolve c .cp va .read = .error t) : s.loadCheck c va log2 = .error t := by
  unfold State.loadCheck
  rw [if_neg (not_not.mpr h), ht]

theorem storeCheck_of_unresolved {s : State} {c : Nat} {va : W64} {log2 : Nat} {t : Trp} (h : va.toNat % 2 ^ log2 = 0)
    (ht : s.resolve c .cp va .write = .error t) : s.storeCheck c va log2 = .error t := by
  unfold State.storeCheck
  rw [if_neg (not_not.mpr h), ht]

/-- The checks of a load pass where its address resolves, to a peer window over a strait in force (19 R398). -/
theorem loadCheck_ok {s : State} {va : W64} {log2 pa : Nat} (h : s.reaches va (2 ^ log2) .read pa)
    (hp : ∀ c, s.region pa = .peer c → s.routed c = true) : s.loadCheck s.cur va log2 = .ok pa := by
  obtain ⟨hal, hr⟩ := h
  unfold State.loadCheck
  rw [if_neg (not_not.mpr hal), hr]
  simp only
  split
  · rw [if_pos (hp _ ‹_›)]
  · rfl

/-- A load that meets an uncorrectable error as it issues takes its trap (02 R29). -/
theorem cpLoad_poison {s : State} {va : W64} {log2 pa e : Nat} (sgn : Bool) (dst : List Reg)
    (h : s.loadCheck s.cur va log2 = .ok pa) (he : s.loadPoison s.cur pa (2 ^ log2) = some e) :
    s.cpLoad va log2 sgn dst = s.preciseTrap (uncorrTrap e) := by
  unfold State.cpLoad
  simp only [h, he]

/-! ## The traps of a scalar access -/

/-- The address of a scalar load or store is the sum of its base and its signed offset (06 R141). -/
theorem ea_eq_ofInt (s : State) (sa : SR) (off : BitVec 23) :
    s.ea sa off = .ofInt 64 ((s.srcS sa).toInt + off.toInt) := by
  rw [BitVec.ofInt_add, BitVec.ofInt_toInt]
  rfl

/-- What an op at va of alignment 2^k does where its address is wrong (06 R141). -/
def WrongAddressTraps (s : State) (va : W64) (k : Nat) (i : Instr) : Prop :=
  (va.toNat % 2 ^ k ≠ 0 → TrapsPrecisely s i .align (.ofNat 64 k) va)
    ∧ (va.toNat % 2 ^ k = 0 → va.toNat / 2 ^ 57 ≠ 0 → TrapsPrecisely s i .xlate (.ofNat 64 (7 + 8 * 3)) va)
    ∧ (va.toNat % 2 ^ k = 0 →
        (0x200000 ≤ va.toNat ∧ va.toNat < 0x1000000 ∨ 0x2000000 ≤ va.toNat ∧ va.toNat < 0x40000000) →
      TrapsPrecisely s i .xlate (.ofNat 64 (7 + 8 * 4)) va)

/-- What a load at va of alignment 2^k does where a byte of it is bad (02 R29). -/
def BadByteTraps (s : State) (va : W64) (k : Nat) (i : Instr) : Prop :=
  ∀ pa e : Nat, (s.core s.cur).seg = false → s.reaches va (2 ^ k) .read pa →
    (∀ c, s.region pa = .peer c → s.routed c = true) → s.loadPoison s.cur pa (2 ^ k) = some e →
    TrapsPrecisely s i .uncorr (.ofNat 64 0) (.ofNat 64 e)

section
variable {s : State} {i : Instr} {va : W64} {k : Nat}

/-- An op traps at a wrong address when it takes the trap of a check that finds it. -/
theorem wrongAddressTraps_of_check {check : Except Trp Nat} {acc : Acc} (hk : (s.core s.cur).handles)
    (hal : va.toNat % 2 ^ k ≠ 0 → check = .error (alignTrap k va))
    (hres : ∀ t, va.toNat % 2 ^ k = 0 → s.resolve s.cur .cp va acc = .error t → check = .error t)
    (hi : ∀ t, check = .error t → exec i s = .next (s.preciseTrap t)) : WrongAddressTraps s va k i :=
  ⟨fun h => traps_of_preciseTrap (t := alignTrap k va) (hi _ (hal h)) nofun hk,
    fun h hh => traps_of_preciseTrap (t := xlateTrap 7 3 va) (hi _ (hres _ h (resolve_of_high s _ _ _ hh))) nofun hk,
    fun h hh => traps_of_preciseTrap (t := xlateTrap 7 4 va) (hi _ (hres _ h (resolve_of_unmapped s _ _ _ hh))) nofun hk⟩

/-- A CP load traps at a wrong address. -/
theorem wrongAddressTraps_of_cpLoad {sgn : Bool} {dst : List Reg} (hk : (s.core s.cur).handles)
    (hi : exec i s = .next (s.cpLoad va k sgn dst)) : WrongAddressTraps s va k i :=
  wrongAddressTraps_of_check (acc := .read) hk (loadCheck_of_misaligned s s.cur) (fun _ => loadCheck_of_unresolved)
    fun t ht => hi.trans (congrArg _ (cpLoad_trap s va k sgn dst t ht))

/-- A CP store traps at a wrong address. -/
theorem wrongAddressTraps_of_cpStore {bytes : List Byte} (hk : (s.core s.cur).handles)
    (hi : exec i s = .next (s.cpStore va k bytes)) : WrongAddressTraps s va k i :=
  wrongAddressTraps_of_check (acc := .write) hk (storeCheck_of_misaligned s s.cur) (fun _ => storeCheck_of_unresolved)
    fun t ht => hi.trans (congrArg _ (cpStore_trap s va k bytes t ht))

/-- A CP load of a bad byte traps outside a segment. -/
theorem badByteTraps_of_cpLoad {sgn : Bool} {dst : List Reg} (hk : (s.core s.cur).handles)
    (hi : exec i s = .next (s.cpLoad va k sgn dst)) : BadByteTraps s va k i := fun _ e hseg hr hp he =>
  ⟨_, hi.trans (congrArg _ (cpLoad_poison sgn dst (loadCheck_ok hr hp) he)),
    preciseTrap_enters s (uncorrTrap e) hk (.inr hseg)⟩

end

/-- Settles O15: every form is a CP load or a CP store, whose checks find the address or the byte. -/
theorem misalignedAndUnmappedAccessesTrap : Obligations.MisalignedAndUnmappedAccessesTrap := by
  unfold Obligations.MisalignedAndUnmappedAccessesTrap
  intro s r sa off hk va row bad
  have hva : s.ea sa off = va := ea_eq_ofInt s sa off
  have load : ∀ (k : Nat) (i : Instr) (sgn : Bool) (dst : List Reg),
      exec i s = .next (s.cpLoad (s.ea sa off) k sgn dst) → row k i ∧ bad k i := fun k i sgn dst hi =>
    ⟨wrongAddressTraps_of_cpLoad hk (hva ▸ hi), badByteTraps_of_cpLoad hk (hva ▸ hi)⟩
  have store : ∀ (k : Nat) (i : Instr) (bytes : List Byte), exec i s = .next (s.cpStore (s.ea sa off) k bytes) → row k i :=
    fun k i bytes hi => wrongAddressTraps_of_cpStore hk (hva ▸ hi)
  obtain ⟨ldB, ldB'⟩ := load 0 (.ldB r sa off) _ _ rfl
  obtain ⟨ldBu, ldBu'⟩ := load 0 (.ldBu r sa off) _ _ rfl
  obtain ⟨ldH, ldH'⟩ := load 1 (.ldH r sa off) _ _ rfl
  obtain ⟨ldHu, ldHu'⟩ := load 1 (.ldHu r sa off) _ _ rfl
  obtain ⟨ldW, ldW'⟩ := load 2 (.ldW r sa off) _ _ rfl
  obtain ⟨ldWu, ldWu'⟩ := load 2 (.ldWu r sa off) _ _ rfl
  obtain ⟨ldD, ldD'⟩ := load 3 (.ldD r sa off) _ _ rfl
  obtain ⟨ldQ, ldQ'⟩ := load 4 (.ldQ r sa off) _ _ rfl
  exact ⟨ldB', ldBu', ldH', ldHu', ldW', ldWu', ldD', ldQ',
    ldB, ldBu, store 0 (.stB r sa off) _ rfl, ldH, ldHu, store 1 (.stH r sa off) _ rfl,
    ldW, ldWu, store 2 (.stW r sa off) _ rfl, ldD, store 3 (.stD r sa off) _ rfl, ldQ, store 4 (.stQ r sa off) _ rfl⟩

end Sys2Proof.Machine
end

section
/-! SUPPORT. What answers yield, and the meanings that go on with memory in canonical form. -/
namespace Sys2Proof.Machine
open Sys2Proof

/-- Every value that an answer carries satisfies P. -/
def Yields {ε α : Type} (P : α → Prop) : Except ε α → Prop
  | .ok a => P a
  | .error _ => True

@[simp] theorem yields_ok {ε α : Type} (P : α → Prop) (a : α) : Yields P (.ok a : Except ε α) ↔ P a := Iff.rfl

@[simp] theorem yields_error {ε α : Type} (P : α → Prop) (e : ε) : Yields P (.error e : Except ε α) ↔ True :=
  Iff.rfl

@[simp] theorem yields_pure {ε α : Type} (P : α → Prop) (a : α) : Yields P (pure a : Except ε α) ↔ P a :=
  Iff.rfl

section
variable {ε α β : Type} {P Q : α → Prop} {R : β → Prop} {x : Except ε α} {f : α → Except ε β}

/-- What a bind carries comes from its second part. -/
@[simp] theorem yields_bind_iff : Yields R (x >>= f) ↔ ∀ a, x = .ok a → Yields R (f a) := by
  cases x with
  | error e => exact ⟨fun _ _ h => (nomatch h), fun _ => trivial⟩
  | ok a =>
    refine ⟨fun h b e => ?_, fun h => h a rfl⟩
    cases e
    exact h

theorem yields_bind (h : ∀ a, x = .ok a → Yields R (f a)) : Yields R (x >>= f) := yields_bind_iff.mpr h

theorem Yields.of_ok {a : α} (h : Yields P x) (e : x = .ok a) : P a := by
  subst e
  exact h

theorem Yields.bind (hx : Yields P x) (h : ∀ a, P a → Yields R (f a)) : Yields R (x >>= f) :=
  yields_bind fun a e => h a (hx.of_ok e)

theorem Yields.imp (h : Yields P x) (hpq : ∀ a, P a → Q a) : Yields Q x := by
  cases x with
  | error e => trivial
  | ok a => exact hpq a h

theorem yields_of_forall (h : ∀ a, P a) : Yields P x := by
  cases x with
  | error e => trivial
  | ok a => exact h a

/-- What is yielded with the memory of a state has that memory's form. -/
theorem Yields.wf {g : α → State} {m : Memory} (h : Yields (fun a => (g a).mem = m) x) (hw : Memory.wf m = true) :
    Yields (fun a => Memory.wf (g a).mem = true) x := h.imp fun _ e => e ▸ hw

end

@[simp] theorem yields_map {ε α β : Type} {P : β → Prop} {f : α → β} {x : Except ε α} :
    Yields P (x.map f) ↔ Yields (fun a => P (f a)) x := by cases x <;> rfl

@[simp] theorem yields_ite {ε α : Type} {P : α → Prop} {c : Prop} [Decidable c] {x y : Except ε α} :
    Yields P (if c then x else y) ↔ if c then Yields P x else Yields P y := by split <;> rfl

/-- A meaning goes on, with memory in canonical form. -/
def GoesOk (r : Out3) : Prop := ∃ t, r = .next t ∧ Memory.wf t.mem = true

@[simp] theorem goesOk_next (t : State) : GoesOk (.next t) ↔ Memory.wf t.mem = true :=
  ⟨fun ⟨_, rfl, w⟩ => w, fun h => ⟨t, rfl, h⟩⟩

@[simp] theorem goesOk_ite {c : Prop} [Decidable c] {x y : Out3} :
    GoesOk (if c then x else y) ↔ if c then GoesOk x else GoesOk y := by split <;> rfl

@[simp] theorem State.mem_ite (c : Prop) [Decidable c] (a b : State) :
    (if c then a else b).mem = if c then a.mem else b.mem := apply_ite State.mem c a b

@[simp] theorem Memory.wf_ite {c : Prop} [Decidable c] (a b : Memory) :
    Memory.wf (if c then a else b) = if c then Memory.wf a else Memory.wf b := apply_ite Memory.wf c a b

@[simp] theorem State.mem_foldl {α : Type} {f : State → α → State} (h : ∀ t x, (f t x).mem = t.mem) (l : List α)
    (s : State) : (l.foldl f s).mem = s.mem := by
  induction l generalizing s with
  | nil => rfl
  | cons x l ih => exact (ih _).trans (h s x)

theorem State.wf_foldl {α : Type} {f : State → α → State}
    (h : ∀ t x, Memory.wf t.mem = true → Memory.wf (f t x).mem = true) (l : List α) {s : State}
    (hs : Memory.wf s.mem = true) : Memory.wf (l.foldl f s).mem = true := by
  induction l generalizing s with
  | nil => exact hs
  | cons x l ih => exact ih (h s x hs)

end Sys2Proof.Machine
end

section
/-! SUPPORT. Canonical memory under the named operations over the state: what memory, views, registers, marks
and traps write. -/
namespace Sys2Proof.Machine
open Sys2Proof

@[simp] theorem State.freshViews_mem (s : State) (c : Nat) : (s.freshViews c).mem = s.mem := by rfl

@[simp] theorem State.releaseAll_mem (s : State) (c : Nat) : (s.releaseAll c).mem = s.mem := by rfl

@[simp] theorem State.tagBytes_mem (s : State) (w : Writer) (d : Nat) : (s.tagBytes w d).mem = s.mem := by rfl

@[simp] theorem State.untag_mem (s : State) (c d : Nat) : (s.untag c d).mem = s.mem := by rfl

@[simp] theorem State.seeTagged_mem (s : State) (c : Nat) (ds : List Nat) : (s.seeTagged c ds).mem = s.mem := by rfl

@[simp] theorem State.overWriter_mem (s : State) (w : Writer) : (s.overWriter w).mem = s.mem := by rfl

@[simp] theorem State.writeNat_wf (s : State) (pa n x : Nat) (hw : Memory.wf s.mem = true) :
    Memory.wf (s.writeNat pa n x).mem = true := by simp [State.writeNat, hw, Memory.wf_write]

@[simp] theorem State.writeW_wf (s : State) (pa : Nat) (x : W64) (hw : Memory.wf s.mem = true) :
    Memory.wf (s.writeW pa x).mem = true := by simp [State.writeW, hw]

@[simp] theorem State.dstPwin_mem (s : State) (x : BitVec 16) : (s.dstPwin x).mem = s.mem := by rfl

@[simp] theorem State.dstV_mem (s : State) (r : VR) (x : List W32) : (s.dstV r x).mem = s.mem := by rfl

@[simp] theorem State.dstK_mem (s : State) (r : KR) (x : W128) : (s.dstK r x).mem = s.mem := by rfl

@[simp] theorem State.setGroup_mem (s : State) (n : Nat) (x : GroupEntry) : (s.setGroup n x).mem = s.mem := by rfl

@[simp] theorem State.setSlab_mem (s : State) (ctx cls : Nat) (x : Slab) : (s.setSlab ctx cls x).mem = s.mem := by rfl

@[simp] theorem State.setStrait_mem (s : State) (n : Nat) (x : Strait) : (s.setStrait n x).mem = s.mem := by rfl

@[simp] theorem State.setSat_mem (s : State) (c : Nat) (v : Bool) : (s.setSat c v).mem = s.mem := by simp [State.setSat]

@[simp] theorem State.markS_mem (s : State) (r : SR) : (s.markS r).mem = s.mem := by simp [State.markS]

@[simp] theorem State.markL_mem (s : State) (r : SR) : (s.markL r).mem = s.mem := by rfl

@[simp] theorem State.markK_mem (s : State) (r : KR) : (s.markK r).mem = s.mem := by simp [State.markK]

@[simp] theorem State.holdOn_mem (s : State) (i : Instr) (a b : W64) (dst : List Reg) (mark addr : Nat) :
    (s.holdOn i a b dst mark addr).mem = s.mem := by rfl

@[simp] theorem State.setCstate_wf (s : State) (ccb v : Nat) (hw : Memory.wf s.mem = true) :
    Memory.wf (s.setCstate ccb v).mem = true := by simp [State.setCstate, hw]

@[simp] theorem State.hostEvent_mem (s : State) (ctx code : Nat) : (s.hostEvent ctx code).mem = s.mem := by
  unfold State.hostEvent
  (repeat' split) <;> simp

@[simp] theorem State.requestStop_mem (s : State) (ctx : Nat) : (s.requestStop ctx).mem = s.mem := by rfl

@[simp] theorem State.setStopping_mem (s : State) (ctx why : Nat) (byDisp : Bool) :
    (s.setStopping ctx why byDisp).mem = s.mem := by
  unfold State.setStopping
  split <;> rfl

@[simp] theorem State.clearIssue_mem (s : State) (c : Nat) : (s.clearIssue c).mem = s.mem := by simp [State.clearIssue]

@[simp] theorem State.contextFault_wf (s : State) (c : Nat) (code : TrapCode) (pc : Nat) (hw : Memory.wf s.mem = true) :
    Memory.wf (s.contextFault c code pc).mem = true := by simp [State.contextFault, hw]

@[simp] theorem State.takeTrap_wf (s : State) (c : Nat) (t : Trp) (pc slot : Nat) (hw : Memory.wf s.mem = true) :
    Memory.wf (s.takeTrap c t pc slot).mem = true := by simp [State.takeTrap, hw]

@[simp] theorem State.rewindOrTrap_wf (s : State) (c : Nat) (t : Trp) (pc slot : Nat) (hw : Memory.wf s.mem = true) :
    Memory.wf (s.rewindOrTrap c t pc slot).mem = true := by simp [State.rewindOrTrap, hw]

@[simp] theorem State.trapAt_wf (s : State) (c : Nat) (t : Trp) (pc slot : Nat) (hw : Memory.wf s.mem = true) :
    Memory.wf (s.trapAt c t pc slot).mem = true := by simp [State.trapAt, hw]

@[simp] theorem State.preciseTrap_wf (s : State) (t : Trp) (hw : Memory.wf s.mem = true) :
    Memory.wf (s.preciseTrap t).mem = true := by simp [State.preciseTrap, hw]

@[simp] theorem State.requestedTrap_wf (s : State) (t : Trp) (hw : Memory.wf s.mem = true) :
    Memory.wf (s.requestedTrap t).mem = true := by simp [State.requestedTrap, hw]

@[simp] theorem State.engineFault_mem (s : State) (c unit queue : Nat) (t : Trp) :
    (s.engineFault c unit queue t).mem = s.mem := by rfl

@[simp] theorem State.linkFault_mem (s : State) (c kind queue : Nat) (t : Trp) :
    (s.linkFault c kind queue t).mem = s.mem := by rfl

end Sys2Proof.Machine
end

section
/-! SUPPORT. Canonical memory under translation, reads of the engines and the walks of drawers. -/
namespace Sys2Proof.Machine
open Sys2Proof

@[simp] theorem State.noteTlb_mem (s : State) (c : Nat) (p : Path) (va : W64) : (s.noteTlb c p va).mem = s.mem := by
  unfold State.noteTlb
  (repeat' split) <;> simp

@[simp] theorem State.invalidateTlbs_mem (s : State) (ctx : Nat) (va : Option Nat) :
    (s.invalidateTlbs ctx va).mem = s.mem := by rfl

@[simp] theorem State.fillPeer_mem (s : State) (isle : Nat) (l : List (Nat × Nat)) :
    (s.fillPeer isle l).mem = s.mem := by rfl

@[simp] theorem State.freshen_mem (s : State) : s.freshen.mem = s.mem := by rfl

@[simp] theorem State.writeRuns_wf (s : State) (w : Writer) (l : List (Nat × Nat)) (bs : List Byte)
    (hw : Memory.wf s.mem = true) : Memory.wf (s.writeRuns w l bs).mem = true := by
  induction l generalizing s bs with
  | nil => exact hw
  | cons q l ih => exact ih _ _ (Memory.wf_write _ _ _ hw)

@[simp] theorem State.askDrawer_mem (s : State) (c id pa : Nat) : (s.askDrawer c id pa).mem = s.mem := by rfl

@[simp] theorem State.drawerLoad_mem (s : State) (c id pa : Nat) : (s.drawerLoad c id pa).mem = s.mem := by
  unfold State.drawerLoad
  split <;> simp

@[simp] theorem State.askFlits_mem (s : State) (c unit : Nat) (l : List Nat) : (s.askFlits c unit l).mem = s.mem := by
  simp [State.askFlits]

@[simp] theorem State.askWalk_mem (s : State) (c u pa : Nat) : (s.askWalk c u pa).mem = s.mem := by simp [State.askWalk]

@[simp] theorem State.walked_mem (s : State) (c u : Nat) (p : Path) (vas : List W64) :
    (s.walked c u p vas).mem = s.mem := by simp [State.walked]

theorem State.withWalks_wf {s : State} {go : State → State} (c u : Nat) (p : Path) (vas : List W64)
    (hw : Memory.wf s.mem = true)
    (hgo : ∀ t, Memory.wf t.mem = true → Memory.wf (go t).mem = true) :
    Memory.wf (s.withWalks c u p vas go).mem = true := by
  unfold State.withWalks
  split
  · simp [hw]
  · exact hgo _ (by simp [hw])

theorem State.withReads_wf {s : State} {go : State → State} (c u : Nat) (l : List (Nat × Nat))
    (hw : Memory.wf s.mem = true)
    (hgo : ∀ t, Memory.wf t.mem = true → Memory.wf (go t).mem = true) :
    Memory.wf (s.withReads c u l go).mem = true := by
  have hend : Memory.wf (go (s.endReads c u)).mem = true := hgo _ hw
  simp [State.withReads, hw, hgo s hw, hend]

@[simp] theorem State.orphanReads_mem (s : State) (c : Nat) : (s.orphanReads c).mem = s.mem := by rfl

@[simp] theorem State.walkRequest_mem (s : State) (pa : Nat) : (s.walkRequest pa).mem = s.mem := by
  simp [State.walkRequest]

@[simp] theorem execDrawerRequest_goes (k : Nat) (s : State) (hw : Memory.wf s.mem = true) :
    GoesOk (execDrawerRequest k s) := by
  unfold execDrawerRequest
  (repeat' split) <;> simp [hw]

@[simp] theorem execDrawerResponse_goes (k : Nat) (s : State) (hw : Memory.wf s.mem = true) :
    GoesOk (execDrawerResponse k s) := by
  unfold execDrawerResponse
  (repeat' split) <;> simp [hw]

end Sys2Proof.Machine
end

section
/-! SUPPORT. Canonical memory under scalar ops, CP loads and stores, vector ops, traps and CSRs. -/
namespace Sys2Proof.Machine
open Sys2Proof

@[simp] theorem State.queueOp_mem (s : State) (i : Instr) : (s.queueOp i).mem = s.mem := by rfl

@[simp] theorem State.alu2_mem (s : State) (f : W64 → W64 → W64) (sd sa sb : SR) :
    (s.alu2 f sd sa sb).mem = s.mem := by rfl

@[simp] theorem State.alu2Long_mem (s : State) (f : W64 → W64 → W64) (sd sa sb : SR) :
    (s.alu2Long f sd sa sb).mem = s.mem := by simp [State.alu2Long]

@[simp] theorem State.alu1_mem (s : State) (f : W64 → W64) (sd sa : SR) : (s.alu1 f sd sa).mem = s.mem := by rfl

@[simp] theorem State.cpLoad_wf (s : State) (va : W64) (log2 : Nat) (sgn : Bool) (dst : List Reg)
    (hw : Memory.wf s.mem = true) : Memory.wf (s.cpLoad va log2 sgn dst).mem = true := by
  unfold State.cpLoad
  dsimp only
  (repeat' split) <;> simp [hw]

@[simp] theorem State.scalarLoad_goes (s : State) (sd sa : SR) (off : BitVec 23) (log2 : Nat) (sgn : Bool)
    (hw : Memory.wf s.mem = true) : GoesOk (s.scalarLoad sd sa off log2 sgn) := by simp [State.scalarLoad, hw]

@[simp] theorem State.cpStore_wf (s : State) (va : W64) (log2 : Nat) (bytes : List Byte) (hw : Memory.wf s.mem = true) :
    Memory.wf (s.cpStore va log2 bytes).mem = true := by
  unfold State.cpStore
  dsimp only
  (repeat' split) <;> simp [hw]

@[simp] theorem State.scalarStore_goes (s : State) (ss sa : SR) (off : BitVec 23) (log2 : Nat)
    (hw : Memory.wf s.mem = true) : GoesOk (s.scalarStore ss sa off log2) := by simp [State.scalarStore, hw]

@[simp] theorem execBnLd_goes (sa : SR) (n : BitVec 3) (s : State) (hw : Memory.wf s.mem = true) :
    GoesOk (execBnLd sa n s) := by
  unfold execBnLd
  dsimp only
  (repeat' split) <;> simp [hw]

@[simp] theorem State.vecPut_mem (s : State) (vd : VR) (x : List W32) : (s.vecPut vd x).mem = s.mem := by rfl

@[simp] theorem State.vecOp_mem (s : State) (vd : VR) (k : KR) (f : Nat → W32) : (s.vecOp vd k f).mem = s.mem := by rfl

@[simp] theorem State.vecSat_mem (s : State) (vd : VR) (k : KR) (f : Nat → W32 × Bool) :
    (s.vecSat vd k f).mem = s.mem := by simp [State.vecSat]

@[simp] theorem State.vecArith_goes (s : State) (f : W32 → W32 → Nat → W32) (vd va vb vc : VR) (k : KR)
    (hw : Memory.wf s.mem = true) : GoesOk (s.vecArith f vd va vb vc k) := by simp [State.vecArith, hw]

@[simp] theorem State.laneLoad_wf (s : State) (vd : VR) (k : KR) (f : Nat → W64) (hw : Memory.wf s.mem = true) :
    Memory.wf (s.laneLoad vd k f).mem = true := by
  unfold State.laneLoad
  dsimp only
  (repeat' split) <;> simp [hw]

@[simp] theorem State.laneStore_mem (s : State) (x : List W32) (k : KR) (a : W64) (f : Nat → W64) :
    (s.laneStore x k a f).mem = s.mem := by rfl

@[simp] theorem execVld_goes (vd : VR) (sb : SR) (k : KR) (off : BitVec 12) (s : State) (hw : Memory.wf s.mem = true) :
    GoesOk (execVld vd sb k off s) := by
  unfold execVld
  split <;> simp [hw]

@[simp] theorem execVst_goes (vd : VR) (sb : SR) (k : KR) (off : BitVec 12) (s : State) (hw : Memory.wf s.mem = true) :
    GoesOk (execVst vd sb k off s) := by
  unfold execVst
  split <;> simp [hw]

@[simp] theorem execVldx_goes (vd va : VR) (sb : SR) (k : KR) (sh : BitVec 2) (s : State)
    (hw : Memory.wf s.mem = true) :
    GoesOk (execVldx vd va sb k sh s) := by
  unfold execVldx
  split <;> simp [hw]

@[simp] theorem execVstx_goes (vd va : VR) (sb : SR) (k : KR) (sh : BitVec 2) (s : State)
    (hw : Memory.wf s.mem = true) :
    GoesOk (execVstx vd va sb k sh s) := by
  unfold execVstx
  split <;> simp [hw]

@[simp] theorem State.fillEnergy_wf (s : State) (ccb : Nat) (hw : Memory.wf s.mem = true) :
    Memory.wf (s.fillEnergy ccb).mem = true := by
  have hfold := State.wf_foldl (f := fun t (q : Nat × Nat × Nat) =>
    (t.writeNat (ccb + 0x40 + 4 * q.1) 2 q.2.1).writeNat (ccb + 0x42 + 4 * q.1) 2 q.2.2)
    (fun t q ht => by simp [ht]) energyDefaults hw
  unfold State.fillEnergy
  split
  · exact hw
  · exact hfold

@[simp] theorem State.setCsr_wf (s : State) (c n : Nat) (x : W64) (hw : Memory.wf s.mem = true) :
    Memory.wf (s.setCsr c n x).mem = true := by simp [State.setCsr, hw]

@[simp] theorem execSysWr_goes (sa : SR) (csr : BitVec 12) (s : State) (hw : Memory.wf s.mem = true) :
    GoesOk (execSysWr sa csr s) := by
  unfold execSysWr
  split <;> simp [hw]

@[simp] theorem execTlbInv_goes (sa : SR) (s : State) (hw : Memory.wf s.mem = true) : GoesOk (execTlbInv sa s) := by
  unfold execTlbInv
  split <;> simp [hw]

@[simp] theorem execRett_goes (s : State) (hw : Memory.wf s.mem = true) : GoesOk (execRett s) := by
  unfold execRett
  split <;> simp [hw]

@[simp] theorem execCmpt_goes (sa sb : SR) (s : State) (hw : Memory.wf s.mem = true) : GoesOk (execCmpt sa sb s) := by
  unfold execCmpt
  split <;> simp [hw]

@[simp] theorem execCmptV_goes (va vb : VR) (s : State) (hw : Memory.wf s.mem = true) : GoesOk (execCmptV va vb s) := by
  unfold execCmptV
  split <;> simp [hw]

end Sys2Proof.Machine
end

section
/-! SUPPORT. Canonical memory under task graphs: writes through the root, decrements, failure and the end of a node. -/
namespace Sys2Proof.Machine
open Sys2Proof

theorem State.rootWrite_wf (s : State) (ctx : Nat) (va : W64) (bs : List Byte) (hw : Memory.wf s.mem = true) :
    Yields (fun t => Memory.wf t.mem = true) (s.rootWrite ctx va bs) := by
  unfold State.rootWrite
  refine yields_bind fun l _ => ?_
  split <;> simp [hw]

theorem State.rootPut_wf (s : State) (ctx : Nat) (va w : W64) (hw : Memory.wf s.mem = true) :
    Yields (fun t => Memory.wf t.mem = true) (s.rootPut ctx va w) := s.rootWrite_wf ctx va _ hw

@[simp] theorem State.rootTry_wf (s : State) (ctx : Nat) (va w : W64) (hw : Memory.wf s.mem = true) :
    Memory.wf (s.rootTry ctx va w).mem = true := by
  unfold State.rootTry
  split
  · exact (s.rootPut_wf ctx va w hw).of_ok ‹_›
  · exact hw

@[simp] theorem State.setFailure_wf (s : State) (ctx : Nat) (launch : W64) (code : Nat) (node : W64)
    (hw : Memory.wf s.mem = true) : Memory.wf (s.setFailure ctx launch code node).mem = true := by
  simp [State.setFailure, hw]

@[simp] theorem State.recordUpdate_wf (s : State) (ctx : Nat) (node launch va : W64) (f : W64 → W64)
    (hw : Memory.wf s.mem = true) : Memory.wf (s.recordUpdate ctx node launch va f).mem = true := by
  unfold State.recordUpdate
  split
  · exact Yields.of_ok (P := fun t : State => Memory.wf t.mem = true)
      (yields_bind fun w _ => s.rootPut_wf ctx va _ hw) ‹_›
  · simp [hw]

@[simp] theorem State.leaveLive_wf (s : State) (ctx : Nat) (node launch : W64) (hw : Memory.wf s.mem = true) :
    Memory.wf (s.leaveLive ctx node launch).mem = true := by simp [State.leaveLive, hw]

@[simp] theorem State.failLaunch_wf (s : State) (ctx : Nat) (launch : W64) (code : Nat) (node : W64)
    (hw : Memory.wf s.mem = true) : Memory.wf (s.failLaunch ctx launch code node).mem = true :=
  State.wf_foldl (fun t _ ht => t.leaveLive_wf ctx _ launch ht) _ (s.setFailure_wf ctx launch code node hw)

@[simp] theorem State.chainLink_wf (s : State) (node : W64) (hw : Memory.wf s.mem = true) :
    Memory.wf (s.chainLink node).mem = true := by
  unfold State.chainLink
  split
  · exact hw
  · split
    · exact hw
    · split
      · exact (s.rootPut_wf _ _ _ hw).of_ok ‹_›
      · simp [hw]

@[simp] theorem State.enterPool_mem (s : State) (n : PoolNode) : (s.enterPool n).mem = s.mem := by rfl

theorem State.enterNode_wf (s : State) (ctx : Nat) (n launch w20 w28 w18 : W64) (hw : Memory.wf s.mem = true) :
    Yields (fun r => Memory.wf r.2.mem = true) (s.enterNode ctx n launch w20 w28 w18) := by
  unfold State.enterNode
  refine (s.rootPut_wf ctx _ _ hw).bind fun t ht => ?_
  split
  · exact (t.rootPut_wf ctx _ _ ht).bind fun u hu => by simp [hu]
  · refine (t.rootPut_wf ctx _ _ ht).bind fun u hu => yields_bind fun live _ =>
      (u.rootPut_wf ctx _ _ hu).bind fun v hv => ?_
    simp [hv]

theorem State.tryDecrement_wf (s : State) (ctx : Nat) (n launch : W64) (hw : Memory.wf s.mem = true) :
    Yields (fun r => Memory.wf r.2.mem = true) (s.tryDecrement ctx n launch) := by
  unfold State.tryDecrement
  refine yields_bind fun st _ => ?_
  split
  · simp [hw]
  · refine yields_bind fun w20 _ => yields_bind fun w28 _ => yields_bind fun w18 _ => ?_
    dsimp only
    split
    · simp [hw]
    · refine (s.rootPut_wf ctx _ _ hw).bind fun t ht => ?_
      simp [ht, t.enterNode_wf ctx n launch w20 w28 w18 ht]

@[simp] theorem State.decrement_wf (s : State) (ctx : Nat) (parent n : W64) (hw : Memory.wf s.mem = true) :
    Memory.wf (s.decrement ctx parent n).2.mem = true := by
  unfold State.decrement
  split
  · simp [hw]
  · split
    · simp [hw]
    · split
      · exact (s.tryDecrement_wf ctx n _ hw).of_ok ‹_›
      · simp [hw]

@[simp] theorem State.decrementList_wf (s : State) (ctx : Nat) (parent owner va : W64) (n : Nat)
    (hw : Memory.wf s.mem = true) : Memory.wf (s.decrementList ctx parent owner va n).mem = true := by
  induction n generalizing s va with
  | zero => exact hw
  | succ n ih =>
    unfold State.decrementList
    split
    · simp [hw]
    · exact ih _ _ (s.decrement_wf ctx parent _ hw)

theorem State.completeLaunch_wf (s : State) (ctx : Nat) (launch live : W64) (hw : Memory.wf s.mem = true) :
    Yields (fun t => Memory.wf t.mem = true) (s.completeLaunch ctx launch live) := by
  unfold State.completeLaunch
  refine yields_bind fun st _ => ?_
  split
  · exact s.rootPut_wf ctx _ _ hw
  · exact hw

@[simp] theorem State.endLive_wf (s : State) (ctx : Nat) (launch n : W64) (hw : Memory.wf s.mem = true) :
    Memory.wf (s.endLive ctx launch n).mem = true := by
  have hput : Yields (fun r : W64 × State => Memory.wf r.2.mem = true) (do
      let w ← s.rootWord ctx (launch + 0x10)
      let t ← s.rootPut ctx (launch + 0x10) (w - 1)
      return (w - 1, t)) := yields_bind fun w _ => (s.rootPut_wf ctx _ _ hw).bind fun t ht => ht
  unfold State.endLive
  split
  · simp [hw]
  · have ht := hput.of_ok ‹_›
    split
    · exact (State.completeLaunch_wf _ ctx launch _ ht).of_ok ‹_›
    · simpa using State.failLaunch_wf _ ctx launch 0x16 n ht

@[simp] theorem State.endFailed_wf (s : State) (ctx : Nat) (launch n : W64) (again : Bool)
    (hw : Memory.wf s.mem = true) : Memory.wf (s.endFailed ctx launch n again).mem = true := by simp [State.endFailed, hw]

@[simp] theorem State.graphDone_wf (s : State) (c : Nat) (result : W64) (hw : Memory.wf s.mem = true) :
    Memory.wf (s.graphDone c result).2.mem = true := by
  have hput : ∀ (ctx : Nat) (n w28 : W64), Yields (fun t => Memory.wf t.mem = true) (do
      let t ← s.rootPut ctx (n + 0x30) result
      t.rootPut ctx (n + 0x28) (setFld w28 32 2 3)) := fun ctx n w28 =>
    (s.rootPut_wf ctx _ _ hw).bind fun t ht => t.rootPut_wf ctx _ _ ht
  unfold State.graphDone
  dsimp only
  split
  · simp [hw]
  · split
    · exact hw
    · split
      · simp [hw]
      · have ht := (hput _ _ _).of_ok ‹_›
        split <;> simp [ht]

@[simp] theorem State.spawnFills_mem (s : State) (c : Nat) (n : W64) : (s.spawnFills c n).mem = s.mem := by rfl

@[simp] theorem State.spawn_wf (s : State) (c x : Nat) (n : W64) (hw : Memory.wf s.mem = true) :
    Memory.wf (s.spawn c x n).2.mem = true := by
  unfold State.spawn
  dsimp only
  (repeat' split) <;> simp [hw]

@[simp] theorem execNdSpawn_goes (sd sa : SR) (s : State) (hw : Memory.wf s.mem = true) :
    GoesOk (execNdSpawn sd sa s) := by
  unfold execNdSpawn
  dsimp only
  (repeat' split) <;> simp [hw]

@[simp] theorem State.bucketFills_mem (s : State) (c : Nat) (table : W64) :
    (s.bucketFills c table).mem = s.mem := by rfl

@[simp] theorem execNdSel_goes (sd sa : SR) (s : State) (hw : Memory.wf s.mem = true) : GoesOk (execNdSel sd sa s) := by
  unfold execNdSel
  split <;> simp [hw]

end Sys2Proof.Machine
end

section
/-! SUPPORT. Canonical memory under barriers, landing counts and sequences. -/
namespace Sys2Proof.Machine
open Sys2Proof

@[simp] theorem State.putBar_wf (s : State) (pa x : Nat) (hw : Memory.wf s.mem = true) :
    Memory.wf (s.putBar pa x).mem = true := by simp [State.putBar, hw]

@[simp] theorem State.wakeBar_mem (s : State) (pa : Nat) : (s.wakeBar pa).mem = s.mem := by rfl

@[simp] theorem State.phaseTest_wf (s : State) (pa : Nat) (hw : Memory.wf s.mem = true) :
    Memory.wf (s.phaseTest pa).mem = true := by simp [State.phaseTest, hw]

@[simp] theorem execBarInit_goes (sa sb : SR) (imm : BitVec 17) (s : State) (hw : Memory.wf s.mem = true) :
    GoesOk (execBarInit sa sb imm s) := by
  unfold execBarInit
  dsimp only
  (repeat' split) <;> simp [hw]

@[simp] theorem State.barPromise_wf (s : State) (pa tx : Nat) (na : Bool) (hw : Memory.wf s.mem = true) :
    Memory.wf (s.barPromise pa tx na).mem = true := by simp [State.barPromise, hw]

@[simp] theorem State.barArrive_goes (s : State) (sd sa sb : SR) (na : Bool) (imm : BitVec 16)
    (hw : Memory.wf s.mem = true) : GoesOk (s.barArrive sd sa sb na imm) := by
  unfold State.barArrive
  dsimp only
  (repeat' split) <;> simp [hw]

@[simp] theorem execBarWait_goes (sd sa sb : SR) (s : State) (hw : Memory.wf s.mem = true) :
    GoesOk (execBarWait sd sa sb s) := by
  unfold execBarWait
  dsimp only
  (repeat' split) <;> simp [hw]

@[simp] theorem execBarPar_goes (sa : SR) (par : Bool) (s : State) (hw : Memory.wf s.mem = true) :
    GoesOk (execBarPar sa par s) := by
  unfold execBarPar
  split <;> simp [hw]

@[simp] theorem State.disarm_mem (s : State) (pa : Nat) : (s.disarm pa).mem = s.mem := by rfl

@[simp] theorem execBarRet_goes (sa : SR) (s : State) (hw : Memory.wf s.mem = true) : GoesOk (execBarRet sa s) := by
  unfold execBarRet
  split <;> simp [hw]

@[simp] theorem State.owe_mem (s : State) (w : Writer) (queue land off n : Nat) :
    (s.owe w queue land off n).mem = s.mem := by simp [State.owe]

@[simp] theorem State.releaseSector_mem (s : State) (o : Owed) : (s.releaseSector o).mem = s.mem := by
  unfold State.releaseSector
  dsimp only
  (repeat' split) <;> simp

@[simp] theorem State.landOne_wf (s : State) (pa : Nat) (hw : Memory.wf s.mem = true) :
    Memory.wf (s.landOne pa).mem = true := by simp [State.landOne, hw]

@[simp] theorem State.countOff_mem (s : State) (k : Nat) (o : Owed) : (s.countOff k o).mem = s.mem := by rfl

@[simp] theorem execLandingCount_goes (k : Nat) (s : State) (hw : Memory.wf s.mem = true) :
    GoesOk (execLandingCount k s) := by
  unfold execLandingCount
  (repeat' split) <;> simp [hw]

@[simp] theorem State.putDesc_wf (s : State) (d : Desc) (hw : Memory.wf s.mem = true) :
    Memory.wf (s.putDesc d).mem = true := by simp [State.putDesc, hw, Memory.wf_write]

@[simp] theorem State.newDesc_wf (s : State) (d : Desc) (hw : Memory.wf s.mem = true) :
    Memory.wf (s.newDesc d).mem = true := by simp [State.newDesc, hw, Memory.wf_write]

@[simp] theorem State.mark_mem (s : State) (pa n : Nat) : (s.mark pa n).mem = s.mem := by rfl

@[simp] theorem State.unmark_mem (s : State) (pa n : Nat) : (s.unmark pa n).mem = s.mem := by rfl

@[simp] theorem State.putSlot_wf (s : State) (v : SavedCore) (l : List (Nat × Nat)) (hw : Memory.wf s.mem = true) :
    Memory.wf (s.putSlot v l).mem = true := by
  unfold State.putSlot
  split
  · dsimp only
    split
    · exact State.wf_foldl (fun t q ht => by simp [ht]) l hw
    · exact hw
  · exact hw

@[simp] theorem State.pushLc_wf (s : State) (pa lc : Nat) (hw : Memory.wf s.mem = true) :
    Memory.wf (s.pushLc pa lc).mem = true :=
  State.wf_foldl (f := fun t (v : SavedCore) =>
      t.putSlot v ((v.regs.boundTo pa).map fun (q : Nat × Nat) => (savedCl + q.1, lc)))
    (fun t v ht => t.putSlot_wf v _ ht) s.saved hw

theorem State.commitSlot_wf (s : State) (d : Desc) (i : Nat) (hw : Memory.wf s.mem = true) :
    Yields (fun r => Memory.wf r.2.mem = true) (s.commitSlot d i) := by simp [State.commitSlot, hw]

@[simp] theorem State.retract_wf (s : State) (d : Desc) (n : Nat) (hw : Memory.wf s.mem = true) :
    Memory.wf (s.retract d n).2.mem = true := by
  unfold State.retract
  (repeat' split) <;> simp [hw]

@[simp] theorem State.releasePage_mem (s : State) (ctx cls : Nat) (va : W64) :
    (s.releasePage ctx cls va).mem = s.mem := by rfl

@[simp] theorem State.undoEntry_wf (s : State) (ctx : Nat) (q : Nat × Nat × Bool) (hw : Memory.wf s.mem = true) :
    Memory.wf (s.undoEntry ctx q).mem = true := by simp [State.undoEntry, hw]

@[simp] theorem State.freeOwn_mem (s : State) (ctx : Nat) (entries : List Nat) (cls : Nat) :
    (s.freeOwn ctx entries cls).mem = s.mem := by simp [State.freeOwn]

theorem State.retire_wf (s : State) (w : Who) (d : Desc) (n : Nat) (hw : Memory.wf s.mem = true) :
    Yields (fun t => Memory.wf t.mem = true) (s.retire w d n) := by
  induction n generalizing s d with
  | zero => exact hw
  | succ n ih =>
    unfold State.retire
    refine yields_bind fun entries _ => ?_
    dsimp only
    split
    · simp [hw]
    · refine yields_bind fun up _ => ?_
      split
      · exact ih _ _ (by simp [hw])
      · simp [hw]

@[simp] theorem State.noteDrop_mem (s : State) (pa : Nat) : (s.noteDrop pa).mem = s.mem := by rfl

theorem State.dropSeq_wf (s : State) (w : Who) (ctx : Nat) (d : Desc) (hw : Memory.wf s.mem = true) :
    Yields (fun t => Memory.wf t.mem = true) (s.dropSeq w ctx d) := by
  unfold State.dropSeq
  refine yields_bind fun own _ => ?_
  extract_lets dropped t drop
  have ht : Memory.wf t.mem = true := by simp [t, hw]
  have hdrop : ∀ ups, Yields (fun t => Memory.wf t.mem = true) (drop ups) := fun ups => by
    have hups := State.wf_foldl (f := fun t q => t.undoEntry ctx q) (fun t q ht => t.undoEntry_wf ctx q ht) ups ht
    dsimp only [drop]
    split
    · exact State.retire_wf _ w _ 9 (by simp [hups])
    · simp [hups]
  split
  · exact hdrop []
  · exact yields_bind fun up _ => yields_bind fun ups _ => hdrop ups

theorem State.growSeq_wf (s : State) (w : Who) (ctx : Nat) (d : Desc) (k : Nat) (hw : Memory.wf s.mem = true) :
    Yields (fun r => Memory.wf r.2.mem = true) (s.growSeq w ctx d k) := by
  unfold State.growSeq
  dsimp only
  split
  · exact hw
  · refine yields_bind fun ⟨ps, head⟩ _ => yields_bind fun es _ => ?_
    have hes := State.wf_foldl (f := fun t (q : Nat × W64) => (t.writeW q.1 (.ofNat 64 (fld q.2 16 41))).mark q.1 1)
      (fun t q ht => by simp [ht]) (es.zip ps)
      (s := s.setSlab ctx (seqClass d.w18) { s.slab ctx (seqClass d.w18) with
        head := head, count := (s.slab ctx (seqClass d.w18)).count - .ofNat 32 k }) (by simp [hw])
    exact State.putDesc_wf _ _ hes

@[simp] theorem State.unbind_wf (s : State) (c n : Nat) (hw : Memory.wf s.mem = true) :
    Memory.wf (s.unbind c n).mem = true := by
  unfold State.unbind
  split <;> simp [hw]

@[simp] theorem State.unbindAll_wf (s : State) (c : Nat) (hw : Memory.wf s.mem = true) :
    Memory.wf (s.unbindAll c).mem = true :=
  State.wf_foldl (fun t n ht => t.unbind_wf c n ht) (List.range 8) hw

theorem State.answer_goes (s : State) (sd : SR) {r : Except Trp (W64 × State)} (hw : Memory.wf s.mem = true)
    (hr : Yields (fun q => Memory.wf q.2.mem = true) r) : GoesOk (s.answer sd r) := by
  unfold State.answer
  split
  · simp [hw]
  · simpa using hr

theorem State.sqInit_wf (s : State) (va : W64) (hw : Memory.wf s.mem = true) :
    Yields (fun r => Memory.wf r.2.mem = true) (s.sqInit va) := by simp [State.sqInit, hw]

@[simp] theorem execSqInit_goes (sd sa : SR) (s : State) (hw : Memory.wf s.mem = true) : GoesOk (execSqInit sd sa s) :=
  s.answer_goes _ hw (s.sqInit_wf _ hw)

theorem State.sqRes_wf (s : State) (va n : W64) (hw : Memory.wf s.mem = true) :
    Yields (fun r => Memory.wf r.2.mem = true) (s.sqRes va n) := by simp [State.sqRes, hw]

@[simp] theorem execSqRes_goes (sd sa sb : SR) (s : State) (hw : Memory.wf s.mem = true) :
    GoesOk (execSqRes sd sa sb s) :=
  s.answer_goes _ hw (s.sqRes_wf _ _ hw)

theorem State.sqCmt_wf (s : State) (va i : W64) (hw : Memory.wf s.mem = true) :
    Yields (fun r => Memory.wf r.2.mem = true) (s.sqCmt va i) := by
  unfold State.sqCmt
  exact yields_bind fun d _ => yields_bind fun _ _ => (s.commitSlot_wf d i.toNat hw).bind fun q hq => hq

@[simp] theorem execSqCmt_goes (sd sa sb : SR) (s : State) (hw : Memory.wf s.mem = true) :
    GoesOk (execSqCmt sd sa sb s) :=
  s.answer_goes _ hw (s.sqCmt_wf _ _ hw)

theorem State.sqRet_wf (s : State) (va n : W64) (hw : Memory.wf s.mem = true) :
    Yields (fun r => Memory.wf r.2.mem = true) (s.sqRet va n) := by
  unfold State.sqRet
  exact yields_bind fun d _ => yields_bind fun _ _ => s.retract_wf d _ hw

@[simp] theorem execSqRet_goes (sd sa sb : SR) (s : State) (hw : Memory.wf s.mem = true) :
    GoesOk (execSqRet sd sa sb s) :=
  s.answer_goes _ hw (s.sqRet_wf _ _ hw)

theorem State.sqLen_mem (s : State) (va : W64) : Yields (fun r => r.2.mem = s.mem) (s.sqLen va) := by
  unfold State.sqLen
  exact yields_bind fun d _ => yields_bind fun _ _ => rfl

@[simp] theorem execSqLen_goes (sd sa : SR) (s : State) (hw : Memory.wf s.mem = true) : GoesOk (execSqLen sd sa s) :=
  s.answer_goes _ hw ((s.sqLen_mem _).wf hw)

theorem State.sqAddr_mem (s : State) (va i : W64) : Yields (fun r => r.2.mem = s.mem) (s.sqAddr va i) := by
  unfold State.sqAddr
  refine yields_bind fun d _ => yields_bind fun _ _ => ?_
  split
  · trivial
  · exact yields_bind fun _ _ => rfl

@[simp] theorem execSqAddr_goes (sd sa sb : SR) (s : State) (hw : Memory.wf s.mem = true) :
    GoesOk (execSqAddr sd sa sb s) :=
  s.answer_goes _ hw ((s.sqAddr_mem _ _).wf hw)

theorem State.sqGrow_wf (s : State) (va k : W64) (hw : Memory.wf s.mem = true) :
    Yields (fun r => Memory.wf r.2.mem = true) (s.sqGrow va k) := by
  unfold State.sqGrow
  exact yields_bind fun d _ => yields_bind fun _ _ => s.growSeq_wf _ _ d _ hw

@[simp] theorem execSqGrow_goes (sd sa sb : SR) (s : State) (hw : Memory.wf s.mem = true) :
    GoesOk (execSqGrow sd sa sb s) :=
  s.answer_goes _ hw (s.sqGrow_wf _ _ hw)

theorem State.sqDrop_wf (s : State) (va : W64) (hw : Memory.wf s.mem = true) :
    Yields (fun r => Memory.wf r.2.mem = true) (s.sqDrop va) := by
  unfold State.sqDrop
  refine yields_bind fun d _ => yields_bind fun _ _ => ?_
  split
  · exact hw
  · split
    · exact hw
    · exact (s.dropSeq_wf _ _ d hw).bind fun t ht => ht

@[simp] theorem execSqDrop_goes (sd sa : SR) (s : State) (hw : Memory.wf s.mem = true) : GoesOk (execSqDrop sd sa s) :=
  s.answer_goes _ hw (s.sqDrop_wf _ hw)

theorem State.sqFork_wf (s : State) (cva dva f : W64) (hw : Memory.wf s.mem = true) :
    Yields (fun r => Memory.wf r.2.mem = true) (s.sqFork cva dva f) := by
  unfold State.sqFork
  refine yields_bind fun ⟨cpa, dpa⟩ _ => yields_bind fun c _ => yields_bind fun _ _ => yields_bind fun d _ =>
    yields_bind fun _ _ => ?_
  extract_lets fork
  have hfork : ∀ es, Yields (fun r => Memory.wf r.2.mem = true) (fork es) := fun es => by
    have hes := State.wf_foldl (f := fun t (q : Nat × Nat × Bool) =>
      t.writeW q.1 (setFld (t.readW q.1) 56 8 (entryPrc (t.readW q.1) + 1))) (fun t q ht => by simp [ht]) es hw
    dsimp only [fork]
    split
    · exact hw
    · simp [hes]
  split
  · exact hfork []
  · exact yields_bind fun es _ => hfork es

@[simp] theorem execSqFork_goes (sd sa sb : SR) (s : State) (hw : Memory.wf s.mem = true) :
    GoesOk (execSqFork sd sa sb s) :=
  s.answer_goes _ hw (s.sqFork_wf _ _ _ hw)

theorem State.sqBind_wf (s : State) (va : W64) (n : Nat) (hw : Memory.wf s.mem = true) :
    Yields (fun r => Memory.wf r.2.mem = true) (s.sqBind va n) := by
  unfold State.sqBind
  exact yields_bind fun d _ => yields_bind fun _ _ => by simp [hw]

@[simp] theorem execSqBind_goes (sa : SR) (n : BitVec 3) (s : State) (hw : Memory.wf s.mem = true) :
    GoesOk (execSqBind sa n s) :=
  s.answer_goes _ hw (s.sqBind_wf _ _ hw)

@[simp] theorem execClPush_goes (k : Nat) (s : State) (hw : Memory.wf s.mem = true) : GoesOk (execClPush k s) := by
  unfold execClPush
  split <;> simp [hw]

end Sys2Proof.Machine
end

section
/-! SUPPORT. Canonical memory under the end of a node, atomics, tickets and circular buffers. -/
namespace Sys2Proof.Machine
open Sys2Proof

@[simp] theorem State.freeCore_wf (s : State) (c : Nat) (hw : Memory.wf s.mem = true) :
    Memory.wf (s.freeCore c).mem = true := by simp [State.freeCore, hw]

@[simp] theorem State.atomicAt_wf (s : State) (pa n op : Nat) (a b : W64) (hw : Memory.wf s.mem = true) :
    Memory.wf (s.atomicAt pa n op a b).2.mem = true := by simp [State.atomicAt, hw]

@[simp] theorem State.atomicOp_goes (s : State) (sd : SR) (va : W64) (n op : Nat) (a b : W64)
    (hw : Memory.wf s.mem = true) : GoesOk (s.atomicOp sd va n op a b) := by
  unfold State.atomicOp
  dsimp only
  (repeat' split) <;> simp [hw]

@[simp] theorem State.setTicket_mem (s : State) (n : Nat) (t : Ticket) : (s.setTicket n t).mem = s.mem := by rfl

theorem State.tkGet_mem (s : State) (d : W64) : Yields (fun r => r.2.mem = s.mem) (s.tkGet d) := by
  unfold State.tkGet
  exact yields_bind fun _ _ => by simp

theorem State.tkNext_mem (s : State) (d : W64) : Yields (fun r => r.2.mem = s.mem) (s.tkNext d) := by
  unfold State.tkNext
  exact yields_bind fun _ _ => by simp

@[simp] theorem execTkGet_goes (sd sa : SR) (n : BitVec 8) (s : State) (hw : Memory.wf s.mem = true) :
    GoesOk (execTkGet sd sa n s) :=
  s.answer_goes _ hw ((s.tkGet_mem _).wf hw)

@[simp] theorem execTkNext_goes (sd sa : SR) (n : BitVec 8) (s : State) (hw : Memory.wf s.mem = true) :
    GoesOk (execTkNext sd sa n s) :=
  s.answer_goes _ hw ((s.tkNext_mem _).wf hw)

@[simp] theorem execTkWait_goes (sa sb : SR) (n : BitVec 8) (s : State) (hw : Memory.wf s.mem = true) :
    GoesOk (execTkWait sa sb n s) := by
  unfold execTkWait
  dsimp only
  (repeat' split) <;> simp [hw]

@[simp] theorem execCbPop_goes (sd : SR) (b : BitVec 3) (s : State) (hw : Memory.wf s.mem = true) :
    GoesOk (execCbPop sd b s) := by
  unfold execCbPop
  split <;> simp [hw]

@[simp] theorem execCbRel_goes (sa : SR) (n : BitVec 14) (b : BitVec 3) (s : State) (hw : Memory.wf s.mem = true) :
    GoesOk (execCbRel sa n b s) := by
  unfold execCbRel
  dsimp only
  (repeat' split) <;> simp [hw]

@[simp] theorem State.releaseSlot_mem (s : State) (core : Nat) (x : CBuf) : (s.releaseSlot core x).mem = s.mem := by rfl

end Sys2Proof.Machine
end

section
/-! SUPPORT. Canonical memory under the copy channels and the gather unit. -/
namespace Sys2Proof.Machine
open Sys2Proof

@[simp] theorem State.oweAll_mem (s : State) (w : Writer) (queue : Nat) (n : Notice) (spans : List (Nat × Nat)) :
    (s.oweAll w queue n spans).mem = s.mem := by simp [State.oweAll]

@[simp] theorem State.notify_mem (s : State) (w : Writer) (n : Notice) (lands : List Nat) :
    (s.notify w n lands).mem = s.mem := by simp [State.notify]

theorem State.pieceWrite_wf (s : State) (w : Writer) (dsts : List W64) (bytes : List Byte)
    (hw : Memory.wf s.mem = true) :
    Yields (fun r => Memory.wf r.2.mem = true) (s.pieceWrite w dsts bytes) := by
  unfold State.pieceWrite
  exact yields_bind fun ls _ => State.wf_foldl (fun t l ht => t.writeRuns_wf w l bytes ht) ls hw

theorem State.agLoad_mem (s : State) (c n : Nat) (off : W64) : Yields (fun r => r.mem = s.mem) (s.agLoad c n off) := by
  simp [State.agLoad]

theorem State.cbSetUp_mem (s : State) (c b : Nat) (w : W64) : Yields (fun r => r.mem = s.mem) (s.cbSetUp c b w) := by
  simp [State.cbSetUp]

theorem State.ownStart_mem (s : State) (c : Nat) (r : CopyRun) :
    Yields (fun r => ∀ q ∈ r, q.2.mem = s.mem) (s.ownStart c r) := by
  unfold State.ownStart
  dsimp only
  (repeat' split) <;> simp

theorem State.copyStart_mem (s : State) (c : Nat) (r : CopyRun) :
    Yields (fun r => ∀ q ∈ r, q.2.mem = s.mem) (s.copyStart c r) := by
  unfold State.copyStart
  refine (s.ownStart_mem c r).bind fun o ho => ?_
  split
  · simp
  · exact yields_bind fun _ _ => by simpa using ho

@[simp] theorem State.copyLanded_mem (s : State) (c ch : Nat) (r : CopyRun) : (s.copyLanded c ch r).2.mem = s.mem := by
  unfold State.copyLanded
  split <;> simp

theorem State.seqCommit_wf (s : State) (c ch : Nat) (r : CopyRun) (hw : Memory.wf s.mem = true) :
    Yields (fun r => Memory.wf r.2.mem = true) (s.seqCommit c ch r) := by
  unfold State.seqCommit
  refine yields_bind fun d _ => yields_bind fun _ _ => (s.commitSlot_wf d _ hw).bind fun ⟨busy, t⟩ ht => ?_
  cases busy
  · exact ht
  · exact hw

theorem State.onePiece_wf (s : State) (c ch : Nat) (r : CopyRun) (l : Lay) (hw : Memory.wf s.mem = true) :
    Yields (fun r => Memory.wf r.2.mem = true) (s.onePiece c ch r l) := by
  unfold State.onePiece
  refine yields_bind fun src _ => yields_bind fun dsts _ => yields_bind fun bytes _ => yields_bind fun _ _ =>
    (s.pieceWrite_wf _ _ _ hw).bind fun ⟨runs, t⟩ ht => ?_
  simpa using ht

theorem State.copyRun_wf (s : State) (c ch : Nat) (r : CopyRun) (hw : Memory.wf s.mem = true) :
    Yields (fun r => Memory.wf r.2.mem = true) (s.copyRun c ch r) := by
  unfold State.copyRun
  extract_lets l piece
  have hpiece : ∀ ind, Yields (fun r => Memory.wf r.2.mem = true) (piece ind) := fun ind => s.onePiece_wf c ch _ _ hw
  split
  · simp [hw]
  · split
    · split
      · exact yields_bind fun ind _ => hpiece ind
      · exact hpiece none
    · split
      · exact s.seqCommit_wf c ch r hw
      · exact hw

theorem State.chainFetch_mem (s : State) (c ch : Nat) (r : CopyRun) :
    Yields (fun r => r.2.mem = s.mem) (s.chainFetch c ch r) := by
  unfold State.chainFetch
  dsimp only
  split
  · rfl
  · split
    · trivial
    · refine yields_bind fun bs _ => ?_
      split
      · simp
      · split
        · trivial
        · exact yields_bind fun _ _ => by simp

theorem State.copyStep_wf (s : State) (c ch : Nat) (r : CopyRun) (hw : Memory.wf s.mem = true) :
    Yields (fun r => ∀ q ∈ r, Memory.wf q.2.mem = true) (s.copyStep c ch r) := by
  have hchain : Yields (fun q => Memory.wf q.2.mem = true) (s.chainFetch c ch r) :=
    (s.chainFetch_mem c ch r).imp fun q hq => hq.symm ▸ hw
  unfold State.copyStep
  split
  · exact (s.copyStart_mem c r).imp fun o ho q hq => (ho q hq).symm ▸ hw
  · extract_lets isChain
    refine yields_map.mpr (Yields.imp (P := fun q => Memory.wf q.2.mem = true) ?_ fun q hq => by simpa using hq)
    by_cases hc : (isChain && r.words.isEmpty) = true
    · rw [if_pos hc]; exact hchain
    · rw [if_neg hc]; exact s.copyRun_wf c ch r hw

@[simp] theorem State.chanFault_mem (s : State) (c ch : Nat) (r : CopyRun) (t : Trp) :
    (s.chanFault c ch r t).mem = s.mem := by
  unfold State.chanFault
  split <;> rfl

@[simp] theorem State.setHead_mem (s : State) (c ch : Nat) (r : CopyRun) : (s.setHead c ch r).mem = s.mem := by rfl

@[simp] theorem State.copyAdvance_wf (s : State) (c ch : Nat) (r : CopyRun) (hw : Memory.wf s.mem = true) :
    Memory.wf (s.copyAdvance c ch r).mem = true := by
  unfold State.copyAdvance
  split
  · simp [hw]
  · exact hw
  · simpa using (s.copyStep_wf c ch r hw).of_ok ‹_› _ rfl

@[simp] theorem execCopyPiece_goes (core unit : Nat) (s : State) (hw : Memory.wf s.mem = true) :
    GoesOk (execCopyPiece core unit s) := by
  unfold execCopyPiece
  dsimp only
  split
  · simp [hw]
  · split
    · simp [hw]
    · split
      · simp [hw]
      · exact (goesOk_next _).mpr (State.withWalks_wf _ _ _ _ hw fun t ht =>
          State.withReads_wf _ _ _ ht fun u hu => u.copyAdvance_wf core unit _ hu)

@[simp] theorem State.recordNext_mem (s : State) (c ch : Nat) (r : CopyRun) :
    (s.recordNext c ch r).mem = s.mem := by rfl

@[simp] theorem State.recordNotice_mem (s : State) (c ch : Nat) (r : CopyRun) (keep : Nat → Bool) :
    (s.recordNotice c ch r keep).mem = s.mem := by simp [State.recordNotice]

@[simp] theorem State.recordDone_wf (s : State) (c ch : Nat) (r : CopyRun) (keep : Nat → Bool)
    (hw : Memory.wf s.mem = true) : Memory.wf (s.recordDone c ch r keep).mem = true := by
  have hn : Memory.wf (s.recordNotice c ch r keep).mem = true := by simp [hw]
  unfold State.recordDone
  dsimp only
  split
  · simp [hw]
  · simpa using (State.pieceWrite_wf _ _ _ _ hn).of_ok ‹_›

@[simp] theorem State.copyDone_mem (s : State) (c ch : Nat) (r : CopyRun) (keep : Nat → Bool) :
    (s.copyDone c ch r keep).mem = s.mem := by simp [State.copyDone]

@[simp] theorem State.channelComplete_wf (s : State) (c ch : Nat) (keep : Nat → Bool) (hw : Memory.wf s.mem = true) :
    Memory.wf (s.channelComplete c ch keep).mem = true := by
  unfold State.channelComplete
  split <;> simp [hw]

theorem State.gWrite_wf (s : State) (c queue : Nat) (g : GQueue) (dst : W64) (bytes : List Byte)
    (hw : Memory.wf s.mem = true) :
    Yields (fun r => Memory.wf r.2.mem = true) (s.gWrite c queue g dst bytes) := by
  unfold State.gWrite
  exact yields_bind fun _ _ => (s.pieceWrite_wf _ _ _ hw).bind fun ⟨runs, t⟩ ht => by simpa using ht

@[simp] theorem State.gSlotLands_mem (s : State) (c : Nat) (g : GQueue) (b : List W64) (j : Nat) :
    (s.gSlotLands c g b j).mem = s.mem := by simp [State.gSlotLands]

theorem State.gMoveRow_wf (s : State) (c queue : Nat) (g : GQueue) (b : List W64) (hw : Memory.wf s.mem = true) :
    Yields (fun r => Memory.wf r.2.mem = true) (s.gMoveRow c queue g b) := by
  unfold State.gMoveRow
  refine yields_bind fun bytes _ => (s.gWrite_wf c queue g _ _ hw).bind fun ⟨g', t⟩ ht => ?_
  dsimp only at ht ⊢
  split <;> simp [ht]

theorem State.gBufPop_mem (s : State) (c : Nat) (g : GQueue) (b : List W64) (r pc : Nat) :
    Yields (fun r => ∀ q ∈ r, q.2.mem = s.mem) (s.gBufPop c g b r pc) := by
  unfold State.gBufPop
  refine yields_bind fun _ _ => ?_
  (repeat' split) <;> simp

theorem State.gPush_mem (s : State) (c : Nat) (g : GQueue) (r pc : Nat) :
    Yields (fun r => ∀ q ∈ r, q.2.mem = s.mem) (s.gPush c g r pc) := by
  unfold State.gPush
  split
  · trivial
  · split
    · exact yields_bind fun _ _ => by simp
    · split
      · exact s.gBufPop_mem c g _ r pc
      · simp

theorem State.gCombineRow_wf (s : State) (c queue : Nat) (g : GQueue) (b : List W64) (r : Nat)
    (hw : Memory.wf s.mem = true) :
    Yields (fun r => Memory.wf r.2.mem = true) (s.gCombineRow c queue g b r) := by
  unfold State.gCombineRow
  split
  · exact hw
  · refine (s.gWrite_wf c queue g _ _ hw).bind fun ⟨g', t⟩ ht => ?_
    dsimp only at ht ⊢
    split <;> simp [ht]

theorem State.gZeroFill_wf (s : State) (c queue : Nat) (g : GQueue) (b : List W64) (hw : Memory.wf s.mem = true) :
    Yields (fun r => Memory.wf r.2.mem = true) (s.gZeroFill c queue g b) := by
  unfold State.gZeroFill
  refine (s.gWrite_wf c queue g _ _ hw).bind fun ⟨g', t⟩ ht => ?_
  dsimp only at ht ⊢
  split <;> simp [ht]

@[simp] theorem State.gLanded_mem (s : State) (c q : Nat) (g : GQueue) : (s.gLanded c q g).2.mem = s.mem := by
  unfold State.gLanded
  split <;> simp

theorem State.gClose_wf (s : State) (c queue : Nat) (g : GQueue) (hw : Memory.wf s.mem = true) :
    Yields (fun r => Memory.wf r.2.mem = true) (s.gClose c queue g) := by
  have hland : Memory.wf (s.gLanded c queue g).2.mem = true := by simp [hw]
  unfold State.gClose
  split
  · exact hland
  · split
    · split
      · exact s.gCombineRow_wf c queue g _ _ hw
      · exact hland
    · split
      · exact yields_map.mpr (yields_of_forall fun _ => hland)
      · split
        · exact s.gMoveRow_wf c queue g _ hw
        · split
          · exact s.gZeroFill_wf c queue g _ hw
          · exact hland

theorem State.gStep_wf (s : State) (c q : Nat) (g : GQueue) (hw : Memory.wf s.mem = true) :
    Yields (fun r => ∀ x ∈ r, Memory.wf x.2.mem = true) (s.gStep c q g) := by
  have some_ : ∀ {r : Except Trp (GQueue × State)}, Yields (fun x => Memory.wf x.2.mem = true) r →
      Yields (fun r => ∀ x ∈ r, Memory.wf x.2.mem = true) (r.map some) := fun h =>
    yields_map.mpr (h.imp fun x hx => by simpa using hx)
  unfold State.gStep
  split
  · exact some_ (s.gClose_wf c q g hw)
  · split
    · exact some_ (s.gMoveRow_wf c q g _ hw)
    · split
      · simp
      · exact (s.gPush_mem c g _ _).imp fun o ho x hx => (ho x hx).symm ▸ hw
      · simp [hw]
      · split
        · simp [hw]
        · exact yields_bind fun b _ => by simp [hw]

@[simp] theorem State.gAdvance_wf (s : State) (c q : Nat) (g : GQueue) (hw : Memory.wf s.mem = true) :
    Memory.wf (s.gAdvance c q g).mem = true := by
  unfold State.gAdvance
  split
  · simp [hw]
  · exact hw
  · simpa using (s.gStep_wf c q g hw).of_ok ‹_› _ rfl

@[simp] theorem execGatherRow_goes (core queue : Nat) (s : State) (hw : Memory.wf s.mem = true) :
    GoesOk (execGatherRow core queue s) := by
  unfold execGatherRow
  dsimp only
  split
  · simp [hw]
  · exact (goesOk_next _).mpr (State.withWalks_wf _ _ _ _ hw fun t ht =>
      State.withReads_wf _ _ _ ht fun u hu => u.gAdvance_wf core queue _ hu)

@[simp] theorem State.gatherComplete_mem (s : State) (c q : Nat) (keep : Nat → Bool) :
    (s.gatherComplete c q keep).mem = s.mem := by
  unfold State.gatherComplete
  dsimp only
  (repeat' split) <;> simp

end Sys2Proof.Machine
end

section
/-! SUPPORT. Canonical memory under the matrix engine and the accumulator copies. -/
namespace Sys2Proof.Machine
open Sys2Proof

@[simp] theorem execDsetMem_goes (n : BitVec 4) (sa : SR) (off : BitVec 20) (s : State) (hw : Memory.wf s.mem = true) :
    GoesOk (execDsetMem n sa off s) := by
  unfold execDsetMem
  split <;> simp [hw]

@[simp] theorem execMucode_goes (sa : SR) (count1 n : BitVec 6) (s : State) (hw : Memory.wf s.mem = true) :
    GoesOk (execMucode sa count1 n s) := by
  unfold execMucode
  split <;> simp [hw]

theorem State.dsetAct_mem (s : State) (c n : Nat) (a : W64) : Yields (fun r => r.mem = s.mem) (s.dsetAct c n a) := by
  simp [State.dsetAct]

theorem State.mucodeAct_mem (s : State) (c n count : Nat) (a : W64) :
    Yields (fun r => r.mem = s.mem) (s.mucodeAct c n count a) := by
  unfold State.mucodeAct
  exact yields_bind fun _ _ => by simp

theorem State.mscaAct_mem (s : State) (c : Nat) (e : QEntry) (n : Nat) (explicit : Option Nat) :
    Yields (fun r => r.mem = s.mem) (s.mscaAct c e n explicit) := by
  unfold State.mscaAct
  dsimp only
  split
  · trivial
  · exact yields_bind fun _ _ => yields_bind fun _ _ => by simp

theorem State.callStart_mem (s : State) (c : Nat) (e : QEntry) (r : Nat) :
    Yields (fun r => r.mem = s.mem) (s.callStart c e r) := by
  unfold State.callStart
  dsimp only
  (repeat' split) <;> simp

theorem State.matrixAct_mem (s : State) (c : Nat) (e : QEntry) : Yields (fun t => t.mem = s.mem) (s.matrixAct c e) := by
  unfold State.matrixAct
  split
  case h_1 => exact s.callStart_mem c e _
  case h_4 => simpa using State.dsetAct_mem (s.untag c _) c _ _
  case h_9 => exact s.mscaAct_mem c e _ _
  case h_14 => exact s.mucodeAct_mem c _ _ _
  all_goals simp

theorem State.micro_goes (s : State) (stopHere : Call → Bool) {f : Call → Except Trp (Option Call × State)}
    (hw : Memory.wf s.mem = true) (hf : ∀ x, Yields (fun r => r.2.mem = s.mem) (f x)) :
    GoesOk (s.micro stopHere f) := by
  unfold State.micro
  dsimp only
  split
  · simp [hw]
  · split
    · simp [hw]
    · split
      · simp [hw]
      · rename_i y t heq
        have ht : t.mem = s.mem := (hf _).of_ok heq
        simp [ht, hw]

@[simp] theorem execLdw_goes (gr : Bool) (s : State) (hw : Memory.wf s.mem = true) : GoesOk (execLdw gr s) :=
  s.micro_goes _ hw fun _ => yields_bind fun _ _ => rfl

theorem State.strmPass_mem (s : State) (c : Nat) (x : Call) : Yields (fun r => r.2.mem = s.mem) (s.strmPass c x) := by
  unfold State.strmPass
  split
  · simp
  · split
    · simp
    · exact yields_bind fun elems _ => by simp

@[simp] theorem execStrm_goes (s : State) (hw : Memory.wf s.mem = true) : GoesOk (execStrm s) :=
  s.micro_goes _ hw fun x => s.strmPass_mem s.cur x

@[simp] theorem execAcc_goes (a : BitVec 3) (imm : BitVec 8) (s : State) (hw : Memory.wf s.mem = true) :
    GoesOk (execAcc a imm s) :=
  s.micro_goes _ hw fun _ => rfl

@[simp] theorem execGrade_goes (s : State) (hw : Memory.wf s.mem = true) : GoesOk (execGrade s) :=
  s.micro_goes _ hw fun _ => rfl

@[simp] theorem execTail_goes (a : BitVec 3) (s : State) (hw : Memory.wf s.mem = true) : GoesOk (execTail a s) :=
  s.micro_goes _ hw fun x => by
    dsimp only
    split
    · trivial
    · exact yields_bind fun _ _ => yields_bind fun _ _ => rfl

@[simp] theorem execBound_goes (s : State) (hw : Memory.wf s.mem = true) : GoesOk (execBound s) :=
  s.micro_goes _ hw fun _ => s.modCur_mem _

@[simp] theorem execXmax_goes (s : State) (hw : Memory.wf s.mem = true) : GoesOk (execXmax s) :=
  s.micro_goes _ hw fun x => by
    split
    · rfl
    · exact yields_bind fun _ _ => rfl

@[simp] theorem execBlk_goes (s : State) (hw : Memory.wf s.mem = true) : GoesOk (execBlk s) :=
  s.micro_goes _ hw fun _ => by simp

@[simp] theorem execSeta_goes (planes : Bool) (s : State) (hw : Memory.wf s.mem = true) : GoesOk (execSeta planes s) :=
  s.micro_goes _ hw fun x => by
    dsimp only
    (repeat' split) <;> simp

@[simp] theorem execLoop_goes (pos : BitVec 6) (s : State) (hw : Memory.wf s.mem = true) : GoesOk (execLoop pos s) :=
  s.micro_goes _ hw fun _ => rfl

@[simp] theorem execBrz_goes (pos : BitVec 6) (s : State) (hw : Memory.wf s.mem = true) : GoesOk (execBrz pos s) :=
  s.micro_goes _ hw fun _ => rfl

@[simp] theorem execUend_goes (s : State) (hw : Memory.wf s.mem = true) : GoesOk (execUend s) :=
  s.micro_goes _ hw fun _ => rfl

@[simp] theorem State.microBad_mem (s : State) (c : Nat) : (s.microBad c).mem = s.mem := by
  unfold State.microBad
  dsimp only
  (repeat' split) <;> simp

@[simp] theorem execAcpyOut_goes (n : BitVec 4) (sr sn : SR) (upd : Bool) (cvc : BitVec 2) (flag : BitVec 4)
    (post raw wrap : Bool) (rm : BitVec 3) (s : State)
    (hw : Memory.wf s.mem = true) : GoesOk (execAcpyOut n sr sn upd cvc flag post raw wrap rm s) := by
  unfold execAcpyOut
  split <;> simp [hw]

@[simp] theorem execAcpyIn_goes (n : BitVec 4) (sr : SR) (flag : BitVec 4) (accum post raw : Bool) (s : State)
    (hw : Memory.wf s.mem = true) : GoesOk (execAcpyIn n sr flag accum post raw s) := by
  unfold execAcpyIn
  split <;> simp [hw]

theorem State.acpyStart_mem (s : State) (c : Nat) (e : QEntry) (o : AcpyOp) :
    Yields (fun r => r.mem = s.mem) (s.acpyStart c e o) := by
  unfold State.acpyStart
  dsimp only
  split
  · trivial
  · exact yields_bind fun _ _ => s.modCore_mem c _

theorem State.acpyWrite_wf (s : State) (w : Writer) (pa : Nat) (va : W64) (parts : List (Nat × List Byte))
    (hw : Memory.wf s.mem = true) :
    Yields (fun t => Memory.wf t.mem = true) (s.acpyWrite w pa va parts) := by
  unfold State.acpyWrite
  split
  · trivial
  · split
    · trivial
    · exact State.wf_foldl (fun t p ht => by simp [ht, Memory.wf_write]) parts hw

theorem State.acpyOutRow_wf (s : State) (c : Nat) (r : AcpyRun) (o : AcpyOp) (rm : Nat) (wrap : Bool) (pa : Nat)
    (va : W64)
    (hw : Memory.wf s.mem = true) : Yields (fun r => Memory.wf r.2.mem = true) (s.acpyOutRow c r o rm wrap pa va) := by
  unfold State.acpyOutRow
  split
  · exact hw
  · exact yields_bind fun zs _ => (s.acpyWrite_wf _ _ _ _ hw).bind fun t ht => by simp [ht]

theorem State.acpyRawRow_wf (s : State) (c : Nat) (r : AcpyRun) (pa : Nat) (va : W64) (hw : Memory.wf s.mem = true) :
    Yields (fun t => Memory.wf t.mem = true) (s.acpyRawRow c r pa va) := s.acpyWrite_wf _ _ _ _ hw

theorem State.acpyInRow_mem (s : State) (c : Nat) (r : AcpyRun) (pa : Nat) :
    Yields (fun r => r.mem = s.mem) (s.acpyInRow c r pa) := by
  unfold State.acpyInRow
  exact yields_bind fun _ _ => by simp

theorem State.acpyRow_wf (s : State) (c : Nat) (r : AcpyRun) (hw : Memory.wf s.mem = true) :
    Yields (fun r => Memory.wf r.2.mem = true) (s.acpyRow c r) := by
  have hraw : ∀ pa va,
      Yields (fun q : AcpyRun × State => Memory.wf q.2.mem = true) ((s.acpyRawRow c r pa va).map fun t => (r, t)) :=
    fun pa va => yields_map.mpr (s.acpyRawRow_wf c r pa va hw)
  have hin : ∀ pa,
      Yields (fun q : AcpyRun × State => Memory.wf q.2.mem = true) ((s.acpyInRow c r pa).map fun t => (r, t)) :=
    fun pa => yields_map.mpr ((s.acpyInRow_mem c r pa).imp fun t ht => ht.symm ▸ hw)
  unfold State.acpyRow
  extract_lets pa va i next
  have hnext : ∀ q : AcpyRun × State,
      Memory.wf q.2.mem = true → Yields (fun r => Memory.wf r.2.mem = true) (next q) := fun q hq => hq
  split
  · split
    · exact (hraw pa va).bind hnext
    · exact (s.acpyOutRow_wf c r _ _ _ pa va hw).bind hnext
  · split
    · split
      exact hnext (r, _) ((State.setSat_mem _ c _).symm ▸ hw)
    · exact (hin pa).bind hnext
  · exact hnext (r, s) hw

@[simp] theorem State.acpyStep_wf (s : State) (c : Nat) (hw : Memory.wf s.mem = true) :
    Memory.wf (s.acpyStep c).mem = true := by
  unfold State.acpyStep
  dsimp only
  split
  · exact hw
  · split
    · exact hw
    · split
      · simp [hw]
      · split
        · simp [hw]
        · simpa using (s.acpyRow_wf c _ hw).of_ok ‹_›

end Sys2Proof.Machine
end

section
/-! SUPPORT. Canonical memory under control, groups and holds. -/
namespace Sys2Proof.Machine
open Sys2Proof

@[simp] theorem State.branchTo_goes (s : State) (t : Int) (hw : Memory.wf s.mem = true) : GoesOk (s.branchTo t) := by
  unfold State.branchTo
  split <;> simp [hw]

@[simp] theorem execCall_goes (off : BitVec 35) (s : State) (hw : Memory.wf s.mem = true) :
    GoesOk (execCall off s) := by
  unfold execCall
  dsimp only
  (repeat' split) <;> simp [hw]

@[simp] theorem State.indirect_goes (s : State) (sd sa : SR) (hw : Memory.wf s.mem = true) :
    GoesOk (s.indirect sd sa) := by
  unfold State.indirect
  dsimp only
  (repeat' split) <;> simp [hw]

@[simp] theorem execBrLoop_goes (cnt : SR) (stages : BitVec 4) (off : BitVec 25) (s : State)
    (hw : Memory.wf s.mem = true) : GoesOk (execBrLoop cnt stages off s) := by
  unfold execBrLoop
  dsimp only
  (repeat' split) <;> simp [hw]

@[simp] theorem execLbPin_goes (n1 : SR) (off : BitVec 25) (s : State) (hw : Memory.wf s.mem = true) :
    GoesOk (execLbPin n1 off s) := by
  unfold execLbPin
  dsimp only
  (repeat' split) <;> simp [hw]

@[simp] theorem State.putSaved_wf (s : State) (v : SavedCore) (l : List (Nat × W64)) (hw : Memory.wf s.mem = true) :
    Memory.wf (s.putSaved v l).mem = true := by simp [State.putSaved, hw]

@[simp] theorem State.wakeGroup_wf (s : State) (gid : Nat) (e : GroupEntry) (hw : Memory.wf s.mem = true) :
    Memory.wf (s.wakeGroup gid e).mem = true :=
  State.wf_foldl (fun t v ht => t.putSaved_wf v _ ht) s.saved hw

@[simp] theorem State.groupArrive_wf (s : State) (gid : Nat) (e : GroupEntry) (hw : Memory.wf s.mem = true) :
    Memory.wf (s.groupArrive gid e).mem = true := by simp [State.groupArrive, hw]

@[simp] theorem execGBar_goes (j : BitVec 2) (s : State) (hw : Memory.wf s.mem = true) : GoesOk (execGBar j s) := by
  unfold execGBar
  split <;> simp [hw]

@[simp] theorem execGRed_goes (sd sa sb : SR) (op : BitVec 3) (j : BitVec 2) (s : State) (hw : Memory.wf s.mem = true) :
    GoesOk (execGRed sd sa sb op j s) := by
  unfold execGRed
  split <;> simp [hw]

@[simp] theorem execGInfo_goes (sd : SR) (j : BitVec 2) (s : State) (hw : Memory.wf s.mem = true) :
    GoesOk (execGInfo sd j s) := by
  unfold execGInfo
  split <;> simp [hw]

@[simp] theorem State.plainHold_goes (s : State) (i : Instr) (hw : Memory.wf s.mem = true) :
    GoesOk (s.plainHold i) := by
  simp [State.plainHold, hw]

@[simp] theorem execFlPostR_goes (sa sb : SR) (flag : BitVec 4) (imm : BitVec 12) (s : State)
    (hw : Memory.wf s.mem = true) : GoesOk (execFlPostR sa sb flag imm s) := by
  unfold execFlPostR
  split <;> simp [hw]

@[simp] theorem execFlagPostArrive_goes (k : Nat) (s : State) (hw : Memory.wf s.mem = true) :
    GoesOk (execFlagPostArrive k s) := by
  unfold execFlagPostArrive
  split <;> simp [hw]

@[simp] theorem execRdv_goes (j : BitVec 2) (s : State) (hw : Memory.wf s.mem = true) : GoesOk (execRdv j s) := by
  unfold execRdv
  split <;> simp [hw]

@[simp] theorem State.untagAll_mem (s : State) (c : Nat) (mask : BitVec 16) : (s.untagAll c mask).mem = s.mem := by
  simp [State.untagAll]

@[simp] theorem State.evalHold_mem (s : State) (c : Nat) (h : Hold) : (s.evalHold c h).mem = s.mem := by
  obtain ⟨i, slot, seq, a, b, dst, stage, mark, addr, ended⟩ := h
  cases i
  case wtagClr => unfold State.evalHold; dsimp only; split <;> simp
  case fenceSc | barWait | gRed => unfold State.evalHold; dsimp only; (repeat' split) <;> rfl
  case flWait | fenceX | step | cbPop | seg | rdv => unfold State.evalHold; dsimp only; split <;> rfl
  case wait | wtag | drain | tkWait | barPar | gBar | segOff => unfold State.evalHold; dsimp only; split <;> rfl
  all_goals rfl

@[simp] theorem execSyncHoldRelease_goes (core : Nat) (s : State) (hw : Memory.wf s.mem = true) :
    GoesOk (execSyncHoldRelease core s) := by
  unfold execSyncHoldRelease
  dsimp only
  (repeat' split) <;> simp [hw]

end Sys2Proof.Machine
end

section
/-! SUPPORT. Canonical memory under links, and the departure of the op at a head of a queue. -/
namespace Sys2Proof.Machine
open Sys2Proof

theorem State.sendStart_mem (s : State) (c : Nat) (e : QEntry) (fp : Bool) :
    Yields (fun r => ∀ q ∈ r, q.mem = s.mem) (s.sendStart c e fp) := by
  unfold State.sendStart
  split <;> simp

theorem State.recvStart_mem (s : State) (c : Nat) (e : QEntry) (r : BitVec 3) (sync : BitVec 4) (st fp bc : Bool) :
    Yields (fun r => ∀ q ∈ r, q.mem = s.mem) (s.recvStart c e r sync st fp bc) := by simp [State.recvStart]

theorem State.tideLoad_mem (s : State) (c q : Nat) (off : W64) :
    Yields (fun r => r.mem = s.mem) (s.tideLoad c q off) := by simp [State.tideLoad]

theorem State.circLoad_mem (s : State) (c : Nat) (off : W64) : Yields (fun r => r.mem = s.mem) (s.circLoad c off) := by
  unfold State.circLoad
  (repeat' split) <;> simp

theorem State.parkSet_mem (s : State) (c q : Nat) (w : W64) : Yields (fun r => r.mem = s.mem) (s.parkSet c q w) := by
  simp [State.parkSet]

theorem State.rateSet_mem (s : State) (c q : Nat) (w : W64) : Yields (fun r => r.mem = s.mem) (s.rateSet c q w) := by
  simp [State.rateSet]

theorem State.linkAct_mem (s : State) (c : Nat) (e : QEntry) :
    Yields (fun r => ∀ q ∈ r, q.mem = s.mem) (s.linkAct c e) := by
  unfold State.linkAct
  extract_lets act
  have hact : ∀ {r : Except Trp State},
      Yields (fun t => t.mem = s.mem) r → Yields (fun r => ∀ q ∈ r, q.mem = s.mem) (act r) :=
    fun {r} hr => by
      cases r with
      | error e => simp [act]
      | ok t => simpa [act] using hr
  split
  · exact s.sendStart_mem c e _
  · exact s.recvStart_mem c e _ _ _ _ _
  · simp
  · exact hact (s.tideLoad_mem c _ _)
  · exact hact (s.circLoad_mem c _)
  · exact hact (s.parkSet_mem c _ _)
  · exact hact (s.rateSet_mem c _ _)
  · simp

@[simp] theorem State.onLeave_mem (s : State) (c : Nat) (e : QEntry) : (s.onLeave c e).mem = s.mem := by
  unfold State.onLeave
  split <;> simp

/-- A departure that leaves a state leaves one with P. -/
def Depart.Leaves (P : State → Prop) : Depart → Prop
  | .leaves t => P t
  | _ => True

theorem departOf_leaves {P : State → Prop} {r : Except Trp State} (unit queue : Nat) (h : Yields P r) :
    (departOf unit queue r).Leaves P := by
  cases r with
  | error t => trivial
  | ok t => exact h

theorem State.atMatrix_leaves {P : State → Prop} {act : Except Trp State} (s : State) (c : Nat) (e : QEntry)
    (h : Yields P act) :
    (s.atMatrix c e act).Leaves P := by
  unfold State.atMatrix
  split
  · split <;> trivial
  · exact departOf_leaves 0 0 h

theorem State.departM_leaves (s : State) (c : Nat) (e : QEntry) : (s.departM c e).Leaves fun t => t.mem = s.mem := by
  unfold State.departM
  split
  · trivial
  · split
    · exact s.atMatrix_leaves c e (s.matrixAct_mem c e)
    · split
      · trivial
      · exact departOf_leaves 0 0 (s.matrixAct_mem c e)

theorem State.departChan_leaves (s : State) (c : Nat) (other : List QEntry) (e : QEntry) (ch : Nat) :
    (s.departChan c other e ch).Leaves fun t => t.mem = s.mem := by
  unfold State.departChan
  dsimp only
  split
  · trivial
  · exact s.modCore_mem c _

theorem State.departGather_leaves (s : State) (c : Nat) (other : List QEntry) (e : QEntry) (q : Nat) :
    (s.departGather c other e q).Leaves fun t => t.mem = s.mem := by
  unfold State.departGather
  extract_lets k full
  split
  · trivial
  · exact s.modCore_mem c _

theorem State.departLink_leaves (s : State) (c : Nat) (own : List QEntry) (e : QEntry) :
    (s.departLink c own e).Leaves fun t => t.mem = s.mem := by
  unfold State.departLink
  split
  · trivial
  · split
    · trivial
    · trivial
    · exact (s.linkAct_mem c e).of_ok ‹_› _ rfl

theorem State.departC_leaves (s : State) (c q : Nat) (other : List QEntry) (e : QEntry) :
    (s.departC c q other e).Leaves fun t => t.mem = s.mem := by
  unfold State.departC
  extract_lets k tagged
  split
  · trivial
  · split
    · split
      · trivial
      · exact s.atMatrix_leaves c e (s.acpyStart_mem c e _)
    · exact s.departChan_leaves c other e _
    · exact s.departGather_leaves c other e _
    · split
      · exact s.modCore_mem c _
      · exact departOf_leaves 11 q (s.agLoad_mem c _ _)
      · exact departOf_leaves 11 q (s.cbSetUp_mem c _ _)
      · exact s.departLink_leaves c _ e

theorem State.departAt_leaves (s : State) (core queue : Nat) (e : QEntry) :
    (s.departAt core queue e).Leaves fun t => t.mem = s.mem := by
  unfold State.departAt
  dsimp only
  split
  · exact s.departM_leaves core e
  · exact s.departC_leaves core _ _ e

@[simp] theorem State.departFirst_mem (s : State) (core queue : Nat) (l : List QEntry) :
    (s.departFirst core queue l).mem = s.mem := by
  induction l with
  | nil => rfl
  | cons e l ih =>
    have hu := s.onLeave_mem core e
    have hd := (s.onLeave core e).departAt_leaves core queue e
    unfold State.departFirst
    dsimp only
    split
    case h_5 heq =>
      rw [heq] at hd
      exact (State.modCore_mem _ _ _).trans (Eq.trans hd hu)
    all_goals simp [ih]

end Sys2Proof.Machine
end

section
/-! SUPPORT. Canonical memory under the front end, and under settling: faults of a bundle and the run of
its ops. An op's meaning is a parameter there, of which only that it goes on is used. -/
namespace Sys2Proof.Machine
open Sys2Proof

@[simp] theorem State.present_mem (s : State) (c : Nat) (ops : List SlotOp) (next : Nat) (answered : Bool) :
    (s.present c ops next answered).mem = s.mem := by rfl

@[simp] theorem State.takeStall_wf (s : State) (c t info : Nat) (hw : Memory.wf s.mem = true) :
    Memory.wf (s.takeStall c t info).mem = true := by simp [State.takeStall, hw]

@[simp] theorem State.countTo_mem (s : State) (d : Nat) : (s.countTo d).mem = s.mem := by simp [State.countTo]

@[simp] theorem State.passTo_wf (s : State) (d : Nat) (hw : Memory.wf s.mem = true) :
    Memory.wf (s.passTo d).mem = true :=
  State.wf_foldl (f := fun t (q : Nat × Nat × Nat) => t.takeStall q.2.1 q.2.2 (s.linkStallInfo q.2.1 q.2.2))
    (fun t q ht => t.takeStall_wf _ _ _ ht) _ (by simpa using hw)

@[simp] theorem State.takeEngine_wf (s : State) (c : Nat) (f : EFault) (pc slot : Nat) (hw : Memory.wf s.mem = true) :
    Memory.wf (s.takeEngine c f pc slot).mem = true := by simp [State.takeEngine, hw]

@[simp] theorem State.considerOps_wf (s : State) (c : Nat) (ops : List SlotOp) (next : Nat) (answered : Bool)
    (hw : Memory.wf s.mem = true) : Memory.wf (s.considerOps c ops next answered).mem = true := by
  have hp : Memory.wf (s.withWalks c 0 .cp (s.bundleVas c ops next) fun t => t.present c ops next false).mem = true :=
    State.withWalks_wf _ _ _ _ hw fun t ht => by simp [ht]
  unfold State.considerOps
  dsimp only
  split
  · simp [hw]
  · split
    · simp [hw]
    · simp [hw, hp]

@[simp] theorem State.considerBundle_wf (s : State) (c : Nat) (answered : Bool) (hw : Memory.wf s.mem = true) :
    Memory.wf (s.considerBundle c answered).mem = true := by
  unfold State.considerBundle
  dsimp only
  (repeat' split) <;> simp [hw]

@[simp] theorem State.atHold_wf (s : State) (c : Nat) (h : Hold) (hw : Memory.wf s.mem = true) :
    Memory.wf (s.atHold c h).mem = true := by
  unfold State.atHold
  (repeat' split) <;> simp [hw]

@[simp] theorem State.takeUncorr_wf (s : State) (c : Nat) (q : Nat × Nat) (hw : Memory.wf s.mem = true) :
    Memory.wf (s.takeUncorr c q).mem = true := by simp [State.takeUncorr, hw]

@[simp] theorem State.takeAsync_wf (s : State) (c : Nat) (a : TrapCode × W64) (hw : Memory.wf s.mem = true) :
    Memory.wf (s.takeAsync c a).mem = true := by simp [State.takeAsync, hw]

@[simp] theorem State.boundary_wf (s : State) (c : Nat) (hw : Memory.wf s.mem = true) :
    Memory.wf (s.boundary c).mem = true := by
  unfold State.boundary
  dsimp only
  (repeat' split) <;> simp [hw]

section
variable {run : Instr → State → Out3}

theorem State.trapOf_wf (hrun : ∀ i t, Memory.wf t.mem = true → GoesOk (run i t)) (s : State) (o : SlotOp)
    (hw : Memory.wf s.mem = true) : ∀ q ∈ s.trapOf run o, Memory.wf q.mem = true := by
  obtain ⟨t, ht, hwt⟩ := hrun o.instr (s.tryOf o) hw
  unfold State.trapOf
  rw [ht]
  dsimp only
  split
  · simp
  · simpa using hwt

theorem State.coreFault_wf (hrun : ∀ i t, Memory.wf t.mem = true → GoesOk (run i t)) (s : State) (o : SlotOp)
    (hw : Memory.wf s.mem = true) : ∀ q ∈ s.coreFault run o, Memory.wf q.mem = true := by
  have htaken : ∀ x : Option Trp,
      ∀ q ∈ x.map fun t => s.trapAt s.iss.core t s.iss.pcb o.slot, Memory.wf q.mem = true := by
    intro x q hq
    obtain ⟨t, _, rfl⟩ := Option.mem_map.mp hq
    simp [hw]
  unfold State.coreFault
  dsimp only
  split
  · simp
  · split
    · exact htaken _
    · split
      · exact htaken _
      · exact s.trapOf_wf hrun o hw

theorem State.bundleFault_wf (hrun : ∀ i t, Memory.wf t.mem = true → GoesOk (run i t)) (s : State)
    (hw : Memory.wf s.mem = true) : ∀ q ∈ s.bundleFault run, Memory.wf q.mem = true := by
  have found : ∀ (l : List SlotOp) (f : SlotOp → Option State), (∀ o, ∀ q ∈ f o, Memory.wf q.mem = true) →
      ∀ q ∈ l.findSome? f, Memory.wf q.mem = true := fun l f hf q hq => by
    obtain ⟨o, _, ho⟩ := List.exists_of_findSome?_eq_some hq
    exact hf o q ho
  have either : ∀ x y : Option State, (∀ q ∈ x, Memory.wf q.mem = true) → (∀ q ∈ y, Memory.wf q.mem = true) →
      ∀ q ∈ x.orElse fun _ => y, Memory.wf q.mem = true := fun x y hx hy => by
    cases x
    · exact hy
    · exact hx
  have tried : ∀ (c : Bool) (o : SlotOp),
      ∀ q ∈ (if c then s.trapOf run o else none), Memory.wf q.mem = true := fun c o => by
    cases c
    · simp
    · exact s.trapOf_wf hrun o hw
  exact either _ _ (found _ _ fun o => s.coreFault_wf hrun o hw)
    (either _ _ (found _ _ fun o => tried _ o) (found _ _ fun o => tried _ o))

@[simp] theorem State.takeBreak_wf (s : State) (m : Nat) (hw : Memory.wf s.mem = true) :
    Memory.wf (s.takeBreak m).mem = true := by simp [State.takeBreak, hw]

@[simp] theorem State.issue_mem (s : State) (hit : Option Nat) : (s.issue hit).mem = s.mem := by simp [State.issue]

theorem runOps_goes (hrun : ∀ i t, Memory.wf t.mem = true → GoesOk (run i t)) (l : List SlotOp) (s : State)
    (hw : Memory.wf s.mem = true) : GoesOk (runOps run l s) := by
  induction l generalizing s with
  | nil => simp [runOps, hw]
  | cons o l ih =>
    obtain ⟨t, ht, hwt⟩ := hrun o.instr { s with iss := { s.iss with slot := o.slot } } hw
    unfold runOps
    rw [ht]
    dsimp only
    split
    · exact ih _ hwt
    · exact (goesOk_next t).mpr hwt

theorem State.settleFaults_goes (hrun : ∀ i t, Memory.wf t.mem = true → GoesOk (run i t)) (s : State) (hit : Option Nat)
    (hw : Memory.wf s.mem = true) : GoesOk (s.settleFaults run hit) := by
  unfold State.settleFaults
  dsimp only
  split
  · exact (goesOk_next _).mpr (s.bundleFault_wf hrun hw _ ‹_›)
  · split
    · simp [hw]
    · split
      · simp [hw]
      · exact runOps_goes hrun _ _ (by simp [hw])

theorem State.settle_goes (hrun : ∀ i t, Memory.wf t.mem = true → GoesOk (run i t)) (s : State)
    (hw : Memory.wf s.mem = true) : GoesOk (s.settle run) := by
  unfold State.settle
  split
  · simp [hw]
  · split
    · split
      · simp [hw]
      · exact s.settleFaults_goes hrun _ hw
    · exact s.settleFaults_goes hrun _ hw

end

end Sys2Proof.Machine
end

section
/-! SUPPORT. Canonical memory under the dispatcher, the context-save engine and frames. -/
namespace Sys2Proof.Machine
open Sys2Proof

@[simp] theorem State.disarmAll_mem (s : State) (c : Nat) : (s.disarmAll c).mem = s.mem := by simp [State.disarmAll]

@[simp] theorem State.copyOperands_wf (s : State) (c : Nat) (l : List (W64 × Nat × Nat)) (hw : Memory.wf s.mem = true) :
    Memory.wf (s.copyOperands c l).1.mem = true := by
  induction l generalizing s with
  | nil => exact hw
  | cons x l ih =>
    unfold State.copyOperands
    split
    · exact ih s hw
    · split
      · exact hw
      · exact ih _ (by simp [hw, Memory.wf_write])

@[simp] theorem State.copyImages_wf (s : State) (c : Nat) (p : PoolNode) (r : NodeRec) (h : KernelHeader)
    (hw : Memory.wf s.mem = true) : Memory.wf (s.copyImages c p r h).1.mem = true := by
  unfold State.copyImages
  split
  · exact hw
  · exact State.copyOperands_wf _ _ _ (by simp [hw, Memory.wf_write])

@[simp] theorem State.startCore_mem (s : State) (c : Nat) (r : NodeRec) (h : KernelHeader) (dict code : List Nat) :
    (s.startCore c r h dict code).mem = s.mem := by rfl

@[simp] theorem State.takePartner_mem (s : State) (ctx c : Nat) : (s.takePartner ctx c).mem = s.mem := by
  simp [State.takePartner]

@[simp] theorem State.dispatchTo_wf (s : State) (p : PoolNode) (c : Nat) (hw : Memory.wf s.mem = true) :
    Memory.wf (s.dispatchTo p c).1.mem = true := by
  unfold State.dispatchTo
  dsimp only
  split
  · exact hw
  · split
    · exact hw
    · split
      · exact hw
      · have ht := (s.rootPut_wf _ _ _ hw).of_ok ‹_›
        split
        · exact ht
        · rename_i r _ _ _ t _ _ h _ _ _
          have hi := State.copyImages_wf
            ((t.disarmAll c).setCore c ((t.core c).dispatched p ((t.ctx p.ctx).elim 0 (·.ccb)))) c p r h (by simpa using ht)
          split
          all_goals
            rename_i hc
            rw [hc] at hi
            simpa using hi

@[simp] theorem State.dispatchNode_wf (s : State) (p : PoolNode) (c : Nat) (hw : Memory.wf s.mem = true) :
    Memory.wf (s.dispatchNode p c).mem = true := by
  have h := s.dispatchTo_wf p c hw
  unfold State.dispatchNode
  split
  all_goals
    rename_i heq
    rw [heq] at h
  · exact h
  · simp [show Memory.wf (_ : State).mem = true from h]

theorem State.chooseSeat_mem (s : State) (p : PoolNode) (but : List Nat) :
    ∀ q ∈ (s.chooseSeat p but), q.2.mem = s.mem := by simp [State.chooseSeat]

theorem State.chooseSeats_mem (s : State) (but : List Nat) (l : List PoolNode) :
    ∀ q ∈ s.chooseSeats but l, q.2.mem = s.mem := by
  induction l generalizing s but with
  | nil => simp [State.chooseSeats]
  | cons p l ih =>
    intro q hq
    unfold State.chooseSeats at hq
    split at hq
    · simp at hq
    · rename_i hs
      obtain ⟨x, hx, rfl⟩ := Option.mem_map.mp hq
      exact (ih _ _ x hx).trans (s.chooseSeat_mem p but _ hs)

theorem State.placeNext_mem (s : State) : ∀ q ∈ s.placeNext, q.2.mem = s.mem := by
  intro q hq
  obtain ⟨p, _, hp⟩ := List.exists_of_findSome?_eq_some hq
  split at hp
  · simp at hp
  · obtain ⟨l, _, hl⟩ := Option.bind_eq_some_iff.mp hp
    exact s.chooseSeats_mem [] l q hl

@[simp] theorem execPreemptTimeout_goes (s : State) (hw : Memory.wf s.mem = true) : GoesOk (execPreemptTimeout s) := by
  unfold execPreemptTimeout
  split <;> simp [hw]

@[simp] theorem State.endRestore_wf (s : State) (ctx : Nat) (hw : Memory.wf s.mem = true) :
    Memory.wf (s.endRestore ctx).mem = true := by
  unfold State.endRestore
  split <;> simp [hw]

@[simp] theorem State.beginRestore_wf (s : State) (ctx : Nat) (hw : Memory.wf s.mem = true) :
    Memory.wf (s.beginRestore ctx).mem = true := by
  unfold State.beginRestore
  split <;> simp [hw]

@[simp] theorem execDispatcherRestore_goes (s : State) (hw : Memory.wf s.mem = true) :
    GoesOk (execDispatcherRestore s) := by
  unfold execDispatcherRestore
  split <;> simp [hw]

@[simp] theorem State.restoreDue_wf (s : State) (hw : Memory.wf s.mem = true) : Memory.wf s.restoreDue.mem = true :=
  State.wf_foldl (f := fun t x => if t.mayRestore x then t.beginRestore x else t)
    (fun t x ht => by simp [ht]) (List.range 16) hw

@[simp] theorem execDispatch_goes (s : State) (hw : Memory.wf s.mem = true) : GoesOk (execDispatch s) := by
  have hr := s.restoreDue_wf hw
  unfold execDispatch
  generalize s.restoreDue = u at hr ⊢
  dsimp only
  split
  · exact (goesOk_next u).mpr hr
  · rename_i l t ht
    have hm : t.mem = u.mem := u.placeNext_mem _ ht
    have ht' : Memory.wf t.mem = true := hm.symm ▸ hr
    exact (goesOk_next _).mpr (State.wf_foldl (fun t q ht => t.dispatchNode_wf q.1 q.2 ht) _ (by simpa using ht'))

/-- Cells that may stand in a range of memory: in rising order within it, none as unlisted. -/
def CellsIn (a len : Nat) (cells : Memory) : Prop :=
  Memory.wf cells = true ∧ ∀ c ∈ cells, a ≤ c.1 ∧ c.1 < a + len

/-- Replacing a range by cells that may stand in it keeps the canonical form. -/
theorem Memory.wf_splice {m cells : Memory} {a len : Nat} (hm : Memory.wf m = true) (hc : CellsIn a len cells) :
    Memory.wf (Memory.splice m a len cells) = true := by
  obtain ⟨hwf, hin⟩ := hc
  unfold Memory.wf at *
  rw [Tab.wf_iff] at hm hwf ⊢
  obtain ⟨hsorted, hlisted⟩ := hm
  have below : ∀ c ∈ m.filter (fun c => decide (c.1 < a)), c.1 < a := fun c h => by
    simpa using (List.mem_filter.mp h).2
  have above : ∀ c ∈ m.filter (fun c => decide (a + len ≤ c.1)),
      a + len ≤ c.1 := fun c h => by simpa using (List.mem_filter.mp h).2
  refine ⟨List.pairwise_append.mpr ⟨hsorted.filter _,
    List.pairwise_append.mpr ⟨hwf.1, hsorted.filter _, ?_⟩, ?_⟩, fun p hp => ?_⟩
  · intro x hx y hy
    exact Nat.lt_of_lt_of_le (hin x hx).2 (above y hy)
  · intro x hx y hy
    have hxa := below x hx
    rcases List.mem_append.mp hy with hy | hy
    · exact Nat.lt_of_lt_of_le hxa (hin y hy).1
    · have := above y hy; omega
  · rcases List.mem_append.mp hp with hp | hp
    · exact hlisted p (List.mem_filter.mp hp).1
    · rcases List.mem_append.mp hp with hp | hp
      · exact hwf.2 p hp
      · exact hlisted p (List.mem_filter.mp hp).1

/-- The cells of words stand in the range that is to hold the words. -/
theorem cellsIn_wordCells (a len n : Nat) (t : Tab Nat) : CellsIn a len (wordCells a len n t) := by
  have step : ∀ (t : Tab Nat) (m : Memory), CellsIn a len m → CellsIn a len (t.foldl (fun m q =>
      if n * q.1 + n ≤ len then Memory.write m (a + n * q.1) (leBytes n q.2) else m) m) := by
    intro t
    induction t with
    | nil => exact fun m h => h
    | cons q t ih =>
      intro m h
      refine ih _ ?_
      dsimp only
      split
      · refine ⟨Memory.wf_write _ _ _ h.1, fun c hc => ?_⟩
        rcases List.mem_append.mp hc with hc | hc
        · exact h.2 c (List.mem_filter.mp hc).1
        · rcases List.mem_append.mp hc with hc | hc
          · have hk := run_key _ _ c hc
            rw [leBytes_length] at hk
            omega
          · exact h.2 c (List.mem_filter.mp hc).1
      · exact h
  exact step t [] ⟨Memory.wf_nil, by simp⟩

theorem State.putCells_wf (s : State) (a len : Nat) (cells : Memory)
    (hw : Memory.wf s.mem = true) (hc : CellsIn a len cells) :
    Memory.wf (s.putCells a len cells).mem = true := Memory.wf_splice hw hc

/-- Cells moved from one range to another stand in it. -/
theorem cellsIn_moved {m : Memory} (a b len : Nat) (hm : Memory.wf m = true) :
    CellsIn b len ((m.filter fun c => a ≤ c.1 && c.1 < a + len).map fun c => (c.1 - a + b, c.2)) := by
  unfold CellsIn Memory.wf at *
  rw [Tab.wf_iff] at hm ⊢
  have inside : ∀ c ∈ m.filter fun c => a ≤ c.1 && c.1 < a + len, a ≤ c.1 ∧ c.1 < a + len := fun c h => by
    simpa using (List.mem_filter.mp h).2
  refine ⟨⟨?_, ?_⟩, ?_⟩
  · refine List.pairwise_map.mpr ((hm.1.filter _).imp_of_mem fun {x y} hx hy hxy => ?_)
    have := inside x hx
    have := inside y hy
    show x.1 - a + b < y.1 - a + b
    omega
  · intro p hp
    obtain ⟨c, hc, rfl⟩ := List.mem_map.mp hp
    exact hm.2 c (List.mem_filter.mp hc).1
  · intro p hp
    obtain ⟨c, hc, rfl⟩ := List.mem_map.mp hp
    have := inside c hc
    show b ≤ c.1 - a + b ∧ c.1 - a + b < b + len
    omega

@[simp] theorem State.copyCells_wf (s : State) (a b len : Nat) (hw : Memory.wf s.mem = true) :
    Memory.wf (s.copyCells a b len).mem = true := s.putCells_wf b len _ hw (cellsIn_moved a b len hw)

@[simp] theorem State.writeSlot_wf (s : State) (a : Nat) (k : Core) (hw : Memory.wf s.mem = true) :
    Memory.wf (s.writeSlot a k).mem = true := by
  have put : ∀ (off len n : Nat) (w : Tab Nat) {t : State}, Memory.wf t.mem = true →
      Memory.wf (t.putCells (a + off) len (wordCells (a + off) len n w)).mem = true := fun off len n w t ht =>
    t.putCells_wf _ len _ ht (cellsIn_wordCells _ len n w)
  unfold State.writeSlot
  rw [State.freshen_mem]
  exact put _ _ _ _ (put _ _ _ _ (put _ _ _ _ (put _ _ _ _ (put _ _ _ _ (put _ _ _ _ (put _ _ _ _ (put _ _ _ _
    (put _ _ _ _ (put _ _ _ _ (put _ _ _ _ (put _ _ _ _ hw)))))))))))

@[simp] theorem State.bareCore_mem (s : State) (ctx c : Nat) :
    (s.bareCore ctx c).mem = s.mem := by simp [State.bareCore]

@[simp] theorem State.saveCore_wf (s : State) (ctx ccb c : Nat) (hw : Memory.wf s.mem = true) :
    Memory.wf (s.saveCore ctx ccb c).mem = true := by
  simp [State.saveCore, hw]

@[simp] theorem State.dropContext_wf (s : State) (ctx : Nat) (hw : Memory.wf s.mem = true) :
    Memory.wf (s.dropContext ctx).mem = true :=
  State.wf_foldl (f := fun t (v : SavedCore) => t.leaveLive ctx v.regs.node v.regs.launch)
    (fun t _ ht => t.leaveLive_wf _ _ _ ht) _ hw

@[simp] theorem State.forgetContext_mem (s : State) (ctx : Nat) : (s.forgetContext ctx).mem = s.mem := by rfl

@[simp] theorem State.endSave_wf (s : State) (ctx : Nat) (x : Ctx) (why : Nat) (hw : Memory.wf s.mem = true) :
    Memory.wf (s.endSave ctx x why).mem = true := by simp [State.endSave, hw]

@[simp] theorem execContextSave_goes (ctx : Nat) (s : State) (hw : Memory.wf s.mem = true) :
    GoesOk (execContextSave ctx s) := by
  have saved : ∀ (l : List Nat) (ccb : Nat),
      Memory.wf (l.foldl (fun t c => t.saveCore ctx ccb c) s).mem = true := fun l ccb =>
    State.wf_foldl (fun t c ht => t.saveCore_wf ctx ccb c ht) l hw
  unfold execContextSave
  split
  · simp [hw]
  · split
    · simp [hw]
    · split
      · simp [hw]
      · simp [saved]

@[simp] theorem State.restoreCheck_wf (s : State) (c a : Nat) (broken : Bool) (hw : Memory.wf s.mem = true) :
    Memory.wf (s.restoreCheck c a broken).mem = true := by simp [State.restoreCheck, hw]

@[simp] theorem State.restoreCore_wf (s : State) (v : SavedCore) (ccb : Nat) (hw : Memory.wf s.mem = true) :
    Memory.wf (s.restoreCore v ccb).mem = true := by
  unfold State.restoreCore
  extract_lets c a ok broken live k0 k t u w
  have ht : Memory.wf t.mem = true := by simp [t, hw]
  have hwf : Memory.wf w.mem = true := by simpa [w, u] using ht
  clear_value w
  split <;> simp [hwf]

@[simp] theorem execRestore_goes (ctx : Nat) (s : State) (hw : Memory.wf s.mem = true) :
    GoesOk (execRestore ctx s) := by
  have restored : ∀ (l : List SavedCore) (ccb : Nat),
      Memory.wf (l.foldl (fun t u => t.restoreCore u ccb) s).mem = true := fun l ccb =>
    State.wf_foldl (fun t u ht => t.restoreCore_wf u ccb ht) l hw
  unfold execRestore
  split
  · simp [hw]
  · split
    · simp [hw]
    · split
      · simp [hw]
      · simp [restored]

@[simp] theorem State.flitOf_mem (s : State) (c chip i : Nat) (x : SendOp) (f : Nat) :
    (s.flitOf c chip i x f).mem = s.mem := by
  unfold State.flitOf
  (repeat' split) <;> simp

theorem State.sendFlit_mem (s : State) (c chip : Nat) : ∀ q ∈ (s.sendFlit c chip), q.mem = s.mem := by
  unfold State.sendFlit
  split <;> simp

@[simp] theorem State.askSend_mem (s : State) (c chip : Nat) : (s.askSend c chip).mem = s.mem := by
  unfold State.askSend
  (repeat' split) <;> simp

@[simp] theorem State.shareFrame_mem (s : State) (chip fuel room : Nat) (l : List Nat) :
    (s.shareFrame chip fuel room l).mem = s.mem := by
  induction fuel generalizing s room l with
  | zero => rfl
  | succ fuel ih =>
    cases room with
    | zero => rfl
    | succ room =>
      cases l with
      | nil => rfl
      | cons c l =>
        unfold State.shareFrame
        split
        · exact ih _ _ _
        · exact (ih _ _ _).trans (State.sendFlit_mem _ _ _ _ ‹_›)

@[simp] theorem State.sendTo_mem (s : State) (n chip : Nat) : (s.sendTo n chip).mem = s.mem := by simp [State.sendTo]

@[simp] theorem State.askPeers_mem (s : State) (n : Nat) : (s.askPeers n).mem = s.mem := by rfl

@[simp] theorem State.mapCores_mem (s : State) (f : Core → Core) : (s.mapCores f).mem = s.mem := by rfl

@[simp] theorem State.mapStraits_mem (s : State) (f : Strait → Strait) : (s.mapStraits f).mem = s.mem :=
  State.mem_foldl (fun t i => t.setStrait_mem i _) (List.range 16) s

@[simp] theorem State.dropOrphans_mem (s : State) (n : Nat) : (s.dropOrphans n).mem = s.mem := by rfl

@[simp] theorem State.beginFrame_mem (s : State) (n : Nat) : (s.beginFrame n).mem = s.mem := by simp [State.beginFrame]

@[simp] theorem State.turn_wf (s : State) (d : Nat) (hw : Memory.wf s.mem = true) :
    Memory.wf (s.turn d).mem = true := by
  simp [State.turn, hw]

@[simp] theorem execFrameBoundary_goes (s : State) (hw : Memory.wf s.mem = true) : GoesOk (execFrameBoundary s) := by
  unfold execFrameBoundary
  split <;> simp [hw]

@[simp] theorem execTideBoundary_goes (s : State) (hw : Memory.wf s.mem = true) : GoesOk (execTideBoundary s) := by
  unfold execTideBoundary
  split <;> simp [hw]

@[simp] theorem execCircuitSlotBoundary_goes (s : State) (hw : Memory.wf s.mem = true) :
    GoesOk (execCircuitSlotBoundary s) := by
  unfold execCircuitSlotBoundary
  (repeat' split) <;> simp [hw]

@[simp] theorem execRetrainEnd_goes (strait : BitVec 4) (s : State) (hw : Memory.wf s.mem = true) :
    GoesOk (execRetrainEnd strait s) := by
  unfold execRetrainEnd
  split <;> simp [hw]

@[simp] theorem execGroupLit_goes (strait : BitVec 4) (rx : Bool) (group : BitVec 3) (s : State)
    (hw : Memory.wf s.mem = true) : GoesOk (execGroupLit strait rx group s) := by
  unfold execGroupLit
  split <;> simp [hw]

@[simp] theorem State.resendTo_mem (s : State) (c chip : Nat) : (s.resendTo c chip).mem = s.mem := by rfl

@[simp] theorem State.ackSaved_wf (s : State) (core ctx : Nat) (f : Core → Option Core) (hw : Memory.wf s.mem = true) :
    Memory.wf (s.ackSaved core ctx f).mem = true := by
  unfold State.ackSaved
  (repeat' split) <;> simp [hw]

@[simp] theorem execLinkAck_goes (core ctx queue k piece : Nat) (fault : Option (Nat × Nat)) (s : State)
    (hw : Memory.wf s.mem = true) : GoesOk (execLinkAck core ctx queue k piece fault s) := by
  unfold execLinkAck
  dsimp only
  (repeat' split) <;> simp [hw]

@[simp] theorem State.replyTo_mem (s : State) (chip : Nat) (fault : Option (Nat × Nat)) :
    (s.replyTo chip fault).mem = s.mem := by rfl

@[simp] theorem State.landMemory_wf (s : State) (p : LinkPiece) (hw : Memory.wf s.mem = true) :
    Memory.wf (s.landMemory p).mem = true := by simp [State.landMemory, hw, Memory.wf_write]

theorem State.landMessage_wf (s : State) (c off n : Nat) (hw : Memory.wf s.mem = true) :
    Yields (fun t => Memory.wf t.mem = true) (s.landMessage c off n) := by
  induction n generalizing s with
  | zero => exact hw
  | succ n ih =>
    unfold State.landMessage
    split
    · trivial
    · exact ih _ (by simp [hw])

@[simp] theorem State.landPiece_wf (s : State) (c : Nat) (m : Inbound) (p : LinkPiece) (hw : Memory.wf s.mem = true) :
    Memory.wf (s.landPiece c m p).mem = true := by
  unfold State.landPiece
  extract_lets pa n spans t counts
  have ht : Memory.wf t.mem = true := by simp [t, hw, Memory.wf_write]
  split
  · simp [hw]
  · split
    · simp [hw]
    · split
      · simpa using (t.landMessage_wf c _ counts ht).of_ok ‹_›
      · simpa using ht

@[simp] theorem State.refusePiece_wf (s : State) (c : Nat) (p : LinkPiece) (hw : Memory.wf s.mem = true) :
    Memory.wf (s.refusePiece c p).mem = true := by simp [State.refusePiece, hw]

@[simp] theorem execLinkPieceArrive_goes (p : LinkPiece) (s : State) (hw : Memory.wf s.mem = true) :
    GoesOk (execLinkPieceArrive p s) := by
  unfold execLinkPieceArrive
  dsimp only
  (repeat' split) <;> simp [hw]

@[simp] theorem execPeerLoadRequest_goes (chip : BitVec 4) (pa : Nat) (s : State) (hw : Memory.wf s.mem = true) :
    GoesOk (execPeerLoadRequest chip pa s) := by
  unfold execPeerLoadRequest
  dsimp only
  (repeat' split) <;> simp [hw]

end Sys2Proof.Machine
end

section
/-! SUPPORT. Canonical memory under bring-up, configuration space, compaction, arrivals at a core and lockstep. -/
namespace Sys2Proof.Machine
open Sys2Proof

@[simp] theorem execDeviceReset_goes (s : State) : GoesOk (execDeviceReset s) := ⟨_, rfl, State.reset_mem_wf⟩

@[simp] theorem State.takeFind_mem (s : State) (f : BringUpFind) : (s.takeFind f).mem = s.mem := by
  unfold State.takeFind
  exact (State.mem_foldl (fun t i => t.setStrait_mem i _) _ _).trans rfl

@[simp] theorem State.resumeStopped_wf (s : State) (ctx : Nat) (hw : Memory.wf s.mem = true) :
    Memory.wf (s.resumeStopped ctx).mem = true := by
  unfold State.resumeStopped; (repeat' split) <;> simp [*]

@[simp] theorem execBringupStage4_goes (s : State) (hw : Memory.wf s.mem = true) : GoesOk (execBringupStage4 s) := by
  have resumed : Memory.wf (s.clockStop.foldl State.resumeStopped s.startFrames).mem = true :=
    State.wf_foldl (fun t x ht => t.resumeStopped_wf x ht) _ (by simpa using hw)
  unfold execBringupStage4
  dsimp only
  (repeat' split) <;> simp [hw, resumed]

@[simp] theorem State.writeGroup_mem (s : State) (gid i : Nat) (w : W64) : (s.writeGroup gid i w).mem = s.mem := by rfl

@[simp] theorem State.writeTicket_mem (s : State) (n i : Nat) (w : W64) : (s.writeTicket n i w).mem = s.mem := by rfl

@[simp] theorem State.writeLinkCtl_mem (s : State) (w : W64) : (s.writeLinkCtl w).mem = s.mem := by
  simp [State.writeLinkCtl]

@[simp] theorem State.writeSlab_mem (s : State) (ctx cls i : Nat) (w : W64) :
    (s.writeSlab ctx cls i w).mem = s.mem := by rfl

@[simp] theorem State.putJob_wf (s : State) (pa state moved : Nat) (hw : Memory.wf s.mem = true) :
    Memory.wf (s.putJob pa state moved).mem = true := by simp [State.putJob, hw]

@[simp] theorem State.submitJob_wf (s : State) (w : W64) (hw : Memory.wf s.mem = true) :
    Memory.wf (s.submitJob w).mem = true := by simp [State.submitJob, hw]

@[simp] theorem State.cfgPut_wf (s : State) (off : Nat) (w : W64) (hw : Memory.wf s.mem = true) :
    Memory.wf (s.cfgPut off w).mem = true := by simp [State.cfgPut, hw]

@[simp] theorem State.cfgStore_wf (s : State) (pa : Nat) (bs : List Byte) (hw : Memory.wf s.mem = true) :
    Memory.wf (s.cfgStore pa bs).mem = true := by simp [State.cfgStore, hw]

@[simp] theorem State.endJob_wf (s : State) (j : Job) (state : Nat) (hw : Memory.wf s.mem = true) :
    Memory.wf (s.endJob j state).mem = true := by simp [State.endJob, hw]

theorem State.copyPage_wf (s : State) (ctx : Nat) (d : Desc) (i : Nat) (hw : Memory.wf s.mem = true) :
    Yields (fun r => Memory.wf r.2.mem = true) (s.copyPage ctx d i) := by
  unfold State.copyPage
  exact yields_bind fun e _ => yields_bind fun _ _ => yields_bind fun ⟨ps, head⟩ _ => yields_bind fun runs _ =>
    (s.rootWrite_wf ctx _ _ hw).bind fun t ht => by simpa using ht

@[simp] theorem State.nextPage_wf (s : State) (j : Job) (hw : Memory.wf s.mem = true) :
    Memory.wf (s.nextPage j).mem = true := by
  unfold State.nextPage
  dsimp only
  split
  · simp [hw]
  · split
    · simp [hw]
    · split
      · simp [hw]
      · split
        · exact hw
        · split
          · simp [hw]
          · split
            · simp [hw]
            · exact (s.copyPage_wf _ _ _ hw).of_ok ‹_›

@[simp] theorem State.startJob_wf (s : State) (pa : Nat) (hw : Memory.wf s.mem = true) :
    Memory.wf (s.startJob pa).mem = true := by simp [State.startJob, hw]

@[simp] theorem execCompactPage_goes (s : State) (hw : Memory.wf s.mem = true) : GoesOk (execCompactPage s) := by
  unfold execCompactPage
  (repeat' split) <;> simp [hw]

@[simp] theorem State.swapEntry_wf (s : State) (j : Job) (ctx cls : Nat) (q : Nat × Nat × Nat)
    (hw : Memory.wf s.mem = true) : Memory.wf (s.swapEntry j ctx cls q).mem = true := by simp [State.swapEntry, hw]

@[simp] theorem execCompactSwap_goes (s : State) (hw : Memory.wf s.mem = true) : GoesOk (execCompactSwap s) := by
  unfold execCompactSwap
  dsimp only
  (repeat' split) <;> simp [hw]

@[simp] theorem State.linkPage_wf (s : State) (f : FreePage) (hw : Memory.wf s.mem = true) :
    Memory.wf (s.linkPage f).mem = true := by
  unfold State.linkPage
  dsimp only
  split
  · simpa using (s.rootPut_wf _ _ _ hw).of_ok ‹_›
  · simp [hw]

@[simp] theorem execPageFree_goes (k : Nat) (s : State) (hw : Memory.wf s.mem = true) : GoesOk (execPageFree k s) := by
  unfold execPageFree
  split <;> simp [hw]

@[simp] theorem State.fillLine_mem (s : State) (isle pa : Nat) : (s.fillLine isle pa).2.mem = s.mem := by
  unfold State.fillLine
  split <;> rfl

@[simp] theorem State.loadBytes_mem (s : State) (c pa n : Nat) : (s.loadBytes c pa n).2.mem = s.mem := by
  unfold State.loadBytes
  split <;> simp

@[simp] theorem State.endOut_mem (s : State) (c : Nat) (o : Out) : (s.endOut c o).mem = s.mem := by rfl

@[simp] theorem State.endPoison_mem (s : State) (c : Nat) (o : Out) (e : Nat) :
    (s.endPoison c o e).mem = s.mem := by rfl

@[simp] theorem State.endLoad_mem (s : State) (c : Nat) (o : Out) (pa n : Nat) (sgn : Bool) :
    (s.endLoad c o pa n sgn).mem = s.mem := by
  unfold State.endLoad
  split <;> simp

@[simp] theorem State.endAtomic_wf (s : State) (c : Nat) (o : Out) (pa n op : Nat) (a b : W64)
    (hw : Memory.wf s.mem = true) : Memory.wf (s.endAtomic c o pa n op a b).mem = true := by
  unfold State.endAtomic
  dsimp only
  (repeat' split) <;> simp [hw]

@[simp] theorem execLoadReturn_goes (core k : Nat) (s : State) (hw : Memory.wf s.mem = true) :
    GoesOk (execLoadReturn core k s) := by
  unfold execLoadReturn
  (repeat' split) <;> simp [hw]

@[simp] theorem State.landStore_wf (s : State) (c : Nat) (x : Sto) (hw : Memory.wf s.mem = true) :
    Memory.wf (s.landStore c x).mem = true := by
  unfold State.landStore
  split
  · simp [hw]
  · exact State.wf_foldl (fun t q ht => by simp [ht, Memory.wf_write]) _ (by simp [hw, Memory.wf_write])

@[simp] theorem execStorePerform_goes (core k : Nat) (s : State) (hw : Memory.wf s.mem = true) :
    GoesOk (execStorePerform core k s) := by
  unfold execStorePerform
  split <;> simp [hw]

@[simp] theorem State.discard_mem (s : State) (c id : Nat) : (s.discard c id).mem = s.mem := by rfl

theorem State.stageEgress_mem (s : State) (c ch : Nat) (r : CopyRun) : ∀ q ∈ (s.stageEgress c ch r), q.mem = s.mem := by
  unfold State.stageEgress
  dsimp only
  (repeat' split) <;> simp

theorem State.chanEgress_mem (s : State) (c ch : Nat) : ∀ q ∈ s.chanEgress c ch, q.2.mem = s.mem := by
  intro q hq
  obtain ⟨r, _, hr⟩ := Option.bind_eq_some_iff.mp hq
  split at hr
  · split at hr
    · cases hr; rfl
    · split at hr <;> cases hr
      rfl
  · obtain ⟨t, ht, rfl⟩ := Option.map_eq_some_iff.mp hr
    exact s.stageEgress_mem c ch r t ht

theorem State.noticeEgress_wf (s : State) (c u : Nat) (hw : Memory.wf s.mem = true) :
    ∀ q ∈ s.noticeEgress c u, Memory.wf q.2.mem = true := by
  intro q hq
  unfold State.noticeEgress at hq
  dsimp only at hq
  split at hq
  · obtain ⟨r, _, hr⟩ := Option.bind_eq_some_iff.mp hq
    split at hr <;> cases hr
    simp [hw]
  · split at hq
    · cases hq
    · obtain ⟨b, _, hb⟩ := Option.bind_eq_some_iff.mp hq
      split at hb <;> cases hb
      simp [hw]

theorem State.countEgress_mem (s : State) (c k : Nat) : ∀ q ∈ s.countEgress c k, q.2.mem = s.mem := by
  intro q hq
  obtain ⟨o, _, ho⟩ := Option.bind_eq_some_iff.mp hq
  split at ho <;> cases ho
  rfl

@[simp] theorem State.skipPiece_mem (s : State) (c q : Nat) (g : GQueue) (b : List W64) (n : Nat) :
    (s.skipPiece c q g b n).mem = s.mem := by simp [State.skipPiece]

theorem State.gEgress_mem (s : State) (c q : Nat) : ∀ x ∈ s.gEgress c q, x.2.mem = s.mem := by
  intro x hx
  obtain ⟨b, _, hb⟩ := Option.bind_eq_some_iff.mp hx
  extract_lets reads at hb
  clear_value reads
  split at hb
  · split at hb
    extract_lets writes at hb
    clear_value writes
    split at hb
    · cases hb; simp
    · split at hb <;> cases hb
      rfl
  · split at hb <;> cases hb
    rfl

theorem State.sendEgress_mem (s : State) (c chip : Nat) : ∀ q ∈ s.sendEgress c chip, q.2.mem = s.mem := by
  intro q hq
  obtain ⟨x, _, hx⟩ := List.exists_of_findSome?_eq_some hq
  obtain ⟨f, _, rfl⟩ := Option.map_eq_some_iff.mp hx
  rfl

theorem State.egressOf_wf (s : State) (c : Nat) (e : Egress) (hw : Memory.wf s.mem = true) :
    ∀ q ∈ s.egressOf c e, Memory.wf q.2.2.mem = true := by
  have bare : ∀ x : Option (Nat × State), (∀ q ∈ x, Memory.wf q.2.mem = true) →
      ∀ q ∈ x.map fun p => (p.1, 0, p.2), Memory.wf q.2.2.mem = true := fun x hx q hq => by
    obtain ⟨p, hp, rfl⟩ := Option.mem_map.mp hq
    exact hx p hp
  cases e with
  | same => simp [State.egressOf]
  | cp id =>
    intro q hq
    obtain ⟨p, _, rfl⟩ := Option.mem_map.mp hq
    simpa using hw
  | post i =>
    intro q hq
    obtain ⟨p, _, rfl⟩ := Option.mem_map.mp hq
    exact hw
  | count i => exact bare _ fun q hq => (s.countEgress_mem c i q hq).symm ▸ hw
  | notice u => exact bare _ (s.noticeEgress_wf c u hw)
  | engine u =>
    refine bare _ fun q hq => ?_
    split at hq
    · exact (s.chanEgress_mem c u q hq).symm ▸ hw
    · exact (s.gEgress_mem c _ q hq).symm ▸ hw
  | send q => exact bare _ fun q hq => (s.sendEgress_mem c _ q hq).symm ▸ hw
  | home =>
    intro q hq
    simp only [State.egressOf] at hq
    split at hq <;> cases hq
    exact hw
  | issue => simp [State.egressOf]

@[simp] theorem State.loseAt_wf (s : State) (c slot : Nat) (hw : Memory.wf s.mem = true) :
    Memory.wf (s.loseAt c slot).mem = true := by simp [State.loseAt, hw]

@[simp] theorem execLockstepMismatch_goes (core : Nat) (egress : Egress) (s : State) (hw : Memory.wf s.mem = true) :
    GoesOk (execLockstepMismatch core egress s) := by
  unfold execLockstepMismatch
  dsimp only
  split
  · simp [hw]
  · split
    · simp [hw]
    · split
      · simp [hw]
      · have ht : Memory.wf (_ : State).mem = true := s.egressOf_wf core egress hw _ ‹_›
        split <;> simp [ht]

@[simp] theorem execLinkStall_goes (core : Nat) (strait : BitVec 4) (s : State) (hw : Memory.wf s.mem = true) :
    GoesOk (execLinkStall core strait s) := by
  unfold execLinkStall
  split <;> simp [hw]

end Sys2Proof.Machine
end

section
/-! SUPPORT. Canonical memory under host requests and the power controller. -/
namespace Sys2Proof.Machine
open Sys2Proof

@[simp] theorem State.respond_mem (s : State) (r : HostReq) (result : Nat) (payload : List Byte) :
    (s.respond r result payload).mem = s.mem := by rfl

theorem State.serve_goes (s : State) (r : HostReq) (opc : Nat) (needsCtx : Bool)
    {f : State → Except Nat (List Byte × State)}
    (hw : Memory.wf s.mem = true) (hf : Yields (fun q => Memory.wf q.2.mem = true) (f s)) :
    GoesOk (s.serve r opc needsCtx f) := by
  unfold State.serve
  split
  · simp [hw]
  · split
    · simp [hw]
    · split
      · simp [hw]
      · split
        · simp [hw]
        · simpa using hf.of_ok ‹_›

/-- The write of word i of those that bytes at an offset of configuration space meet. -/
def State.cfgPutBytes (t : State) (off : Nat) (bs : List Byte) (i : Nat) : State :=
  let w := off / 8 + i
  let old := leBytes 8 (t.cfgWord (8 * w)).toNat
  t.cfgPut (8 * w) (.ofNat 64 (leNat ((List.range 8).map fun j =>
    if off ≤ 8 * w + j ∧ 8 * w + j < off + bs.length then bs.getD (8 * w + j - off) 0 else old.getD j 0)))

/-- A host write to configuration space, word by word. -/
theorem State.hostPut_config {s : State} {pa : Nat} (bs : List Byte) (h : (s.region pa == .config) = true) :
    s.hostPut pa bs = (List.range ((pa - cfgBase + bs.length + 7) / 8 - (pa - cfgBase) / 8)).foldl
      (fun t i => t.cfgPutBytes (pa - cfgBase) bs i) s := by
  unfold State.hostPut
  rw [if_pos h]
  rfl

theorem State.cfgPutBytes_wf (off : Nat) (bs : List Byte) (t : State) (i : Nat) (ht : Memory.wf t.mem = true) :
    Memory.wf (t.cfgPutBytes off bs i).mem = true := t.cfgPut_wf _ _ ht

theorem State.cfgPutBytes_foldl_wf (s : State) (off : Nat) (bs : List Byte) (l : List Nat)
    (hw : Memory.wf s.mem = true) : Memory.wf (l.foldl (fun t i => t.cfgPutBytes off bs i) s).mem = true :=
  State.wf_foldl (fun t i ht => t.cfgPutBytes_wf off bs i ht) l hw

@[simp] theorem State.hostPut_wf (s : State) (pa : Nat) (bs : List Byte) (hw : Memory.wf s.mem = true) :
    Memory.wf (s.hostPut pa bs).mem = true := by
  by_cases h : (s.region pa == .config) = true
  · rw [s.hostPut_config bs h]
    exact s.cfgPutBytes_foldl_wf _ bs _ hw
  · unfold State.hostPut
    rw [if_neg h]
    exact s.writeBytes_wf pa bs hw

@[simp] theorem State.hostPuts_wf (s : State) (l : List (Nat × Nat)) (bs : List Byte) (hw : Memory.wf s.mem = true) :
    Memory.wf (s.hostPuts l bs).mem = true := by
  induction l generalizing s bs with
  | nil => exact hw
  | cons q l ih => exact ih _ _ (s.hostPut_wf _ _ hw)

theorem State.hostWrite_wf (s : State) (r : HostReq) (addr : W64) (bs : List Byte) (hw : Memory.wf s.mem = true) :
    Yields (fun t => Memory.wf t.mem = true) (s.hostWrite r addr bs) := by
  unfold State.hostWrite
  refine yields_bind fun l _ => ?_
  split <;> simp [hw]

theorem State.yields_orResult {α : Type} {P : α → Prop} (s : State) {r : Except Trp α} (h : Yields P r) :
    Yields P (s.orResult r) := by
  cases r with
  | error t => trivial
  | ok a => exact h

@[simp] theorem execRead_goes (r : HostReq) (s : State) (hw : Memory.wf s.mem = true) : GoesOk (execRead r s) :=
  s.serve_goes r _ _ hw (yields_bind fun _ _ => by simpa using hw)

@[simp] theorem execWrite_goes (r : HostReq) (s : State) (hw : Memory.wf s.mem = true) : GoesOk (execWrite r s) :=
  s.serve_goes r _ _ hw ((s.yields_orResult (s.hostWrite_wf r _ _ hw)).bind fun _ ht => ht)

@[simp] theorem State.failPhys_wf (s : State) (ctx pa code : Nat) (node : W64) (hw : Memory.wf s.mem = true) :
    Memory.wf (s.failPhys ctx pa code node).mem = true := by
  unfold State.failPhys
  extract_lets st t mine out
  have ht : Memory.wf t.mem = true := by simp [t, hw]
  exact State.wf_foldl (fun t p ht => t.leaveLive_wf _ _ _ ht) _ ht

@[simp] theorem State.physRoots_wf (s : State) (ctx pa : Nat) (va : W64) (n : Nat) (hw : Memory.wf s.mem = true) :
    Memory.wf (s.physRoots ctx pa va n).mem = true := by
  induction n generalizing s va with
  | zero => exact hw
  | succ n ih =>
    unfold State.physRoots
    split
    · simp [hw]
    · refine ih _ _ ?_
      split <;> simp [hw]

theorem State.acceptLaunch_wf (s : State) (r : HostReq) (w08 w18 : W64) (hw : Memory.wf s.mem = true) :
    Yields (fun t => Memory.wf t.mem = true) (s.acceptLaunch r w08 w18) := by
  unfold State.acceptLaunch
  exact (s.hostWrite_wf r _ _ hw).bind fun t ht => (t.hostWrite_wf r _ _ ht).bind fun u hu =>
    (u.hostWrite_wf r _ _ hu).bind fun v hv => v.hostWrite_wf r _ _ hv

@[simp] theorem execLaunch_goes (r : HostReq) (s : State) (hw : Memory.wf s.mem = true) : GoesOk (execLaunch r s) := by
  refine s.serve_goes r _ _ hw ?_
  split
  · trivial
  · refine yields_bind fun bs _ => ?_
    dsimp only
    split
    · trivial
    · refine (s.yields_orResult (s.acceptLaunch_wf r _ _ hw)).bind fun t ht => ?_
      simp [ht]

@[simp] theorem execStatus_goes (r : HostReq) (s : State) (hw : Memory.wf s.mem = true) : GoesOk (execStatus r s) :=
  s.serve_goes r _ _ hw (yields_bind fun _ _ => hw)

@[simp] theorem execOpen_goes (r : HostReq) (s : State) (hw : Memory.wf s.mem = true) : GoesOk (execOpen r s) := by
  refine s.serve_goes r _ _ hw ?_
  have hset : ∀ pa, Memory.wf ((s.fillEnergy pa).setCstate pa 0).mem = true := fun pa => by simp [hw]
  dsimp only
  iterate 6 (split; · trivial)
  exact hset _

theorem State.serveLater_goes (s : State) (r : HostReq) (opc : Nat) {f : State → Option State}
    (hw : Memory.wf s.mem = true)
    (hf : ∀ t, Memory.wf t.mem = true → ∀ q ∈ f t, Memory.wf q.mem = true) : GoesOk (s.serveLater r opc f) := by
  have howe := hf (s.owe1 r) hw
  unfold State.serveLater
  split
  · simp [hw]
  · split
    · simp [hw]
    · split
      · simp [hw]
      · split
        · exact (goesOk_next _).mpr (howe _ ‹_›)
        · simp [hw]

@[simp] theorem State.closeLaunch_wf (s : State) (ctx : Nat) (l : W64) (hw : Memory.wf s.mem = true) :
    Memory.wf (s.closeLaunch ctx l).mem = true := by simp [State.closeLaunch, hw]

@[simp] theorem State.emptyPool_wf (s : State) (ctx : Nat) (hw : Memory.wf s.mem = true) :
    Memory.wf (s.emptyPool ctx).mem = true := by
  unfold State.emptyPool
  exact State.wf_foldl (fun t p ht => t.leaveLive_wf _ _ _ ht) _ hw

@[simp] theorem State.dropEntries_mem (s : State) (ctx : Nat) : (s.dropEntries ctx).mem = s.mem := by rfl

@[simp] theorem State.closeContext_wf (s : State) (ctx : Nat) (hw : Memory.wf s.mem = true) :
    Memory.wf (s.closeContext ctx).mem = true := by
  have hl := State.wf_foldl (f := fun t l => t.closeLaunch ctx l) (fun t l ht => t.closeLaunch_wf ctx l ht)
    (s.openLaunches ctx) hw
  simp [State.closeContext, hl]

@[simp] theorem execClose_goes (r : HostReq) (s : State) (hw : Memory.wf s.mem = true) : GoesOk (execClose r s) :=
  s.serveLater_goes r _ hw fun t ht q hq => by cases hq; simp [ht]

@[simp] theorem State.releaseContext_mem (s : State) (ctx : Nat) : (s.releaseContext ctx).mem = s.mem := by
  simp [State.releaseContext]

@[simp] theorem execRelease_goes (r : HostReq) (s : State) (hw : Memory.wf s.mem = true) : GoesOk (execRelease r s) :=
  s.serveLater_goes r _ hw fun t ht q hq => by split at hq <;> cases hq; simp [ht]

@[simp] theorem execPreempt_goes (r : HostReq) (s : State) (hw : Memory.wf s.mem = true) : GoesOk (execPreempt r s) :=
  s.serveLater_goes r _ hw fun t ht q hq => by split at hq <;> cases hq; simp [ht]

@[simp] theorem State.resumeContext_wf (s : State) (ctx : Nat) (hw : Memory.wf s.mem = true) :
    Memory.wf (s.resumeContext ctx).mem = true := by
  unfold State.resumeContext
  split <;> simp [hw]

@[simp] theorem execResume_goes (r : HostReq) (s : State) (hw : Memory.wf s.mem = true) : GoesOk (execResume r s) :=
  s.serveLater_goes r _ hw fun t ht q hq => by split at hq <;> cases hq; simp [ht]

@[simp] theorem State.chargeEnergy_mem (s : State) (ctx microjoules : Nat) :
    (s.chargeEnergy ctx microjoules).mem = s.mem := by
  unfold State.chargeEnergy
  split <;> rfl

@[simp] theorem execClusterGate_goes (cluster : Nat) (s : State) (hw : Memory.wf s.mem = true) :
    GoesOk (execClusterGate cluster s) := by
  unfold execClusterGate
  split <;> simp [hw]

@[simp] theorem State.zeroCluster_wf (s : State) (cl : Nat) (hw : Memory.wf s.mem = true) :
    Memory.wf (s.zeroCluster cl).mem = true :=
  Memory.wf_filter _ _ hw

@[simp] theorem State.stopAll_mem (s : State) : s.stopAll.mem = s.mem := by simp [State.stopAll]

end Sys2Proof.Machine
end

section
/-! SUPPORT. Canonical memory under the ops that read a lane of a vector. -/
namespace Sys2Proof.Machine
open Sys2Proof

@[simp] theorem State.vecInt_goes (s : State) (f : Int → Int → Int) (vd va vb : VR) (k : KR) (ty : BitVec 4)
    (uns sat : Bool)
    (hw : Memory.wf s.mem = true) : GoesOk (s.vecInt f vd va vb k ty uns sat) := by simp [State.vecInt, hw]

@[simp] theorem State.vecBits_goes (s : State) (f : W32 → W32 → W32) (vd va vb : VR) (k : KR)
    (hw : Memory.wf s.mem = true) : GoesOk (s.vecBits f vd va vb k) := by simp [State.vecBits, hw]

@[simp] theorem State.vecShift_goes (s : State) (f : Nat → Nat → Nat → Nat) (vd va vb : VR) (k : KR) (ty : BitVec 4)
    (imm : Bool) (count : BitVec 5)
    (hw : Memory.wf s.mem = true) : GoesOk (s.vecShift f vd va vb k ty imm count) := by simp [State.vecShift, hw]

@[simp] theorem State.sticky_mem (s : State) (bit : Nat) (v : Bool) : (s.sticky bit v).mem = s.mem := by
  simp [State.sticky]

@[simp] theorem execVdesc_goes (vd va vb vc : VR) (leaf : Bool) (s : State) (hw : Memory.wf s.mem = true) :
    GoesOk (execVdesc vd va vb vc leaf s) := by
  unfold execVdesc
  dsimp only
  (repeat' split) <;> simp [hw]

@[simp] theorem State.vecFun_goes (s : State) (f : Num → Num) (vd va : VR) (k : KR) (hw : Memory.wf s.mem = true) :
    GoesOk (s.vecFun f vd va k) := by simp [State.vecFun, hw]

end Sys2Proof.Machine
end

section
/-! SUPPORT. A step goes on and keeps memory canonical, from its meaning and what stands around it. -/
namespace Sys2Proof.Machine
open Sys2Proof

/-- Every instruction and every event goes on. What a listed one writes, it writes through operations of the state that
have their rules above; the others have lemmas of their own. -/
theorem exec_goes (i : Instr) (s : State) (hw : Memory.wf s.mem = true) : GoesOk (exec i s) := by
  cases i with
  | nop | add | sub | mul | mulh | mulhu | div | divu | rem | remu | and | or | xor | shl | shr | sar | min | max |
      minu | maxu | seq | slt | sltu | sel | clz | ctz | popc | addi | andi | ori | xori | shli | shri | sari | slti |
      sltui | li | lix | bnMap | bnMapx | pset | pseti | plog | pwr | prd =>
    simp [exec, hw, execNop, execAdd, execSub, execMul, execMulh, execMulhu, execDiv, execDivu, execRem, execRemu,
      execAnd, execOr, execXor, execShl, execShr, execSar, execMin, execMax, execMinu, execMaxu, execSeq, execSlt,
      execSltu, execSel, execClz, execCtz, execPopc, execAddi, execAndi, execOri, execXori, execShli, execShri,
      execSari, execSlti, execSltui, execLi, execLix, execBnMap, execBnMapx, execPset, execPseti, execPlog, execPwr,
      execPrd]
  | ldB | ldH | ldW | ldD | ldBu | ldHu | ldWu | ldQ | stB | stH | stW | stD | stQ | splLd | splSt | amo | cas =>
    simp [exec, hw, execLdB, execLdH, execLdW, execLdD, execLdBu, execLdHu, execLdWu, execLdQ, execStB, execStH,
      execStW, execStD, execStQ, execSplLd, execSplSt, execAmo, execCas]
  | vaddF | vsubF | vmulF | vfmaF | vminF | vmaxF | vabsF | vcvt | vpackMx | vunpk | vscl | vaddI | vsubI | vmulI |
      vminI | vmaxI | vred | vpfx | vexp2 | vlog2 | vrcp | vrsqrt | vtanh | vnoise =>
    simp [exec, hw, execVaddF, execVsubF, execVmulF, execVfmaF, execVminF, execVmaxF, execVabsF, execVcvt,
      execVpackMx, execVunpk, execVscl, execVaddI, execVsubI, execVmulI, execVminI, execVmaxI, execVred, execVpfx,
      execVexp2, execVlog2, execVrcp, execVrsqrt, execVtanh, execVnoise]
  | vand | vor | vxor | vshl | vshr | vsar | vcmp | vsel | kop | kpop | vmov | vbcast | vext | vperm | vxg | vcmprs |
      vexpd =>
    simp [exec, hw, execVand, execVor, execVxor, execVshl, execVshr, execVsar, execVcmp, execVsel, execKop, execKpop,
      execVmov, execVbcast, execVext, execVperm, execVxg, execVcmprs, execVexpd]
  | br | ret | jr | rep | lbFree | sysRd | trap | brk | yield | halt | ndDone | sqLenCl | sqBindClr =>
    simp [exec, hw, execBr, execRet, execJr, execRep, execLbFree, execSysRd, execTrap, execBrk, execYield, execHalt,
      execNdDone, execSqLenCl, execSqBindClr]
  | mcall | mpset | mpget | dget | dtag | dsetField | mzero | msca | cvRd | cvWr | cvAdd | cvScl | mucodeClr =>
    simp [exec, hw, execMcall, execMpset, execMpget, execDget, execDtag, execDsetField, execMzero, execMsca, execCvRd,
      execCvWr, execCvAdd, execCvScl, execMucodeClr]
  | wait | wtag | wtagClr | fenceX | fenceSc | drain | step | flWait | flPost | seg | segOff | barArv | barMark =>
    simp [exec, hw, execWait, execWtag, execWtagClr, execFenceX, execFenceSc, execDrain, execStep, execFlWait,
      execFlPost, execSeg, execSegOff, execBarArv, execBarMark]
  | lkSend | lkRecv | lkStat | lkTide | lkCirc | lkPark | lkRate =>
    simp [exec, hw, execLkSend, execLkRecv, execLkStat, execLkTide, execLkCirc, execLkPark, execLkRate]
  | cp | cp2d | cpMc | cpChain | cpStat | agCfg | cpAg | gqCfg | gqPush | gqEnd | cbInit | cbPush | cpSeq =>
    simp [exec, hw, execCp, execCp2d, execCpMc, execCpChain, execCpStat, execAgCfg, execCpAg, execGqCfg, execGqPush,
      execGqEnd, execCbInit, execCbPush, execCpSeq]
  | slotFilled | copyComplete | queuedOpDepart | bundleFetch | homeAnswer | retrainStart =>
    simp [exec, hw, execSlotFilled, execCopyComplete, execQueuedOpDepart, execBundleFetch, execHomeAnswer,
      execRetrainStart]
  | groupEntryWrite | ticketEntryWrite | linkControlWrite | compactSubmit | configWrite =>
    simp [exec, hw, execGroupEntryWrite, execTicketEntryWrite, execLinkControlWrite, execCompactSubmit,
      execConfigWrite]
  | bringupStage2 | bringupStage3 | connectionSetUp | heartbeatTick | controlPeriodEnd | ballastStart | clusterWake =>
    simp [exec, hw, execBringupStage2, execBringupStage3, execConnectionSetUp, execHeartbeatTick,
      execControlPeriodEnd, execBallastStart, execClusterWake]
  | _ => simp [exec, hw]

@[simp] theorem State.turnDone_mem (s : State) : s.turnDone.mem = s.mem := by
  unfold State.turnDone
  split <;> rfl

theorem State.withEntries_goes (s : State) {run : State → Out3} (hw : Memory.wf s.mem = true) (hr : GoesOk (run s)) :
    GoesOk (s.withEntries run) := by
  obtain ⟨t, ht, hwt⟩ := hr
  have hu : GoesOk (.next t.entriesUsed) := by simpa using hwt
  unfold State.withEntries
  rw [ht]
  dsimp only
  split
  · exact (goesOk_next t).mpr hwt
  · split
    · exact hu
    · simp [hw]

@[simp] theorem State.engineElse_wf (s : State) (c : Nat) (hw : Memory.wf s.mem = true) :
    Memory.wf (s.engineElse c).mem = true := by simp [State.engineElse, hw]

@[simp] theorem State.softError_mem (s : State) (pa : Nat) : (s.softError pa).mem = s.mem := by
  unfold State.softError
  (repeat' split) <;> simp

@[simp] theorem State.recordError_mem (s : State) (k : Nat) : (s.recordError k).mem = s.mem := by rfl

@[simp] theorem State.misrouted_mem (s : State) : s.misrouted.mem = s.mem := by simp [State.misrouted]

@[simp] theorem State.farPark_mem (s : State) (strait : Nat) (mask : BitVec 8) :
    (s.farPark strait mask).mem = s.mem := by
  simp [State.farPark]

@[simp] theorem State.dropLine_mem (s : State) (k : Nat) : (s.dropLine k).mem = s.mem := by rfl

@[simp] theorem State.dropEntry_mem (s : State) (c tlb k : Nat) : (s.dropEntry c tlb k).mem = s.mem := by rfl

/-- An event that runs, and the bundle that it presents. -/
theorem exec_settle_goes (i : Instr) (s : State) (hw : Memory.wf s.mem = true) :
    GoesOk (match exec i s with
      | .next u => u.settle exec
      | r => r) := by
  obtain ⟨t, ht, hwt⟩ := exec_goes i s hw
  rw [ht]
  exact t.settle_goes exec_goes hwt

theorem step_goes (s : State) (hw : Memory.wf s.mem = true) : GoesOk (step s) := by
  have ht : Memory.wf s.turnDone.mem = true := by simpa using hw
  unfold step
  dsimp only
  split
  case h_1 i _ =>
    split
    · split
      · exact exec_settle_goes i _ ht
      · exact State.withEntries_goes _ ht (exec_settle_goes i _ ht)
    · simpa using ht
  case h_2 c _ =>
    split
    · exact exec_goes _ _ ht
    · exact (goesOk_next _).mpr (State.engineElse_wf _ c ht)
  all_goals simp [hw]

/-- Settles O60: whatever a turn does goes on, and memory is written only in ways that keep its canonical form. -/
theorem everyStepGoesOnAndKeepsMemoryCanonical : Obligations.EveryStepGoesOnAndKeepsMemoryCanonical := by
  unfold Obligations.EveryStepGoesOnAndKeepsMemoryCanonical
  exact fun s hs => step_goes s hs

end Sys2Proof.Machine
end

section
/-! SUPPORT. A hold of wtag.clr that goes on waiting writes its core back (06 R154, R156). -/
namespace Sys2Proof.Machine
open Sys2Proof

/-- The hold of a wtag.clr on the tag of descriptor 0. -/
def Hold.onTag0 : Hold :=
  { instr := .wtagClr 1, slot := 0, seq := 0, a := 0, b := 0, dst := [], stage := 0, mark := 0, addr := 0, ended := none }

/-- A running core that it holds; no tag of the core is set. -/
def Core.onTag0 : Core := { Core.reset with run := .running, hold := some Hold.onTag0 }

/-- A device that lists this core, number 0, after core 1: its table of cores is not in rising order. -/
def State.coresOutOfOrder : State := { State.reset with cores := [(1, Core.reset), (0, Core.onTag0)] }

theorem Core.onTag0_ne_reset : Core.onTag0 ≠ Core.reset := fun h => nomatch congrArg Core.hold h

/-- The wait for the tag goes on, and writes the core back as it stands. -/
theorem exec_release_coresOutOfOrder : exec (.syncHoldRelease 0) State.coresOutOfOrder
    = .next (State.coresOutOfOrder.setCore 0 Core.onTag0) := rfl

/-- Written back, core 0 is listed before core 1, and the old entry stays behind it. -/
theorem cores_setCore_coresOutOfOrder : (State.coresOutOfOrder.setCore 0 Core.onTag0).cores
    = [(0, Core.onTag0), (1, Core.reset), (0, Core.onTag0)] := by
  simp [State.coresOutOfOrder, State.setCore, Tab.put, Tab.insert, Core.onTag0_ne_reset]

/-- Refutes O48: while a tag of its mask is not set, the release of wtag.clr is to do nothing in every state, but it writes
its core back, which gives a table of cores that is not in rising order one entry more. In a table in rising order the entry
that comes back is the one that stood there. -/
theorem not_syncOpsHoldUntilTheirCondition : ¬ Obligations.SyncOpsHoldUntilTheirCondition := by
  unfold Obligations.SyncOpsHoldUntilTheirCondition
  intro h
  obtain ⟨-, -, hrelease⟩ := h
  obtain ⟨-, -, hwtagClr, -⟩ := hrelease State.coresOutOfOrder 0 Hold.onTag0 rfl rfl rfl
  obtain ⟨hnothing, -⟩ := hwtagClr 1 rfl
  have hheld : Hold.onTag0.stage = 0 ∧ ¬∀ i, i < 16 → (1 : BitVec 16).getLsbD i = true →
      (State.coresOutOfOrder.core 0).tag i = true := ⟨rfl, fun ht => absurd (ht 0 (by decide) rfl) (by decide)⟩
  have hsame := exec_release_coresOutOfOrder.symm.trans (hnothing hheld)
  have hcores : (State.coresOutOfOrder.setCore 0 Core.onTag0).cores = State.coresOutOfOrder.cores := by
    injection hsame with e
    rw [e]
  rw [cores_setCore_coresOutOfOrder] at hcores
  exact absurd (congrArg List.length hcores) (by decide)

end Sys2Proof.Machine
end

section
/-! SUPPORT. Decode and encode agree: every slot op and micro-op decodes from its word, and a slot op from the literal bundle
that holds it alone (05 R104 to R109, R119 to R124, 12 R294). -/

namespace Sys2Proof.Laws

open Sys2Proof

/-- Every instruction decodes from its word; one proof per constructor, in the order of the opcode table. -/
theorem roundTrip (i : Instr) : RoundTrip.Statement i :=
  i.casesOn
    RoundTrip.deviceReset RoundTrip.bringupStage2 RoundTrip.bringupStage3 RoundTrip.bringupStage4
    RoundTrip.heartbeatTick RoundTrip.bundleFetch RoundTrip.queuedOpDepart RoundTrip.loadReturn RoundTrip.storePerform
    RoundTrip.homeAnswer RoundTrip.syncHoldRelease RoundTrip.lockstepMismatch RoundTrip.nop RoundTrip.add RoundTrip.sub
    RoundTrip.mul RoundTrip.mulh RoundTrip.mulhu RoundTrip.div RoundTrip.divu RoundTrip.rem RoundTrip.remu RoundTrip.and
    RoundTrip.or RoundTrip.xor RoundTrip.shl RoundTrip.shr RoundTrip.sar RoundTrip.min RoundTrip.max RoundTrip.minu
    RoundTrip.maxu RoundTrip.seq RoundTrip.slt RoundTrip.sltu RoundTrip.sel RoundTrip.clz RoundTrip.ctz RoundTrip.popc
    RoundTrip.addi RoundTrip.andi RoundTrip.ori RoundTrip.xori RoundTrip.shli RoundTrip.shri RoundTrip.sari
    RoundTrip.slti RoundTrip.sltui RoundTrip.li RoundTrip.lix RoundTrip.pset RoundTrip.pseti RoundTrip.plog
    RoundTrip.pwr RoundTrip.prd RoundTrip.ldB RoundTrip.ldH RoundTrip.ldW RoundTrip.ldD RoundTrip.ldBu RoundTrip.ldHu
    RoundTrip.ldWu RoundTrip.ldQ RoundTrip.stB RoundTrip.stH RoundTrip.stW RoundTrip.stD RoundTrip.stQ RoundTrip.splLd
    RoundTrip.splSt RoundTrip.amo RoundTrip.cas RoundTrip.tkGet RoundTrip.tkNext RoundTrip.sqInit RoundTrip.sqRes
    RoundTrip.sqCmt RoundTrip.sqRet RoundTrip.sqLen RoundTrip.sqLenCl RoundTrip.sqFork RoundTrip.sqDrop RoundTrip.sqGrow
    RoundTrip.sqBind RoundTrip.sqBindClr RoundTrip.sqAddr RoundTrip.br RoundTrip.brLoop RoundTrip.call RoundTrip.ret
    RoundTrip.jr RoundTrip.rep RoundTrip.lbPin RoundTrip.lbFree RoundTrip.trap RoundTrip.rett RoundTrip.brk
    RoundTrip.sysRd RoundTrip.sysWr RoundTrip.tlbInv RoundTrip.halt RoundTrip.yield RoundTrip.cmpt RoundTrip.cmptV
    RoundTrip.ndDone RoundTrip.ndSpawn RoundTrip.ndSel RoundTrip.vaddF RoundTrip.vsubF RoundTrip.vmulF RoundTrip.vfmaF
    RoundTrip.vminF RoundTrip.vmaxF RoundTrip.vabsF RoundTrip.vaddI RoundTrip.vsubI RoundTrip.vmulI RoundTrip.vminI
    RoundTrip.vmaxI RoundTrip.vand RoundTrip.vor RoundTrip.vxor RoundTrip.vshl RoundTrip.vshr RoundTrip.vsar
    RoundTrip.vcmp RoundTrip.vsel RoundTrip.kop RoundTrip.kpop RoundTrip.vexp2 RoundTrip.vlog2 RoundTrip.vrcp
    RoundTrip.vrsqrt RoundTrip.vtanh RoundTrip.vcvt RoundTrip.vpackMx RoundTrip.vunpk RoundTrip.vscl RoundTrip.vmov
    RoundTrip.vbcast RoundTrip.vext RoundTrip.vperm RoundTrip.vxg RoundTrip.vcmprs RoundTrip.vexpd RoundTrip.vred
    RoundTrip.vpfx RoundTrip.vdesc RoundTrip.vnoise RoundTrip.vld RoundTrip.vst RoundTrip.vldx RoundTrip.vstx
    RoundTrip.mcall RoundTrip.mpset RoundTrip.mpget RoundTrip.dsetMem RoundTrip.dsetField RoundTrip.dget RoundTrip.dtag
    RoundTrip.mzero RoundTrip.msca RoundTrip.cvRd RoundTrip.cvWr RoundTrip.cvAdd RoundTrip.cvScl RoundTrip.mucode
    RoundTrip.mucodeClr RoundTrip.ldw RoundTrip.strm RoundTrip.acc RoundTrip.grade RoundTrip.tail RoundTrip.bound
    RoundTrip.xmax RoundTrip.blk RoundTrip.seta RoundTrip.loop RoundTrip.brz RoundTrip.uend RoundTrip.cp RoundTrip.cp2d
    RoundTrip.cpMc RoundTrip.cpChain RoundTrip.cpStat RoundTrip.agCfg RoundTrip.cpAg RoundTrip.gqCfg RoundTrip.gqPush
    RoundTrip.gqEnd RoundTrip.acpyOut RoundTrip.acpyIn RoundTrip.cbInit RoundTrip.cbPush RoundTrip.cpSeq
    RoundTrip.copyPiece RoundTrip.copyComplete RoundTrip.gatherRow RoundTrip.landingCount RoundTrip.slotFilled
    RoundTrip.wait RoundTrip.wtag RoundTrip.wtagClr RoundTrip.barInit RoundTrip.barArv RoundTrip.barMark
    RoundTrip.barWait RoundTrip.barPar RoundTrip.barRet RoundTrip.flPost RoundTrip.flPostR RoundTrip.flagPostArrive
    RoundTrip.flWait RoundTrip.fenceX RoundTrip.fenceSc RoundTrip.drain RoundTrip.tkWait RoundTrip.cbPop RoundTrip.cbRel
    RoundTrip.step RoundTrip.seg RoundTrip.segOff RoundTrip.rdv RoundTrip.gBar RoundTrip.gRed RoundTrip.gInfo
    RoundTrip.bnLd RoundTrip.bnMap RoundTrip.bnMapx RoundTrip.lkSend RoundTrip.lkRecv RoundTrip.lkStat RoundTrip.lkTide
    RoundTrip.lkCirc RoundTrip.lkPark RoundTrip.lkRate RoundTrip.frameBoundary RoundTrip.tideBoundary
    RoundTrip.circuitSlotBoundary RoundTrip.drawerRequest RoundTrip.drawerResponse RoundTrip.linkPieceArrive
    RoundTrip.linkAck RoundTrip.retrainStart RoundTrip.retrainEnd RoundTrip.groupLit RoundTrip.linkStall
    RoundTrip.dispatch RoundTrip.preemptTimeout RoundTrip.contextSave RoundTrip.dispatcherRestore RoundTrip.restore
    RoundTrip.clPush RoundTrip.compactSubmit RoundTrip.compactPage RoundTrip.compactSwap RoundTrip.pageFree
    RoundTrip.groupEntryWrite RoundTrip.ticketEntryWrite RoundTrip.linkControlWrite RoundTrip.configWrite
    RoundTrip.controlPeriodEnd RoundTrip.ballastStart RoundTrip.clusterGate RoundTrip.clusterWake RoundTrip.launch
    RoundTrip.read RoundTrip.write RoundTrip.status RoundTrip.release RoundTrip.open RoundTrip.close RoundTrip.preempt
    RoundTrip.resume RoundTrip.connectionSetUp RoundTrip.peerLoadRequest

/-! ## The size of a word -/

/-- The operand fields of an instruction; none for an instruction that is no slot op. -/
def operands (i : Instr) : List (Nat × Nat) := (opFields i).elim [] (·.2.2)

theorem bit_lt_two_pow_one (b : Bool) : b.toNat < 2 ^ 1 := bit_lt b

/-- No operand field overflows its width. -/
theorem operands_lt (i : Instr) : ∀ q ∈ operands i, q.2 < 2 ^ q.1 := by
  cases i
  case cmpt sa sb =>
    simp only [operands, opFields, Option.elim, List.forall_mem_cons, List.not_mem_nil, false_implies, implies_true, and_true]
    omega
  all_goals
    simp only [operands, opFields, Option.elim, List.forall_mem_cons, List.not_mem_nil, false_implies, implies_true, and_self,
      BitVec.isLt, bit_lt_two_pow_one, Nat.two_pow_pos, show 1 < 2 ^ 1 from by decide, show 1 < 2 ^ 2 from by decide,
      show 24 < 2 ^ 12 from by decide]

/-- An OP value has seven bits, and the operand fields of an op fill bits 34 to 0 (05 R109). -/
theorem opFields_widths (i : Instr) :
    (opFields i).all (fun p => decide (p.2.1 < 128) && (p.2.2.map Prod.fst).sum == 35) = true := by
  cases i <;>
    simp only [opFields, Option.all_none, Option.all_some, List.map_cons, List.map_nil, List.sum_cons, List.sum_nil,
      Nat.reduceAdd, Nat.reduceLT, decide_true, BEq.rfl, Bool.and_self]

/-- The word of an op has 47 bits. -/
theorem encodeOp_lt (pg : BitVec 5) (i : Instr) : encodeOp pg i < 2 ^ 47 := by
  unfold encodeOp
  cases h : opFields i with
  | none => exact Nat.two_pow_pos 47
  | some p =>
    obtain ⟨cls, op, r⟩ := p
    have hr := operands_lt i
    have hw := opFields_widths i
    simp only [operands, h, Option.elim_some] at hr
    simp only [h, Option.all_some, Bool.and_eq_true, decide_eq_true_eq, beq_iff_eq] at hw
    obtain ⟨ho, hs⟩ := hw
    have hfits : ∀ q ∈ (7, op) :: (5, pg.toNat) :: r, q.2 < 2 ^ q.1 :=
      List.forall_mem_cons.2 ⟨ho, List.forall_mem_cons.2 ⟨pg.isLt, hr⟩⟩
    simpa [hs] using pack_lt _ hfits

/-! ## The code words of a bundle of one op -/

/-- Joining gives back what was split. -/
theorem joinWords_splitWords (n bits : Nat) : joinWords (splitWords n bits) = bits % 65536 ^ n := by
  induction n generalizing bits with
  | zero => simp [splitWords, joinWords, Nat.mod_one]
  | succ n ih => rw [splitWords, joinWords, ih, Nat.mod_mod, Nat.pow_succ', Nat.mod_mul]

theorem length_splitWords (n bits : Nat) : (splitWords n bits).length = n := by
  induction n generalizing bits with
  | zero => rfl
  | succ n ih => simp [splitWords, ih]

/-- The image of a bundle of one op: its mask byte, and the op above it. -/
theorem encodeBundle_one (slot w : Nat) : encodeBundle [(slot, w)] = 2 ^ slot + 256 * w := by simp [encodeBundle]

/-- The mask byte of a bundle of one op announces that op's slot. -/
theorem slots_two_pow (slot : Nat) (h : slot < 8) : (List.range 8).filter ((2 ^ slot).testBit ·) = [slot] := by
  interval_cases slot <;> decide

section
variable {slot w : Nat} (hs : slot < 8) (hw : w < 2 ^ 47)
include hs

theorem mask_encodeBundle_one : encodeBundle [(slot, w)] % 256 = 2 ^ slot := by
  have hp : 2 ^ slot < 256 := Nat.pow_lt_pow_right (by decide : 1 < 2) hs
  rw [encodeBundle_one]
  generalize 2 ^ slot = p at hp
  omega

theorem maskCount_two_pow : maskCount (2 ^ slot) = 1 := by rw [maskCount, slots_two_pow slot hs]; rfl

theorem ops_encodeBundle_one : encodeBundle [(slot, w)] / 2 ^ 8 = w := by
  have hp : 2 ^ slot < 256 := Nat.pow_lt_pow_right (by decide : 1 < 2) hs
  rw [encodeBundle_one]
  generalize 2 ^ slot = p at hp
  omega

include hw

/-- A bundle of one op has no bit set above that op (05 R108). -/
theorem paddingZero_encodeBundle_one : paddingZero (encodeBundle [(slot, w)]) = true := by
  have hd := ops_encodeBundle_one (w := w) hs
  rw [paddingZero, mask_encodeBundle_one hs, maskCount_two_pow hs, beq_iff_eq, Nat.pow_add, ← Nat.div_div_eq_div_mul, hd]
  exact Nat.div_eq_of_lt hw

/-- The bundle of one op holds that op in its slot. -/
theorem bundleOps_encodeBundle_one : bundleOps (encodeBundle [(slot, w)]) = [(slot, w)] := by
  have hd := ops_encodeBundle_one (w := w) hs
  simp [bundleOps, mask_encodeBundle_one hs, slots_two_pow slot hs]
  omega

/-- The code words of the literal bundle of one op decode to its image (05 R104). -/
theorem decodeCodeWord_literalCode_one :
    decodeCodeWord (literalCode [(slot, w)]) [] 0 = .image (encodeBundle [(slot, w)]) 10 := by
  have hmask := mask_encodeBundle_one (w := w) hs
  have hcount := maskCount_two_pow hs
  have hjoin := joinWords_splitWords 4 (encodeBundle [(slot, w)])
  have hlen := length_splitWords 4 (encodeBundle [(slot, w)])
  have hlt : encodeBundle [(slot, w)] < 65536 ^ 4 := by have := ops_encodeBundle_one (w := w) hs; omega
  rw [Nat.mod_eq_of_lt hlt] at hjoin
  have hfirst : encodeBundle [(slot, w)] % 65536 % 256 = 2 ^ slot := by omega
  have hfour : literalWords (maskCount (encodeBundle [(slot, w)] % 65536 % 256)) = 4 := by rw [hfirst, hcount]; rfl
  have hcode : literalCode [(slot, w)] = 0xFFFF :: splitWords 4 (encodeBundle [(slot, w)]) := by
    simp [literalCode, literalWords]
  rw [hcode]
  rw [splitWords] at hlen hjoin ⊢
  simp only [decodeCodeWord, Nat.zero_div, List.drop_zero, if_true, hfour, hlen]
  rw [if_neg (by decide), List.take_of_length_le (by rw [hlen]), hjoin]

/-- The literal bundle of one op gives the instruction that the op decodes to. -/
theorem soleInstr_literalCode_one {pg : BitVec 5} {i : Instr} (h : decodeOp (slotClass slot) w = .ok (pg, i)) :
    soleInstr (decodeCodeWord (literalCode [(slot, w)]) [] 0) = some i := by
  rw [decodeCodeWord_literalCode_one hs hw]
  simp [soleInstr, paddingZero_encodeBundle_one hs hw, bundleOps_encodeBundle_one hs hw, h]

end

/-- An op alone stands in the first slot of its class. -/
theorem encode_of_opFields {i : Instr} {cls : SlotClass} {op : Nat} {r : List (Nat × Nat)}
    (h : opFields i = some (cls, op, r)) :
    ∃ slot, slot < 8 ∧ slotClass slot = cls ∧ encode i = literalCode [(slot, encodeOp 0 i)] := by
  simp only [encode, h]
  cases cls
  all_goals exact ⟨_, by decide, rfl, rfl⟩

/-- Settles O59: the round trip of each word, and the literal bundle of one op around it. -/
theorem encodedInstructionsDecodeToThemselves : Obligations.EncodedInstructionsDecodeToThemselves := by
  unfold Obligations.EncodedInstructionsDecodeToThemselves
  intro i hwf
  obtain ⟨hslot, hmicro⟩ := roundTrip i hwf
  refine ⟨hslot, hmicro, fun hsome => ?_⟩
  obtain ⟨⟨cls, op, r⟩, hf⟩ := Option.isSome_iff_exists.mp hsome
  obtain ⟨slot, hlt, rfl, hcode⟩ := encode_of_opFields hf
  rw [hcode]
  exact soleInstr_literalCode_one hlt (encodeOp_lt 0 i) (hslot 0 _ op r (by decide) hf)

/-! ## Words written out -/

/-- Settles O58, each word by evaluating the decoder on it. -/
theorem writtenOutWordsDecodeToTheirInstructions : Obligations.WrittenOutWordsDecodeToTheirInstructions := by
  unfold Obligations.WrittenOutWordsDecodeToTheirInstructions
  refine ⟨?_, ?_, ?_, ?_, ?_, ?_, ?_, ?_, ?_, ?_, ?_, ?_, ?_, ?_, ?_, ?_, ?_, ?_, ?_, ?_⟩
  all_goals decide

end Sys2Proof.Laws
end

section
/-! SUPPORT. A fetch with the record of another bundle still active settles that record. -/

namespace Sys2Proof.Machine

open Sys2Proof

/-- add s2, s2, s2, alone in its bundle. -/
def SlotOp.addS2 : SlotOp := { slot := 0, pg := 0, instr := .add 2 2 2, raw := encodeOp 0 (.add 2 2 2) }

/-- A running core at that bundle, whose register s2 waits for a producer. -/
def Core.atMarkedAdd : Core :=
  { Core.reset with
    run := .running, code := encode (.add 2 2 2)
    outs := [{ id := 0, seq := 0, kind := .done, dst := [.s 2], inL := false, pc := 0, asked := none, ready := none }] }

/-- A device whose core 0 it is and fetches next, while the record of a bundle with no op is active. -/
def State.staleIssue : State :=
  { State.reset with
    cores := [(0, Core.atMarkedAdd)], agenda := [.event (.bundleFetch 0)], iss := { Issue.none with active := true } }

/-- The add stands decoded at the pc of core 0, which has nothing pending. -/
theorem staleIssue_standsAt : State.staleIssue.standsAt 0 10 SlotOp.addS2 := by
  have hlt := Laws.encodeOp_lt 0 (.add 2 2 2)
  exact ⟨rfl, rfl, rfl, rfl, rfl, rfl, rfl, rfl, rfl, rfl, rfl, rfl, encodeBundle [(0, SlotOp.addS2.raw)],
    Laws.decodeCodeWord_literalCode_one (by decide) hlt, Laws.paddingZero_encodeBundle_one (by decide) hlt,
    Laws.bundleOps_encodeBundle_one (by decide) hlt, (Laws.roundTrip (.add 2 2 2) rfl).1 0 .s 0x01 _ (by decide) rfl⟩

/-- The pending mark of s2 stalls the add, and nothing before it does. -/
theorem atMarkedAdd_stalls : Core.atMarkedAdd.opWaits [SlotOp.addS2] = false ∧ Core.atMarkedAdd.skewed = false
    ∧ Core.atMarkedAdd.pastLimit [SlotOp.addS2] = false ∧ Core.atMarkedAdd.marked [SlotOp.addS2] = true :=
  ⟨rfl, rfl, rfl, rfl⟩

/-- After the stall the record that was active settles in the same step: its bundle issues, and no bundle is active. -/
theorem step_staleIssue : ∃ t, step State.staleIssue = .next t ∧ t.iss.active = false := ⟨_, rfl, rfl⟩

/-- Refutes O57: the statement asks for the same step in every state, also in one whose record of the bundle in hand is
active before the step begins. There an op that a pending mark stalls is to add one to STALL_LOAD and nothing
else, but the step settles that record too. -/
theorem not_stepRunsTheDecodedInstruction : ¬ Obligations.StepRunsTheDecodedInstruction := by
  unfold Obligations.StepRunsTheDecodedInstruction
  intro h
  obtain ⟨-, -, hbundle, -⟩ := h
  obtain ⟨-, -, hmarked, -⟩ := hbundle State.staleIssue 0 [] 10 SlotOp.addS2 false rfl rfl staleIssue_standsAt (.inr (.inl rfl))
  obtain ⟨hwaits, hskew, hlimit, hmark⟩ := atMarkedAdd_stalls
  have hstall := hmarked (iff_of_true (.inr rfl) rfl) hwaits hskew hlimit hmark rfl
  obtain ⟨t, hstep, hidle⟩ := step_staleIssue
  obtain rfl := Host.Outcome.next.inj (hstall.symm.trans hstep)
  exact absurd hidle (by decide)

end Sys2Proof.Machine
end

section
/-! SUPPORT. Scalar ops of slot S: what a single destination receives (06 R136 to R140), and the values of the tables as numbers. -/

namespace Sys2Proof.Machine

open Sys2Proof

/-! ## One destination -/

section
variable {s : State} {i : Instr} {sd sa sb : SR} {x : W64}

/-- An op of two sources gives sd the value of its function. -/
theorem setsS_of_alu2 {f : W64 → W64 → W64} (h : exec i s = .next (s.alu2 f sd sa sb))
    (hx : f (s.srcS sa) (s.srcS sb) = x) : SetsS s i sd x := hx ▸ setsS_of_dstS h

theorem setsS_of_alu1 {f : W64 → W64} (h : exec i s = .next (s.alu1 f sd sa)) (hx : f (s.srcS sa) = x) :
    SetsS s i sd x := hx ▸ setsS_of_dstS h

/-- The same under a pending mark (06 R130). -/
theorem setsSLate_of_alu2Long {f : W64 → W64 → W64} (h : exec i s = .next (s.alu2Long f sd sa sb))
    (hx : f (s.srcS sa) (s.srcS sb) = x) : SetsSLate s i sd x := hx ▸ setsSLate_of_markS h

end

/-! ## Shifts, comparisons and immediates -/

/-- The count of a shift is its low six bits. -/
theorem fld_low_six (b : W64) : fld b 0 6 = b.toNat % 64 := by simp [fld, bitsAt]

theorem shiftLeft_eq_ofNat (a : W64) (n : Nat) : a <<< n = .ofNat 64 (a.toNat * 2 ^ n) :=
  BitVec.eq_of_toNat_eq (by simp [Nat.shiftLeft_eq])

theorem ushiftRight_eq_ofNat (a : W64) (n : Nat) : a >>> n = .ofNat 64 (a.toNat / 2 ^ n) := by
  apply BitVec.eq_of_toNat_eq
  rw [BitVec.toNat_ushiftRight, Nat.shiftRight_eq_div_pow, BitVec.toNat_ofNat,
    Nat.mod_eq_of_lt (Nat.lt_of_le_of_lt (Nat.div_le_self _ _) a.isLt)]

theorem sshiftRight_eq_ofInt (a : W64) (n : Nat) : a.sshiftRight n = .ofInt 64 (a.toInt / 2 ^ n) := by
  rw [← BitVec.ofInt_toInt (x := a.sshiftRight n), BitVec.toInt_sshiftRight, Int.shiftRight_eq_div_pow]
  rfl

theorem add_eq_ofNat (a b : W64) : a + b = .ofNat 64 (a.toNat + b.toNat) := BitVec.eq_of_toNat_eq (by simp)

theorem add_eq_ofInt (a b : W64) : a + b = .ofInt 64 (a.toInt + b.toInt) := by simp [BitVec.ofInt_add]

theorem sub_eq_ofInt (a b : W64) : a - b = .ofInt 64 (a.toInt - b.toInt) := by
  apply BitVec.eq_of_toInt_eq; simp [BitVec.toInt_sub]

/-- The immediate keeps its value as it is sign-extended (06 R138). -/
theorem toInt_sx {n : Nat} (x : BitVec n) (h : n ≤ 64) : (sx x).toInt = x.toInt :=
  BitVec.toInt_signExtend_of_le h

theorem sx_eq_ofInt {n : Nat} (x : BitVec n) (h : n ≤ 64) : sx x = .ofInt 64 x.toInt := by
  rw [← toInt_sx x h, BitVec.ofInt_toInt]

theorem bool64_eq_ite {b : Bool} {p : Prop} [Decidable p] (h : b = true ↔ p) : bool64 b = if p then 1 else 0 := by
  unfold bool64; simp [h]

/-! ## Bit counts -/

/-- The number of leading zeros, by the highest bit that is set. -/
theorem leadingZeros_spec (a : W64) :
    if a = 0 then leadingZeros a = 64
    else leadingZeros a < 64 ∧ a.getLsbD (63 - leadingZeros a) = true
      ∧ ∀ j, 63 - leadingZeros a < j → j < 64 → a.getLsbD j = false := by
  unfold leadingZeros
  split
  · rfl
  · rename_i h
    have h0 : a.toNat ≠ 0 := fun hn => h (BitVec.eq_of_toNat_eq hn)
    have hlog : Nat.log2 a.toNat < 64 := (Nat.log2_lt h0).mpr a.isLt
    have hbit : 63 - (63 - Nat.log2 a.toNat) = Nat.log2 a.toNat := by omega
    rw [hbit]
    refine ⟨by omega, ?_, fun j hj _ => ?_⟩
    · exact Nat.testBit_log2 h0
    · exact Nat.testBit_lt_two_pow ((Nat.log2_lt h0).mp hj)

/-- The number of trailing zeros is the lowest bit that is set. -/
theorem trailingZeros_spec (a : W64) :
    if a = 0 then trailingZeros a = 64
    else trailingZeros a < 64 ∧ a.getLsbD (trailingZeros a) = true ∧ ∀ j, j < trailingZeros a → a.getLsbD j = false := by
  unfold trailingZeros
  cases hf : (List.range 64).find? a.getLsbD with
  | none =>
    have h0 : a = 0 := by
      apply BitVec.eq_of_getLsbD_eq
      intro i hi
      simpa using List.find?_eq_none.mp hf i (List.mem_range.mpr hi)
    rw [if_pos h0]; rfl
  | some n =>
    obtain ⟨hn, hlt, hfirst⟩ := List.find?_range_eq_some.mp hf
    have h0 : a ≠ 0 := by rintro rfl; simp at hn
    rw [if_neg h0]
    exact ⟨List.mem_range.mp hlt, hn, fun j hj => by simpa using hfirst j hj⟩

theorem oneBits_eq_countP (a : W64) : oneBits a = (List.range 64).countP a.getLsbD := List.countP_eq_length_filter.symm

/-! ## Latency 1 -/

/-- Where equal sources choose the same value, a strict comparison chooses as a weak one does. -/
theorem ite_lt_eq_ite_le {α β : Type} [LinearOrder α] {u v : α} {x y : β} (h : u = v → x = y) :
    (if u < v then x else y) = if u ≤ v then x else y := by
  by_cases hlt : u < v
  · rw [if_pos hlt, if_pos hlt.le]
  · by_cases hle : u ≤ v
    · rw [if_neg hlt, if_pos hle, h (le_antisymm hle (not_lt.mp hlt))]
    · rw [if_neg hlt, if_neg hle]

theorem ite_slt {β : Type} (a b : W64) (x y : β) : (if a.slt b then x else y) = if a.toInt < b.toInt then x else y := by
  simp [BitVec.slt_eq_decide]

theorem ite_ult {β : Type} (a b : W64) (x y : β) : (if a.ult b then x else y) = if a.toNat < b.toNat then x else y := by
  simp [BitVec.ult_eq_decide]

/-- Settles O1: each op writes the value of its function to sd; the values are those of the table. -/
theorem scalarOpsOfLatencyOneWriteOnlySd : Obligations.ScalarOpsOfLatencyOneWriteOnlySd := by
  unfold Obligations.ScalarOpsOfLatencyOneWriteOnlySd
  intro s sd sa sb pn inv a b
  have hcount : fld b 0 6 = b.toNat % 64 := fld_low_six b
  have hsigned : a.toInt = b.toInt → a = b := BitVec.eq_of_toInt_eq
  have hunsigned : a.toNat = b.toNat → a = b := BitVec.eq_of_toNat_eq
  refine ⟨rfl, setsS_of_alu2 rfl (add_eq_ofNat a b), setsS_of_alu2 rfl (sub_eq_ofInt a b), setsS_of_alu2 rfl rfl,
    setsS_of_alu2 rfl rfl, setsS_of_alu2 rfl rfl, setsS_of_alu2 rfl ?shl, setsS_of_alu2 rfl ?shr, setsS_of_alu2 rfl ?sar,
    setsS_of_alu2 rfl ?min, setsS_of_alu2 rfl ?max, setsS_of_alu2 rfl ?minu, setsS_of_alu2 rfl ?maxu,
    setsS_of_alu2 rfl ?seq, setsS_of_alu2 rfl ?slt, setsS_of_alu2 rfl ?sltu, ?sel,
    ⟨_, setsS_of_alu1 rfl rfl, leadingZeros_spec a⟩, ⟨_, setsS_of_alu1 rfl rfl, trailingZeros_spec a⟩,
    setsS_of_alu1 rfl (congrArg _ (oneBits_eq_countP a))⟩
  case shl => exact (hcount ▸ shiftLeft_eq_ofNat a _)
  case shr => exact (hcount ▸ ushiftRight_eq_ofNat a _)
  case sar => exact (hcount ▸ sshiftRight_eq_ofInt a _)
  case min => exact (ite_slt a b a b).trans (ite_lt_eq_ite_le hsigned)
  case max => exact (ite_slt a b b a).trans (ite_lt_eq_ite_le fun h => (hsigned h).symm)
  case minu => exact (ite_ult a b a b).trans (ite_lt_eq_ite_le hunsigned)
  case maxu => exact (ite_ult a b b a).trans (ite_lt_eq_ite_le fun h => (hunsigned h).symm)
  case seq => exact bool64_eq_ite beq_iff_eq
  case slt => exact ite_slt a b 1 0
  case sltu => exact ite_ult a b 1 0
  case sel =>
    have hsel : (if s.srcP pn != inv then a else b) = if s.srcP pn = !inv then a else b := by
      cases s.srcP pn <;> cases inv <;> rfl
    exact hsel ▸ setsS_of_dstS rfl

end Sys2Proof.Machine
end

section
/-! SUPPORT. Products, quotients, immediates and conditions of slot S as numbers (06 R136 to R139). -/

namespace Sys2Proof.Machine

open Sys2Proof

/-! ## Products and quotients -/

theorem mul_eq_ofNat (a b : W64) : a * b = .ofNat 64 (a.toNat * b.toNat) := BitVec.eq_of_toNat_eq (by simp)

/-- The high half of a product that 128 bits hold as an integer. -/
theorem highHalf_ofInt (p : Int) : ((BitVec.ofInt 128 p) >>> 64).setWidth 64 = BitVec.ofInt 64 (p / 2 ^ 64) := by
  apply BitVec.eq_of_toNat_eq
  simp only [BitVec.toNat_setWidth, BitVec.toNat_ushiftRight, BitVec.toNat_ofInt, Nat.shiftRight_eq_div_pow]
  omega

theorem mulHighSigned_eq (a b : W64) : mulHighSigned a b = .ofInt 64 (a.toInt * b.toInt / 2 ^ 64) := by
  unfold mulHighSigned
  rw [← highHalf_ofInt, BitVec.ofInt_mul]
  rfl

theorem mulHighUnsigned_eq (a b : W64) : mulHighUnsigned a b = .ofNat 64 (a.toNat * b.toNat / 2 ^ 64) := by
  have hwide : a.setWidth 128 * b.setWidth 128 = .ofInt 128 (a.toNat * b.toNat : Nat) := by
    apply BitVec.eq_of_toNat_eq
    rw [BitVec.ofInt_natCast]
    simp
  unfold mulHighUnsigned
  rw [hwide, highHalf_ofInt, ← BitVec.ofInt_natCast]
  rfl

section
variable {n d : W64} (hd : d ≠ 0)
include hd

/-- A quotient by a divisor other than 0 is truncated toward zero (06 R136). -/
theorem divSigned_eq : divSigned n d = .ofInt 64 (n.toInt.tdiv d.toInt) := by
  unfold divSigned
  rw [if_neg hd]
  apply BitVec.eq_of_toInt_eq
  rw [BitVec.toInt_sdiv, BitVec.toInt_ofInt]

/-- The remainder has the sign of the dividend (06 R136). -/
theorem remSigned_eq : remSigned n d = .ofInt 64 (n.toInt.tmod d.toInt) := by
  unfold remSigned
  rw [if_neg hd, ← BitVec.toInt_srem, BitVec.ofInt_toInt]

theorem divUnsigned_eq : divUnsigned n d = .ofNat 64 (n.toNat / d.toNat) := by
  unfold divUnsigned
  rw [if_neg hd, ← BitVec.toNat_udiv, BitVec.ofNat_toNat, BitVec.setWidth_eq]

theorem remUnsigned_eq : remUnsigned n d = .ofNat 64 (n.toNat % d.toNat) := by
  unfold remUnsigned
  rw [if_neg hd, ← BitVec.toNat_umod, BitVec.ofNat_toNat, BitVec.setWidth_eq]

end

/-- Division by zero (06 R137). -/
theorem divSigned_zero (n : W64) : divSigned n 0 = if 0 ≤ n.toInt then -1 else 1 := by
  unfold divSigned
  rw [if_pos rfl, BitVec.msb_eq_toInt]
  by_cases h : n.toInt < 0
  · rw [if_pos (decide_eq_true h), if_neg (not_le.mpr h)]
  · rw [if_neg (by simpa using h), if_pos (not_lt.mp h)]

/-- Settles O3: the functions of division give each corner its row, and every division completes. -/
theorem divisionTakesNoTrapInItsCorners : Obligations.DivisionTakesNoTrapInItsCorners := by
  unfold Obligations.DivisionTakesNoTrapInItsCorners
  intro s sd sa sb n d
  constructor
  · intro hd
    exact ⟨setsSLate_of_alu2Long rfl ((congrArg _ hd).trans (divSigned_zero n)), setsSLate_of_alu2Long rfl (if_pos hd),
      setsSLate_of_alu2Long rfl (if_pos hd), setsSLate_of_alu2Long rfl (if_pos hd)⟩
  · intro hn hd
    have hd0 : d ≠ 0 := by rw [hd]; decide
    have hdiv : divSigned n d = 0x8000000000000000 := by rw [hn, hd]; decide
    have hrem : remSigned n d = 0 := by rw [hn, hd]; decide
    exact ⟨setsSLate_of_alu2Long rfl hdiv, setsSLate_of_alu2Long rfl hrem,
      setsSLate_of_alu2Long rfl (divUnsigned_eq hd0), setsSLate_of_alu2Long rfl (remUnsigned_eq hd0)⟩

/-! ## Immediates -/

/-- An immediate of 23 bits enters below a value shifted by 23 (06 R138). -/
theorem lix_eq_ofNat (a : W64) (imm : BitVec 23) :
    (a <<< 23) ||| imm.setWidth 64 = .ofNat 64 (a.toNat * 2 ^ 23 + imm.toNat) := by
  have hdisjoint : (a <<< 23) &&& imm.setWidth 64 = 0 := by
    apply BitVec.eq_of_getLsbD_eq
    intro i hi
    by_cases h : i < 23
    · simp [h]
    · simp [BitVec.getLsbD_of_ge imm i (by omega)]
  rw [← BitVec.add_eq_or_of_and_eq_zero _ _ hdisjoint]
  apply BitVec.eq_of_toNat_eq
  have := imm.isLt
  simp [Nat.shiftLeft_eq, Nat.add_mod]

/-- Settles O4: the immediate keeps its value as it is extended. -/
theorem immediateOpsUseTheExtendedImmediate : Obligations.ImmediateOpsUseTheExtendedImmediate := by
  unfold Obligations.ImmediateOpsUseTheExtendedImmediate
  intro s sd sa imm count a x
  have hx : sx imm = x := sx_eq_ofInt imm (by decide)
  have hi : (sx imm).toInt = imm.toInt := toInt_sx imm (by decide)
  exact ⟨setsS_of_alu1 rfl (by rw [← hi]; exact add_eq_ofInt a (sx imm)), setsS_of_alu1 rfl (congrArg (a &&& ·) hx),
    setsS_of_alu1 rfl (congrArg (a ||| ·) hx), setsS_of_alu1 rfl (congrArg (a ^^^ ·) hx),
    setsS_of_alu1 rfl (shiftLeft_eq_ofNat a _), setsS_of_alu1 rfl (ushiftRight_eq_ofNat a _),
    setsS_of_alu1 rfl (sshiftRight_eq_ofInt a _), setsS_of_alu1 rfl (by rw [← hi]; exact ite_slt a (sx imm) 1 0),
    setsS_of_alu1 rfl (by rw [← hx]; exact ite_ult a (sx imm) 1 0), hx ▸ setsS_of_dstS rfl,
    setsS_of_alu1 rfl (lix_eq_ofNat a imm)⟩

/-! ## Conditions and predicates -/

/-- Settles O5: each code of the table is one comparison of 64-bit words. -/
theorem conditionCodesCompareAsTheTableSays : Obligations.ConditionCodesCompareAsTheTableSays := by
  unfold Obligations.ConditionCodesCompareAsTheTableSays
  intro a b
  refine ⟨beq_iff_eq, bne_iff_ne, ?lt, ?ge, ?ltu, ?geu, bne_iff_ne, beq_iff_eq⟩
  case lt => exact BitVec.slt_iff_toInt_lt
  case ltu => exact BitVec.ult_iff_toNat_lt
  case ge =>
    have hge : condition 3 a b = !a.slt b := rfl
    rw [hge, Bool.not_eq_true', ← Bool.not_eq_true, BitVec.slt_iff_toInt_lt, not_lt]
  case geu =>
    have hge : condition 5 a b = !a.ult b := rfl
    rw [hge, Bool.not_eq_true', ← Bool.not_eq_true, BitVec.ult_iff_toNat_lt, not_lt]

end Sys2Proof.Machine
end

section
/-! SUPPORT. Writes of one predicate of the window (06 R128, R140). -/

namespace Sys2Proof.Machine

open Sys2Proof

/-- The window after a write of predicate pd: every other predicate stays, and p0 is 1 (06 R128). -/
theorem getLsbD_setPred (w : BitVec 16) (pd : PR) (v : Bool) (n : Nat) :
    (setPred w pd v).getLsbD n = if n = 0 then true else if n = pd.toNat then v else w.getLsbD n := by
  have hp0 : (1 : BitVec 16).getLsbD n = decide (n = 0) := by
    show (1#16).getLsbD n = _
    rw [BitVec.getLsbD_one]
    simp
  unfold setPred
  rw [BitVec.getLsbD_or, hp0]
  by_cases h0 : n = 0
  · simp [h0]
  · rw [if_neg h0, decide_eq_false h0, Bool.or_false]
    cases v
    · rw [b2n, if_neg Bool.false_ne_true, getLsbD_setFld_clear]
      by_cases h : n = pd.toNat <;> simp [h]
    · rw [b2n, if_pos rfl, getLsbD_setFld_set _ pd.isLt]
      by_cases h : n = pd.toNat <;> simp [h]

theorem setPred_or_one (w : BitVec 16) (pd : PR) (v : Bool) : setPred w pd v ||| 1 = setPred w pd v := by
  unfold setPred
  rw [BitVec.or_assoc]
  rfl

/-- An op that writes one predicate changes PWIN alone. -/
theorem setsPwin_of_setPred {i : Instr} {s : State} {w : BitVec 16} {pd : PR} {v : Bool}
    (h : exec i s = .next (s.dstPwin (setPred w pd v))) : SetsPwin s i (setPred w pd v) :=
  setPred_or_one w pd v ▸ setsPwin_of_dstPwin h

/-- Settles O6: pset, pseti and plog write one predicate of the window as the bundle found it. -/
theorem predicateOpsWriteOnlyThePredicateWindow : Obligations.PredicateOpsWriteOnlyThePredicateWindow := by
  unfold Obligations.PredicateOpsWriteOnlyThePredicateWindow
  intro s sd sa sb pd pa pb cond imm op mask _ only
  have himm : sx imm = .ofInt 64 imm.toInt := sx_eq_ofInt imm (by decide)
  exact ⟨⟨_, setsPwin_of_setPred rfl, fun n _ => getLsbD_setPred _ pd _ n⟩,
    ⟨_, setsPwin_of_setPred rfl, himm ▸ fun n _ => getLsbD_setPred _ pd _ n⟩,
    ⟨_, setsPwin_of_setPred rfl, fun n _ => getLsbD_setPred _ pd _ n⟩, setsPwin_of_dstPwin rfl, setsS_of_dstS rfl⟩

end Sys2Proof.Machine
end

section
/-! SUPPORT. The bit network (06 R164 to R166): the bits of a permuted word, and the pattern that a load fills. -/

namespace Sys2Proof.Machine

open Sys2Proof

/-! ## A word by its bits -/

/-- The number whose bits below n are those of f. -/
def bitSum (f : Nat → Bool) (n : Nat) : Nat := ((List.range n).map fun j => if f j then 2 ^ j else 0).sum

theorem bitSum_succ (f : Nat → Bool) (n : Nat) : bitSum f (n + 1) = 2 ^ n * (f n).toNat + bitSum f n := by
  unfold bitSum
  rw [List.range_succ, List.map_append, List.sum_append, Nat.add_comm]
  cases hf : f n <;> simp [hf]

theorem bitSum_lt (f : Nat → Bool) (n : Nat) : bitSum f n < 2 ^ n := by
  induction n with
  | zero => exact Nat.one_pos
  | succ n ih =>
    have := (f n).toNat_le
    rw [bitSum_succ, Nat.pow_succ]
    nlinarith

theorem testBit_bitSum (f : Nat → Bool) (n j : Nat) : (bitSum f n).testBit j = (decide (j < n) && f j) := by
  induction n with
  | zero => simp [bitSum]
  | succ n ih =>
    rw [bitSum_succ, Nat.testBit_two_pow_mul_add _ (bitSum_lt f n), ih]
    by_cases hj : j < n
    · simp [hj, Nat.lt_succ_of_lt hj]
    · rw [if_neg hj, Nat.testBit_bool_toNat]
      by_cases he : j = n
      · simp [he]
      · simp [show ¬j < n + 1 by omega, show j - n ≠ 0 by omega]

/-- Bit j of a permuted word (06 R164). -/
theorem getLsbD_bitMap (keep : Bool) (p : BitVec 512) (a b old : W64) {j : Nat} (hj : j < 64) :
    (bitMap keep p a b old).getLsbD j = mapBit keep p a b old j := by
  show (BitVec.ofNat 64 (bitSum (mapBit keep p a b old) 64)).getLsbD j = _
  rw [BitVec.getLsbD_ofNat, testBit_bitSum]
  simp [hj]

/-- What a selector gives: a bit of the source below 128, and a constant or the old bit above (06 R164). -/
theorem mapBit_eq (keep : Bool) (p : BitVec 512) (a b old : W64) (j : Nat) :
    mapBit keep p a b old j =
      if selector p j < 128 then (b ++ a).getLsbD (selector p j)
      else if keep then old.getLsbD j else decide (selector p j % 2 = 1) := by
  unfold mapBit
  rw [BitVec.getLsbD_append]
  by_cases h64 : selector p j < 64
  · simp [h64, show selector p j < 128 by omega]
  · simp only [h64, if_false]
    rfl

/-- Settles O7: a permuted word has, bit for bit, what its selectors name. -/
theorem bitNetworkMovesTheSelectedBits : Obligations.BitNetworkMovesTheSelectedBits := by
  unfold Obligations.BitNetworkMovesTheSelectedBits
  intro s sd sa sb n p source
  have hbit : ∀ (keep : Bool) (j : Nat), j < 64 → (bitMap keep p (s.srcS sa) (s.srcS sb) (s.srcS sd)).getLsbD j =
      if selector p j < 128 then source.getLsbD (selector p j)
      else if keep then (s.srcS sd).getLsbD j else decide (selector p j % 2 = 1) := fun keep j hj =>
    (getLsbD_bitMap keep p _ _ _ hj).trans (mapBit_eq keep p _ _ _ j)
  exact ⟨⟨_, setsS_of_dstS rfl, hbit false⟩, ⟨_, setsS_of_dstS rfl, hbit true⟩⟩

/-! ## Bytes of a little-endian number -/

theorem leNat_lt (bs : List Byte) : leNat bs < 2 ^ (8 * bs.length) := by
  induction bs with
  | nil => simp [leNat]
  | cons b bs ih =>
    have hb := b.isLt
    rw [List.length_cons, Nat.mul_succ, Nat.pow_add]
    unfold leNat
    omega

/-- Byte j of a little-endian number (03 R56). -/
theorem leNat_byte (bs : List Byte) (j : Nat) : leNat bs / 2 ^ (8 * j) % 256 = (bs.getD j 0).toNat := by
  induction bs generalizing j with
  | nil => simp [leNat]
  | cons b bs ih =>
    have hb := b.isLt
    unfold leNat
    cases j with
    | zero => simp; omega
    | succ j =>
      rw [show 8 * (j + 1) = 8 + 8 * j by omega, Nat.pow_add, ← Nat.div_div_eq_div_mul,
        show (b.toNat + 256 * leNat bs) / 2 ^ 8 = leNat bs by omega, ih]
      rfl

/-- A word takes the bytes of a little-endian number that fill it. -/
theorem toNat_ofNat_leNat {w : Nat} {bs : List Byte} (h : 8 * bs.length = w) : (BitVec.ofNat w (leNat bs)).toNat = leNat bs := by
  subst h
  rw [BitVec.toNat_ofNat, Nat.mod_eq_of_lt (leNat_lt bs)]

@[simp] theorem length_bytesSeen (s : State) (v : View) (pa n : Nat) : (s.bytesSeen v pa n).length = n := by
  simp [State.bytesSeen]

theorem getD_bytesSeen (s : State) (v : View) (pa : Nat) {n j : Nat} (hj : j < n) :
    (s.bytesSeen v pa n).getD j 0 = s.seen v (pa + j) := by
  simp [State.bytesSeen, hj]

/-! ## bn.ld -/

/-- A pattern that is written reads back, and the others stay. -/
theorem Core.bnet_setReg (k : Core) (n m x : Nat) :
    (k.setReg (.bn n) x).bnet m = if m = n then .ofNat 512 x else k.bnet m := Tab.get_put _ _ _ _ _

@[simp] theorem Core.bnet_addOut (k : Core) (seq : Nat) (kind : OutKind) (dst : List Reg) (inL : Bool) (m : Nat) :
    (k.addOut seq kind dst inL).bnet m = k.bnet m := rfl

/-- A bn.ld whose 64 bytes lie in the window of its own scratchpad passes its checks (06 R165). -/
theorem bnLdCheck_ok (s : State) {va : W64} (hal : va.toNat % 64 = 0) (hw : va.toNat + 64 ≤ 0x200000) :
    s.bnLdCheck va = .ok () := by
  have hhigh : ¬fld va 57 7 ≠ 0 := by rw [fld_high_eq]; omega
  unfold State.bnLdCheck
  rw [if_neg (by omega), if_neg hhigh, if_neg (by omega)]

theorem exec_bnLd_ok (s : State) {sa : SR} (n : BitVec 3) (hal : (s.srcS sa).toNat % 64 = 0)
    (hw : (s.srcS sa).toNat + 64 ≤ 0x200000) (hp : poisoned s.errs (spBase s.cur + (s.srcS sa).toNat) 64 = none) :
    exec (.bnLd sa n) s = .next (s.modCur fun k =>
      (k.setReg (.bn n.toNat) (s.natAs .cp (spBase s.cur + (s.srcS sa).toNat) 64)).addOut s.iss.seq .done
        [.bn n.toNat] true) := by
  show execBnLd sa n s = _
  unfold execBnLd
  simp only [bnLdCheck_ok s hal hw, hp]

/-- Settles O8: the 64 bytes that CP accesses see are the pattern. -/
theorem bitNetworkLoadReadsItsPattern : Obligations.BitNetworkLoadReadsItsPattern := by
  unfold Obligations.BitNetworkLoadReadsItsPattern
  intro s sa n va pa hal hw hp hg
  refine ⟨_, exec_bnLd_ok s n hal hw hp, onlyCore_modCur s _, fun j hj => ?_, fun m hm => ?_, ?_⟩
  · rw [core_modCur_cur, Core.bnet_addOut, Core.bnet_setReg, if_pos rfl, natAs_eq s .cp pa 64 hg,
      toNat_ofNat_leNat (by rw [length_bytesSeen]), leNat_byte, getD_bytesSeen s .cp pa hj]
  · rw [core_modCur_cur, Core.bnet_addOut, Core.bnet_setReg, if_neg fun h => hm (BitVec.eq_of_toNat_eq h)]
  · rw [core_modCur_cur]
    rfl

end Sys2Proof.Machine
end

section
/-! SUPPORT. Transfers of control, repeats, the loop buffer and spill memory (06 R135, R142 to R153). -/

namespace Sys2Proof.Machine

open Sys2Proof

/-! ## Targets -/

theorem targetFault_none {t : Int} (h0 : 0 ≤ t) (h1 : t ≤ 0xFFFFFFFE) : targetFault t = none :=
  if_neg (by omega)

theorem targetFault_some {t : Int} (h : t < 0 ∨ 0xFFFFFFFE < t) : targetFault t = some ⟨.codeRange, 0x10000, 0⟩ :=
  if_pos h

theorem indirectFault_none {a : W64} (h0 : a.getLsbD 0 = false) (h1 : a.toNat < 2 ^ 32) : indirectFault a = none := by
  have hfld : ¬fld a 32 32 ≠ 0 := by unfold fld bitsAt; omega
  unfold indirectFault
  rw [h0, if_neg Bool.false_ne_true, if_neg hfld]

theorem indirectFault_odd {a : W64} (h0 : a.getLsbD 0 = true) : indirectFault a = some (alignTrap 1 a) :=
  if_pos h0

theorem indirectFault_high {a : W64} (h0 : a.getLsbD 0 = false) (h1 : 2 ^ 32 ≤ a.toNat) :
    indirectFault a = some ⟨.codeRange, 0x10000, 0⟩ := by
  have hfld : fld a 32 32 ≠ 0 := by have := a.isLt; unfold fld bitsAt; omega
  unfold indirectFault
  rw [h0, if_neg Bool.false_ne_true, if_pos hfld]

/-! ## Taken transfers -/

/-- A jump sets the pc and loses two issue cycles unless its target is captured (06 R135). -/
theorem Core.jump_eq (k : Core) (t : Nat) : k.jump t =
    { k with pc := t, bubbleBr := if t ∈ k.loopBuf.captured then k.bubbleBr else k.bubbleBr + 2 } := by
  simp [Core.jump]

/-- State u differs from s in the scalar registers and PWIN of the current core alone. -/
def WritesSAndPwin (s u : State) : Prop :=
  OnlyCore s.cur s u ∧ u.core s.cur = { s.core s.cur with s := (u.core s.cur).s, pwin := (u.core s.cur).pwin }

theorem writesSAndPwin_refl (s : State) : WritesSAndPwin s s := ⟨onlyCore_refl _ s, rfl⟩

theorem writesSAndPwin_dstS (s : State) (r : SR) (x : W64) : WritesSAndPwin s (s.dstS r x) :=
  ⟨onlyCore_modCur s _, by rw [State.dstS, core_modCur_cur, Core.setS_eq]⟩

/-- A change of one core leaves the number of the current one. -/
theorem OnlyCore.cur_eq {c : Nat} {s u : State} (h : OnlyCore c s u) : u.cur = s.cur := by rw [h.1]; rfl

/-- A jump after writes to scalar registers and PWIN is a taken transfer. -/
theorem transfers_of_jump {i : Instr} {s u : State} {target : Nat} {regs : Core → Core → Prop}
    (h : exec i s = .next (u.modCur (·.jump target))) (hu : WritesSAndPwin s u)
    (hr : regs (s.core s.cur) ((u.core s.cur).jump target)) : Transfers s i target regs := by
  obtain ⟨ho, hk⟩ := hu
  have hjump : (u.modCur (·.jump target)).core s.cur = (u.core s.cur).jump target := by
    rw [← ho.cur_eq]; exact core_modCur_cur u _
  have hlate := onlyCore_modCur u (·.jump target)
  rw [ho.cur_eq] at hlate
  refine ⟨_, h, onlyCore_trans ho hlate, hjump ▸ hr, ?_⟩
  rw [hjump, Core.jump_eq]
  rw [hk]

section
variable {s : State}

theorem exec_br_taken {off : BitVec 35} (h : targetFault (branchTarget s.iss.pcb off) = none) :
    exec (.br off) s = .next (s.modCur (·.jump (branchTarget s.iss.pcb off).toNat)) := by
  show s.branchTo _ = _
  unfold State.branchTo
  rw [h]

theorem exec_br_fault {off : BitVec 35} {t : Trp} (h : targetFault (branchTarget s.iss.pcb off) = some t) :
    exec (.br off) s = .next (s.preciseTrap t) := by
  show s.branchTo _ = _
  unfold State.branchTo
  rw [h]

theorem exec_call_taken {off : BitVec 35} (h : targetFault (branchTarget s.iss.pcb off) = none) :
    exec (.call off) s =
      .next ((s.dstS 63 (.ofNat 64 s.iss.npc)).modCur (·.jump (branchTarget s.iss.pcb off).toNat)) := by
  show execCall off s = _
  unfold execCall
  simp only [h]

theorem exec_call_fault {off : BitVec 35} {t : Trp} (h : targetFault (branchTarget s.iss.pcb off) = some t) :
    exec (.call off) s = .next (s.preciseTrap t) := by
  show execCall off s = _
  unfold execCall
  simp only [h]

theorem indirect_taken {sd sa : SR} (h : indirectFault (s.srcS sa) = none) :
    s.indirect sd sa = .next ((s.dstS sd (.ofNat 64 s.iss.npc)).modCur (·.jump (s.srcS sa).toNat)) := by
  unfold State.indirect
  simp only [h]

theorem indirect_fault {sd sa : SR} {t : Trp} (h : indirectFault (s.srcS sa) = some t) :
    s.indirect sd sa = .next (s.preciseTrap t) := by
  unfold State.indirect
  simp only [h]

/-- ret and jr transfer to an even address of 32 bits, and sd receives the address of the next bundle (06 R146). -/
theorem transfers_of_indirect {i : Instr} {sd sa : SR} (hi : exec i s = s.indirect sd sa)
    (h : indirectFault (s.srcS sa) = none) : Transfers s i (s.srcS sa).toNat
      fun k k' => k'.pwin = k.pwin ∧ ScalarIs k k' sd (.ofNat 64 s.iss.npc) := by
  refine transfers_of_jump (hi.trans (indirect_taken h)) (writesSAndPwin_dstS s sd _) ?_
  rw [State.dstS, core_modCur_cur]
  exact ⟨by rw [Core.jump_eq, Core.setS_eq], scalarIs_setS _ sd _⟩

end

/-! ## br.loop -/

/-- The stages of br.loop are not all empty (06 R147). -/
theorem stagesLeft_iff (p : BitVec 16) (stages : BitVec 4) :
    stagesLeft p stages = true ↔ ∃ n : Nat, 1 ≤ n ∧ n ≤ stages.toNat ∧ p.getLsbD n = true := by
  have hbit : ∀ j, (fld p 1 stages.toNat).testBit j = (decide (j < stages.toNat) && p.getLsbD (j + 1)) := fun j => by
    unfold fld bitsAt
    rw [Nat.testBit_mod_two_pow, Nat.testBit_div_two_pow]
    rfl
  unfold stagesLeft
  rw [bne_iff_ne]
  constructor
  · intro h
    obtain ⟨j, hj⟩ := Nat.exists_testBit_of_ne_zero h
    rw [hbit, Bool.and_eq_true, decide_eq_true_eq] at hj
    exact ⟨j + 1, by omega, by omega, hj.2⟩
  · rintro ⟨n, h1, hn, hp⟩ h0
    have hj := hbit (n - 1)
    rw [h0, Nat.zero_testBit, Nat.sub_add_cancel h1, hp] at hj
    simp at hj
    omega

/-- The state of a counted loop before it transfers: the count and the window of stages (06 R147). -/
def State.countLoop (s : State) (cnt : SR) (stages : BitVec 4) (p : BitVec 16) : State :=
  let t := if s.srcS cnt = 0 then s else s.dstS cnt (s.srcS cnt - 1)
  if stages = 0 then t else t.dstPwin p

/-- The core after the count, and after the count and the window. -/
def Core.countLoop (k : Core) (c : W64) (cnt : SR) (stages : BitVec 4) (p : BitVec 16) : Core :=
  let k := if c = 0 then k else k.setS cnt.toNat (c - 1)
  if stages = 0 then k else { k with pwin := p ||| 1 }

section
variable (s : State) (cnt : SR) (stages : BitVec 4) (p : BitVec 16)

theorem core_countLoop :
    (s.countLoop cnt stages p).core s.cur = (s.core s.cur).countLoop (s.srcS cnt) cnt stages p := by
  unfold State.countLoop Core.countLoop
  by_cases hc : s.srcS cnt = 0
  · by_cases hst : stages = 0
    · simp only [hc, hst, if_true]
    · simp only [hc, hst, if_true, if_false, State.dstPwin, core_modCur_cur]
  · by_cases hst : stages = 0
    · simp only [hc, hst, if_true, if_false, State.dstS, core_modCur_cur]
    · simp only [hc, hst, if_false, State.dstS, State.dstPwin, core_modCur2]

theorem onlyCore_countLoop : OnlyCore s.cur s (s.countLoop cnt stages p) := by
  have hcount : OnlyCore s.cur s (if s.srcS cnt = 0 then s else s.dstS cnt (s.srcS cnt - 1)) := by
    split
    · exact onlyCore_refl _ s
    · exact onlyCore_modCur s _
  unfold State.countLoop
  simp only
  split
  · exact hcount
  · refine onlyCore_trans hcount ?_
    rw [← hcount.cur_eq]
    exact onlyCore_modCur _ _

theorem writesSAndPwin_countLoop : WritesSAndPwin s (s.countLoop cnt stages p) := by
  refine ⟨onlyCore_countLoop s cnt stages p, ?_⟩
  rw [core_countLoop]
  unfold Core.countLoop
  simp only [Core.setS_eq]
  split <;> split <;> rfl

end

/-- The window moves where there are stages. -/
theorem Core.countLoop_pwin (k : Core) (c : W64) (cnt : SR) (stages : BitVec 4) (p : BitVec 16) :
    (k.countLoop c cnt stages p).pwin = if stages = 0 then k.pwin else p ||| 1 := by
  unfold Core.countLoop
  simp only [Core.setS_eq]
  split <;> split <;> rfl

/-- A count of 0 stays, and another one is decremented. -/
theorem Core.countLoop_s (k : Core) (c : W64) (cnt : SR) (stages : BitVec 4) (p : BitVec 16) :
    if c = 0 then (k.countLoop c cnt stages p).s = k.s else ScalarIs k (k.countLoop c cnt stages p) cnt (c - 1) := by
  unfold Core.countLoop
  split
  · split <;> rfl
  · split
    · exact scalarIs_setS k cnt _
    · exact scalarIs_setS k cnt _

section
variable {s : State} {cnt : SR} {stages : BitVec 4} {off : BitVec 25}

theorem exec_brLoop_taken (ht : (loopStep s.snap.pwin stages (s.srcS cnt)).2 = true)
    (h : targetFault (branchTarget s.iss.pcb off) = none) : exec (.brLoop cnt stages off) s =
      .next ((s.countLoop cnt stages (loopStep s.snap.pwin stages (s.srcS cnt)).1).modCur
        (·.jump (branchTarget s.iss.pcb off).toNat)) := by
  show execBrLoop cnt stages off s = _
  unfold execBrLoop
  simp only [ht, if_true, h]
  rfl

theorem exec_brLoop_through (ht : (loopStep s.snap.pwin stages (s.srcS cnt)).2 = false) :
    exec (.brLoop cnt stages off) s = .next (s.countLoop cnt stages (loopStep s.snap.pwin stages (s.srcS cnt)).1) := by
  show execBrLoop cnt stages off s = _
  unfold execBrLoop
  simp only [ht, Bool.false_eq_true, if_false]
  rfl

theorem exec_brLoop_fault {t : Trp} (ht : (loopStep s.snap.pwin stages (s.srcS cnt)).2 = true)
    (h : targetFault (branchTarget s.iss.pcb off) = some t) :
    exec (.brLoop cnt stages off) s = .next (s.preciseTrap t) := by
  show execBrLoop cnt stages off s = _
  unfold execBrLoop
  simp only [ht, if_true, h]

end

/-- The window of a staged br.loop, with p0 at 1 (06 R147). -/
theorem loopStep_window (w : BitVec 16) {stages : BitVec 4} (c : W64) (hst : stages ≠ 0) :
    (loopStep w stages c).1 = ((w <<< 1) &&& 0xFFFC) ||| (if c = 0 then 0 else 2) ||| 1 := by
  have hins : (if (c != 0) = true then (2 : BitVec 16) else 0) = if c = 0 then 0 else 2 := by
    by_cases hc : c = 0 <;> simp [hc]
  unfold loopStep shiftPwin
  simp only [if_neg hst, hins]

/-- When br.loop is taken (06 R147): a plain loop while its count is not 0, a staged one while a stage is full. -/
theorem loopStep_taken_iff (w : BitVec 16) (stages : BitVec 4) (c : W64) :
    (loopStep w stages c).2 = true ↔ if stages = 0 then c ≠ 0
      else ∃ n : Nat, 1 ≤ n ∧ n ≤ stages.toNat ∧ (loopStep w stages c).1.getLsbD n = true := by
  by_cases hst : stages = 0
  · rw [if_pos hst]
    unfold loopStep
    simp only [if_pos hst, bne_iff_ne, ne_eq]
  · rw [if_neg hst, ← stagesLeft_iff]
    unfold loopStep
    simp only [if_neg hst]

/-! ## Repeats, the loop buffer and spill memory -/

theorem exec_lbPin_ok {s : State} (n1 : SR) {off : BitVec 25} (h : targetFault (branchTarget s.iss.pcb off) = none) :
    exec (.lbPin n1 off) s = .next (s.modCur fun k => { k with loopBuf := {
      pinned := k.bundleRun (n1.toNat + 1) (branchTarget s.iss.pcb off).toNat, captured := [] } }) := by
  show execLbPin n1 off s = _
  unfold execLbPin
  simp only [h]

theorem exec_lbPin_fault {s : State} {n1 : SR} {off : BitVec 25} {t : Trp}
    (h : targetFault (branchTarget s.iss.pcb off) = some t) : exec (.lbPin n1 off) s = .next (s.preciseTrap t) := by
  show execLbPin n1 off s = _
  unfold execLbPin
  simp only [h]

/-- Settles O17: each op writes what it writes before its jump, and an op whose target is bad takes its trap instead. -/
theorem transfersOfControlReachTheirTargets : Obligations.TransfersOfControlReachTheirTargets := by
  unfold Obligations.TransfersOfControlReachTheirTargets
  intro s sd sa cnt n1 stages o35 o25 t35 t25 a c shifted pwin' taken counted
  have hwin : (if stages = 0 then (s.core s.cur).pwin else (loopStep s.snap.pwin stages c).1 ||| 1) = pwin' := by
    by_cases hst : stages = 0
    · simp only [pwin', if_pos hst]
    · simp only [pwin', if_neg hst, loopStep_window _ c hst, shifted, BitVec.or_assoc, BitVec.or_self]
  have htaken : (loopStep s.snap.pwin stages c).2 = true ↔ taken := by
    rw [loopStep_taken_iff]
    by_cases hst : stages = 0
    · simp only [taken, if_pos hst]
    · simp only [taken, if_neg hst, loopStep_window _ c hst, shifted]
  have hcounted : counted (s.core s.cur) ((s.core s.cur).countLoop c cnt stages (loopStep s.snap.pwin stages c).1) :=
    ⟨(Core.countLoop_pwin _ _ _ _ _).trans hwin, Core.countLoop_s _ _ _ _ _⟩
  refine ⟨fun h0 h1 => ⟨?br, ?call⟩, fun h0 h1 => ⟨?ret, transfers_of_indirect rfl (indirectFault_none h0 h1)⟩,
    fun ht h0 h1 => ?loop, fun ht => ?through, fun hk => ?traps⟩
  case br =>
    exact transfers_of_jump (exec_br_taken (targetFault_none h0 h1)) (writesSAndPwin_refl s) ⟨rfl, rfl⟩
  case call =>
    refine transfers_of_jump (exec_call_taken (targetFault_none h0 h1)) (writesSAndPwin_dstS s _ _) ?_
    rw [State.dstS, core_modCur_cur]
    exact ⟨by rw [Core.jump_eq, Core.setS_eq], scalarIs_setS _ 63 _⟩
  case ret =>
    exact transfers_of_jump (indirect_taken (indirectFault_none h0 h1)) (writesSAndPwin_dstS s _ _)
      (by rw [State.dstS, core_modCur_cur]; exact ⟨rfl, rfl⟩)
  case loop =>
    refine transfers_of_jump (exec_brLoop_taken (htaken.mpr ht) (targetFault_none h0 h1))
      (writesSAndPwin_countLoop s cnt stages _) ?_
    rw [core_countLoop]
    exact hcounted
  case through =>
    obtain ⟨ho, hk⟩ := writesSAndPwin_countLoop s cnt stages (loopStep s.snap.pwin stages c).1
    refine ⟨_, exec_brLoop_through (Bool.eq_false_iff.mpr (mt htaken.mp ht)), ho, ?_, hk⟩
    rw [core_countLoop]
    exact hcounted
  case traps =>
    have range : ∀ {i : Instr}, exec i s = .next (s.preciseTrap ⟨.codeRange, 0x10000, 0⟩) →
        TrapsPrecisely s i .codeRange 0x10000 0 := fun h => traps_of_preciseTrap h nofun hk
    have align : ∀ {i : Instr}, exec i s = .next (s.preciseTrap (alignTrap 1 a)) → TrapsPrecisely s i .align 1 a :=
      fun h => traps_of_preciseTrap h nofun hk
    exact ⟨fun h => ⟨range (exec_br_fault (targetFault_some h)), range (exec_call_fault (targetFault_some h))⟩,
      fun h => ⟨range (exec_lbPin_fault (targetFault_some h)),
        fun hc => range (exec_brLoop_fault ((loopStep_taken_iff _ 0 c).mpr hc) (targetFault_some h))⟩,
      fun h => ⟨align (indirect_fault (indirectFault_odd h)), align (indirect_fault (indirectFault_odd h))⟩,
      fun h0 h1 => ⟨range (indirect_fault (indirectFault_high h0 h1)), range (indirect_fault (indirectFault_high h0 h1))⟩⟩

/-- Within the body of a repeat the next bundle follows (06 R149). -/
theorem Core.repAdvance_within {k : Core} {next : Nat} {r : Rep} (hk : k.rep = some r) (h : r.pos + 1 < r.len) :
    k.repAdvance next = { k with pc := next, rep := some { r with pos := r.pos + 1 } } := by
  unfold Core.repAdvance
  simp only [hk, if_pos h]

/-- At the end of a pass that is not the last the body starts again. -/
theorem Core.repAdvance_again {k : Core} {next : Nat} {r : Rep} (hk : k.rep = some r) (h : r.len ≤ r.pos + 1)
    (hl : 1 < r.left) : k.repAdvance next = { k with pc := r.start, rep := some { r with pos := 0, left := r.left - 1 } } := by
  unfold Core.repAdvance
  simp only [hk, if_neg (not_lt.mpr h), if_pos hl]

/-- After the last pass the repeat is over. -/
theorem Core.repAdvance_done {k : Core} {next : Nat} {r : Rep} (hk : k.rep = some r) (h : r.len ≤ r.pos + 1)
    (hl : r.left ≤ 1) : k.repAdvance next = { k with pc := next, rep := none } := by
  unfold Core.repAdvance
  simp only [hk, if_neg (not_lt.mpr h), if_neg (not_lt.mpr hl)]

/-- Settles O18: rep and the loop-buffer ops are one change of the core, and a repeat advances in three ways. -/
theorem repeatsAndTheLoopBufferAreSet : Obligations.RepeatsAndTheLoopBufferAreSet := by
  unfold Obligations.RepeatsAndTheLoopBufferAreSet
  refine ⟨fun s cnt n1 b1 off => ?_, fun k next r hk => ?_⟩
  · intro r target
    exact ⟨⟨_, rfl, onlyCore_modCur s _, core_modCur_cur s _⟩,
      fun h0 h1 => ⟨_, exec_lbPin_ok n1 (targetFault_none h0 h1), onlyCore_modCur s _, core_modCur_cur s _⟩,
      ⟨_, rfl, onlyCore_modCur s _, core_modCur_cur s _⟩⟩
  · intro k'
    refine ⟨fun h => ?_, fun h hl => ?_, fun h hl => ?_⟩
    · have hadv : k' = _ := Core.repAdvance_within hk h
      exact ⟨hadv ▸ rfl, hadv ▸ rfl⟩
    · have hadv : k' = _ := Core.repAdvance_again hk h hl
      exact ⟨hadv ▸ rfl, hadv ▸ rfl⟩
    · have hadv : k' = _ := Core.repAdvance_done hk h hl
      exact ⟨hadv ▸ rfl, hadv ▸ rfl⟩

/-- Settles O16: a slot is an entry of a table, which a write changes at its number alone. -/
theorem spillSlotsReadBack : Obligations.SpillSlotsReadBack := by
  unfold Obligations.SpillSlotsReadBack
  intro s r slot
  refine ⟨setsS_of_dstS rfl, _, rfl, onlyCore_modCur s _, fun n => ?_, ?_⟩
  · rw [core_modCur_cur]
    unfold Core.spillAt
    rw [Tab.get_put]
    simp only [bv_toNat_inj]
  · rw [core_modCur_cur]

end Sys2Proof.Machine
end

section
/-! SUPPORT. CP loads and stores at issue (06 R130 to R132, R141): what a load leaves in its registers, and which op stays
outstanding. -/

namespace Sys2Proof.Machine

open Sys2Proof

/-! ## The registers of a load -/

/-- A load of at most 8 bytes extends its value into one register (06 R141). -/
theorem Core.writeLoad_one (k : Core) (a : Nat) {n : Nat} (sgn : Bool) (x : Nat) (hn : n ≠ 16) :
    k.writeLoad [.s a] n sgn x = k.setS a (loadExtend n sgn x) := if_neg hn

theorem Core.writeLoad_pair (k : Core) (a b n : Nat) (sgn : Bool) (x : Nat) :
    k.writeLoad [.s a, .s b] n sgn x = (k.setS a (.ofNat 64 x)).setS b (.ofNat 64 (x / 2 ^ 64)) := rfl

/-- The number of the upper register of an even pair. -/
theorem toNat_pairHigh {sd : SR} (hev : sd.toNat % 2 = 0) : (sd + 1).toNat = sd.toNat + 1 := by
  have := sd.isLt
  rw [BitVec.toNat_add]
  show (sd.toNat + 1) % 64 = _
  omega

/-- A pair receives its halves. -/
theorem pairIs_setS (k : Core) {sd : SR} (hev : sd.toNat % 2 = 0) (lo hi : W64) :
    PairIs k ((k.setS sd.toNat lo).setS (sd.toNat + 1) hi) sd lo hi := by
  intro r
  have hne : sd ≠ sd + 1 := fun h => by
    have := congrArg BitVec.toNat h
    rw [toNat_pairHigh hev] at this
    omega
  rw [← toNat_pairHigh hev, Core.getS_setS, Core.getS_setS]
  simp only [sr_toNat_eq_zero, bv_toNat_inj]
  by_cases h : r = sd
  · rw [if_neg (h ▸ hne : ¬r = sd + 1), if_pos h, if_pos h]
    by_cases h0 : r = 0 <;> simp only [h0, if_true, if_false]
  · rw [if_neg h, if_neg h]
    by_cases h0 : r = 0 <;> simp only [h0, if_true, if_false]

/-- The marks of an even pair: s0 carries none. -/
theorem filter_fixed_pair (sd : SR) :
    [Reg.s sd.toNat, Reg.s (sd.toNat + 1)].filter (!·.fixed) =
      if sd = 0 then [.s 1] else [.s sd.toNat, .s (sd.toNat + 1)] := by
  have hpair : [Reg.s sd.toNat, Reg.s (sd.toNat + 1)].filter (!·.fixed) =
      [Reg.s sd.toNat].filter (!·.fixed) ++ [.s (sd.toNat + 1)] :=
    List.filter_append [Reg.s sd.toNat] [Reg.s (sd.toNat + 1)]
  rw [hpair, filter_fixed_sr]
  split
  · subst sd; rfl
  · rfl

/-- A load writes scalar registers and nothing else of its core. -/
theorem Core.writeLoad_scalars (k : Core) {dst : List Reg} (n : Nat) (sgn : Bool) (x : Nat)
    (hd : (∃ a, dst = [.s a]) ∨ ∃ a b, dst = [.s a, .s b]) :
    k.writeLoad dst n sgn x = { k with s := (k.writeLoad dst n sgn x).s } := by
  rcases hd with ⟨a, rfl⟩ | ⟨a, b, rfl⟩
  · by_cases hn : n = 16
    · rw [show k.writeLoad [.s a] n sgn x = k.setS a (.ofNat 64 x) from if_pos hn, Core.setS_eq]
    · rw [k.writeLoad_one a sgn x hn, Core.setS_eq]
  · rw [Core.writeLoad_pair]
    simp only [Core.setS_eq]

/-- One register after a load of at most 8 bytes. -/
theorem scalarIs_writeLoad (k : Core) (sd : SR) {n : Nat} (sgn : Bool) (x : Nat) (hn : n ≠ 16) :
    ScalarIs k (k.writeLoad [.s sd.toNat] n sgn x) sd (loadExtend n sgn x) :=
  k.writeLoad_one _ sgn x hn ▸ scalarIs_setS k sd _

theorem pairIs_writeLoad (k : Core) {sd : SR} (n : Nat) (sgn : Bool) (x : Nat) (hev : sd.toNat % 2 = 0) :
    PairIs k (k.writeLoad [.s sd.toNat, .s (sd.toNat + 1)] n sgn x) sd (.ofNat 64 x) (.ofNat 64 (x / 2 ^ 64)) :=
  pairIs_setS k hev _ _

/-- What a claim on the scalar registers says of two cores, it says of two others with the same registers. -/
def OfScalars (regs : Core → Core → Prop) : Prop :=
  ∀ k k' j j' : Core, regs k k' → j.s = k.s → j'.s = k'.s → regs j j'

theorem Core.getS_congr {j k : Core} (h : j.s = k.s) (n : Nat) : j.getS n = k.getS n := by
  unfold Core.getS
  rw [h]

theorem ofScalars_scalarIs (sd : SR) (x : W64) : OfScalars fun k k' => ScalarIs k k' sd x := fun k k' j j' hk h h' r => by
  rw [Core.getS_congr h, Core.getS_congr h']
  exact hk r

theorem ofScalars_pairIs (sd : SR) (lo hi : W64) : OfScalars fun k k' => PairIs k k' sd lo hi := fun k k' j j' hk h h' r => by
  rw [Core.getS_congr h, Core.getS_congr h']
  exact hk r

/-! ## Loads at issue -/

section
variable {s : State} {i : Instr} {va : W64} {log2 pa : Nat} {sgn : Bool} {dst : List Reg}

/-- A load from the own scratchpad gives its registers their value at issue (06 R130, R141). -/
theorem loadsNow_of_cpLoad {marked : List Reg} {regs : Core → Core → Prop}
    (hi : exec i s = .next (s.cpLoad va log2 sgn dst)) (hr : s.reaches va (2 ^ log2) .read pa)
    (ho : inOwn s.cur pa = true) (hp : s.loadPoison s.cur pa (2 ^ log2) = none) (hg : s.gatedAt pa = false)
    (hd : (∃ a, dst = [.s a]) ∨ ∃ a b, dst = [.s a, .s b]) (hm : dst.filter (!·.fixed) = marked) (hof : OfScalars regs)
    (hregs : ∀ k : Core, regs k (k.writeLoad dst (2 ^ log2) sgn (leNat (s.bytesSeen .cp pa (2 ^ log2))))) :
    LoadsNow s i marked regs := by
  obtain ⟨honly, l, hcore⟩ := cpLoad_own s va log2 sgn dst pa hr ho hp hg
  refine ⟨_, hi, honly, ?_, ?_⟩
  · rw [hcore]
    exact hof _ _ _ _ (hregs { s.core s.cur with tlb := l }) rfl rfl
  · rw [hcore, hm, Core.writeLoad_scalars _ _ _ _ hd]
    rfl

/-- A scalar load of at most 8 bytes from the own scratchpad. -/
theorem loadsNow_of_scalarLoad {sd : SR} {x : W64}
    (hi : exec i s = .next (s.cpLoad va log2 sgn [.s sd.toNat])) (hn : 2 ^ log2 ≠ 16)
    (hr : s.reaches va (2 ^ log2) .read pa)
    (ho : inOwn s.cur pa = true) (hp : s.loadPoison s.cur pa (2 ^ log2) = none) (hg : s.gatedAt pa = false)
    (hx : loadExtend (2 ^ log2) sgn (leNat (s.bytesSeen .cp pa (2 ^ log2))) = x) :
    LoadsNow s i (if sd = 0 then [] else [.s sd.toNat]) fun k k' => ScalarIs k k' sd x := by
  refine loadsNow_of_cpLoad hi hr ho hp hg (.inl ⟨_, rfl⟩) (filter_fixed_sr sd) (ofScalars_scalarIs sd x) fun k => ?_
  rw [← hx]
  exact scalarIs_writeLoad k sd sgn _ hn

end

/-- Settles O9: each form is a scalar load of its width, and ld.q one of a pair. -/
theorem loadsFromTheOwnScratchpadExtendTheirBytes : Obligations.LoadsFromTheOwnScratchpadExtendTheirBytes := by
  unfold Obligations.LoadsFromTheOwnScratchpadExtendTheirBytes
  intro s sd sa off pa va own x one
  have hva : s.ea sa off = va := ea_eq_ofInt s sa off
  have load : ∀ (log2 : Nat) (i : Instr) (sgn : Bool), own (2 ^ log2) → 2 ^ log2 ≠ 16 →
      exec i s = .next (s.cpLoad (s.ea sa off) log2 sgn [.s sd.toNat]) → one i (loadExtend (2 ^ log2) sgn (x (2 ^ log2))) :=
    fun log2 i sgn ⟨hr, ho, hp, hg⟩ hn hi => loadsNow_of_scalarLoad (hva ▸ hi) hn hr ho hp hg rfl
  refine ⟨fun h => ⟨load 0 _ true h (by decide) rfl, load 0 _ false h (by decide) rfl⟩,
    fun h => ⟨load 1 _ true h (by decide) rfl, load 1 _ false h (by decide) rfl⟩,
    fun h => ⟨load 2 _ true h (by decide) rfl, load 2 _ false h (by decide) rfl⟩,
    fun h => load 3 _ false h (by decide) rfl, fun ⟨hr, ho, hp, hg⟩ hlow => ?_⟩
  have hev : sd.toNat % 2 = 0 := by simpa [BitVec.getLsbD, Nat.testBit_zero] using hlow
  have hi : exec (.ldQ sd sa off) s = .next (s.cpLoad va 4 false [.s sd.toNat, .s (sd.toNat + 1)]) := hva ▸ rfl
  exact loadsNow_of_cpLoad (log2 := 4) hi hr ho hp hg (.inr ⟨_, _, rfl⟩) (filter_fixed_pair sd) (ofScalars_pairIs sd _ _)
    fun k => pairIs_writeLoad k _ false _ hev

/-! ## Loads from elsewhere -/

/-- A load of a drawer may send a request and use up a free value; any other sends none (19 R392). -/
theorem drawerLoad_eq (s : State) (c id pa : Nat) : s.drawerLoad c id pa =
    { s with drawerReqs := (s.drawerLoad c id pa).drawerReqs, freeNo := (s.drawerLoad c id pa).freeNo } := by
  unfold State.drawerLoad
  split
  · split <;> rfl
  · rfl

theorem drawerLoad_outside {s : State} {pa : Nat} (c id : Nat) (h : ∀ d, s.region pa ≠ .drawer d) :
    s.drawerLoad c id pa = s := by
  unfold State.drawerLoad
  split
  · exact absurd ‹_› (h _)
  · rfl

@[simp] theorem core_drawerLoad (s : State) (c id pa d : Nat) : (s.drawerLoad c id pa).core d = s.core d := by
  rw [drawerLoad_eq]
  rfl

@[simp] theorem byte_drawerLoad (s : State) (c id pa a : Nat) : (s.drawerLoad c id pa).byte a = s.byte a := by
  rw [drawerLoad_eq]
  rfl

/-- A change of the current core after its TLB has cached a translation. -/
theorem noteTlb_modCur (s : State) (va : W64) (f : Core → Core) :
    OnlyCore s.cur s ((s.noteTlb s.cur .cp va).modCur f)
      ∧ ∃ l, ((s.noteTlb s.cur .cp va).modCur f).core s.cur = f { s.core s.cur with tlb := l } := by
  obtain ⟨hrest, hothers, l, htlb⟩ := noteTlb_facts s s.cur va
  have hcur : (s.noteTlb s.cur .cp va).cur = s.cur := by rw [hrest]; rfl
  have htlbOnly : OnlyCore s.cur s (s.noteTlb s.cur .cp va) := ⟨hrest, hothers, fun a => by rw [hrest]; rfl⟩
  have hf := onlyCore_modCur (s.noteTlb s.cur .cp va) f
  have hcore := core_modCur_cur (s.noteTlb s.cur .cp va) f
  rw [hcur] at hf hcore
  exact ⟨onlyCore_trans htlbOnly hf, l, by rw [hcore, htlb]⟩

section
variable {s : State} {va : W64} {log2 pa : Nat}

/-- What a load from elsewhere leaves of the state: its translation, its entry, and its request (06 R130, R132). -/
theorem cpLoad_away (sgn : Bool) (dst : List Reg) (hck : s.loadCheck s.cur va log2 = .ok pa) (ho : inOwn s.cur pa = false)
    (hp : s.loadPoison s.cur pa (2 ^ log2) = none) : ∃ id, s.cpLoad va log2 sgn dst =
      ((s.noteTlb s.cur .cp va).modCur
        (·.addOut s.iss.seq (.load va.toNat pa (2 ^ log2) sgn) dst true)).drawerLoad s.cur id pa := by
  have hi : (s.noteTlb s.cur .cp va).iss = s.iss := by rw [(noteTlb_facts s s.cur va).1]
  unfold State.cpLoad
  simp only [hck, hp, ho, Bool.false_eq_true, if_false, hi]
  exact ⟨_, rfl⟩

/-- A load from elsewhere is outstanding. -/
theorem loadsLater_of_cpLoad {i : Instr} {sgn : Bool} {dst : List Reg} (hi : exec i s = .next (s.cpLoad va log2 sgn dst))
    (hr : s.reaches va (2 ^ log2) .read pa) (ho : inOwn s.cur pa = false)
    (hp : s.loadPoison s.cur pa (2 ^ log2) = none) (hpeer : ∀ c, s.region pa = .peer c → s.routed c = true) :
    LoadsLater s i va.toNat pa (2 ^ log2) sgn dst := by
  obtain ⟨id, hload⟩ := cpLoad_away sgn dst (loadCheck_ok hr hpeer) ho hp
  obtain ⟨⟨hrest, hothers, hbytes⟩, l, hcore⟩ := noteTlb_modCur s va
    (·.addOut s.iss.seq (.load va.toNat pa (2 ^ log2) sgn) dst true)
  rw [hload] at hi
  refine ⟨_, hi, ?_, fun hd => ?_, fun d hd => ?_, fun a => ?_, ?_⟩
  · rw [drawerLoad_eq, hrest]
  · rw [drawerLoad_outside _ _ (by rw [hrest]; exact hd), hrest]
    exact ⟨rfl, rfl⟩
  · rw [core_drawerLoad, hothers d hd]
  · rw [byte_drawerLoad, hbytes]
  · rw [core_drawerLoad, hcore]
    rfl

end

/-- Settles O10: each form is a load of its width whose checks pass. -/
theorem loadsFromElsewhereStayOutstanding : Obligations.LoadsFromElsewhereStayOutstanding := by
  unfold Obligations.LoadsFromElsewhereStayOutstanding
  intro s sd sa off pa va away one
  have hva : s.ea sa off = va := ea_eq_ofInt s sa off
  have load : ∀ (log2 : Nat) (i : Instr) (sgn : Bool) (dst : List Reg), away (2 ^ log2) →
      exec i s = .next (s.cpLoad (s.ea sa off) log2 sgn dst) → LoadsLater s i va.toNat pa (2 ^ log2) sgn dst :=
    fun log2 i sgn dst ⟨hr, ho, hp, hpeer⟩ hi => loadsLater_of_cpLoad (hva ▸ hi) hr ho hp hpeer
  exact ⟨fun h => ⟨load 0 _ true _ h rfl, load 0 _ false _ h rfl⟩, fun h => ⟨load 1 _ true _ h rfl, load 1 _ false _ h rfl⟩,
    fun h => ⟨load 2 _ true _ h rfl, load 2 _ false _ h rfl⟩, fun h => load 3 _ false _ h rfl, fun h => load 4 _ false _ h rfl⟩

end Sys2Proof.Machine
end

section
/-! SUPPORT. CP stores: what a store carries as it issues, when it may perform, and what it writes (02 R31 to R37, 06 R131, R132,
R141). -/

namespace Sys2Proof.Machine

open Sys2Proof

/-! ## Stores at issue -/

/-- Byte i of the n little-endian bytes of a number (03 R56). -/
theorem leBytes_eq_map (n x : Nat) : leBytes n x = (List.range n).map fun i => BitVec.ofNat 8 (x / 2 ^ (8 * i)) := by
  induction n generalizing x with
  | zero => rfl
  | succ n ih =>
    rw [leBytes, ih, List.range_succ_eq_map, List.map_cons, List.map_map]
    congr 1
    · simp
    · refine List.map_congr_left fun i _ => ?_
      show BitVec.ofNat 8 (x / 256 / 2 ^ (8 * i)) = BitVec.ofNat 8 (x / 2 ^ (8 * (i + 1)))
      rw [Nat.div_div_eq_div_mul, show 8 * (i + 1) = 8 + 8 * i by omega, Nat.pow_add]

/-- The upper register of an even pair. -/
theorem srcS1_of_even (s : State) {r : SR} (hev : r.getLsbD 0 = false) : s.srcS1 r = s.srcS (r + 1) := by
  have hand : r &&& 1 = 0 := by
    apply BitVec.eq_of_getLsbD_eq
    intro i _
    have hone : (1 : SR).getLsbD i = decide (i = 0) := (BitVec.getLsbD_one (w := 6)).trans (by simp)
    rw [BitVec.getLsbD_and, hone]
    by_cases h : i = 0
    · rw [h, hev]
      rfl
    · rw [decide_eq_false h, Bool.and_false]
      exact BitVec.getLsbD_zero.symm
  rw [BitVec.add_eq_or_of_and_eq_zero _ _ hand]
  rfl

/-- The bytes of st.q: the source and the upper register of its pair. -/
theorem exec_stQ (s : State) {ss : SR} (sa : SR) (off : BitVec 23) (hev : ss.getLsbD 0 = false) :
    exec (.stQ ss sa off) s =
      .next (s.cpStore (s.ea sa off) 4 (leBytes 8 (s.srcS ss).toNat ++ leBytes 8 (s.srcS (ss + 1)).toNat)) := by
  rw [← srcS1_of_even s hev]
  rfl

section
variable {s : State} {i : Instr} {va : W64} {log2 pa : Nat} {bytes : List Byte}
  (hi : exec i s = .next (s.cpStore va log2 bytes)) (hr : s.storeReaches va (2 ^ log2) pa)
include hi hr

theorem storesOwn_of_cpStore (ho : inOwn s.cur pa = true) : StoresOwn s i va.toNat pa bytes [] := by
  obtain ⟨honly, hcore⟩ := cpStore_own s va log2 bytes pa hr ho
  exact ⟨_, hi, honly, hcore⟩

theorem storesLater_of_cpStore (ho : inOwn s.cur pa = false) : StoresLater s i va.toNat pa bytes := by
  obtain ⟨honly, hcore⟩ := cpStore_away s va log2 bytes pa hr ho
  exact ⟨_, hi, honly, hcore⟩

end

/-! ## When a store performs -/

/-- The own scratchpad of a core is no configuration space. -/
theorem region_ne_config_of_inOwn (s : State) {c pa : Nat} (h : inOwn c pa = true) : s.region pa ≠ .config := by
  have hc : spCore pa = some c := by simpa [inOwn] using h
  unfold State.region
  split
  · simp only
    split <;> simp
  · rw [hc]
    simp only
    split <;> simp

/-- What keeps an access to the own scratchpad behind another: a common byte, or the same scratchpad (02 R34). -/
theorem ordered_of_inOwn (s : State) {c a n b m : Nat} (h : inOwn c a = true) :
    s.ordered c a n b m = (meets a n b m || inOwn c b) := by
  have hconfig : (s.region a == .config) = false := beq_eq_false_iff_ne.mpr (region_ne_config_of_inOwn s h)
  unfold State.ordered
  rw [hconfig, h]
  simp

/-- A store to the own scratchpad may perform when no earlier access that is outstanding reaches that scratchpad or a byte of the
store, and every load of its bundle has read (02 R33 to R35). -/
theorem storeReady_of_own {s : State} {c : Nat} {x : Sto} (hown : inOwn c x.pa = true)
    (hst : ∀ y ∈ (s.core c).stores, y.id < x.id → y.performed = false →
      inOwn c y.pa = false ∧ meets x.pa x.bytes.length y.pa y.bytes.length = false)
    (hout : ∀ o ∈ (s.core c).outs, ∀ q, o.kind.range = some q → o.id < x.id →
      inOwn c q.1 = false ∧ meets x.pa x.bytes.length q.1 q.2 = false)
    (hld : ∀ o ∈ (s.core c).outs, o.seq = x.seq → ∀ va pa n sgn, o.kind ≠ .load va pa n sgn) :
    s.storeReady c x = true := by
  have horder : s.inOrder c x.id x.pa x.bytes.length = true := by
    unfold State.inOrder
    simp only [Bool.and_eq_true, List.all_eq_true]
    refine ⟨⟨fun y hy => ?_, fun y hy => ?_⟩, fun o ho => ?_⟩
    · by_cases hid : x.id ≤ y.id
      · simp [hid]
      · cases hy' : y.performed with
        | true => simp
        | false =>
          obtain ⟨hfar, hapart⟩ := hst y hy (not_le.mp hid) hy'
          simp [ordered_of_inOwn s hown, hfar, hapart]
    · have hconfig : (s.region x.pa == .config) = false := beq_eq_false_iff_ne.mpr (region_ne_config_of_inOwn s hown)
      simp [State.bufferFirst, hconfig]
    · by_cases hid : x.id ≤ o.id
      · simp [hid]
      · cases hq : o.kind.range with
        | none => simp
        | some q =>
          obtain ⟨hfar, hapart⟩ := hout o ho q hq (not_le.mp hid)
          simp [ordered_of_inOwn s hown, hfar, hapart]
  have hcluster : s.clusterOrder c x.id x.pa = true := by
    have hc : spCore x.pa = some c := by simpa [inOwn] using hown
    unfold State.clusterOrder
    rw [hc]
    simp only [Bool.or_eq_true, List.all_eq_true]
    refine .inr fun y hy => ?_
    by_cases hid : x.id ≤ y.id
    · simp [hid]
    · cases hy' : y.performed with
      | true => simp
      | false =>
        have hfar : spCore y.pa ≠ some c := by simpa [inOwn] using (hst y hy (not_le.mp hid) hy').1
        simp [hfar]
  have hloads : (s.core c).loadsRead x.seq = true := by
    unfold Core.loadsRead
    rw [List.all_eq_true]
    intro o ho
    by_cases hseq : o.seq = x.seq
    · have hkind := hld o ho hseq
      cases hk : o.kind with
      | load va pa n sgn => exact absurd hk (hkind va pa n sgn)
      | done => simp
      | atomic => simp
    · simp [hseq]
  unfold State.storeReady
  rw [horder, hcluster, hloads]
  rfl

/-- The latency of an access has passed, or the front end counts no cycles (06 R131, 08 R190). -/
theorem returns_iff (s : State) (c : Nat) (ready : Option Nat) :
    s.returns c ready = true ↔ (s.core c).live = false ∨ ∀ n, ready = some n → n ≤ (s.core c).frontCycle := by
  unfold State.returns Core.reached
  cases ready <;> simp

section
variable {s : State} {c k : Nat} {x : Sto} (hk : (s.core c).stores[k]? = some x)
include hk

theorem exec_storePerform_done (hp : x.performed = true) : exec (.storePerform c k) s =
    .next (s.modCore c fun y => { y with stores := y.stores.eraseIdx k }) := by
  show execStorePerform c k s = _
  unfold execStorePerform
  simp only [hk, hp, Bool.true_or, if_true]

theorem exec_storePerform_early (hp : x.performed = false) (hret : s.returns c x.ready = false) :
    exec (.storePerform c k) s = .next s := by
  show execStorePerform c k s = _
  unfold execStorePerform
  simp only [hk, hp, hret, Bool.false_and, Bool.or_self, Bool.false_eq_true, if_false]

theorem exec_storePerform_due (hp : x.performed = false) (hret : s.returns c x.ready = true)
    (hready : s.storeReady c x = true) : exec (.storePerform c k) s =
      .next ((s.modCore c fun y => { y with stores := y.stores.eraseIdx k }).landStore c x) := by
  show execStorePerform c k s = _
  unfold execStorePerform
  simp only [hk, hp, hret, hready, Bool.and_self, Bool.or_true, if_true, Bool.false_eq_true, if_false]

end

/-- A store without lanes lands as one write, but in configuration space. -/
theorem landStore_memory {s : State} (c : Nat) {x : Sto} (hl : x.lanes = []) (hr : s.region x.pa ≠ .config) :
    s.landStore c x = s.writeBy (.cp c) x.pa x.bytes := by
  unfold State.landStore
  rw [hl]
  split
  · exact absurd ‹_› hr
  · rfl

theorem landStore_config {s : State} (c : Nat) {x : Sto} (hr : s.region x.pa = .config) :
    s.landStore c x = s.cfgStore x.pa x.bytes := by
  unfold State.landStore
  rw [hr]

/-- A store that performs in memory: its bytes stand there, every other byte and core stays, and it leaves class S (02 R31). -/
theorem storePerform_memory {s : State} {c k : Nat} {x : Sto} (hk : (s.core c).stores[k]? = some x)
    (hp : x.performed = false) (hl : x.lanes = []) (hret : s.returns c x.ready = true) (hready : s.storeReady c x = true)
    (hr : s.region x.pa ≠ .config) :
    ∃ t, exec (.storePerform c k) s = .next t
      ∧ t = { s with cores := t.cores, mem := t.mem, errs := t.errs, kept := t.kept }
      ∧ HoldsBytes t x.pa x.bytes ∧ SameBytesBut s t x.pa x.bytes.length
      ∧ KeptAfter s t (.cp c) x.pa x.bytes.length
      ∧ t.errs = s.errs.filter (fun e => !(x.pa ≤ e && e < x.pa + x.bytes.length))
      ∧ (∀ d, d ≠ c → t.core d = s.core d)
      ∧ t.core c = { s.core c with stores := (s.core c).stores.eraseIdx k } := by
  have hexec := exec_storePerform_due hk hp hret hready
  rw [landStore_memory c hl (s := s.modCore c _) hr] at hexec
  exact ⟨_, hexec, rfl, holdsBytes_writeBy _ _ _ _, sameBytesBut_writeBy (s.modCore c _) _ _ _,
    keptAfter_writeBy (s.modCore c _) _ _ _, rfl, fun d hd => (State.writeBy_core _ _ _ _ d).trans (State.core_modCore_other s _ hd),
    (State.writeBy_core _ _ _ _ c).trans (State.core_modCore_same s c _)⟩

/-- Settles O12: a store carries the low bytes of its source, and one that nothing precedes performs in memory. -/
theorem storesToTheOwnScratchpadWriteTheirBytes : Obligations.StoresToTheOwnScratchpadWriteTheirBytes := by
  unfold Obligations.StoresToTheOwnScratchpadWriteTheirBytes
  refine ⟨fun s ss sa off pa => ?_, fun s c k x hk hp hl hown hdue hst hout hld => ?_⟩
  · intro va own x low
    have hva : s.ea sa off = va := ea_eq_ofInt s sa off
    have store : ∀ (log2 : Nat) (i : Instr), own (2 ^ log2) →
        exec i s = .next (s.cpStore (s.ea sa off) log2 (leBytes (2 ^ log2) x.toNat)) →
        StoresOwn s i va.toNat pa (low (2 ^ log2)) [] := fun log2 i ⟨hr, ho⟩ hi => by
      rw [hva, leBytes_eq_map] at hi
      exact storesOwn_of_cpStore hi hr ho
    refine ⟨fun h => store 0 _ h rfl, fun h => store 1 _ h rfl, fun h => store 2 _ h rfl, fun h => store 3 _ h rfl,
      fun ⟨hr, ho⟩ hev => ?_⟩
    have hi := exec_stQ s sa off hev
    rw [hva, leBytes_eq_map, leBytes_eq_map] at hi
    exact storesOwn_of_cpStore hi hr ho
  · obtain ⟨t, hexec, hrest, hbytes, hother, hviews, -, hcores, hcore⟩ := storePerform_memory hk hp hl
      ((returns_iff s c x.ready).mpr hdue) (storeReady_of_own hown hst hout hld) (region_ne_config_of_inOwn s hown)
    exact ⟨t, hexec, hrest, hbytes, hother, hviews, hcores, hcore⟩

/-- Settles O13: a store elsewhere waits, and performs as what its address says. -/
theorem storesElsewherePerformLater : Obligations.StoresElsewherePerformLater := by
  unfold Obligations.StoresElsewherePerformLater
  refine ⟨fun s ss sa off pa => ?_, fun s c k x hk => ?_⟩
  · intro va away
    have hva : s.ea sa off = va := ea_eq_ofInt s sa off
    have store : ∀ (log2 : Nat) (i : Instr) (bytes : List Byte), away (2 ^ log2) →
        exec i s = .next (s.cpStore (s.ea sa off) log2 bytes) → StoresLater s i va.toNat pa bytes :=
      fun log2 i bytes ⟨hr, ho⟩ hi => storesLater_of_cpStore (hva ▸ hi) hr ho
    exact ⟨fun h => store 0 _ _ h rfl, fun h => store 1 _ _ h rfl, fun h => store 2 _ _ h rfl, fun h => store 3 _ _ h rfl,
      fun h hev => store 4 _ _ h (exec_stQ s sa off hev)⟩
  · intro due
    have hdue : s.returns c x.ready = true ↔ due := returns_iff s c x.ready
    refine ⟨fun hp => ?performed, fun hn hp => ?early, fun hd hp hl hready hr => ?memory, fun hd hp hl hready hr => ?config⟩
    case performed =>
      exact ⟨_, exec_storePerform_done hk hp, onlyCore_modCore s c _, State.core_modCore_same s c _⟩
    case early => exact exec_storePerform_early hk hp (Bool.eq_false_iff.mpr (mt hdue.mp hn))
    case memory =>
      obtain ⟨t, hexec, hrest, hbytes, hother, hviews, herrs, hcores, hcore⟩ :=
        storePerform_memory hk hp hl (hdue.mpr hd) hready hr
      exact ⟨t, hexec, hrest, hviews, hbytes, hother, herrs, hcores, hcore⟩
    case config =>
      rw [exec_storePerform_due hk hp (hdue.mpr hd) hready, landStore_config (s := s.modCore c _) c hr]
      rfl

end Sys2Proof.Machine
end

section
/-! SUPPORT. Loads that return (02 R29, R37, R44, 06 R130 to R132, 19 R392, R398): the bytes that a load reads under its core's
buffered stores, when its value is there, and what its end changes. -/

namespace Sys2Proof.Machine

open Sys2Proof

/-! ## Buffered stores over a load (02 R37) -/

/-- Store x covers the byte at a. -/
def Sto.covers (x : Sto) (a : Nat) : Bool := x.pa ≤ a && a < x.pa + x.bytes.length

/-- The byte at a under stores: the last of those that cover it gives it, and b is what stands there. -/
def laidByte (l : List Sto) (a : Nat) (b : Byte) : Byte :=
  (l.filter (·.covers a)).getLast?.elim b fun x => x.bytes.getD (a - x.pa) 0

theorem laidByte_concat (l : List Sto) (x : Sto) (a : Nat) (b : Byte) :
    laidByte (l ++ [x]) a b = if x.pa ≤ a ∧ a < x.pa + x.bytes.length then x.bytes.getD (a - x.pa) 0 else laidByte l a b := by
  unfold laidByte
  rw [List.filter_append]
  by_cases h : x.pa ≤ a ∧ a < x.pa + x.bytes.length
  · rw [if_pos h, List.filter_singleton, show x.covers a = true by simpa [Sto.covers] using h]
    simp
  · rw [if_neg h, List.filter_singleton, show x.covers a = false by simpa [Sto.covers] using h]
    simp

/-- Laying stores over bytes, one after another, leaves each byte under the last that covers it. -/
theorem overlay_eq_map (pa : Nat) (bs : List Byte) (l : List Sto) :
    overlay pa bs l = bs.zipIdx.map fun q => laidByte l (pa + q.2) q.1 := by
  induction l using List.reverseRecOn with
  | nil => exact (List.zipIdx_map_fst 0 bs).symm
  | append_singleton l x ih =>
    have hstep : overlay pa bs (l ++ [x]) = (overlay pa bs l).zipIdx.map fun q =>
        if x.pa ≤ pa + q.2 ∧ pa + q.2 < x.pa + x.bytes.length then x.bytes.getD (pa + q.2 - x.pa) 0 else q.1 := by
      unfold overlay
      rw [List.foldl_append]
      rfl
    rw [hstep, ih]
    apply List.ext_getElem (by simp)
    intro i h1 h2
    simp [laidByte_concat]

/-- The value that the stores of the core's buffer leave of a load. -/
theorem leNat_overlay (k : Core) (id pa : Nat) (bs : List Byte) :
    leNat (overlay pa bs (k.segment.buffer.filter fun x => x.id < id)) = k.laidValue id pa bs := by
  have hlaid : ∀ a b, laidByte (k.segment.buffer.filter fun x => x.id < id) a b = k.laidOver id a b := fun a b => by
    unfold laidByte Core.laidOver
    rw [List.filter_filter]
    have hfilter : (fun x : Sto => x.covers a && decide (x.id < id)) =
        fun x => decide (x.id < id) && decide (x.pa ≤ a) && decide (a < x.pa + x.bytes.length) := by
      funext x
      rw [Bool.and_comm, Bool.and_assoc]
      rfl
    rw [hfilter]
    cases List.getLast? _ <;> rfl
  unfold Core.laidValue
  rw [overlay_eq_map]
  simp only [hlaid]

/-! ## The step of an outstanding op -/

section
variable {s : State} {c k : Nat} {o : Out} (hk : (s.core c).outs[k]? = some o)
include hk

theorem exec_loadReturn_early (hret : s.returns c o.ready = false) : exec (.loadReturn c k) s = .next s := by
  show execLoadReturn c k s = _
  unfold execLoadReturn
  simp only [hk, hret, Bool.not_false, if_true]

theorem exec_loadReturn_done (hret : s.returns c o.ready = true) (hkind : o.kind = .done) :
    exec (.loadReturn c k) s = .next (s.endOut c o) := by
  show execLoadReturn c k s = _
  unfold execLoadReturn
  simp only [hk, hret, hkind, Bool.not_true, Bool.false_eq_true, if_false]

variable {va pa n : Nat} {sgn : Bool} (hret : s.returns c o.ready = true) (hkind : o.kind = .load va pa n sgn)
include hret hkind

theorem exec_loadReturn_waits (h : (s.inOrder c o.id pa n && s.loadReady c o pa) = false) :
    exec (.loadReturn c k) s = .next s := by
  show execLoadReturn c k s = _
  unfold execLoadReturn
  simp only [hk, hret, hkind, h, Bool.not_true, Bool.false_eq_true, if_false]

theorem exec_loadReturn_load (ho : s.inOrder c o.id pa n = true) (hr : s.loadReady c o pa = true) :
    exec (.loadReturn c k) s = .next (s.endLoad c o pa n sgn) := by
  show execLoadReturn c k s = _
  unfold execLoadReturn
  simp only [hk, hret, hkind, ho, hr, Bool.not_true, Bool.false_eq_true, if_false, Bool.and_self, if_true]

end

/-! ## The end of an outstanding op -/

/-- An op that ends takes its own entry out of its core (06 R130). -/
theorem core_endOut (s : State) (c d : Nat) (o : Out) :
    (s.endOut c o).core d = (s.modCore c fun k => { k with outs := k.outs.filter fun x => x.id != o.id }).core d := rfl

theorem core_endOut_same (s : State) (c : Nat) (o : Out) :
    (s.endOut c o).core c = { s.core c with outs := (s.core c).outs.filter fun x => x.id != o.id } := by
  rw [core_endOut, State.core_modCore_same]

theorem core_endOut_other (s : State) {c d : Nat} (o : Out) (h : d ≠ c) : (s.endOut c o).core d = s.core d := by
  rw [core_endOut, State.core_modCore_other s _ h]

/-- No register of configuration space speaks of outstanding ops. -/
theorem cfgWord_endOut (s : State) (c : Nat) (o : Out) (off : Nat) : (s.endOut c o).cfgWord off = s.cfgWord off := rfl

theorem cfgRead_congr {s t : State} (h : ∀ off, t.cfgWord off = s.cfgWord off) (pa n : Nat) :
    t.cfgRead pa n = s.cfgRead pa n := by
  unfold State.cfgRead
  simp only [h]

theorem cfgRead_endOut (s : State) (c : Nat) (o : Out) (pa n : Nat) : (s.endOut c o).cfgRead pa n = s.cfgRead pa n :=
  cfgRead_congr (cfgWord_endOut s c o) pa n

/-- An access that meets an error changes no register, and the error is due (02 R29). -/
theorem meetsError_of_endPoison {s : State} {c k e : Nat} {o : Out}
    (h : exec (.loadReturn c k) s = .next (s.endPoison c o e)) : MeetsError s c k o e := by
  refine ⟨_, h, fun _ => rfl, fun d hd => ?_, rfl, ?_⟩
  · exact (State.core_modCore_other _ _ hd).trans (core_endOut_other s o hd)
  · refine (State.core_modCore_same _ c _).trans ?_
    rw [core_endOut_same]

/-- The destinations of a load: one register for at most 8 bytes, or an even pair for 16 (06 R141). -/
def Out.loadsScalars (o : Out) (n : Nat) : Prop :=
  ∃ sd : SR, (o.dst = [.s sd.toNat] ∧ n ≤ 8) ∨ (o.dst = [.s sd.toNat, .s (sd.toNat + 1)] ∧ n = 16 ∧ sd.toNat % 2 = 0)

/-- State t is s but for what a load has filled of the fabric caches. -/
def FillsFabric (s t : State) : Prop := t = { s with fabric := t.fabric, freeNo := t.freeNo }

/-- A load whose bytes are there ends with the value that its core's buffered stores leave of them. -/
theorem loadReturns_of_bytes {s t : State} {c k pa n : Nat} {o : Out} {sgn : Bool} {bs : List Byte} {rest : State → Prop}
    (h : exec (.loadReturn c k) s = .next (s.endLoad c o pa n sgn)) (hdst : o.loadsScalars n)
    (hp : s.readPoison c o.id pa n = none) (hbytes : (s.endOut c o).loadBytes c pa n = (bs, t))
    (ht : FillsFabric (s.endOut c o) t)
    (hrest : ∀ u : State, u.fabric = t.fabric → u.freeNo = t.freeNo → rest u) :
    LoadReturns s c k o n sgn ((s.core c).laidValue o.id pa bs) rest := by
  have hend : s.endLoad c o pa n sgn =
      t.modCore c fun k => k.carry (k.writeLoad o.dst n sgn ((s.core c).laidValue o.id pa bs)) o.seq := by
    unfold State.endLoad
    simp only [hp, hbytes, leNat_overlay]
  rw [hend] at h
  have hcores : ∀ d, t.core d = (s.endOut c o).core d := fun d => by rw [ht]; rfl
  generalize (s.core c).laidValue o.id pa bs = x at *
  have hscalar : (∃ a, o.dst = [.s a]) ∨ ∃ a b, o.dst = [.s a, .s b] := by
    obtain ⟨sd, ⟨hd, -⟩ | ⟨hd, -⟩⟩ := hdst
    · exact .inl ⟨_, hd⟩
    · exact .inr ⟨_, _, hd⟩
  have hcore : (t.modCore c fun k => k.carry (k.writeLoad o.dst n sgn x) o.seq).core c =
      ((s.endOut c o).core c).carry (((s.endOut c o).core c).writeLoad o.dst n sgn x) o.seq := by
    rw [State.core_modCore_same, hcores]
  have hold : (s.core c).s = ((s.endOut c o).core c).s := by rw [core_endOut_same]
  have hnew : ((t.modCore c fun k => k.carry (k.writeLoad o.dst n sgn x) o.seq).core c).s =
      (((s.endOut c o).core c).writeLoad o.dst n sgn x).s := by rw [hcore, Core.carry_eq]
  refine ⟨_, h, ⟨?_, fun a => ?_, fun d hd => ?_, ?_, ?_⟩, hrest _ rfl rfl, fun sd hd hn => ?_, fun sd hd hn hev => ?_⟩
  · rw [ht]; rfl
  · rw [ht]; rfl
  · rw [State.core_modCore_other _ _ hd, hcores, core_endOut_other s o hd]
  · rw [hcore, core_endOut_same]
    exact checkpoints_carry { s.core c with outs := _ } _ _ (by rw [Core.writeLoad_scalars _ _ _ _ hscalar])
      (by rw [Core.writeLoad_scalars _ _ _ _ hscalar]; rfl)
  · rw [hcore, core_endOut_same, Core.carry_eq, Core.writeLoad_scalars _ _ _ _ hscalar]
  · exact ofScalars_scalarIs sd _ _ _ _ _ (scalarIs_writeLoad ((s.endOut c o).core c) sd sgn x (by omega)) hold (hd ▸ hnew)
  · exact ofScalars_pairIs sd _ _ _ _ _ _ (pairIs_writeLoad ((s.endOut c o).core c) n sgn x hev) hold (hd ▸ hnew)

/-! ## The bytes of a load -/

section
variable (s : State) {c pa n : Nat}

/-- Shelf memory, scratchpads and drawers give what CP accesses see (02 R37). -/
theorem loadBytes_memory (hr : (∃ i, s.region pa = .shelf i) ∨ (∃ i, s.region pa = .scratch i) ∨ ∃ i, s.region pa = .drawer i)
    (hg : s.gatedAt pa = false) : s.loadBytes c pa n = (s.bytesSeen .cp pa n, s) := by
  unfold State.loadBytes
  rw [readAs_eq s .cp pa n hg]
  rcases hr with ⟨i, h⟩ | ⟨i, h⟩ | ⟨i, h⟩ <;> rw [h]

theorem loadBytes_config (hr : s.region pa = .config) : s.loadBytes c pa n = (leBytes n (s.cfgRead pa n), s) := by
  unfold State.loadBytes
  rw [hr]

/-- A peer window gives the bytes of its line, where the fabric cache holds it (02 R44). -/
theorem loadBytes_held {q : Nat} {f : FabricLine} (hr : s.region pa = .peer q) (hf : s.fabricLine (isleOf c) pa = some f) :
    s.loadBytes c pa n = ((f.bytes.drop (pa % 64)).take n, s) := by
  unfold State.loadBytes State.fillLine
  rw [hr, hf]

/-- Elsewhere it fills a line. -/
theorem loadBytes_filled {q : Nat} (hr : s.region pa = .peer q) (hf : s.fabricLine (isleOf c) pa = none) :
    s.loadBytes c pa n = (((s.newLine (isleOf c) (pa / 64)).bytes.drop (pa % 64)).take n,
      { s.freshen with fabric := s.fabric ++ [s.newLine (isleOf c) (pa / 64)] }) := by
  unfold State.loadBytes State.fillLine
  rw [hr, hf]

end

/-! ## When the value is there -/

/-- Shelf memory, scratchpads and configuration space answer at once, and a drawer once its request is answered (19 R392). -/
theorem loadReady_memory {s : State} {c pa : Nat} {o : Out}
    (h : (∃ i, s.region pa = .shelf i) ∨ (∃ i, s.region pa = .scratch i) ∨ (∃ i, s.region pa = .drawer i)
      ∧ ∀ r ∈ s.drawerReqs, r.core = c → r.unit = 0 → r.id = o.id →
          ∃ f, r.frame = some f ∧ r.answered = true ∧ 48 * f + 404 ≤ s.linkCycle) : s.loadReady c o pa = true := by
  unfold State.loadReady
  rcases h with ⟨i, h⟩ | ⟨i, h⟩ | ⟨⟨i, h⟩, harrived⟩
  · rw [h]
  · rw [h]
  · rw [h]
    simp only
    cases hf : s.drawerReqs.find? fun r => r.isOf c 0 && r.id == o.id with
    | none => rfl
    | some r =>
      have hr := List.find?_some hf
      simp only [DrawerReq.isOf, Bool.and_eq_true, beq_iff_eq] at hr
      obtain ⟨⟨hc, hu⟩, hid⟩ := hr
      obtain ⟨f, hframe, ha, ht⟩ := harrived r (List.mem_of_find?_eq_some hf) hc hu hid
      simp [hframe, ha, ht]

theorem loadReady_config {s : State} {c pa : Nat} {o : Out} (h : s.region pa = .config) : s.loadReady c o pa = true := by
  unfold State.loadReady
  rw [h]

/-- A peer window answers from its line, or 540 cycles after the frame of its request (19 R398). -/
theorem loadReady_peer_iff {s : State} {c pa q : Nat} {o : Out} (h : s.region pa = .peer q) :
    s.loadReady c o pa = true ↔
      (s.fabricLine (isleOf c) pa).isSome = true ∨ ∃ f, o.asked = some f ∧ 48 * f + 540 ≤ s.linkCycle := by
  unfold State.loadReady
  rw [h]
  simp only [Bool.or_eq_true]
  cases o.asked <;> simp

/-- Settles O11: a load returns what its region gives under the buffered stores of its core. -/
theorem returningLoadsWriteTheirRegisters : Obligations.ReturningLoadsWriteTheirRegisters := by
  unfold Obligations.ReturningLoadsWriteTheirRegisters
  intro s c k o hk due
  have hdue : s.returns c o.ready = true ↔ due := returns_iff s c o.ready
  refine ⟨fun hn => exec_loadReturn_early hk (Bool.eq_false_iff.mpr (mt hdue.mp hn)), fun hd hkind => ?done,
    fun hd va pa n sgn hkind hdst => ⟨fun ho => ?behind, fun ho => ⟨fun e he hready => ?error, fun hp hg => ?returns⟩⟩⟩
  case done =>
    exact ⟨_, exec_loadReturn_done hk (hdue.mpr hd) hkind, rfl, fun _ => rfl, fun d hd => core_endOut_other s o hd,
      core_endOut_same s c o⟩
  case behind => exact exec_loadReturn_waits hk (hdue.mpr hd) hkind (by rw [ho, Bool.false_and])
  case error =>
    have hend := exec_loadReturn_load hk (hdue.mpr hd) hkind ho hready
    unfold State.endLoad at hend
    rw [he] at hend
    exact meetsError_of_endPoison hend
  case returns =>
    intro returns arrived
    have ends : s.loadReady c o pa = true → _ := exec_loadReturn_load hk (hdue.mpr hd) hkind ho
    refine ⟨fun hr => ?memory, fun hr => ?config,
      fun q hr => ⟨fun f hf => ?held, fun hf => ⟨fun hasked => ?asked, fun f hasked ht => ?filled⟩⟩⟩
    case memory =>
      refine loadReturns_of_bytes (ends (loadReady_memory hr)) hdst hp (loadBytes_memory (s.endOut c o) ?_ hg) rfl
        fun u h1 h2 => ⟨h1, h2⟩
      exact hr.imp id (Or.imp id And.left)
    case config =>
      have hbytes := loadBytes_config (s.endOut c o) (c := c) (n := n) hr
      rw [cfgRead_endOut] at hbytes
      exact loadReturns_of_bytes (ends (loadReady_config hr)) hdst hp hbytes rfl fun u h1 h2 => ⟨h1, h2⟩
    case held =>
      exact loadReturns_of_bytes (ends ((loadReady_peer_iff hr).mpr (.inl (by rw [hf]; rfl)))) hdst hp
        (loadBytes_held (s.endOut c o) hr hf) rfl fun u h1 h2 => ⟨h1, h2⟩
    case asked =>
      refine exec_loadReturn_waits hk (hdue.mpr hd) hkind ?_
      have hready : ¬s.loadReady c o pa = true := by
        rw [loadReady_peer_iff hr, hf]
        rintro (h | ⟨f, hasks, ht⟩)
        · exact absurd h Bool.false_ne_true
        · exact absurd (hasked f hasks) (not_lt.mpr ht)
      rw [Bool.eq_false_iff.mpr hready, Bool.and_false]
    case filled =>
      intro l
      exact loadReturns_of_bytes (ends ((loadReady_peer_iff hr).mpr (.inr ⟨f, hasked, ht⟩))) hdst hp
        (loadBytes_filled (s.endOut c o) hr hf) rfl fun u h1 h2 => ⟨h1, h2⟩

end Sys2Proof.Machine
end

section
/-! SUPPORT. Latencies (06 R131, 09 R216, 15 R335): the time at which a result may be read and a store may perform. -/

namespace Sys2Proof.Machine

open Sys2Proof

/-! ## Times -/

section
variable {s : State} {first : Nat} {i : Instr}

/-- An outstanding op of the instruction takes its time. -/
theorem timed_outs {o : Out} {n : Nat} (ho : o ∈ (s.core s.iss.core).outs) (hf : first ≤ o.id)
    (hn : s.latencyOf s.iss.core i o = some n) :
    { o with ready := some (s.iss.at_ + n) } ∈ ((s.timed first i).core s.iss.core).outs := by
  unfold State.timed
  rw [State.core_modCore_same]
  refine List.mem_map.mpr ⟨o, ho, ?_⟩
  rw [if_pos hf, hn]
  rfl

/-- A store of the instruction takes its time. -/
theorem timed_stores {x : Sto} {n : Nat} (hx : x ∈ (s.core s.iss.core).stores) (hf : first ≤ x.id)
    (hn : s.storeLatency s.iss.core x.pa = some n) :
    { x with ready := some (s.iss.at_ + n) } ∈ ((s.timed first i).core s.iss.core).stores := by
  unfold State.timed
  rw [State.core_modCore_same]
  refine List.mem_map.mpr ⟨x, hx, ?_⟩
  rw [if_pos hf, hn]
  rfl

end

section
variable {s : State} {first : Nat} {o : Out} (ho : o ∈ (s.core s.iss.core).outs) (hf : first ≤ o.id)
include ho hf

/-- A result that its register holds is ready after the exact latency of its op (06 R131, 09 R216). -/
theorem timed_exact (hkind : o.kind = .done) (i : Instr) {n : Nat} (hn : exactLatency i = some n) :
    { o with ready := some (s.iss.at_ + n) } ∈ ((s.timed first i).core s.iss.core).outs :=
  timed_outs ho hf (by unfold State.latencyOf; rw [hkind]; simp only [hn, Option.orElse])

/-- A load from the own scratchpad waits for its banks besides, where something shares them (15 R335). -/
theorem timed_near (hkind : o.kind = .done) (i : Instr) {n : Nat} (he : exactLatency i = none) (hn : ownLatency i = some n) :
    ∃ w, { o with ready := some (s.iss.at_ + (n + w)) } ∈ ((s.timed first i).core s.iss.core).outs
      ∧ w ≤ 8 ∧ (s.banksShared s.iss.core = false → w = 0) := by
  refine ⟨s.bankWait s.iss.core o.id, timed_outs ho hf ?_, ?_, fun h => ?_⟩
  · unfold State.latencyOf
    rw [hkind]
    simp only [he, hn, Option.orElse, Option.map]
  · unfold State.bankWait
    split
    · exact Nat.le_of_lt_succ (Nat.mod_lt _ (by decide))
    · exact Nat.zero_le 8
  · unfold State.bankWait
    rw [h, if_neg Bool.false_ne_true]

/-- A load from elsewhere returns no earlier than its nominal latency (06 R131). -/
theorem timed_far {va pa n m : Nat} {sgn : Bool} (hkind : o.kind = .load va pa n sgn) (i : Instr)
    (hm : s.farLatency s.iss.core pa = some m) :
    { o with ready := some (s.iss.at_ + m) } ∈ ((s.timed first i).core s.iss.core).outs :=
  timed_outs ho hf (by unfold State.latencyOf; rw [hkind]; exact hm)

end

/-- The latency of a load from a region (06 R131). -/
theorem farLatency_scratch {s : State} {pa d : Nat} (c : Nat) (hr : s.region pa = .scratch d) :
    s.farLatency c pa = some (if d / 8 = c / 8 then 24 else if isleOf d = isleOf c then 60 else 90) := by
  unfold State.farLatency
  rw [hr]

theorem farLatency_shelf {s : State} {pa isle : Nat} (c : Nat) (hr : s.region pa = .shelf isle) :
    s.farLatency c pa = some 60 := by
  unfold State.farLatency
  rw [hr]

theorem farLatency_config {s : State} {pa : Nat} (c : Nat) (hr : s.region pa = .config) : s.farLatency c pa = some 120 := by
  unfold State.farLatency
  rw [hr]

/-- A store takes as long as a load, but one cycle in the own scratchpad, and 60 to a drawer (06 R131). -/
theorem storeLatency_scratch {s : State} {pa d : Nat} (c : Nat) (hr : s.region pa = .scratch d) :
    s.storeLatency c pa =
      some (if d = c then 1 else if d / 8 = c / 8 then 24 else if isleOf d = isleOf c then 60 else 90) := by
  unfold State.storeLatency
  rw [hr]
  simp only
  rw [farLatency_scratch c hr]
  exact (apply_ite some _ _ _).symm

theorem storeLatency_drawer {s : State} {pa d : Nat} (c : Nat) (hr : s.region pa = .drawer d) :
    s.storeLatency c pa = some 60 := by
  unfold State.storeLatency
  rw [hr]

/-- In shelf memory and configuration space a store has the latency of a load. -/
theorem storeLatency_eq_far {s : State} {pa : Nat} (c : Nat) (hs : ∀ d, s.region pa ≠ .scratch d)
    (hd : ∀ d, s.region pa ≠ .drawer d) : s.storeLatency c pa = s.farLatency c pa := by
  unfold State.storeLatency
  split
  · exact absurd ‹_› (hs _)
  · exact absurd ‹_› (hd _)
  · rfl

/-! ## Marks -/

/-- The only producer of a core marks its destinations until it is ripe (06 R130). -/
theorem marks_single {k : Core} {o : Out} (ho : k.outs = [o]) (hm : k.mq = []) (h0 : k.c0q = []) (h1 : k.c1q = [])
    (hh : k.hold = none) (hhid : k.hidHold = none) : k.marks = if k.ripe o then [] else o.dst := by
  unfold Core.marks
  rw [ho, hm, h0, h1, hh, hhid]
  cases hr : k.ripe o <;> simp [hr]

theorem ripe_iff {k : Core} {o : Out} {n : Nat} (hkind : o.kind = .done) (hready : o.ready = some n) :
    k.ripe o = true ↔ n ≤ k.frontCycle := by
  unfold Core.ripe Core.timeUp Core.reached
  rw [hkind, hready]
  simp

/-- Settles O2: the functions of products and quotients, and the latency that timing gives each producer and store. -/
theorem longScalarOpsWriteSdUnderAMark : Obligations.LongScalarOpsWriteSdUnderAMark := by
  unfold Obligations.LongScalarOpsWriteSdUnderAMark
  refine ⟨fun s sd sa sb => ?values, fun s first i o => ?results, fun s first i x => ?stores,
    fun k o n ho hm h0 h1 hh hhid hkind hready => ?marks⟩
  case values =>
    intro a b
    exact ⟨setsSLate_of_alu2Long rfl (mul_eq_ofNat a b), setsSLate_of_alu2Long rfl (mulHighSigned_eq a b),
      setsSLate_of_alu2Long rfl (mulHighUnsigned_eq a b), fun hb =>
        ⟨setsSLate_of_alu2Long rfl (divSigned_eq hb), setsSLate_of_alu2Long rfl (remSigned_eq hb),
          setsSLate_of_alu2Long rfl (divUnsigned_eq hb), setsSLate_of_alu2Long rfl (remUnsigned_eq hb)⟩⟩
  case results =>
    intro c after near ho hf
    refine ⟨fun hkind => ?_, fun va pa n sgn hkind => ?_⟩
    · have held := fun (j : Instr) {n : Nat} => timed_exact (n := n) ho hf hkind j
      have loaded := fun (j : Instr) {n : Nat} => timed_near (n := n) ho hf hkind j
      -- in the order of the rows: products and divisions, loads, the ops of the vector engine, and every other op
      simp only [after, near]
      split
      iterate 7 exact held _ rfl
      iterate 11 exact loaded _ rfl rfl
      iterate 42 exact held _ rfl
      trivial
    · have far := fun {m : Nat} => timed_far (m := m) ho hf hkind i
      exact ⟨fun isle hr => far (farLatency_shelf c hr), fun hr => far (farLatency_config c hr),
        fun d hr => far (farLatency_scratch c hr)⟩
  case stores =>
    intro c performs hx hf
    have lands := fun {m : Nat} => timed_stores (i := i) (n := m) hx hf
    exact ⟨fun isle hr => lands ((storeLatency_eq_far c (by simp [hr]) (by simp [hr])).trans (farLatency_shelf c hr)),
      fun d hr => lands (storeLatency_drawer c hr),
      fun hr => lands ((storeLatency_eq_far c (by simp [hr]) (by simp [hr])).trans (farLatency_config c hr)),
      fun d hr => lands (storeLatency_scratch c hr)⟩
  case marks =>
    have hmarks := marks_single ho hm h0 h1 hh hhid
    have hripe := ripe_iff (k := k) hkind hready
    exact ⟨fun h => hmarks.trans (if_neg (mt hripe.mp (not_le.mpr h))), fun h => hmarks.trans (if_pos (hripe.mpr h))⟩

end Sys2Proof.Machine
end

section
/-! SUPPORT. What the records of a context change: writes of homes through its root (07 R168), the failure of a launch and its
nodes that leave the pool (07 R173), CSTATE of a CCB (08 R188), and what stands in memory after a word is written. -/

namespace Sys2Proof.Machine

open Sys2Proof

/-! ## Writes of homes -/

/-- Of the device only bytes of memory change, with their errors and the views of them, and every view but that of CP goes on
reading what it keeps (01 R18). -/
def HomeWrites (s t : State) : Prop := t = { s with mem := t.mem, errs := t.errs, kept := t.kept } ∧ HomeViews s t

theorem homeViews_refl (s : State) : HomeViews s s := ⟨fun _ => .inr rfl, fun _ _ _ => rfl⟩

theorem homeViews_trans {s t u : State} (h : HomeViews s t) (h' : HomeViews t u) : HomeViews s u := by
  refine ⟨fun a => ?_, fun v a hv => (h'.2 v a hv).trans (h.2 v a hv)⟩
  rcases h'.1 a with hn | he
  · exact .inl hn
  · rw [he]; exact h.1 a

/-- What the views keep depends on `kept` alone. -/
theorem homeViews_congr {s t s' t' : State} (h : HomeViews s t) (hs : s'.kept = s.kept) (ht : t'.kept = t.kept) :
    HomeViews s' t' := by
  unfold HomeViews WroteViews State.keptAt at *
  rw [hs, ht]; exact h

theorem homeWrites_refl (s : State) : HomeWrites s s := ⟨rfl, homeViews_refl s⟩

theorem homeWrites_trans {s t u : State} (h : HomeWrites s t) (h' : HomeWrites t u) : HomeWrites s u :=
  ⟨by rw [h'.1, h.1], homeViews_trans h.2 h'.2⟩

theorem homeWrites_foldl {α : Type} {f : State → α → State} (hf : ∀ t a, HomeWrites t (f t a)) (l : List α) (s : State) :
    HomeWrites s (l.foldl f s) := by
  induction l generalizing s with
  | nil => exact homeWrites_refl s
  | cons a l ih => exact homeWrites_trans (hf s a) (ih _)

/-- After a write of a home its own view keeps no byte more, and every other one reads what it keeps. -/
theorem homeViews_writeBytes (s : State) (pa : Nat) (bs : List Byte) : HomeViews s (s.writeBytes pa bs) := by
  have hkept := keptAfter_writeBytes s pa bs
  have hview : ∀ v a x, s.keptAt v a = some x → x.view = v := fun v a x hx => by
    have := List.find?_some hx
    simp only [Bool.and_eq_true, beq_iff_eq] at this
    exact this.1
  refine ⟨fun a => ?_, fun v a hv => ?_⟩
  · rw [hkept]
    cases hx : s.keptAt Writer.home.view a with
    | none => exact .inl rfl
    | some x =>
      simp only [Option.bind_some, Kept.written, hview _ _ x hx, if_true]
      split
      · exact .inl rfl
      · exact .inr rfl
  · rw [hkept]
    cases hx : s.keptAt v a with
    | none => rfl
    | some x =>
      simp only [Option.bind_some, Kept.written, hview _ _ x hx, if_neg hv]
      split <;> rfl

theorem homeWrites_writeBytes (s : State) (pa : Nat) (bs : List Byte) : HomeWrites s (s.writeBytes pa bs) :=
  ⟨rfl, homeViews_writeBytes s pa bs⟩

theorem homeWrites_writeNat (s : State) (pa n x : Nat) : HomeWrites s (s.writeNat pa n x) := homeWrites_writeBytes s pa _

theorem homeWrites_writeRuns (s : State) (l : List (Nat × Nat)) (bs : List Byte) : HomeWrites s (s.writeRuns .home l bs) := by
  induction l generalizing s bs with
  | nil => exact homeWrites_refl s
  | cons q l ih => exact homeWrites_trans (homeWrites_writeBytes s q.1 _) (ih _ _)

theorem homeWrites_setCstate (s : State) (ccb v : Nat) : HomeWrites s (s.setCstate ccb v) := homeWrites_writeNat s _ _ _

section
variable {s t : State}

theorem HomeWrites.core (h : HomeWrites s t) (c : Nat) : t.core c = s.core c := by rw [h.1]; rfl
theorem HomeWrites.ctx (h : HomeWrites s t) (x : Nat) : t.ctx x = s.ctx x := by rw [h.1]; rfl
theorem HomeWrites.cores (h : HomeWrites s t) : t.cores = s.cores := by rw [h.1]
theorem HomeWrites.pool (h : HomeWrites s t) : t.pool = s.pool := by rw [h.1]
theorem HomeWrites.gatedAt (h : HomeWrites s t) (pa : Nat) : t.gatedAt pa = s.gatedAt pa := by rw [h.1]; rfl

end

/-! ## Records of a context -/

section
variable {s t : State} {x : Nat} {va w : W64}

theorem homeWrites_rootPut (h : s.rootPut x va w = .ok t) : HomeWrites s t := by
  unfold State.rootPut State.rootWrite at h
  cases hl : s.resolveRootRange x va (leBytes 8 w.toNat).length .write with
  | error e => rw [hl] at h; exact nomatch h
  | ok l =>
    rw [hl] at h
    change (if (s.touchesConfig l || s.touchesPeer l) = true then .error _ else .ok _) = Except.ok t at h
    split at h
    · exact nomatch h
    · cases h; exact homeWrites_writeRuns s l _

end

theorem homeWrites_rootTry (s : State) (x : Nat) (va w : W64) : HomeWrites s (s.rootTry x va w) := by
  unfold State.rootTry
  split
  · exact homeWrites_rootPut ‹_›
  · exact homeWrites_refl s

theorem homeWrites_setFailure (s : State) (x : Nat) (launch : W64) (code : Nat) (node : W64) :
    HomeWrites s (s.setFailure x launch code node) := by
  unfold State.setFailure
  simp only
  split
  · exact homeWrites_refl s
  · exact homeWrites_trans (homeWrites_rootTry s _ _ _) (homeWrites_rootTry _ _ _ _)

theorem homeWrites_recordUpdate (s : State) (x : Nat) (node launch va : W64) (f : W64 → W64) :
    HomeWrites s (s.recordUpdate x node launch va f) := by
  unfold State.recordUpdate
  cases hw : s.rootWord x va with
  | error e => exact homeWrites_setFailure s x launch 0x16 node
  | ok w =>
    show HomeWrites s (match s.rootPut x va (f w) with | .ok t => t | .error _ => s.setFailure x launch 0x16 node)
    split
    · exact homeWrites_rootPut ‹_›
    · exact homeWrites_setFailure s x launch 0x16 node

theorem homeWrites_leaveLive (s : State) (x : Nat) (node launch : W64) : HomeWrites s (s.leaveLive x node launch) :=
  homeWrites_trans (homeWrites_recordUpdate s _ _ _ _ _) (homeWrites_recordUpdate _ _ _ _ _ _)

/-! ## Fields of words -/

/-- A bit of a word after one of its fields has been replaced. -/
theorem getLsbD_setFld {n lo len : Nat} (x : BitVec n) (v j : Nat) (h : lo + len ≤ n) :
    (setFld x lo len v).getLsbD j = if lo ≤ j ∧ j < lo + len then v.testBit (j - lo) else x.getLsbD j := by
  simp only [setFld, BitVec.getLsbD_or, BitVec.getLsbD_and, BitVec.getLsbD_not, BitVec.getLsbD_ofNat, ← Nat.shiftLeft_eq,
    Nat.testBit_shiftLeft, Nat.testBit_two_pow_sub_one, Nat.testBit_mod_two_pow]
  by_cases hj : j < n
  · by_cases h1 : lo ≤ j
    · have hlen : j - lo < len ↔ j < lo + len := by omega
      by_cases h2 : j < lo + len <;> simp [hj, h1, h2, hlen]
    · simp [h1, hj]
  · have : ¬(lo ≤ j ∧ j < lo + len) := by omega
    simp [hj, this, BitVec.getLsbD_of_ge x j (by omega)]

/-- A field as it has been written. -/
theorem fld_setFld {n lo len v : Nat} (x : BitVec n) (h : lo + len ≤ n) : fld (setFld x lo len v) lo len = v % 2 ^ len := by
  apply Nat.eq_of_testBit_eq
  intro i
  have hbit := getLsbD_setFld x v (lo + i) h
  simp only [fld, bitsAt, Nat.testBit_mod_two_pow, Nat.testBit_div_two_pow]
  by_cases hi : i < len
  · rw [if_pos ⟨by omega, by omega⟩, Nat.add_sub_cancel_left] at hbit
    simpa [hi, BitVec.getLsbD, Nat.add_comm] using hbit
  · simp [hi]

/-! ## Words of memory -/

section
variable {s : State}

theorem readNat_eq (s : State) {pa : Nat} (n : Nat) (h : s.gatedAt pa = false) : s.readNat pa n = leNat (s.bytesAt pa n) := by
  unfold State.readNat; rw [readBytes_eq s pa n h]

theorem bytesAt_writeBytes (s : State) (pa : Nat) (bs : List Byte) : (s.writeBytes pa bs).bytesAt pa bs.length = bs := by
  have h := Memory.read_write s.mem pa bs
  rw [Memory.read_eq] at h
  exact h

theorem readNat_writeNat (s : State) {pa : Nat} (n x : Nat) (h : s.gatedAt pa = false) :
    (s.writeNat pa n x).readNat pa n = x % 2 ^ (8 * n) := by
  have hb := bytesAt_writeBytes s pa (leBytes n x)
  rw [leBytes_length] at hb
  rw [readNat_eq _ _ (((homeWrites_writeNat s pa n x).gatedAt pa).trans h), ← leNat_leBytes n x]
  exact congrArg leNat hb

/-- CSTATE as it has been written (08 R188). -/
theorem cstate_setCstate (s : State) {ccb v : Nat} (hv : v < 4) (h : s.gatedAt (ccb + 0x18) = false) :
    ((s.setCstate ccb v).ccbWord ccb 0x18).toNat / 2 ^ 8 % 4 = v := by
  have hw : (s.setCstate ccb v).ccbWord ccb 0x18 = setFld (s.ccbWord ccb 0x18) 8 2 v := by
    unfold State.setCstate State.writeW
    rw [State.ccbWord, State.readW, readNat_writeNat s 8 _ h, Nat.mod_eq_of_lt (BitVec.isLt _), BitVec.ofNat_toNat,
      BitVec.setWidth_eq]
  rw [hw]
  exact (fld_setFld _ (by omega)).trans (Nat.mod_eq_of_lt hv)

end

end Sys2Proof.Machine
end

section
/-! SUPPORT. Decrements (07 R170): each outcome of a decrement of a readable node record, and what the ready pool holds after
an entry (07 R174). -/

namespace Sys2Proof.Machine

open Sys2Proof

/-! ## The ready pool -/

theorem mem_insertPool (n q : PoolNode) (l : List PoolNode) : q ∈ insertPool n l ↔ q = n ∨ q ∈ l := by
  induction l with
  | nil => simp [insertPool]
  | cons p ps ih =>
    unfold insertPool
    split
    · simp
    · simp only [List.mem_cons, ih]; tauto

theorem length_insertPool (n : PoolNode) (l : List PoolNode) : (insertPool n l).length = l.length + 1 := by
  induction l with
  | nil => rfl
  | cons p ps ih =>
    unfold insertPool
    split
    · rfl
    · simp [ih]

/-! ## Fields of the records -/

theorem fld_low_byte (st : W64) : fld st 0 8 = st.toNat % 256 := by simp [fld, bitsAt]

theorem fld_low_half (w : W64) : fld w 0 32 = w.toNat % 2 ^ 32 := by simp [fld, bitsAt]

theorem launchFailed_iff (st : W64) : launchFailed st = true ↔ 0x10 ≤ st.toNat % 256 := by
  simp [launchFailed, fld_low_byte]

/-! ## The outcomes -/

section
variable {s t : State} {x : Nat} {parent n launch st w20 w28 w18 : W64}

theorem decrement_of_try {r : Decr × State} (hn : n.toNat % 256 = 0) (hl : s.rootWord x (n + 8) = .ok launch)
    (hr : s.tryDecrement x n launch = .ok r) : s.decrement x parent n = r := by
  unfold State.decrement
  rw [if_neg (by simp [hn]), hl]
  simp only [hr]

theorem tryDecrement_failed (hst : s.rootWord x (launch + 0x18) = .ok st) (hf : launchFailed st = true) :
    s.tryDecrement x n launch = .ok (.refused, s) := by
  unfold State.tryDecrement
  rw [hst]
  exact if_pos hf

section
variable (hst : s.rootWord x (launch + 0x18) = .ok st) (hf : launchFailed st = false)
  (h20 : s.rootWord x (n + 0x20) = .ok w20) (h28 : s.rootWord x (n + 0x28) = .ok w28)
  (h18 : s.rootWord x (n + 0x18) = .ok w18)
include hst hf h20 h28 h18

theorem tryDecrement_zero (h0 : fld w20 0 32 = 0) :
    s.tryDecrement x n launch = .ok (.refused, s.failLaunch x launch 0x12 n) := by
  unfold State.tryDecrement
  rw [hst]
  refine (if_neg (by simp [hf])).trans ?_
  rw [h20, h28, h18]
  exact if_pos h0

variable (hput : s.rootPut x (n + 0x20) (setFld w20 0 32 (fld w20 0 32 - 1)) = .ok t)
include hput

/-- PRED is above 0 and its write is allowed: what is left depends on PRED and STATE. -/
theorem tryDecrement_allowed (h0 : fld w20 0 32 ≠ 0) :
    s.tryDecrement x n launch = if fld w20 0 32 ≠ 1 then .ok (.counted, t)
      else if fld w28 32 2 = 1 ∨ fld w28 32 2 = 2 then .ok (.refused, t.failLaunch x launch 0x13 n)
      else t.enterNode x n launch w20 w28 w18 := by
  unfold State.tryDecrement
  rw [hst]
  refine (if_neg (by simp [hf])).trans ?_
  rw [h20, h28, h18]
  refine (if_neg h0).trans ?_
  rw [hput]
  rfl

theorem tryDecrement_counted (h1 : 1 < fld w20 0 32) : s.tryDecrement x n launch = .ok (.counted, t) := by
  rw [tryDecrement_allowed hst hf h20 h28 h18 hput (by omega)]
  exact if_pos h1.ne'

theorem tryDecrement_active (h1 : fld w20 0 32 = 1) (hact : fld w28 32 2 = 1 ∨ fld w28 32 2 = 2) :
    s.tryDecrement x n launch = .ok (.refused, t.failLaunch x launch 0x13 n) := by
  rw [tryDecrement_allowed hst hf h20 h28 h18 hput (by omega)]
  exact (if_neg (not_not.mpr h1)).trans (if_pos hact)

theorem tryDecrement_last (h1 : fld w20 0 32 = 1) (hact : ¬(fld w28 32 2 = 1 ∨ fld w28 32 2 = 2)) :
    s.tryDecrement x n launch = t.enterNode x n launch w20 w28 w18 := by
  rw [tryDecrement_allowed hst hf h20 h28 h18 hput (by omega)]
  exact (if_neg (not_not.mpr h1)).trans (if_neg hact)

end

/-- The entry of node n as the pool receives it. -/
def enteringNode (x : Nat) (n launch w18 : W64) : PoolNode :=
  { ctx := x, node := n.toNat, launch := launch.toNat, service := w18.getLsbD 16, prio := fld w18 17 2, since := 0, order := 0 }

theorem enterNode_enters {t1 t2 t3 : State} {live : W64}
    (h1 : t.rootPut x (n + 0x20) (setFld w20 0 32 (fld w20 32 32)) = .ok t1) (hg : t1.groupCheck x w18 = none)
    (h2 : t1.rootPut x (n + 0x28) (setFld w28 32 2 1) = .ok t2) (hlive : t2.rootWord x (launch + 0x10) = .ok live)
    (h3 : t2.rootPut x (launch + 0x10) (live + 1) = .ok t3)
    (hok : launchFailed ((t3.chainLink n).rootPeek x (launch + 0x18)) = false) :
    t.enterNode x n launch w20 w28 w18 = .ok (.entered, (t3.chainLink n).enterPool (enteringNode x n launch w18)) := by
  unfold State.enterNode
  rw [h1]
  show (match t1.groupCheck x w18 with | some code => _ | none => _) = _
  simp only [hg]
  rw [h2]
  show (t2.rootWord x (launch + 0x10) >>= _) = _
  rw [hlive]
  show (t2.rootPut x (launch + 0x10) (live + 1) >>= _) = _
  rw [h3]
  exact if_neg (Bool.eq_false_iff.mp hok)

/-! ## The chain beyond 4,096 nodes -/

theorem chainLink_short (h : t.pool.length ≤ 4096) : t.chainLink n = t := if_pos h

theorem chainLink_links {p : PoolNode} {u : State} (h : 4096 < t.pool.length) (hp : lastEntered t.pool = some p)
    (hu : t.rootPut p.ctx (.ofNat 64 (p.node + 0x38)) n = .ok u) : t.chainLink n = u := by
  unfold State.chainLink
  rw [if_neg (by omega)]
  simp only [hp, hu]

/-! ## The settled statement -/

/-- A node that enters is in the pool with every node that was there, and the pool and the count of runs alone change. -/
theorem enterPool_holds (t : State) (q : PoolNode) :
    let u := t.enterPool q
    u = { t with pool := u.pool, nextRun := t.nextRun + 1 }
      ∧ (∃ p ∈ u.pool, p.ctx = q.ctx ∧ p.node = q.node ∧ p.launch = q.launch ∧ p.service = q.service ∧ p.prio = q.prio)
      ∧ (∀ p ∈ t.pool, p ∈ u.pool) ∧ u.pool.length = t.pool.length + 1 :=
  ⟨rfl, ⟨_, (mem_insertPool _ _ _).mpr (.inl rfl), rfl, rfl, rfl, rfl, rfl⟩, fun _ hp => (mem_insertPool _ _ _).mpr (.inr hp),
    length_insertPool _ _⟩

end

/-- Settles O34: each outcome of a decrement is one branch of tryDecrement, and an entry one of enterNode. -/
theorem aDecrementCountsEntersOrIsRefused : Obligations.ADecrementCountsEntersOrIsRefused := by
  unfold Obligations.ADecrementCountsEntersOrIsRefused
  intro s x parent n launch st w20 w28 w18 hn hl hst h20 h28 h18 failed pred active
  have hpred : fld w20 0 32 = pred := fld_low_half w20
  have running : ¬failed → launchFailed st = false := fun h => by
    rw [Bool.eq_false_iff]; exact fun hf => h ((launchFailed_iff st).mp hf)
  have gives := fun {r : Decr × State} (h : s.tryDecrement x n launch = .ok r) => decrement_of_try (parent := parent) hn hl h
  refine ⟨fun hf => gives (tryDecrement_failed hst ((launchFailed_iff st).mpr hf)),
    fun hf h0 => gives (tryDecrement_zero hst (running hf) h20 h28 h18 (hpred.trans h0)), fun hf t hput => ?_⟩
  rw [← hpred] at hput
  refine ⟨fun h1 => gives (tryDecrement_counted hst (running hf) h20 h28 h18 hput (hpred ▸ h1)),
    fun h1 ha => gives (tryDecrement_active hst (running hf) h20 h28 h18 hput (hpred.trans h1) ha),
    ?enters⟩
  intro h1 ha t1 t2 t3 live ht1 hg ht2 hlive ht3 enters
  have entered : enters (t3.chainLink n) := fun hok =>
    ⟨_, gives ((tryDecrement_last hst (running hf) h20 h28 h18 hput (hpred.trans h1) ha).trans
      (enterNode_enters ht1 hg ht2 hlive ht3 hok)), enterPool_holds _ _⟩
  exact ⟨fun hlen => chainLink_short hlen ▸ entered, fun hlen p t4 hp ht4 => chainLink_links hlen hp ht4 ▸ entered⟩

end Sys2Proof.Machine
end

section
/-! SUPPORT. nd.done, nd.spawn and nd.sel (07 R179, R180): the cases of their graph effect, and the status that sd receives under
a mark of class L. -/

namespace Sys2Proof.Machine

open Sys2Proof

/-! ## A result that counts in class L -/

/-- t is u after core c has received x in sd, under a mark of class L of bundle q (06 R130, R132). -/
def MarksL (u t : State) (c q : Nat) (sd : SR) (x : W64) (ended : Bool) : Prop :=
  t = { u with cores := t.cores } ∧ (∀ d, d ≠ c → t.core d = u.core d) ∧ ScalarIs (u.core c) (t.core c) sd x
    ∧ t.core c = { (u.core c).awaits q (if sd = 0 then [] else [.s sd.toNat]) true with s := (t.core c).s, ndDone := ended }

theorem marksL_of_core {u t : State} {c q : Nat} {sd : SR} {x : W64} {e : Bool} (hrest : t = { u with cores := t.cores })
    (hother : ∀ d, d ≠ c → t.core d = u.core d)
    (hcore : t.core c = ({ u.core c with ndDone := e }.setS sd.toNat x).addOut q .done (if sd = 0 then [] else [.s sd.toNat]) true) :
    MarksL u t c q sd x e := by
  refine ⟨hrest, hother, ?_, ?_⟩
  · rw [hcore]; exact scalarIs_setS { u.core c with ndDone := e } sd x
  · rw [hcore]; simp only [Core.addOut, Core.awaits, Core.setS_eq]

theorem marksL_dstS (u : State) (sd : SR) (x : W64) :
    MarksL u ((u.dstS sd x).markL sd) u.cur u.iss.seq sd x (u.core u.cur).ndDone :=
  marksL_of_core rfl
    (fun _ hd => (State.core_modCur_other (u.dstS sd x) _ hd).trans (State.core_modCur_other u _ hd)) (core_modCur2 u _ _)

/-- The end of a node is marked as its core receives the status of nd.done. -/
theorem marksL_ended (u : State) (sd : SR) (x : W64) :
    MarksL u (((u.modCur fun k => { k with ndDone := true }).dstS sd x).markL sd) u.cur u.iss.seq sd x true := by
  obtain ⟨-, hother, -, -⟩ := marksL_dstS (u.modCur fun k => { k with ndDone := true }) sd x
  refine marksL_of_core rfl (fun d hd => (hother d hd).trans (State.core_modCur_other u _ hd)) ?_
  exact (core_modCur2 (u.modCur _) _ _).trans (congrArg (fun k : Core => (k.setS sd.toNat x).addOut _ _ _ _) (core_modCur_cur u _))

/-! ## The graph effect of nd.done -/

section
variable {s : State} {c : Nat} {result : W64}

theorem graphDone_again {w28 : W64} (h28 : s.rootWord (s.core c).ctx ((s.core c).node + 0x28) = .ok w28)
    (hd : fld w28 32 2 = 3) : s.graphDone c result = (true, s) := by
  simp only [State.graphDone, h28, hd, if_true]

theorem graphDone_ends {t1 t2 : State} {w28 w18 succ : W64}
    (h28 : s.rootWord (s.core c).ctx ((s.core c).node + 0x28) = .ok w28) (hd : fld w28 32 2 ≠ 3)
    (h1 : s.rootPut (s.core c).ctx ((s.core c).node + 0x30) result = .ok t1)
    (h2 : t1.rootPut (s.core c).ctx ((s.core c).node + 0x28) (setFld w28 32 2 3) = .ok t2)
    (h18 : t2.rootWord (s.core c).ctx ((s.core c).node + 0x18) = .ok w18)
    (h10 : t2.rootWord (s.core c).ctx ((s.core c).node + 0x10) = .ok succ) :
    s.graphDone c result = (false, (t2.decrementList (s.core c).ctx (s.core c).launch (s.core c).node succ
      (w18.toNat % 2 ^ 16)).endLive (s.core c).ctx (s.core c).launch (s.core c).node) := by
  have hn : fld w18 0 16 = w18.toNat % 2 ^ 16 := by simp [fld, bitsAt]
  simp only [State.graphDone, h28, if_neg hd, h1, h2, h18, h10, bind, Except.bind, pure, Except.pure, hn]

theorem graphDone_unreadable {e : Trp} (h28 : s.rootWord (s.core c).ctx ((s.core c).node + 0x28) = .error e)
    (hd : (s.core c).ndDone = false) :
    s.graphDone c result = (false, (s.failLaunch (s.core c).ctx (s.core c).launch 0x16 (s.core c).node).endLive
      (s.core c).ctx (s.core c).launch (s.core c).node) := by
  simp only [State.graphDone, h28, State.endFailed, hd, Bool.false_eq_true, if_false]

end

section
variable {s u : State} {sd sa : SR}

theorem exec_ndDone_of {b : Bool} (h : (s.releaseAll s.cur).graphDone s.cur (s.srcS sa) = (b, u)) :
    exec (.ndDone sd sa) s
      = .next (((u.modCur fun k => { k with ndDone := true }).dstS sd (if b then 1 else 0)).markL sd) := by
  show execNdDone sd sa s = _
  simp only [execNdDone, h]

/-! ## The status of nd.spawn and nd.sel -/

theorem exec_ndSpawn_of {x : Nat} (h : s.spawnFault s.cur (s.srcS sa) = .ok x) :
    let v := ((s.releaseAll s.cur).spawnFills s.cur (s.srcS sa)).spawn s.cur x (s.srcS sa)
    exec (.ndSpawn sd sa) s = .next ((v.2.dstS sd (.ofNat 64 v.1)).markL sd) := by
  show execNdSpawn sd sa s = _
  simp only [execNdSpawn, h]

theorem exec_ndSel_none (h : s.selFault s.cur (s.srcS sa) = .ok none) :
    exec (.ndSel sd sa) s = .next ((((s.releaseAll s.cur).bucketFills s.cur (s.srcS sa)).dstS sd 4).markL sd) := by
  show execNdSel sd sa s = _
  simp only [execNdSel, h]

theorem exec_ndSel_root {root : W64} {x : Nat} (h : s.selFault s.cur (s.srcS sa) = .ok (some (root, x))) :
    let v := (((s.releaseAll s.cur).bucketFills s.cur (s.srcS sa)).spawnFills s.cur root).spawn s.cur x root
    exec (.ndSel sd sa) s = .next ((v.2.dstS sd (root ||| .ofNat 64 v.1)).markL sd) := by
  show execNdSel sd sa s = _
  simp only [execNdSel, h]

theorem spawn_foreign {c x : Nat} {n : W64} (h : x ≠ (s.core c).ctx) : s.spawn c x n = (3, s) := if_pos h

theorem spawn_own {c x : Nat} {n : W64} {d : Decr} (h : x = (s.core c).ctx)
    (hd : s.decrement (s.core c).ctx (s.core c).launch n = (d, u)) : s.spawn c x n = (d.num, u) := by
  unfold State.spawn
  simp only [if_neg (not_not.mpr h), hd]

end

/-- Settles O35: each status comes with one case of the graph effect, under one mark of class L. -/
theorem nodeOpsReportTheirGraphEffect : Obligations.NodeOpsReportTheirGraphEffect := by
  unfold Obligations.NodeOpsReportTheirGraphEffect
  intro s sd sa k n r givesK gives ends num spawned fills
  have given : ∀ {i : Instr} {u : State} {x : W64}, u.iss = s.iss → exec i s = .next ((u.dstS sd x).markL sd) →
      gives i u x := by
    intro i u x hiss hi
    have h := marksL_dstS u sd x
    rw [State.cur, hiss] at h
    exact ⟨_, hi, h⟩
  have ended : ∀ {u : State} (b : Bool), r.graphDone s.cur (s.srcS sa) = (b, u) → ends u (if b then 1 else 0) := by
    intro u b hg hiss
    have h := marksL_ended u sd (if b then 1 else 0)
    rw [State.cur, hiss] at h
    exact ⟨_, exec_ndDone_of hg, h⟩
  have spawns : ∀ {i : Instr} {s0 : State} {root : W64} {x : Nat} {base : W64}, s0.iss = s.iss → s0.cores = s.cores →
      (exec i s = .next (((s0.spawn s.cur x root).2.dstS sd (base ||| .ofNat 64 (s0.spawn s.cur x root).1)).markL sd)) →
      spawned i s0 root x base := by
    intro i s0 root x base hiss hcores hi
    have hcore : s0.core s.cur = k := congrArg (Tab.get Core.reset · s.cur) hcores
    refine ⟨fun hx => given hiss ?_, fun hx d u hd hu => given hu ?_⟩
    · rw [spawn_foreign (hcore ▸ hx)] at hi; exact hi
    · have hspawn : s0.spawn s.cur x root = (d.num, u) := spawn_own (hcore ▸ hx) (by rw [hcore]; exact hd)
      rw [hspawn] at hi
      cases d <;> exact hi
  refine ⟨rfl, releases_release _ _ _, fun w28 h28 => ⟨fun hd => ended true (graphDone_again h28 hd), ?done⟩,
    fun e h28 hd => ended false (graphDone_unreadable h28 hd), fun x hx => ?spawn,
    fun h => given rfl (exec_ndSel_none h), fun root x h => spawns rfl rfl (exec_ndSel_root h),
    fun root => ⟨⟨rfl, _, rfl⟩, ⟨rfl, _, rfl⟩⟩⟩
  case done =>
    exact fun hd t1 t2 w18 succ h1 h2 h18 h10 => ended false (graphDone_ends h28 hd h1 h2 h18 h10)
  case spawn =>
    refine spawns rfl rfl ((exec_ndSpawn_of hx).trans ?_)
    have hzero : ∀ y : W64, 0 ||| y = y := fun _ => BitVec.zero_or
    rw [hzero]

end Sys2Proof.Machine
end

section
/-! SUPPORT. Groups (07 R177, R178): the check of a group slot, a contribution, one arrival and the wake of a group. -/

namespace Sys2Proof.Machine

open Sys2Proof

/-! ## The check of a group slot -/

/-- Group slot j of core c names a valid entry of the core's context (07 R178). -/
def State.groupGood (s : State) (c j : Nat) : Prop :=
  (s.core c).gvalid.getLsbD j = true ∧ (s.group ((s.core c).gidAt j)).valid = true
    ∧ (s.group ((s.core c).gidAt j)).ctx.toNat = (s.core c).ctx

section
variable {s : State} {c j : Nat}

theorem groupEntryOf_none (h : s.groupGood c j) : s.groupEntryOf c j none = .ok ((s.core c).gidAt j) := by
  obtain ⟨hslot, hvalid, hctx⟩ := h
  simp [State.groupEntryOf, Core.groupSlot, hslot, hvalid, hctx]

theorem groupEntryOf_same {o : Nat} (h : s.groupGood c j)
    (hs : (s.group ((s.core c).gidAt j)).ract = true → (s.group ((s.core c).gidAt j)).rop.toNat = o) :
    s.groupEntryOf c j (some o) = .ok ((s.core c).gidAt j) := by
  obtain ⟨hslot, hvalid, hctx⟩ := h
  simpa [State.groupEntryOf, Core.groupSlot, hslot, hvalid, hctx] using hs

theorem groupEntryOf_other {o : Nat} (h : s.groupGood c j)
    (hs : ¬((s.group ((s.core c).gidAt j)).ract = true → (s.group ((s.core c).gidAt j)).rop.toNat = o)) :
    s.groupEntryOf c j (some o) = .error (groupTrap ((s.core c).gidAt j) j) := by
  obtain ⟨hslot, hvalid, hctx⟩ := h
  simp [State.groupEntryOf, Core.groupSlot, hslot, hvalid, hctx, Classical.not_imp.mp hs]

theorem groupEntryOf_bad (op : Option Nat) (h : ¬s.groupGood c j) :
    s.groupEntryOf c j op = .error (groupTrap ((s.core c).gidAt j) j) := by
  unfold State.groupEntryOf Core.groupSlot
  by_cases hslot : (s.core c).gvalid.getLsbD j = true
  · rw [if_pos hslot]
    refine if_pos ?_
    by_contra hgood
    rw [not_or] at hgood
    exact h ⟨hslot, by simpa using hgood.1, not_not.mp hgood.2⟩
  · rw [if_neg hslot]

end

/-! ## A contribution -/

/-- A new value takes the place of the phase's (07 R178): signed and unsigned min and max, argmin and argmax with ties to the
smaller index. -/
def groupFirst (op : Nat) (v i a b : W64) : Bool :=
  match op with
  | 1 => decide (a.toInt < v.toInt)
  | 2 => decide (v.toInt < a.toInt)
  | 3 => decide (a.toNat < v.toNat)
  | 4 => decide (v.toNat < a.toNat)
  | 5 => decide (a.toInt < v.toInt ∨ (a = v ∧ b.toNat < i.toNat))
  | _ => decide (v.toInt < a.toInt ∨ (a = v ∧ b.toNat < i.toNat))

theorem groupCombine_eq (op : Nat) (v i a b : W64) : groupCombine op v i a b =
    if op = 0 then (v + a, i) else if groupFirst op v i a b then (a, b) else (v, i) := by
  have htie : ∀ x y : W64, (a == v && b.ult i) = decide (a = v ∧ b.toNat < i.toNat) := fun _ _ => by
    rw [Bool.decide_and]; rfl
  have hbetter : ∀ r : Bool, (r || (a == v && b.ult i)) = (r || decide (a = v ∧ b.toNat < i.toNat)) := fun r => by rw [htie v a]
  have hor : ∀ x y : W64, (x.slt y || decide (a = v ∧ b.toNat < i.toNat))
      = decide (x.toInt < y.toInt ∨ (a = v ∧ b.toNat < i.toNat)) := fun x y => by rw [Bool.decide_or]; rfl
  unfold groupCombine groupFirst
  simp only [hbetter, hor]
  rfl

theorem contribute_first {e : GroupEntry} (op : BitVec 3) (a b : W64) (h : e.ract = false) :
    e.contribute op.toNat a b = { e with rval := a, ridx := b, rop := op.setWidth 4, ract := true } := by
  unfold GroupEntry.contribute
  rw [if_neg (Bool.eq_false_iff.mp h), BitVec.ofNat_toNat]

theorem contribute_combines {e : GroupEntry} {op : BitVec 3} (a b : W64) (h : e.ract = true) (hop : e.rop.toNat = op.toNat) :
    e.contribute op.toNat a b = { e with
      rval := (groupCombine op.toNat e.rval e.ridx a b).1, ridx := (groupCombine op.toNat e.rval e.ridx a b).2
      rop := op.setWidth 4, ract := true } := by
  have hrop : op.setWidth 4 = e.rop := BitVec.eq_of_toNat_eq (by simp [hop]; omega)
  unfold GroupEntry.contribute
  rw [if_pos h, hrop, ← h]

/-- A contribution to a phase of its own op (07 R178): the first stands, and each other one is combined with what stands. -/
theorem contribute_same {e : GroupEntry} {first : Bool} (op : BitVec 3) (a b : W64)
    (hs : e.ract = true → e.rop.toNat = op.toNat) (hfirst : groupFirst op.toNat e.rval e.ridx a b = first) :
    e.contribute op.toNat a b = { e with
      rval := if e.ract = false then a else if op = 0 then e.rval + a else if first then a else e.rval
      ridx := if e.ract = false then b else if op = 0 then e.ridx else if first then b else e.ridx
      rop := op.setWidth 4, ract := true } := by
  cases hract : e.ract with
  | false => exact contribute_first op a b hract
  | true =>
    rw [contribute_combines a b hract (hs hract), groupCombine_eq, hfirst]
    have hzero : op.toNat = 0 ↔ op = 0 := ⟨fun h => BitVec.eq_of_toNat_eq h, fun h => by rw [h]; rfl⟩
    simp only [hzero, Bool.true_eq_false, if_false]
    by_cases h0 : op = 0
    · simp only [if_pos h0]
    · simp only [if_neg h0]
      cases first <;> rfl

/-! ## The wake of a group -/

/-- A hold on a group receives the result of its phase, and stage n. -/
def Hold.woken (gid : Nat) (e : GroupEntry) (n : Nat) (h : Hold) : Hold :=
  if h.onGroup gid then { h with stage := n, a := e.rval, b := e.ridx } else h

theorem homeWrites_putSlot (s : State) (v : SavedCore) (l : List (Nat × Nat)) : HomeWrites s (s.putSlot v l) := by
  unfold State.putSlot
  split
  · simp only
    split
    · exact homeWrites_foldl (fun t q => homeWrites_writeNat t _ _ _) l s
    · exact homeWrites_refl s
  · exact homeWrites_refl s

/-- The saved members receive their results in memory. -/
def State.putResults (s : State) (gid : Nat) (e : GroupEntry) : State :=
  s.saved.foldl (fun t v => t.putSaved v (v.redRegs gid e)) s

theorem homeWrites_putResults (s : State) (gid : Nat) (e : GroupEntry) : HomeWrites s (s.putResults gid e) :=
  homeWrites_foldl (fun t v => homeWrites_putSlot t v _) s.saved s

theorem mapHolds_withHold (k : Core) (h : Hold) (f : Hold → Hold) :
    { k with hold := some h }.mapHolds f = { k with hold := some (f h), hidHold := k.hidHold.map f } := rfl

theorem mapHolds_single {k : Core} {h : Hold} (f : Hold → Hold) (hh : k.hold = some h) (hid : k.hidHold = none) :
    k.mapHolds f = { k with hold := some (f h) } := by
  unfold Core.mapHolds
  rw [hh, hid]
  rfl

/-- A saved member after its phase has completed. -/
def SavedCore.woken (gid : Nat) (e : GroupEntry) (v : SavedCore) : SavedCore :=
  { v with regs := ((v.redRegs gid e).foldl (fun k q => k.setS q.1 q.2) v.regs).mapHolds (Hold.woken gid e 3) }

theorem wakeGroup_eq (s : State) (gid : Nat) (e : GroupEntry) : s.wakeGroup gid e =
    { (s.putResults gid e).mapCores (·.mapHolds (Hold.woken gid e 2)) with saved := s.saved.map (SavedCore.woken gid e) } := by
  have hsaved : (s.putResults gid e).saved = s.saved := by rw [(homeWrites_putResults s gid e).1]
  rw [← hsaved]
  rfl

theorem core_wakeGroup (s : State) (gid : Nat) (e : GroupEntry) (c : Nat) :
    (s.wakeGroup gid e).core c = (s.core c).mapHolds (Hold.woken gid e 2) := by
  rw [wakeGroup_eq, ← (homeWrites_putResults s gid e).core c]
  exact State.core_mapCores (s.putResults gid e) (·.mapHolds (Hold.woken gid e 2)) c rfl

theorem wakeGroup_leaves (s : State) (gid : Nat) (e : GroupEntry) : let t := s.wakeGroup gid e
    t = { s with cores := t.cores, saved := t.saved, mem := t.mem, errs := t.errs, kept := t.kept } ∧ HomeViews s t := by
  obtain ⟨hrest, hviews⟩ := homeWrites_putResults s gid e
  refine ⟨?_, ?_⟩
  · rw [wakeGroup_eq, hrest]; rfl
  · exact homeViews_congr hviews rfl (by rw [wakeGroup_eq]; rfl)

theorem putResults_none {s : State} (gid : Nat) (e : GroupEntry) (h : s.saved = []) : s.putResults gid e = s := by
  unfold State.putResults; rw [h]; rfl

/-- The one saved member of a phase of g.red has the value in its save slot and in its registers (07 R178). -/
theorem putResults_one {s : State} {y : SavedCore} {c : Ctx} {h : Hold} {rd ra rb : SR} {o : BitVec 3} {m : BitVec 2}
    (gid : Nat) (e : GroupEntry) (hs : s.saved = [y]) (hc : s.ctx y.ctx = some c) (hh : y.regs.hold = some h)
    (hid : y.regs.hidHold = none) (hg : h.onGroup gid = true) (hi : h.instr = .gRed rd ra rb o m) (ho : o.toNat < 5)
    (hrd : rd ≠ 0) (hsave : s.saveable (s.saveSlot y.ctx c.ccb y.core) = true) :
    s.putResults gid e = s.writeNat (s.saveSlot y.ctx c.ccb y.core + savedRegs + 8 * rd.toNat) 8 e.rval.toNat
    ∧ y.woken gid e = { y with regs := { y.regs.setS rd.toNat e.rval with
        hold := some { h with stage := 3, a := e.rval, b := e.ridx } } } := by
  have hregs : y.redRegs gid e = [(rd.toNat, e.rval)] := by
    simp [SavedCore.redRegs, hh, hid, hg, hi, show ¬5 ≤ o.toNat by omega]
  have hrd' : rd.toNat ≠ 0 := fun h0 => hrd ((sr_toNat_eq_zero rd).mp h0)
  refine ⟨?_, ?_⟩
  · unfold State.putResults
    rw [hs]
    show s.putSaved y (y.redRegs gid e) = _
    simp [State.putSaved, hregs, hrd', State.putSlot, hc, hsave]
  · have hhold : (y.regs.setS rd.toNat e.rval).hold = some h := by rw [Core.setS_eq]; exact hh
    have hhid : (y.regs.setS rd.toNat e.rval).hidHold = none := by rw [Core.setS_eq]; exact hid
    show { y with regs := ((y.redRegs gid e).foldl (fun (k : Core) (q : Nat × W64) => k.setS q.1 q.2) y.regs).mapHolds (Hold.woken gid e 3) } = _
    rw [hregs]
    show { y with regs := (y.regs.setS rd.toNat e.rval).mapHolds (Hold.woken gid e 3) } = _
    rw [mapHolds_single _ hhold hhid, Hold.woken, if_pos hg]

/-! ## One arrival -/

section
variable {s : State} {g : Nat} {x : GroupEntry}

theorem toNat_arrival (h : x.arr.toNat ≤ x.count.toNat) : (x.arr + 1).toNat = x.arr.toNat + 1 := by
  have := x.count.isLt
  rw [BitVec.toNat_add]
  exact Nat.mod_eq_of_lt (by simp; omega)

theorem groupArrive_missing (h : x.arr.toNat < x.count.toNat) :
    s.groupArrive g x = s.setGroup g { x with arr := x.arr + 1 } := by
  unfold State.groupArrive
  refine if_neg ?_
  rw [toNat_arrival h.le]
  show ¬x.count.toNat + 1 ≤ _
  omega

theorem groupArrive_last (h : x.arr.toNat = x.count.toNat) : s.groupArrive g x =
    (s.setGroup g { x with arr := 0, ract := false, ph := !x.ph }).wakeGroup g { x with arr := x.arr + 1 } := by
  unfold State.groupArrive
  refine if_pos ?_
  rw [toNat_arrival h.le]
  show x.count.toNat + 1 ≤ _
  omega

end

/-! ## The hold of an arriving core -/

section
variable {s : State} {i : Instr} {dst : List Reg} {g : Nat} {e : GroupEntry}

/-- The hold of a core that has arrived at group g. -/
def State.arrivingHold (s : State) (i : Instr) (dst : List Reg) (g : Nat) : Hold :=
  { instr := i, slot := s.iss.slot, seq := s.iss.seq, a := 0, b := 0, dst := dst, stage := 0, mark := 0, addr := g, ended := none }

theorem core_holdOn_cur : (s.holdOn i 0 0 dst 0 g).core s.cur = { s.core s.cur with hold := some (s.arrivingHold i dst g) } :=
  core_modCur_cur s _

theorem core_holdOn_other {d : Nat} (h : d ≠ s.cur) : (s.holdOn i 0 0 dst 0 g).core d = s.core d :=
  State.core_modCur_other s _ h

theorem woken_arrivingHold (hi : (∃ j, i = .gBar j) ∨ ∃ sd sa sb op j, i = .gRed sd sa sb op j) :
    Hold.woken g e 2 (s.arrivingHold i dst g)
      = { s.arrivingHold i dst g with stage := 2, a := e.rval, b := e.ridx } := by
  refine if_pos ?_
  rcases hi with ⟨j, rfl⟩ | ⟨sd, sa, sb, op, j, rfl⟩ <;> simp [Hold.onGroup, State.arrivingHold]

end

/-! ## The release of a member -/

theorem checkpoints_carryHold {old new : Core} (seq : Nat) (hseg : new.segment = old.segment) (hst : new.seg = old.seg) :
    Checkpoints old (old.carryHold new seq) seq true := by
  have hcarry := checkpoints_carry old new seq hseg hst
  have heq := Core.carry_eq old new seq
  have hf : (old.carry new seq).f = new.f := by rw [heq]
  have hsg : (old.carry new seq).seg = old.seg := by rw [← hst, heq]; rfl
  unfold Checkpoints at hcarry ⊢
  unfold Core.carryHold
  by_cases h : old.seg = true ∧ seq ≤ old.segment.first
  · simp only [h, and_self, if_true] at hcarry
    obtain ⟨hsegment, hkeep, hs, hmp, hcv⟩ := hcarry
    have hfirst : (old.carry new seq).segment.first = old.segment.first := by rw [hsegment]
    have hopen : ((old.carry new seq).seg && decide (seq ≤ (old.carry new seq).segment.first)) = true := by
      rw [hsg, hfirst]; simp [h]
    simp only [hopen, h, and_self, if_true]
    refine ⟨?_, fun n => ?_, hs, hmp, hcv⟩
    · rw [hsegment]
    · have hc := carried_carryTab 0 old.f new.f (old.carry new seq).segment.shadow.f n.isLt
      simp only [Bool.false_eq_true, if_false] at hkeep
      rw [hf]
      rw [hkeep] at hc ⊢
      exact hc
  · simp only [h, if_false] at hcarry ⊢
    have hshut : ((old.carry new seq).seg && decide (seq ≤ (old.carry new seq).segment.first)) = false := by
      rw [hsg, hcarry]; simpa using h
    simp only [hshut, Bool.false_eq_true, if_false]
    exact hcarry

section
variable {s : State} {c : Nat} {h : Hold}

theorem exec_syncHoldRelease_eval (hk : (s.core c).hold = some h) (hrun : (s.core c).run = .running) (hend : h.ended = none)
    (hw : h.waitsOn h.addr = false) : exec (.syncHoldRelease c) s = .next (s.evalHold c h) := by
  show execSyncHoldRelease c s = _
  simp [execSyncHoldRelease, hk, Core.live, hrun, hend, State.holdDead, hw]

theorem evalHold_gBar {j : BitVec 2} (hi : h.instr = .gBar j) :
    s.evalHold c h = if 2 ≤ h.stage then s.setCore c { s.core c with hold := none } else s := by
  simp only [State.evalHold, hi, decide_eq_true_eq]
  rfl

/-- The registers of a core whose g.red is over. -/
def Core.takesResult (k : Core) (h : Hold) (sd : SR) (op : BitVec 3) : Core :=
  if 5 ≤ op.toNat then (k.release.setS sd.toNat h.a).setS (sd.toNat + 1) h.b else k.release.setS sd.toNat h.a

theorem takesResult_eq (k : Core) (h : Hold) (sd : SR) (op : BitVec 3) :
    k.takesResult h sd op = { k with hold := none, s := (k.takesResult h sd op).s } := by
  unfold Core.takesResult
  split
  · rw [Core.setS_eq, Core.setS_eq (k.release)]; rfl
  · rw [Core.setS_eq]; rfl

/-- Of a core an op that has held changes, beside what it writes, its segment. -/
theorem carryHold_segment (old new : Core) (seq : Nat) :
    old.carryHold new seq = { new with segment := (old.carryHold new seq).segment } := by rw [Core.carryHold_eq]

/-- What the end of a g.red leaves of a core (07 R178, 08 R209). -/
theorem takesResult_leaves (k : Core) (h : Hold) (sd : SR) (op : BitVec 3) :
    let k' := k.carryHold (k.takesResult h sd op) h.seq
    Checkpoints k k' h.seq true
      ∧ (op.toNat < 5 → ScalarIs k k' sd h.a) ∧ (5 ≤ op.toNat → sd.toNat % 2 = 0 → sd ≠ 0 → PairIs k k' sd h.a h.b)
      ∧ k' = { k with hold := none, s := k'.s, segment := k'.segment } := by
  intro k'
  have hnew := takesResult_eq k h sd op
  have hk' : k' = { k.takesResult h sd op with segment := k'.segment } := carryHold_segment k _ h.seq
  have hregs : k'.s = (k.takesResult h sd op).s := by rw [hk']
  refine ⟨checkpoints_carryHold h.seq (by rw [hnew]) (by rw [hnew]; rfl), fun ho r => ?_, fun ho hev _ r => ?_, ?_⟩
  · rw [Core.getS_congr hregs, Core.takesResult, if_neg (by omega)]
    exact scalarIs_setS k.release sd h.a r
  · rw [Core.getS_congr hregs, Core.takesResult, if_pos ho]
    exact pairIs_setS k.release hev h.a h.b r
  · rw [hk', hnew]

theorem evalHold_gRed {sd sa sb : SR} {op : BitVec 3} {j : BitVec 2} (hi : h.instr = .gRed sd sa sb op j) : s.evalHold c h =
    if h.stage = 3 then s.setCore c { s.core c with hold := none }
    else if h.stage = 2 then s.setCore c ((s.core c).carryHold ((s.core c).takesResult h sd op) h.seq) else s := by
  simp only [State.evalHold, hi]
  rfl

end

/-! ## Arrivals -/

/-- g.bar or g.red. -/
def Instr.arrivesAtGroup (i : Instr) : Prop := (∃ j, i = .gBar j) ∨ ∃ sd sa sb op j, i = .gRed sd sa sb op j

section
variable {s : State} {i : Instr} {dst : List Reg} {g : Nat} {e x : GroupEntry}

/-- The device after an arrival that completes no phase. -/
theorem arrival_missing (h : x.arr.toNat < x.count.toNat) : let t := (s.holdOn i 0 0 dst 0 g).groupArrive g x
    t = { s with cores := t.cores, groups := t.groups } ∧ (∀ y, t.group y = if y = g then { x with arr := x.arr + 1 } else s.group y)
      ∧ (∀ d, d ≠ s.cur → t.core d = s.core d)
      ∧ t.core s.cur = { s.core s.cur with hold := some (s.arrivingHold i dst g) } := by
  intro t
  have ht : t = (s.holdOn i 0 0 dst 0 g).setGroup g { x with arr := x.arr + 1 } := groupArrive_missing h
  clear_value t
  subst ht
  exact ⟨rfl, fun y => State.group_setGroup _ _ _ _, fun d hd => core_holdOn_other hd, core_holdOn_cur⟩

/-- The device as the last arrival holds its core, before the members are woken. -/
def State.completes (s : State) (i : Instr) (dst : List Reg) (g : Nat) (x : GroupEntry) : State :=
  (s.holdOn i 0 0 dst 0 g).setGroup g { x with arr := 0, ract := false, ph := !x.ph }

/-- The device after the arrival that completes a phase (07 R178). -/
theorem arrival_last (h : x.arr.toNat = x.count.toNat) (hi : Instr.arrivesAtGroup i) :
    let t := (s.holdOn i 0 0 dst 0 g).groupArrive g x
    let e : GroupEntry := { x with arr := x.arr + 1 }
    t = { s with cores := t.cores, groups := t.groups, saved := t.saved, mem := t.mem, errs := t.errs, kept := t.kept }
      ∧ HomeViews s t
      ∧ (∀ y, t.group y = if y = g then { x with arr := 0, ract := false, ph := !x.ph } else s.group y)
      ∧ (∀ d, d ≠ s.cur → t.core d = (s.core d).mapHolds (Hold.woken g e 2))
      ∧ t.core s.cur = { s.core s.cur with
          hold := some { s.arrivingHold i dst g with stage := 2, a := x.rval, b := x.ridx }
          hidHold := (s.core s.cur).hidHold.map (Hold.woken g e 2) }
      ∧ t.saved = s.saved.map (SavedCore.woken g e)
      ∧ t.mem = ((s.completes i dst g x).putResults g e).mem ∧ t.errs = ((s.completes i dst g x).putResults g e).errs
      ∧ t.kept = ((s.completes i dst g x).putResults g e).kept := by
  intro t e
  have ht : t = (s.completes i dst g x).wakeGroup g e := groupArrive_last h
  obtain ⟨hrest, hviews⟩ := wakeGroup_leaves (s.completes i dst g x) g e
  have hcore := core_wakeGroup (s.completes i dst g x) g e
  have heq := wakeGroup_eq (s.completes i dst g x) g e
  rw [← ht] at hrest hviews hcore heq
  clear_value t
  refine ⟨?_, hviews, fun y => ?_, fun d hd => ?_, ?_, by rw [heq]; rfl, by rw [heq]; rfl, by rw [heq]; rfl, by rw [heq]; rfl⟩
  · rw [hrest]; rfl
  · have hgroup : t.group y = (s.completes i dst g x).group y := by rw [hrest]; rfl
    rw [hgroup]; exact State.group_setGroup _ _ _ _
  · rw [hcore d]; exact congrArg (Core.mapHolds · _) (core_holdOn_other hd)
  · rw [hcore s.cur]
    refine (congrArg (Core.mapHolds · (Hold.woken g e 2)) core_holdOn_cur).trans ?_
    rw [mapHolds_withHold, woken_arrivingHold hi]

/-- A saved member has the result of the phase in its slot and in the registers that its context keeps (07 R178, 08 R191). -/
theorem arrival_savedMember {t : State} {y : SavedCore} {c : Ctx} {h : Hold} {rd ra rb : SR} {o : BitVec 3} {m : BitVec 2}
    (hsaved : t.saved = s.saved.map (SavedCore.woken g { x with arr := x.arr + 1 }))
    (hmem : t.mem = ((s.completes i dst g x).putResults g { x with arr := x.arr + 1 }).mem)
    (hs : s.saved = [y]) (hc : s.ctx y.ctx = some c) (hh : y.regs.hold = some h) (hid : y.regs.hidHold = none)
    (hg : h.onGroup g = true) (hi : h.instr = .gRed rd ra rb o m) (ho : o.toNat < 5) (hrd : rd ≠ 0)
    (hsave : s.saveable (s.saveSlot y.ctx c.ccb y.core) = true) :
    let a := s.saveSlot y.ctx c.ccb y.core + 0x28BC00 + 8 * rd.toNat
    HoldsBytes t a (leBytes 8 x.rval.toNat) ∧ SameBytesBut s t a 8
      ∧ ∃ k', t.saved = [{ y with regs := k' }] ∧ ScalarIs y.regs k' rd x.rval
        ∧ k' = { y.regs with s := k'.s, hold := some { h with stage := 3, a := x.rval, b := x.ridx } } := by
  intro a
  obtain ⟨hput, hwoken⟩ := putResults_one (s := s.completes i dst g x) g { x with arr := x.arr + 1 } hs hc hh hid hg hi ho hrd hsave
  rw [hput] at hmem
  refine ⟨holdsBytes_congr hmem (holdsBytes_writeBytes _ _ _), fun p hp => ?_, { y.regs.setS rd.toNat x.rval with
    hold := some { h with stage := 3, a := x.rval, b := x.ridx } }, ?_, scalarIs_setS y.regs rd x.rval, ?_⟩
  · refine (congrArg (Memory.get · p) hmem).trans (sameBytesBut_writeBytes (s.completes i dst g x) a _ p ?_)
    rwa [leBytes_length]
  · rw [hsaved, hs, List.map_singleton, hwoken]
  · rw [Core.setS_eq]

end

/-- Settles O50: one lemma for each of the two kinds of arrival, the check of a slot, and the evaluation of a member's hold. -/
theorem groupsCompleteWithTheirLastMember : Obligations.GroupsCompleteWithTheirLastMember := by
  unfold Obligations.GroupsCompleteWithTheirLastMember
  refine ⟨?ops, ?holds⟩
  case ops =>
    intro s sd sa sb op j hop k g e good same out a b first val idx hold arrives
    have arrived : ∀ (i : Instr) (dst : List Reg) (x : GroupEntry), Instr.arrivesAtGroup i → x.arr = e.arr →
        x.count = e.count → x.ph = e.ph → e.arr.toNat ≤ e.count.toNat →
        exec i s = .next ((s.holdOn i 0 0 dst 0 g).groupArrive g x) → arrives i dst x x.rval x.ridx := by
      intro i dst x hi harr hcount hph hle hexec
      rw [← harr, ← hcount] at hle
      refine ⟨_, hexec, ?_⟩
      generalize ht : (s.holdOn i 0 0 dst 0 g).groupArrive g x = t
      rw [← harr, ← hcount, ← hph]
      rcases hle.lt_or_eq with hlt | heq
      case inl =>
        obtain ⟨hrest, hgroup, hother, hcur⟩ := arrival_missing (s := s) (i := i) (dst := dst) (g := g) hlt
        rw [ht] at hrest hgroup hother hcur
        refine ⟨by rw [hrest], homeViews_congr (homeViews_refl s) rfl (by rw [hrest]), fun y hy => (hgroup y).trans (if_neg hy),
          fun d hd => by rw [hother d hd], by rw [hcur], fun _ => ⟨(hgroup g).trans (if_pos rfl), by rw [hcur]; rfl,
          by rw [hrest], by rw [hrest], by rw [hrest], by rw [hrest], hother⟩, fun h => absurd h (by omega)⟩
      case inr =>
        obtain ⟨hrest, hviews, hgroup, hother, hcur, hsaved, hmem, herrs, hkept⟩ :=
          arrival_last (s := s) (dst := dst) (g := g) heq hi
        rw [ht] at hrest hviews hgroup hother hcur hsaved hmem herrs hkept
        refine ⟨hrest, hviews, fun y hy => (hgroup y).trans (if_neg hy), fun d hd => by rw [hother d hd]; rfl, by rw [hcur],
          fun h => absurd h (by omega), fun _ => ⟨(hgroup g).trans (if_pos rfl), by rw [hcur]; rfl, fun d h hd hh hg => ?_, ?_, ?_⟩⟩
        · rw [hother d hd]
          show (s.core d).hold.map _ = _
          rw [hh, Option.map_some, Hold.woken, if_pos hg]
        · intro hnone
          rw [putResults_none g _ (show (s.completes i dst g x).saved = [] from hnone)] at hmem hkept
          exact ⟨by rw [hsaved, hnone]; rfl, fun a => congrArg (Memory.get · a) hmem, hkept⟩
        · intro y c h rd ra rb o m hs hc hh hid hg hi ho hrd slot a hsave _
          exact arrival_savedMember hsaved hmem hs hc hh hid hg hi ho hrd hsave
    have hnone : good → s.groupEntryOf s.cur j.toNat none = .ok g := fun h => groupEntryOf_none h
    refine ⟨fun hg hle => ?gBar, fun hg hs hle => ?gRed, fun hg => ?gInfo, fun hk hbad => ?bad, fun hk hg hs => ?differs⟩
    case gBar =>
      refine arrived (.gBar j) [] e (.inl ⟨j, rfl⟩) rfl rfl rfl hle ?_
      show execGBar j s = _
      simp only [execGBar, hnone hg]
      rfl
    case gRed =>
      have hentry : e.contribute op.toNat a b = { e with rval := val, ridx := idx, rop := op.setWidth 4, ract := true } :=
        contribute_same op a b hs rfl
      refine arrived (.gRed sd sa sb op j) _ { e with rval := val, ridx := idx, rop := op.setWidth 4, ract := true }
        (.inr ⟨sd, sa, sb, op, j, rfl⟩) rfl rfl rfl hle ?_
      rw [← hentry]
      show execGRed sd sa sb op j s = _
      simp only [execGRed, groupEntryOf_same hg hs]
      rfl
    case gInfo =>
      refine setsSLate_of_markS ?_
      show execGInfo sd j s = _
      simp only [execGInfo, hnone hg]
      rfl
    case bad =>
      have herr := fun o => groupEntryOf_bad (s := s) (c := s.cur) (j := j.toNat) o hbad
      have traps : ∀ i, exec i s = .next (s.preciseTrap (groupTrap g j.toNat)) →
          TrapsPrecisely s i .group (.ofNat 64 (g + 256 * j.toNat)) 0 := fun i h => traps_of_preciseTrap h (fun h => nomatch h) hk
      refine ⟨traps _ ?_, traps _ ?_, traps _ ?_, traps _ ?_⟩
      · show execGBar j s = _
        simp only [execGBar, herr]; rfl
      · show execGRed sd sa sb op j s = _
        simp only [execGRed, herr]; rfl
      · show execGInfo sd j s = _
        simp only [execGInfo, herr]; rfl
      · show execRdv j s = _
        simp only [execRdv, herr]; rfl
    case differs =>
      refine traps_of_preciseTrap (t := groupTrap g j.toNat) ?_ (fun h => nomatch h) hk
      show execGRed sd sa sb op j s = _
      simp only [execGRed, groupEntryOf_other hg hs]; rfl
  case holds =>
    intro s c h k hk hrun hend
    refine ⟨fun j hi => ?bar, fun sd sa sb op j hi => ?red⟩
    case bar =>
      rw [exec_syncHoldRelease_eval hk hrun hend (by simp [Hold.waitsOn, hi]), evalHold_gBar hi]
    case red =>
      have heval := (exec_syncHoldRelease_eval hk hrun hend (by simp [Hold.waitsOn, hi])).trans
        (congrArg _ (evalHold_gRed (s := s) (c := c) hi))
      refine ⟨fun h2 h3 => ?_, fun h3 => ?_, fun h2 => ?_⟩
      · rw [heval, if_neg h3, if_neg h2]
      · rw [heval, if_pos h3]
      · rw [if_neg (by omega), if_pos h2] at heval
        exact ⟨_, heval, onlyCore_modCore s c fun _ => _, by
          rw [State.core_setCore_same]
          exact takesResult_leaves k h sd op⟩

end Sys2Proof.Machine
end

section
/-! SUPPORT. Requests of the host (21 R430 to R433): the RESULT of each refusal, what READ, WRITE, LAUNCH and OPEN give, the stop of
a context, and the set-up and the end of a connection. -/

namespace Sys2Proof.Machine

open Sys2Proof

/-! ## Responses -/

theorem response_eq (r : HostReq) (result : Nat) (payload : List Byte) : response r result 0 payload =
    { conn := r.conn, w0 := .ofNat 64 (r.w0.toNat % 2 ^ 8 + 2 ^ 8 * result + 2 ^ 32 * (r.w0.toNat / 2 ^ 32))
      value := 0, len := payload.length, payload := payload } := by
  have hlow : fld r.w0 0 8 = r.w0.toNat % 2 ^ 8 := by simp [fld, bitsAt]
  have hhigh : fld r.w0 32 32 = r.w0.toNat / 2 ^ 32 :=
    Nat.mod_eq_of_lt (Nat.div_lt_of_lt_mul (by have := r.w0.isLt; omega))
  unfold response
  rw [hlow, hhigh]

section
variable {s t : State} {r : HostReq} {opc : Nat}

theorem serve_ok {ctx : Bool} {f : State → Except Nat (List Byte × State)} {payload : List Byte}
    (h : s.takesRequest r = true) (hb : r.bad opc = false) (hc : ctx = true → s.resident r.ctx = true)
    (hf : f s = .ok (payload, t)) : s.serve r opc ctx f = .next (t.respond r 0 payload) := by
  rw [serve_served s r opc ctx f h hb hc]; simp only [hf]

theorem serve_error {ctx : Bool} {f : State → Except Nat (List Byte × State)} {e : Nat}
    (h : s.takesRequest r = true) (hb : r.bad opc = false) (hc : ctx = true → s.resident r.ctx = true)
    (hf : f s = .error e) : s.serve r opc ctx f = .next (s.respond r e []) := by
  rw [serve_served s r opc ctx f h hb hc]; simp only [hf]

theorem serveLater_stops {f : State → Option State}
    (h : s.takesRequest r = true) (hb : r.bad opc = false) (hc : s.resident r.ctx = true)
    (hf : f (s.owe1 r) = some t) : s.serveLater r opc f = .next t := by
  simp [State.serveLater, h, hb, hc, hf]

theorem serveLater_busy {f : State → Option State}
    (h : s.takesRequest r = true) (hb : r.bad opc = false) (hc : s.resident r.ctx = true)
    (hf : f (s.owe1 r) = none) : s.serveLater r opc f = .next (s.respond r 6 []) := by
  simp [State.serveLater, h, hb, hc, hf]

end

/-- A request waits, breaks its form, or names a context that is not resident where it needs one (21 R431). -/
def RefusesRequest (s : State) (r : HostReq) (i : Instr) (opc : Nat) (needsCtx : Bool) : Prop :=
  (s.takesRequest r = false → exec i s = .next s)
    ∧ (s.takesRequest r = true → r.bad opc = true → exec i s = .next (s.respond r 1 []))
    ∧ (s.takesRequest r = true → r.bad opc = false → s.resident r.ctx = false → needsCtx = true →
        exec i s = .next (s.respond r 7 []))

theorem refusesRequest_serve {s : State} {r : HostReq} {i : Instr} {opc : Nat} {ctx : Bool}
    {f : State → Except Nat (List Byte × State)} (h : exec i s = s.serve r opc ctx f) : RefusesRequest s r i opc ctx :=
  ⟨fun ht => h.trans (serve_not_taken s r opc ctx f ht), fun ht hb => h.trans (serve_bad s r opc ctx f ht hb),
    fun ht hb hc hn => by subst hn; exact h.trans (serve_noContext s r opc f ht hb hc)⟩

theorem refusesRequest_serveLater {s : State} {r : HostReq} {i : Instr} {opc : Nat} {f : State → Option State}
    (h : exec i s = s.serveLater r opc f) : RefusesRequest s r i opc true :=
  ⟨fun ht => h.trans (by simp [State.serveLater, ht]), fun ht hb => h.trans (by simp [State.serveLater, ht, hb]),
    fun ht hb hc _ => h.trans (by simp [State.serveLater, ht, hb, hc])⟩

/-! ## Memory on a request's behalf -/

section
variable {s : State} {r : HostReq} {addr : W64} {pa n isle : Nat}

theorem hostRead_shelf (hl : s.hostRuns r addr n .read = .ok [(pa, n)]) (hr : s.region pa = .shelf isle)
    (hg : s.gatedAt pa = false) (hp : poisoned s.errs pa n = none) : s.hostRead r addr n = .ok (s.bytesSeen .cp pa n) := by
  unfold State.hostRead
  rw [hl]
  show (match s.poisonedRuns [(pa, n)] with | some e => _ | none => _) = _
  have hnone : s.poisonedRuns [(pa, n)] = none := by simp [State.poisonedRuns, hp]
  rw [hnone, ← readAs_eq s .cp pa n hg]
  simp [State.touchesPeer, hr, pure, Except.pure]

theorem hostRead_error {e : Trp} (hl : s.hostRuns r addr n .read = .error e) : s.hostRead r addr n = .error e := by
  unfold State.hostRead
  rw [hl]
  rfl

theorem hostPuts_shelf (bs : List Byte) (hr : s.region pa = .shelf isle) :
    s.hostPuts [(pa, bs.length)] bs = s.writeBytes pa bs := by
  show s.hostPut pa (bs.take bs.length) = _
  rw [List.take_length]
  exact if_neg (by simp [hr])

theorem hostWrite_shelf {bs : List Byte} (hl : s.hostRuns r addr bs.length .write = .ok [(pa, bs.length)])
    (hr : s.region pa = .shelf isle) (ha : s.overlapsArmed pa bs.length = false) (hm : s.overlapsMark pa bs.length = false) :
    s.hostWrite r addr bs = .ok (s.writeBytes pa bs) := by
  unfold State.hostWrite
  rw [hl, ← hostPuts_shelf bs hr]
  exact if_neg (by simp [State.touchesPeer, hr, ha, hm])

theorem hostWrite_refused {bs : List Byte} (hl : s.hostRuns r addr bs.length .write = .ok [(pa, bs.length)])
    (h : s.overlapsArmed pa bs.length = true ∨ s.overlapsMark pa bs.length = true) :
    s.hostWrite r addr bs = .error ⟨.prot, 1, addr⟩ := by
  unfold State.hostWrite
  rw [hl]
  exact if_pos (by simp [h])

end

/-! ## Launch records (07 R169) -/

theorem toNat_ofNat_word (bs : List Byte) (off : Nat) :
    (BitVec.ofNat 64 (leNat ((bs.drop off).take 8))).toNat = leNat ((bs.drop off).take 8) := by
  have hlt := leNat_lt ((bs.drop off).take 8)
  have hlen : ((bs.drop off).take 8).length ≤ 8 := by simp
  rw [BitVec.toNat_ofNat]
  exact Nat.mod_eq_of_lt (hlt.trans_le (Nat.pow_le_pow_right (by omega) (by omega)))

theorem launchOk_iff {addr w08 w18 : W64} {tail : List Byte} (ha : addr.toNat % 64 = 0) : launchOk addr w08 w18 tail = true ↔
    w08.toNat % 2 ^ 16 ≠ 0 ∧ w08.toNat / 2 ^ 20 = 0 ∧ w18.toNat / 2 ^ 8 = 0 ∧ ∀ b ∈ tail, b = 0 := by
  have h1 : fld w08 0 16 = w08.toNat % 2 ^ 16 := by simp [fld, bitsAt]
  have h2 : fld w08 20 44 = w08.toNat / 2 ^ 20 :=
    Nat.mod_eq_of_lt (Nat.div_lt_of_lt_mul (by have := w08.isLt; omega))
  have h3 : fld w18 8 56 = w18.toNat / 2 ^ 8 := Nat.mod_eq_of_lt (Nat.div_lt_of_lt_mul (by have := w18.isLt; omega))
  simp [launchOk, ha, h1, h2, h3, and_assoc]

/-! ## OPEN -/

/-- The bytes of a range are zero exactly where the word of the range is. -/
theorem leNat_eq_zero_iff (bs : List Byte) : leNat bs = 0 ↔ ∀ b ∈ bs, b = 0 := by
  induction bs with
  | nil => simp [leNat]
  | cons b bs ih =>
    have hb : b.toNat = 0 ↔ b = 0 := ⟨fun h => BitVec.eq_of_toNat_eq h, fun h => by rw [h]; rfl⟩
    rw [leNat, List.forall_mem_cons, ← ih, ← hb]
    omega

/-- The two halves of an entry of an energy table. -/
theorem byte_writeHalves (s : State) (pa x y a : Nat) : ((s.writeNat pa 2 x).writeNat (pa + 2) 2 y).byte a =
    (s.writeBytes pa (leBytes 2 x ++ leBytes 2 y)).byte a := by
  unfold State.writeNat
  simp only [State.byte_writeBytes, leBytes_length, List.length_append]
  by_cases h2 : pa + 2 ≤ a ∧ a < pa + 2 + 2
  · rw [if_pos h2, if_pos (by omega), List.getD_append_right _ _ _ _ (by simp; omega), leBytes_length]
    congr 1
  · rw [if_neg h2]
    by_cases h1 : pa ≤ a ∧ a < pa + 2
    · rw [if_pos h1, if_pos (by omega), List.getD_append _ _ _ _ (by simp; omega)]
    · rw [if_neg h1, if_neg (by omega)]

/-- An entry of the energy table at its defaults. -/
def State.putEnergy (ccb : Nat) (t : State) (q : Nat × Nat × Nat) : State :=
  (t.writeNat (ccb + 0x40 + 4 * q.1) 2 q.2.1).writeNat (ccb + 0x42 + 4 * q.1) 2 q.2.2

theorem homeWrites_putEnergy (ccb : Nat) (t : State) (q : Nat × Nat × Nat) : HomeWrites t (t.putEnergy ccb q) :=
  homeWrites_trans (homeWrites_writeNat t _ _ _) (homeWrites_writeNat _ _ _ _)

theorem byte_putEnergy (ccb : Nat) (t : State) (q : Nat × Nat × Nat) (a : Nat) : (t.putEnergy ccb q).byte a =
    (t.writeBytes (ccb + 0x40 + 4 * q.1) (leBytes 2 q.2.1 ++ leBytes 2 q.2.2)).byte a := by
  unfold State.putEnergy
  rw [show ccb + 0x42 + 4 * q.1 = ccb + 0x40 + 4 * q.1 + 2 by omega]
  exact byte_writeHalves t _ _ _ a

/-- Entries with different numbers stand beside each other. -/
theorem foldl_putEnergy (ccb : Nat) (l : List (Nat × Nat × Nat)) (hl : l.Pairwise fun p q => p.1 ≠ q.1) (s : State) :
    let t := l.foldl (State.putEnergy ccb) s
    (∀ q ∈ l, HoldsBytes t (ccb + 0x40 + 4 * q.1) (leBytes 2 q.2.1 ++ leBytes 2 q.2.2))
      ∧ ∀ a, (∀ q ∈ l, a < ccb + 0x40 + 4 * q.1 ∨ ccb + 0x44 + 4 * q.1 ≤ a) → t.byte a = s.byte a := by
  induction l generalizing s with
  | nil => exact ⟨by simp, fun _ _ => rfl⟩
  | cons p l ih =>
    obtain ⟨hp, hl⟩ := List.pairwise_cons.mp hl
    obtain ⟨hholds, hframe⟩ := ih hl (s.putEnergy ccb p)
    have hlen : (leBytes 2 p.2.1 ++ leBytes 2 p.2.2).length = 4 := by simp
    refine ⟨List.forall_mem_cons.mpr ⟨fun i b hb => ?_, hholds⟩, fun a ha => ?_⟩
    · have hi : i < 4 := hlen ▸ (List.getElem?_eq_some_iff.mp hb).1
      rw [List.foldl_cons, hframe _ fun q hq => ?_, byte_putEnergy]
      · exact holdsBytes_writeBytes s _ _ i b hb
      · have := hp q hq
        omega
    · have ha' := List.forall_mem_cons.mp ha
      rw [List.foldl_cons, hframe a ha'.2, byte_putEnergy]
      exact sameBytesBut_writeBytes s _ _ a (by rw [hlen]; omega)

theorem homeWrites_fillEnergy (s : State) (ccb : Nat) : HomeWrites s (s.fillEnergy ccb) := by
  unfold State.fillEnergy
  split
  · exact homeWrites_refl s
  · exact homeWrites_foldl (homeWrites_putEnergy ccb) energyDefaults s

section
variable {s : State} {a : Nat}

theorem readNat_eq_zero_iff {n : Nat} (hg : s.gatedAt a = false) : s.readNat a n = 0 ↔ ∀ i, i < n → s.byte (a + i) = 0 := by
  rw [readNat_eq s n hg, leNat_eq_zero_iff]
  simp [State.bytesAt]

theorem fillEnergy_kept (h : s.readNat (a + 0x40) 40 ≠ 0) : s.fillEnergy a = s := if_pos h

theorem fillEnergy_filled (h : s.readNat (a + 0x40) 40 = 0) :
    s.fillEnergy a = energyDefaults.foldl (State.putEnergy a) s := if_neg (not_not.mpr h)

theorem lt_of_region_shelf {isle : Nat} (h : s.region a = .shelf isle) : a < 0x4000000000 := by
  by_contra hge
  unfold State.region at h
  rw [if_neg hge] at h
  simp only at h
  repeat' split at h
  all_goals exact nomatch h

end

/-- The CCB that OPEN has prepared: what its writes leave, CSTATE, and its energy table. -/
theorem openedCcb_leaves {s : State} {a isle : Nat} (hr : s.region a = .shelf isle) (ha : a % 256 = 0)
    (hg : s.gatedAt (a + 0x18) = false) : let t := (s.fillEnergy a).setCstate a 0
    HomeWrites s t ∧ (t.ccbWord a 0x18).toNat / 2 ^ 8 % 4 = 0
      ∧ (let empty := ∀ i, i < 40 → s.byte (a + 0x40 + i) = 0
         (¬empty → SameBytesBut s t (a + 0x18) 8)
         ∧ (empty → (∀ b, (b < a + 0x18 ∨ a + 0x20 ≤ b) → (b < a + 0x40 ∨ a + 0x68 ≤ b) → t.byte b = s.byte b)
            ∧ ∀ q ∈ energyDefaults, HoldsBytes t (a + 0x40 + 4 * q.1) (leBytes 2 q.2.1 ++ leBytes 2 q.2.2))) := by
  intro t
  have hfill := homeWrites_fillEnergy s a
  have hstate : SameBytesBut (s.fillEnergy a) t (a + 0x18) 8 := sameBytesBut_writeBytes _ _ _
  have hgate : s.gatedAt (a + 0x40) = false := by
    have hlt := lt_of_region_shelf hr
    have hcore : spCore (a + 0x40) = none := by
      unfold spCore
      rw [if_neg (by omega), if_neg (by omega)]
    unfold State.gatedAt
    rw [hcore]
  have hempty := readNat_eq_zero_iff (n := 40) hgate
  refine ⟨homeWrites_trans hfill (homeWrites_setCstate _ a 0),
    cstate_setCstate _ (by omega) ((hfill.gatedAt _).trans hg), fun h => ?_, fun h => ?_⟩
  · rw [fillEnergy_kept (mt hempty.mp h)] at hstate
    exact hstate
  · obtain ⟨hholds, hframe⟩ := foldl_putEnergy a energyDefaults (by decide) s
    rw [← fillEnergy_filled (hempty.mpr h)] at hholds hframe
    have hq : ∀ q ∈ energyDefaults, q.1 ≤ 9 ∧ (leBytes 2 q.2.1 ++ leBytes 2 q.2.2).length = 4 := by decide
    refine ⟨fun b h1 h2 => (hstate b h1).trans (hframe b fun q hmem => ?_), fun q hmem i x hx => ?_⟩
    · have := (hq q hmem).1
      omega
    · have hi := (List.getElem?_eq_some_iff.mp hx).1
      rw [(hq q hmem).2] at hi
      exact (hstate _ (by omega)).trans (hholds q hmem i x hx)

/-! ## Stops of a context -/

/-- A context reads as it has been put. -/
theorem ctx_putCtx (s : State) (ctx : Nat) (y : Option Ctx) (z : Nat) :
    State.ctx { s with ctxs := Tab.put none s.ctxs ctx y } z = if z = ctx then y else s.ctx z :=
  Tab.get_put none s.ctxs ctx z y

/-- Of a device in which a context has been asked to stop, the cores and the contexts. -/
def AsksToStop (s t : State) (x : Nat) (y : Ctx) (why : Nat) (byDisp : Bool) : Prop :=
  (∀ z, t.ctx z = if z = x then some { y with
      stopping := some (max why (y.stopping.getD 0)), byDispatcher := byDisp, restoring := false } else s.ctx z)
    ∧ ∀ c, t.core c = if (s.core c).run = .running ∧ (s.core c).ctx = x then { s.core c with preReq := true } else s.core c

theorem requestStop_setStopping {s : State} {x : Nat} {y : Ctx} (h : s.ctx x = some y) (why : Nat) (byDisp : Bool) :
    let t := (s.requestStop x).setStopping x why byDisp
    t = { s with cores := t.cores, ctxs := t.ctxs } ∧ AsksToStop s t x y why byDisp := by
  intro t
  have ht : t = { s.requestStop x with ctxs := Tab.put none s.ctxs x (some { y with
      stopping := some (max why (y.stopping.getD 0)), byDispatcher := byDisp, restoring := false }) } :=
    State.setStopping_some (s.requestStop x) h why byDisp
  refine ⟨by rw [ht]; rfl, fun z => ?_, fun c => ?_⟩
  · rw [ht]
    exact ctx_putCtx (s.requestStop x) x _ z
  · rw [ht]
    exact State.core_requestStop s x c

/-! ## CLOSE -/

theorem homeWrites_closeLaunch (s : State) (ctx : Nat) (l : W64) : HomeWrites s (s.closeLaunch ctx l) := by
  unfold State.closeLaunch
  simp only
  split
  · exact homeWrites_refl s
  · exact homeWrites_rootTry s _ _ _

theorem homeWrites_emptyPool (s : State) (ctx : Nat) :
    HomeWrites { s with pool := s.pool.filter fun p => p.ctx != ctx } (s.emptyPool ctx) :=
  homeWrites_foldl (fun t _ => homeWrites_leaveLive t _ _ _) _ _

/-- No group of the context is VALID once its entries have been dropped. -/
theorem valid_dropEntries {s : State} {ctx n : Nat} (h : ((s.dropEntries ctx).group n).ctx.toNat = ctx) :
    ((s.dropEntries ctx).group n).valid = false := by
  rcases Tab.get_map_or GroupEntry.reset (fun _ g => if g.ctx.toNat = ctx then { g with valid := false } else g) n s.groups
    with hget | ⟨hget, -⟩
  · have hgroup : (s.dropEntries ctx).group n =
        if (s.group n).ctx.toNat = ctx then { s.group n with valid := false } else s.group n := hget
    rw [hgroup] at h ⊢
    split at h
    · rw [if_pos ‹_›]
    · exact absurd h ‹_›
  · have hgroup : (s.dropEntries ctx).group n = GroupEntry.reset := hget
    rw [hgroup]; rfl

theorem closeContext_leaves {s : State} {ctx : Nat} {x : Ctx} (h : s.ctx ctx = some x) : let t := s.closeContext ctx
    t = { s with mem := t.mem, errs := t.errs, kept := t.kept, pool := t.pool, groups := t.groups, tickets := t.tickets
                 cores := t.cores, ctxs := t.ctxs }
      ∧ AsksToStop s t ctx x 3 false ∧ (∀ p ∈ t.pool, p.ctx ≠ ctx)
      ∧ ∀ n, (t.group n).ctx.toNat = ctx → (t.group n).valid = false := by
  intro t
  have hclosed := homeWrites_foldl (fun u l => homeWrites_closeLaunch u ctx l) (s.openLaunches ctx) s
  generalize hv : (s.openLaunches ctx).foldl (fun u l => u.closeLaunch ctx l) s = v at hclosed
  have hpool := homeWrites_emptyPool v ctx
  generalize hu : (v.emptyPool ctx) = u at hpool
  have ht : t = ((u.dropEntries ctx).requestStop ctx).setStopping ctx 3 false := by
    rw [← hu, ← hv]
    rfl
  have hrest : u = { s with mem := u.mem, errs := u.errs, kept := u.kept, pool := v.pool.filter fun p => p.ctx != ctx } := by
    rw [hpool.1, hclosed.1]
  have hctx : (u.dropEntries ctx).ctx ctx = some x := by
    show u.ctx ctx = some x
    rw [hrest]; exact h
  obtain ⟨hstop, hctxs, hcores⟩ := requestStop_setStopping hctx 3 false
  rw [← ht] at hstop hctxs hcores
  have hpools : t.pool = v.pool.filter fun p => p.ctx != ctx := by
    rw [hstop]; show u.pool = _; rw [hrest]
  refine ⟨?_, ⟨fun z => ?_, fun c => ?_⟩, fun p hp => ?_, fun n hn => ?_⟩
  · clear_value t
    rw [hstop, hrest]; rfl
  · rw [hctxs z]; congr 1; show u.ctx z = _; rw [hrest]; rfl
  · rw [hcores c]; show (if (u.core c).run = .running ∧ (u.core c).ctx = ctx then _ else u.core c) = _; rw [hrest]; rfl
  · rw [hpools] at hp
    exact bne_iff_ne.mp (List.mem_filter.mp hp).2
  · have hgroup : t.group n = (u.dropEntries ctx).group n := by rw [hstop]; rfl
    rw [hgroup] at hn ⊢
    exact valid_dropEntries hn

/-! ## RESUME -/

/-- While a saved node of the context waits, its restore does not end. -/
theorem endRestore_waits {s : State} {ctx : Nat} (h : ∃ v ∈ s.saved, v.ctx = ctx) : s.endRestore ctx = s := by
  have hany : (s.saved.any fun v => v.ctx == ctx) = true := by simpa [List.any_eq_true] using h
  unfold State.endRestore
  cases s.ctx ctx with
  | none => rfl
  | some x => exact if_pos (by simp [hany])

theorem beginRestore_waits {s : State} {ctx : Nat} {x : Ctx} (h : s.ctx ctx = some x) (hv : ∃ v ∈ s.saved, v.ctx = ctx) :
    s.beginRestore ctx = { s with ctxs := Tab.put none s.ctxs ctx (some { x with restoring := true }) } := by
  unfold State.beginRestore
  rw [h]
  exact endRestore_waits hv

theorem resumeContext_leaves {s : State} {ctx : Nat} {x : Ctx} (h : s.ctx ctx = some x) (hx : x.restoring = false)
    (hv : ∃ v ∈ s.saved, v.ctx = ctx) : let t := s.resumeContext ctx
    t = { s with ctxs := t.ctxs }
      ∧ ∀ z, t.ctx z = if z = ctx then some { x with byDispatcher := false, restoring := true } else s.ctx z := by
  intro t
  have ht : t = State.beginRestore
      { s with ctxs := Tab.put none s.ctxs ctx (some { x with byDispatcher := false }) } ctx := by
    show s.resumeContext ctx = _
    unfold State.resumeContext
    rw [h]
    exact if_neg (by simp [hx])
  have hget : State.ctx { s with ctxs := Tab.put none s.ctxs ctx (some { x with byDispatcher := false }) } ctx =
      some { x with byDispatcher := false } := (ctx_putCtx s ctx _ ctx).trans (if_pos rfl)
  rw [beginRestore_waits hget hv] at ht
  refine ⟨by rw [ht], fun z => ?_⟩
  rw [ht]
  refine (ctx_putCtx _ ctx _ z).trans ?_
  rw [ctx_putCtx]
  split
  · rfl
  · rfl

/-! ## Connections -/

/-- A connection that ends leaves every connection, every owed answer and every event but its own. -/
theorem endConnection_leaves (s : State) (conn : Nat) : let t := s.endConnection conn
    t = { s with conns := t.conns, owedAnswers := t.owedAnswers, ctxs := t.ctxs }
      ∧ (∀ c, Tab.get none t.conns c = if c = conn then none else Tab.get none s.conns c)
      ∧ (∀ q, q ∈ t.owedAnswers ↔ q ∈ s.owedAnswers ∧ q.2.conn ≠ conn)
      ∧ ∀ z, t.ctx z = (s.ctx z).map fun x => if x.conn = some conn then { x with conn := none } else x := by
  refine ⟨rfl, fun c => Tab.get_put none s.conns conn c none, fun q => ?_, fun z => ?_⟩
  · show q ∈ s.owedAnswers.filter _ ↔ _
    simp
  · rcases Tab.get_map_or none (fun _ (y : Option Ctx) => y.map fun (x : Ctx) => if x.conn = some conn then { x with conn := none } else x)
      z s.ctxs with hget | ⟨hget, hnone⟩
    · exact hget
    · have hz : s.ctx z = none := hnone
      rw [hz]; exact hget

theorem hostEvent_some {s : State} {z : Nat} {x : Ctx} {n : Nat} (code : Nat) (h : s.ctx z = some x) (hn : x.conn = some n) :
    s.hostEvent z code = { s with hostOut := s.hostOut ++ [{
      conn := n, w0 := .ofNat 64 (0x80 + 2 ^ 8 * code + 2 ^ 16 * z), value := s.ccbWord x.ccb 0x18, len := 0, payload := [] }] } := by
  unfold State.hostEvent
  rw [h]
  simp only [hn]
  rfl

theorem hostEvent_none {s : State} {z : Nat} {x : Ctx} (code : Nat) (h : s.ctx z = some x) (hn : x.conn = none) :
    s.hostEvent z code = s := by
  unfold State.hostEvent
  rw [h]
  simp only [hn]

/-- After the end of a connection, an event of a context travels only on another one. -/
theorem hostEvent_endConnection {s : State} {z : Nat} {x : Ctx} (conn code : Nat) (h : s.ctx z = some x) :
    let t := s.endConnection conn
    t.hostEvent z code = if x.conn = some conn then t else { t with hostOut := t.hostOut ++ (match x.conn with
      | some n => [{ conn := n, w0 := .ofNat 64 (0x80 + 2 ^ 8 * code + 2 ^ 16 * z), value := s.ccbWord x.ccb 0x18
                     len := 0, payload := [] }]
      | none => []) } := by
  intro t
  have hz := (endConnection_leaves s conn).2.2.2 z
  rw [h, Option.map_some] at hz
  by_cases hc : x.conn = some conn
  · rw [if_pos hc] at hz ⊢
    exact hostEvent_none code hz rfl
  · rw [if_neg hc] at hz ⊢
    cases hn : x.conn with
    | none =>
      rw [hostEvent_none code hz hn]
      simp only [List.append_nil]
      rfl
    | some n => exact hostEvent_some code hz hn

theorem step_connectionEnd {s : State} {conn : Nat} {l : List Turn} (h : s.agenda = .connectionEnd conn :: l) :
    step s = .next (State.endConnection { s with agenda := l } conn) := by
  simp [step, State.turnNext, State.turnDone, h]

theorem connectionSetUp_leaves (s : State) (conn : Nat) (mode : BitVec 4) (sendOnly security : Bool) :
    let good := 2 ≤ s.stage ∧ mode.toNat < 2 ∧ sendOnly = true ∧ security = false
    (¬good → exec (.connectionSetUp conn mode sendOnly security) s = .next s)
      ∧ (good → ∃ t, exec (.connectionSetUp conn mode sendOnly security) s = .next t ∧ t = { s with conns := t.conns }
          ∧ ∀ c, Tab.get none t.conns c = if c = conn then some (mode == 1) else Tab.get none s.conns c) := by
  intro good
  have hgood : good ↔ ¬(s.stage < 2 ∨ 2 ≤ mode.toNat ∨ (!sendOnly) = true ∨ security = true) := by
    simp only [good, not_or, Bool.not_eq_true', Bool.not_eq_false, Bool.not_eq_true, not_lt, not_le]
  show (¬good → execConnectionSetUp conn mode sendOnly security s = .next s) ∧ (good → ∃ t,
    execConnectionSetUp conn mode sendOnly security s = .next t ∧ _)
  exact ⟨fun h => if_pos (not_not.mp (mt hgood.mpr h)), fun h => ⟨_, if_neg (hgood.mp h), rfl, fun c =>
    Tab.get_put none s.conns conn c (some (mode == 1))⟩⟩

/-! ## The operations -/

section
variable {s t : State} {r : HostReq}

theorem execRead_ok {bs : List Byte} (ht : s.takesRequest r = true) (hb : r.bad 2 = false)
    (hc : r.phys = true ∨ s.resident r.ctx = true) (h : s.hostRead r r.addr r.len = .ok bs) :
    execRead r s = .next (s.freshen.respond r 0 bs) :=
  serve_ok ht hb (fun hv => hc.resolve_left (by simpa using hv)) (by rw [h]; rfl)

theorem execRead_error {e : Trp} (ht : s.takesRequest r = true) (hb : r.bad 2 = false)
    (hc : r.phys = true ∨ s.resident r.ctx = true) (h : s.hostRead r r.addr r.len = .error e) :
    execRead r s = .next (s.respond r (s.resultOf e) []) :=
  serve_error ht hb (fun hv => hc.resolve_left (by simpa using hv)) (by rw [h]; rfl)

theorem execWrite_ok (ht : s.takesRequest r = true) (hb : r.bad 3 = false)
    (hc : r.phys = true ∨ s.resident r.ctx = true) (h : s.hostWrite r r.addr r.payload = .ok t) :
    execWrite r s = .next (t.respond r 0 []) :=
  serve_ok ht hb (fun hv => hc.resolve_left (by simpa using hv)) (by rw [h]; rfl)

theorem execWrite_error {e : Trp} (ht : s.takesRequest r = true) (hb : r.bad 3 = false)
    (hc : r.phys = true ∨ s.resident r.ctx = true) (h : s.hostWrite r r.addr r.payload = .error e) :
    execWrite r s = .next (s.respond r (s.resultOf e) []) :=
  serve_error ht hb (fun hv => hc.resolve_left (by simpa using hv)) (by rw [h]; rfl)

theorem execStatus_ok {bs : List Byte} {x : Ctx} (ht : s.takesRequest r = true) (hb : r.bad 4 = false)
    (hc : s.resident r.ctx = true) (hx : s.ctx r.ctx = some x) (h : s.hostRead r (r.addr + 0x10) 24 = .ok bs) :
    execStatus r s = .next (s.respond r 0
      ((bs.drop 8).take 1 ++ List.replicate 7 0 ++ bs.take 8 ++ bs.drop 16 ++ leBytes 8 (s.ccbWord x.ccb 0x18).toNat)) :=
  serve_ok ht hb (fun _ => hc) (by rw [h, hx]; rfl)

/-- A launch record that is not aligned answers BAD (log 26, DESIGN CHOICE). -/
theorem execLaunch_unaligned (ht : s.takesRequest r = true) (hb : r.bad 1 = false) (hc : s.resident r.ctx = true)
    (ha : r.addr.toNat % 64 ≠ 0) : execLaunch r s = .next (s.respond r 1 []) :=
  serve_error ht hb (fun _ => hc) (if_pos ha)

theorem execLaunch_malformed {bs : List Byte} (ht : s.takesRequest r = true) (hb : r.bad 1 = false)
    (hc : s.resident r.ctx = true) (ha : r.addr.toNat % 64 = 0) (h : s.hostRead r r.addr 64 = .ok bs)
    (hk : launchOk r.addr (.ofNat 64 (leNat ((bs.drop 8).take 8))) (.ofNat 64 (leNat ((bs.drop 0x18).take 8)))
      (bs.drop 0x28) = false) : execLaunch r s = .next (s.respond r 1 []) :=
  serve_error ht hb (fun _ => hc) ((if_neg (not_not.mpr ha)).trans (by rw [h]; exact if_pos (by simp [hk])))

/-- A launch record by virtual address: the device has zeroed its fields, and its roots are decremented. -/
theorem execLaunch_ok {bs : List Byte} (ht : s.takesRequest r = true) (hb : r.bad 1 = false)
    (hc : s.resident r.ctx = true) (ha : r.addr.toNat % 64 = 0) (hv : r.phys = false) (h : s.hostRead r r.addr 64 = .ok bs)
    (hk : launchOk r.addr (.ofNat 64 (leNat ((bs.drop 8).take 8))) (.ofNat 64 (leNat ((bs.drop 0x18).take 8)))
      (bs.drop 0x28) = true)
    (hacc : s.acceptLaunch r (.ofNat 64 (leNat ((bs.drop 8).take 8))) (.ofNat 64 (leNat ((bs.drop 0x18).take 8))) = .ok t) :
    execLaunch r s = .next ((t.decrementList r.ctx r.addr r.addr (.ofNat 64 (leNat ((bs.drop 0).take 8)))
      (leNat ((bs.drop 8).take 8) % 2 ^ 16)).respond r 0 []) := by
  have hn : fld (BitVec.ofNat 64 (leNat ((bs.drop 8).take 8))) 0 16 = leNat ((bs.drop 8).take 8) % 2 ^ 16 := by
    rw [← toNat_ofNat_word bs 8]
    simp [fld, bitsAt]
  rw [← hn]
  refine serve_ok ht hb (fun _ => hc) ((if_neg (not_not.mpr ha)).trans ?_)
  rw [h]
  refine (if_neg (by simp [hk])).trans ?_
  rw [hacc, hv]
  rfl

theorem execOpen_full (ht : s.takesRequest r = true) (hb : r.bad 6 = false) (h : s.residents = 16) :
    execOpen r s = .next (s.respond r 8 []) := serve_error ht hb (nomatch ·) (if_pos h)

theorem execOpen_busy (ht : s.takesRequest r = true) (hb : r.bad 6 = false) (h : s.residents ≠ 16)
    (hx : (s.ctx r.ctx).isSome = true) : execOpen r s = .next (s.respond r 6 []) :=
  serve_error ht hb (nomatch ·) ((if_neg h).trans (if_pos hx))

theorem execOpen_unaligned (ht : s.takesRequest r = true) (hb : r.bad 6 = false) (h : s.residents ≠ 16)
    (hx : s.ctx r.ctx = none) (ha : r.arg.toNat % 256 ≠ 0) : execOpen r s = .next (s.respond r 1 []) :=
  serve_error ht hb (nomatch ·) ((if_neg h).trans ((if_neg (by simp [hx])).trans (if_pos ha)))

/-- The context that an OPEN makes resident (21 R431). -/
def openedCtx (r : HostReq) : Ctx :=
  { ccb := r.arg.toNat, conn := some r.conn, byDispatcher := false, stopping := none, restoring := false }

theorem execOpen_ok {isle : Nat} (ht : s.takesRequest r = true) (hb : r.bad 6 = false) (h : s.residents ≠ 16)
    (hx : s.ctx r.ctx = none) (ha : r.arg.toNat % 256 = 0) (hlt : r.arg.toNat < 2 ^ 52)
    (hr : s.region r.arg.toNat = .shelf isle) (hp : poisoned s.errs r.arg.toNat 256 = none) :
    execOpen r s = .next (State.respond { (s.fillEnergy r.arg.toNat).setCstate r.arg.toNat 0 with
      ctxs := Tab.put none s.ctxs r.ctx (some (openedCtx r)) } r 0 []) :=
  serve_ok ht hb (nomatch ·) ((if_neg h).trans ((if_neg (by simp [hx])).trans ((if_neg (not_not.mpr ha)).trans
    ((if_neg (by simp [hr]; omega)).trans ((if_neg (by simp [hr, State.touchesPeer])).trans (if_neg (by simp [hp])))))))

end

/-- A stop at the host's request, whose answer waits (21 R431, R432). -/
theorem owe1_stop {s : State} {r : HostReq} {x : Ctx} (h : s.ctx r.ctx = some x) (why : Nat) :
    let t := ((s.owe1 r).requestStop r.ctx).setStopping r.ctx why false
    t = { s with cores := t.cores, ctxs := t.ctxs, owedAnswers := t.owedAnswers }
      ∧ t.owedAnswers = s.owedAnswers ++ [(r.ctx, r)] ∧ t.hostOut = s.hostOut ∧ AsksToStop s t r.ctx x why false := by
  intro t
  obtain ⟨hrest, hasks⟩ := requestStop_setStopping (s := s.owe1 r) h why false
  have howed : t.owedAnswers = s.owedAnswers ++ [(r.ctx, r)] := (congrArg State.owedAnswers hrest).trans rfl
  exact ⟨hrest.trans (by rw [howed]; rfl), howed, (congrArg State.hostOut hrest).trans rfl, hasks⟩

end Sys2Proof.Machine
end

section
/-! PROPERTIES. Host requests (21 R430 to R433, 07 R169). -/

namespace Sys2Proof.Machine

open Sys2Proof

theorem respond_eq (s : State) (r : HostReq) (result : Nat) (payload : List Byte) : s.respond r result payload =
    { s with hostOut := s.hostOut ++ [{
      conn := r.conn, w0 := .ofNat 64 (r.w0.toNat % 2 ^ 8 + 2 ^ 8 * result + 2 ^ 32 * (r.w0.toNat / 2 ^ 32))
      value := 0, len := payload.length, payload := payload }] } := by
  unfold State.respond
  rw [response_eq]

/-- Each operation refuses by RESULT, and those that name a context need it resident (21 R431). -/
theorem refusesRequest_ops (s : State) (r : HostReq) :
    RefusesRequest s r (.launch r) 1 true ∧ RefusesRequest s r (.read r) 2 (!r.phys)
      ∧ RefusesRequest s r (.write r) 3 (!r.phys) ∧ RefusesRequest s r (.status r) 4 true
      ∧ RefusesRequest s r (.release r) 5 true ∧ RefusesRequest s r (.open r) 6 false
      ∧ RefusesRequest s r (.close r) 7 true ∧ RefusesRequest s r (.preempt r) 8 true
      ∧ RefusesRequest s r (.resume r) 9 true :=
  ⟨refusesRequest_serve (show execLaunch r s = _ from rfl), refusesRequest_serve (show execRead r s = _ from rfl),
    refusesRequest_serve (show execWrite r s = _ from rfl), refusesRequest_serve (show execStatus r s = _ from rfl),
    refusesRequest_serveLater (show execRelease r s = _ from rfl), refusesRequest_serve (show execOpen r s = _ from rfl),
    refusesRequest_serveLater (show execClose r s = _ from rfl), refusesRequest_serveLater (show execPreempt r s = _ from rfl),
    refusesRequest_serveLater (show execResume r s = _ from rfl)⟩

/-- Settles O56: each request is served by one of two schemes, whose refusals and answers are proved once. -/
theorem hostRequestsAreAnsweredWithTheirResult : Obligations.HostRequestsAreAnsweredWithTheirResult := by
  unfold Obligations.HostRequestsAreAnsweredWithTheirResult
  intro answer ops
  have hanswer : ∀ (s : State) (r : HostReq) (e : Nat) (p : List Byte),
      (.next (s.respond r e p) : Out3) = .next { s with hostOut := s.hostOut ++ [answer r e p] } :=
    fun s r e p => congrArg Host.Outcome.next (respond_eq s r e p)
  refine ⟨fun s r op hop => ?refusals, fun s r ht => ?requests⟩
  case refusals =>
    intro gives
    have key : ∀ needs, RefusesRequest s r (op.1 r) op.2 needs →
        ((op.2 ∈ [1, 4, 5, 7, 8, 9] ∨ (op.2 ∈ [2, 3] ∧ r.phys = false)) → needs = true) →
        (s.takesRequest r = false → exec (op.1 r) s = .next s)
        ∧ (s.takesRequest r = true → r.bad op.2 = true → gives 1)
        ∧ (s.takesRequest r = true → r.bad op.2 = false → s.resident r.ctx = false →
            (op.2 ∈ [1, 4, 5, 7, 8, 9] ∨ (op.2 ∈ [2, 3] ∧ r.phys = false)) → gives 7) := by
      intro needs ⟨hwait, hbad, hgone⟩ hneeds
      exact ⟨hwait, fun h hb => (hbad h hb).trans (hanswer ..),
        fun h hb hc hn => (hgone h hb hc (hneeds hn)).trans (hanswer ..)⟩
    obtain ⟨hlaunch, hread, hwrite, hstatus, hrelease, hopen, hclose, hpreempt, hresume⟩ := refusesRequest_ops s r
    simp only [ops, List.mem_cons, List.not_mem_nil, or_false] at hop
    rcases hop with rfl | rfl | rfl | rfl | rfl | rfl | rfl | rfl | rfl
    · exact key _ hlaunch fun _ => rfl
    · exact key _ hread (by simp)
    · exact key _ hwrite (by simp)
    · exact key _ hstatus fun _ => rfl
    · exact key _ hrelease fun _ => rfl
    · exact key _ hopen (by simp)
    · exact key _ hclose fun _ => rfl
    · exact key _ hpreempt fun _ => rfl
    · exact key _ hresume fun _ => rfl
  case requests =>
    intro gives there okFor
    have hgives : ∀ {i : Instr} {e : Nat}, exec i s = .next (s.respond r e []) → gives i e :=
      fun h => h.trans (hanswer ..)
    refine ⟨?read, ?readError, ?write, ?status, ?unaligned, ?launch, ?opening, ?stops, fun s conn l hl => ?ends, connectionSetUp_leaves⟩
    case read =>
      intro pa hb hc hl ⟨isle, hr⟩ hg hp
      exact (execRead_ok ht hb hc (hostRead_shelf hl hr hg hp)).trans (hanswer ..)
    case readError =>
      intro e hb hc hl
      exact hgives (execRead_error ht hb hc (hostRead_error hl))
    case write =>
      intro pa hb hc hl ⟨isle, hr⟩ n
      refine ⟨fun ha hm => ⟨_, (execWrite_ok ht hb hc (hostWrite_shelf hl hr ha hm)).trans (hanswer ..), rfl,
        holdsBytes_writeBytes s pa _, sameBytesBut_writeBytes s pa _, keptAfter_writeBytes s pa _⟩, fun h => hgives ?_⟩
      exact execWrite_error ht hb hc (hostWrite_refused hl h)
    case status =>
      intro bs x hb hc hx h
      exact (execStatus_ok ht hb hc hx h).trans (hanswer ..)
    case unaligned =>
      intro hb hc ha
      exact hgives (execLaunch_unaligned ht hb hc ha)
    case launch =>
      intro bs hb hc ha h word good
      have hgood : launchOk r.addr (.ofNat 64 (word 8)) (.ofNat 64 (word 0x18)) (bs.drop 0x28) = true ↔ good := by
        rw [launchOk_iff ha, toNat_ofNat_word, toNat_ofNat_word]
      refine ⟨fun hno => hgives (execLaunch_malformed ht hb hc ha h (Bool.eq_false_iff.mpr (mt hgood.mp hno))),
        fun hyes hv t hacc => ?_⟩
      exact (execLaunch_ok ht hb hc ha hv h (hgood.mpr hyes) hacc).trans (hanswer ..)
    case opening =>
      intro hb
      refine ⟨fun h => hgives (execOpen_full ht hb h), fun h hx => hgives (execOpen_busy ht hb h hx),
        fun h hx ha => hgives (execOpen_unaligned ht hb h hx ha), fun isle h hx ha hlt hr hp hg => ?_⟩
      obtain ⟨hw, hcstate, henergy⟩ := openedCcb_leaves hr ha hg
      have hopen := (execOpen_ok ht hb h hx ha hlt hr hp).trans (hanswer ..)
      generalize (s.fillEnergy r.arg.toNat).setCstate r.arg.toNat 0 = u at hw hcstate henergy hopen
      refine ⟨_, hopen, by rw [hw.1], homeViews_congr hw.2 rfl rfl, fun z => ?_, hcstate, henergy⟩
      refine (Tab.get_put none s.ctxs r.ctx z (some (openedCtx r)))
    case stops =>
      intro x hc hx cstate stops gone
      have hstate : (s.owe1 r).cstate r.ctx = cstate := by
        show s.cstate r.ctx = cstate
        unfold State.cstate
        rw [hx]; rfl
      have hstop : ∀ {i : Instr} {why : Nat} {more : State → Prop} {t : State}, exec i s = .next t →
          t.owedAnswers = s.owedAnswers ++ [(r.ctx, r)] → t.hostOut = s.hostOut → AsksToStop s t r.ctx x why false → more t →
          stops i why more := fun h howed hout hasks hmore => ⟨_, h, howed, hout, hasks.1, hasks.2, hmore⟩
      refine ⟨fun hb => ?close, fun hb h => ?release, fun hb h => hgives ?_, fun hb h => ?preempt, fun hb h => hgives ?_,
        fun hb h => hgives ?_, fun hb h hrest hsaved => ?resume⟩
      case close =>
        obtain ⟨hrest, hasks, hpool, hgroups⟩ := closeContext_leaves (s := s.owe1 r) hx
        refine hstop (show execClose r s = _ from serveLater_stops ht hb hc rfl) ?_ ?_ hasks
          ⟨hpool, fun n hn _ => hgroups n hn⟩
        · rw [hrest]; rfl
        · rw [hrest]; rfl
      case release =>
        obtain ⟨hrest, howed, hout, hasks⟩ := owe1_stop hx 4
        exact hstop (show execRelease r s = _ from serveLater_stops ht hb hc (if_pos (hstate.trans h))) howed hout hasks hrest
      case preempt =>
        obtain ⟨hrest, howed, hout, hasks⟩ := owe1_stop hx 1
        exact hstop (show execPreempt r s = _ from serveLater_stops ht hb hc (if_pos (hstate.trans h))) howed hout hasks hrest
      · exact show execRelease r s = _ from serveLater_busy ht hb hc (if_neg (hstate ▸ h))
      · exact show execPreempt r s = _ from serveLater_busy ht hb hc (if_neg (hstate ▸ h))
      · exact show execResume r s = _ from serveLater_busy ht hb hc (if_neg (hstate ▸ h))
      case resume =>
        obtain ⟨hrest', hctx⟩ := resumeContext_leaves (s := s.owe1 r) hx hrest hsaved
        exact ⟨_, show execResume r s = _ from serveLater_stops ht hb hc (if_pos (hstate.trans h)), hrest', hctx⟩
    case ends =>
      obtain ⟨hrest, hconns, howed, hctx⟩ := endConnection_leaves { s with agenda := l } conn
      exact ⟨_, step_connectionEnd hl, hrest, hconns, howed, hctx, fun z x code hx => hostEvent_endConnection conn code hx⟩

end Sys2Proof.Machine
end

section
/-! SUPPORT. The dispatcher (07 R172 to R176, 08 R189, R193): the restore that is due, the choice of a node and its core, and the
victim of a starved node. -/

namespace Sys2Proof.Machine

open Sys2Proof

/-! ## Restores that are due -/

/-- That a context restores changes what the dispatcher may restore of this context only. -/
theorem mayRestore_restoring {s : State} {ctx : Nat} {x : Ctx} (h : s.ctx ctx = some x) (z : Nat) :
    State.mayRestore { s with ctxs := Tab.put none s.ctxs ctx (some { x with restoring := true }) } z =
      (s.mayRestore z && z != ctx) := by
  generalize hu : ({ s with ctxs := Tab.put none s.ctxs ctx (some { x with restoring := true }) } : State) = u
  have hctx : ∀ y, u.ctx y = if y = ctx then some { x with restoring := true } else s.ctx y := by
    intro y; rw [← hu]; exact ctx_putCtx s ctx _ y
  have hword : ∀ ccb off, u.ccbWord ccb off = s.ccbWord ccb off := by intro ccb off; rw [← hu]; rfl
  have hpool : u.pool = s.pool := by rw [← hu]
  have hsaved : u.saved = s.saved := by rw [← hu]
  clear hu
  have hprio : ∀ y, u.ctxPrio y = s.ctxPrio y := by
    intro y
    unfold State.ctxPrio
    rw [hctx]
    by_cases hy : y = ctx
    · subst hy; rw [if_pos rfl, h]; simp only [hword]
    · rw [if_neg hy]; simp only [hword]
  have hstate : ∀ y, u.cstate y = s.cstate y := by
    intro y
    unfold State.cstate
    rw [hctx]
    by_cases hy : y = ctx
    · subst hy; rw [if_pos rfl, h]; simp only [hword]
    · rw [if_neg hy]; simp only [hword]
  have hrank : u.outranks z = s.outranks z := by
    funext p
    unfold State.outranks
    rw [hprio, hprio, hsaved]
  unfold State.mayRestore
  rw [hctx, hstate, hpool, hrank]
  by_cases hz : z = ctx
  · subst hz; simp
  · simp [hz]

/-- With one context to restore, a dispatch step begins with its restore and no other. -/
theorem restoreDue_one {s : State} {ctx : Nat} (hlt : ctx < 16) (hmay : s.mayRestore ctx = true)
    (hothers : ∀ z, z ≠ ctx → s.mayRestore z = false) (hquiet : (s.beginRestore ctx).restsPreempted) :
    s.restoreDue = s.beginRestore ctx := by
  have hrest : ∀ l : List Nat, (∀ z ∈ l, z < 16) →
      l.foldl (fun t x => if t.mayRestore x then t.beginRestore x else t) (s.beginRestore ctx) = s.beginRestore ctx := by
    intro l hl
    induction l with
    | nil => rfl
    | cons z l ih =>
      rw [List.foldl_cons, if_neg (by simp [hquiet z (hl z List.mem_cons_self)])]
      exact ih fun y hy => hl y (List.mem_cons_of_mem _ hy)
  have key : ∀ l : List Nat, (∀ z ∈ l, z < 16) → ctx ∈ l →
      l.foldl (fun t x => if t.mayRestore x then t.beginRestore x else t) s = s.beginRestore ctx := by
    intro l hl hmem
    induction l with
    | nil => exact nomatch hmem
    | cons z l ih =>
      have hl' : ∀ y ∈ l, y < 16 := fun y hy => hl y (List.mem_cons_of_mem _ hy)
      rw [List.foldl_cons]
      by_cases hz : z = ctx
      · subst hz
        rw [if_pos hmay]
        exact hrest l hl'
      · rw [if_neg (by simp [hothers z hz])]
        exact ih hl' ((List.mem_cons.mp hmem).resolve_left (Ne.symm hz))
  exact key _ (fun z hz => List.mem_range.mp hz) (List.mem_range.mpr hlt)

/-- A dispatch step after its restores: the nodes that can be placed now take their cores (07 R172). -/
def State.placeNow (s : State) : Out3 :=
  match s.placeNext with
  | none => .next s
  | some (l, t) => .next (l.foldl (fun u q => u.dispatchNode q.1 q.2)
      (State.freshen { t with pool := t.pool.filter fun p => !(l.any fun q => q.1 == p) }))

theorem exec_dispatch_eq (s : State) : exec .dispatch s = s.restoreDue.placeNow := by
  show execDispatch s = _
  unfold execDispatch State.placeNow
  generalize s.restoreDue = u
  cases h : u.placeNext <;> simp only [h]

theorem exec_dispatch_due {s : State} {ctx : Nat} {x : Ctx} (hlt : ctx < 16) (hx : s.ctx ctx = some x)
    (hmay : s.mayRestore ctx = true) (hothers : ∀ z, z ≠ ctx → s.mayRestore z = false) (hsaved : ∃ v ∈ s.saved, v.ctx = ctx) :
    ∃ u, u = { s with ctxs := u.ctxs } ∧ exec .dispatch s = exec .dispatch u ∧ u.restsPreempted
      ∧ ∀ z, u.ctx z = if z = ctx then some { x with restoring := true } else s.ctx z := by
  have hbegin := beginRestore_waits hx hsaved
  have hquiet : (s.beginRestore ctx).restsPreempted := by
    intro z _
    rw [hbegin, mayRestore_restoring hx]
    by_cases hz : z = ctx
    · simp [hz]
    · simp [hothers z hz]
  refine ⟨s.beginRestore ctx, by rw [hbegin], ?_, hquiet, fun z => ?_⟩
  · rw [exec_dispatch_eq, exec_dispatch_eq, restoreDue_one hlt hmay hothers hquiet, State.restoreDue_quiet _ hquiet]
  · rw [hbegin]
    exact ctx_putCtx s ctx _ z

theorem exec_dispatch_idle {s : State} (hquiet : s.restsPreempted) (h : s.placeNext = none) :
    exec .dispatch s = .next s := by
  rw [exec_dispatch_eq, State.restoreDue_quiet _ hquiet, State.placeNow, h]

theorem exec_dispatcherRestore_begins {s : State} {ctx : Nat} {x : Ctx} (hlt : ctx < 16) (hx : s.ctx ctx = some x)
    (hmay : s.mayRestore ctx = true) (hmin : ∀ z, z < ctx → s.mayRestore z = false) (hsaved : ∃ v ∈ s.saved, v.ctx = ctx) :
    ∃ t, exec .dispatcherRestore s = .next t ∧ t = { s with ctxs := t.ctxs }
      ∧ ∀ z, t.ctx z = if z = ctx then some { x with restoring := true } else s.ctx z := by
  refine ⟨_, ?_, rfl, ctx_putCtx s ctx _⟩
  have hfirst : (List.range 16).find? s.mayRestore = some ctx :=
    List.find?_range_eq_some.mpr ⟨hmay, List.mem_range.mpr hlt, fun z hz => by simp [hmin z hz]⟩
  show execDispatcherRestore s = _
  unfold execDispatcherRestore
  rw [hfirst]
  exact congrArg Host.Outcome.next (beginRestore_waits hx hsaved)

/-! ## Pre-emption by the dispatcher -/

/-- The better victim of two: the greater PRIO value, and of equals the later. -/
def State.betterVictim (s : State) (best : Option Nat) (x : Nat) : Option Nat :=
  match best with
  | none => some x
  | some y => if s.ctxPrio y ≤ s.ctxPrio x then some x else some y

/-- Of candidates in rising order, the last of the greatest PRIO value. -/
theorem foldl_betterVictim {s : State} {x : Nat} (l : List Nat) (hsort : l.Pairwise (· < ·)) (hmem : x ∈ l)
    (hmax : ∀ z ∈ l, s.ctxPrio z < s.ctxPrio x ∨ (s.ctxPrio z = s.ctxPrio x ∧ z ≤ x)) (best : Option Nat)
    (hbest : ∀ y, best = some y → s.ctxPrio y ≤ s.ctxPrio x) : l.foldl s.betterVictim best = some x := by
  have hkeep : ∀ l : List Nat, (∀ z ∈ l, s.ctxPrio z < s.ctxPrio x) → l.foldl s.betterVictim (some x) = some x := by
    intro l hl
    induction l with
    | nil => rfl
    | cons z l ih =>
      have hz := hl z List.mem_cons_self
      rw [List.foldl_cons, show s.betterVictim (some x) z = some x from if_neg (by omega)]
      exact ih fun y hy => hl y (List.mem_cons_of_mem _ hy)
  induction l generalizing best with
  | nil => exact nomatch hmem
  | cons z l ih =>
    obtain ⟨hz, hl⟩ := List.pairwise_cons.mp hsort
    rw [List.foldl_cons]
    by_cases hzx : z = x
    · subst hzx
      have hfirst : s.betterVictim best z = some z := by
        cases best with
        | none => rfl
        | some y => exact if_pos (hbest y rfl)
      rw [hfirst]
      refine hkeep l fun y hy => ?_
      have h1 := hz y hy
      have h2 := hmax y (List.mem_cons_of_mem _ hy)
      omega
    · refine ih hl ((List.mem_cons.mp hmem).resolve_left (Ne.symm hzx)) (fun y hy => hmax y (List.mem_cons_of_mem _ hy)) _ ?_
      intro y hy
      have hle : s.ctxPrio z ≤ s.ctxPrio x := by have := hmax z List.mem_cons_self; omega
      cases best with
      | none => cases hy; exact hle
      | some w =>
        have hw := hbest w rfl
        unfold State.betterVictim at hy
        simp only at hy
        split at hy <;> cases hy
        · exact hle
        · exact hw

theorem victim_eq {s : State} {x prio : Nat} (hlt : x < 16) (hrun : s.isRunning x = true) (hprio : prio < s.ctxPrio x)
    (hmax : ∀ z, z < 16 → s.isRunning z = true → s.ctxPrio z < s.ctxPrio x ∨ (s.ctxPrio z = s.ctxPrio x ∧ z ≤ x)) :
    s.victim prio = some x := by
  unfold State.victim
  refine foldl_betterVictim _ (List.pairwise_lt_range.filter _) ?_ (fun z hz => ?_) none nofun
  · simp [List.mem_filter, hlt, hrun, hprio]
  · obtain ⟨hz, hc⟩ := List.mem_filter.mp hz
    exact hmax z (List.mem_range.mp hz) (by simp_all)

theorem stopping_of_isRunning {s : State} {x : Nat} {y : Ctx} (hy : s.ctx x = some y) (h : s.isRunning x = true) :
    y.stopping = none := by
  simp only [State.isRunning, State.ctxRuns, hy, Bool.and_eq_true] at h
  simpa using h.1.1

theorem exec_preemptTimeout_stops {s : State} {p : PoolNode} {l : List PoolNode} {x : Nat} {y : Ctx} (hp : s.pool = p :: l)
    (hstarved : s.starved p = true) (hlt : x < 16) (hrun : s.isRunning x = true) (hy : s.ctx x = some y)
    (hprio : s.ctxPrio p.ctx < s.ctxPrio x)
    (hmax : ∀ z, z < 16 → s.isRunning z = true → s.ctxPrio z < s.ctxPrio x ∨ (s.ctxPrio z = s.ctxPrio x ∧ z ≤ x)) :
    ∃ t, exec .preemptTimeout s = .next t ∧ t = { s with cores := t.cores, ctxs := t.ctxs }
      ∧ (∀ z, t.ctx z = if z = x then some { y with stopping := some 1, byDispatcher := true, restoring := false }
          else s.ctx z)
      ∧ ∀ c, t.core c = if (s.core c).run = .running ∧ (s.core c).ctx = x then { s.core c with preReq := true }
          else s.core c := by
  obtain ⟨hrest, hctx, hcore⟩ := requestStop_setStopping hy 1 true
  rw [stopping_of_isRunning hy hrun] at hctx
  refine ⟨_, ?_, hrest, hctx, hcore⟩
  have hfirst : (s.pool.findSome? fun p => if s.starved p then s.victim (s.ctxPrio p.ctx) else none) = some x := by
    rw [hp, List.findSome?_cons, if_pos hstarved, victim_eq hlt hrun hprio hmax]
  show execPreemptTimeout s = _
  unfold execPreemptTimeout
  rw [hfirst]

/-! ## Placement -/

theorem cheapest_mem {cost : Nat → Nat} {c : Nat} (l : List Nat) (h : cheapest cost l = some c) : c ∈ l := by
  induction l generalizing c with
  | nil => exact nomatch h
  | cons d l ih =>
    unfold cheapest at h
    cases hd : cheapest cost l with
    | none =>
      rw [hd] at h
      cases h
      exact List.mem_cons_self
    | some e =>
      rw [hd] at h
      simp only at h
      split at h <;> cases h
      · exact List.mem_cons_of_mem _ (ih hd)
      · exact List.mem_cons_self

theorem seatOpen_of_chooseSeat {s t : State} {p : PoolNode} {but : List Nat} {c : Nat}
    (h : s.chooseSeat p but = some (c, t)) : s.seatOpen p.ctx c = true := by
  obtain ⟨d, hd, hc⟩ := Option.map_eq_some_iff.mp h
  cases hc
  have hmem := List.mem_of_mem_take (cheapest_mem _ hd)
  have hopen := (List.mem_filter.mp hmem).2
  simp only [Bool.and_eq_true] at hopen
  exact hopen.1.1

theorem chooseSeats_single {s u : State} {l : List PoolNode} {p : PoolNode} {c : Nat}
    (h : s.chooseSeats [] l = some ([(p, c)], u)) : l = [p] ∧ s.seatOpen p.ctx c = true := by
  cases l with
  | nil => exact nomatch h
  | cons q l =>
    unfold State.chooseSeats at h
    cases hq : s.chooseSeat q [] with
    | none => rw [hq] at h; exact nomatch h
    | some r =>
      obtain ⟨d, t⟩ := r
      rw [hq] at h
      obtain ⟨⟨l', u'⟩, hl, heq⟩ := Option.map_eq_some_iff.mp h
      obtain ⟨⟨rfl, rfl⟩, rfl⟩ : (q = p ∧ d = c) ∧ l' = [] := by simpa using congrArg Prod.fst heq
      refine ⟨?_, seatOpen_of_chooseSeat hq⟩
      cases l with
      | nil => rfl
      | cons x l =>
        unfold State.chooseSeats at hl
        cases hx : t.chooseSeat x _ with
        | none => rw [hx] at hl; exact nomatch hl
        | some r =>
          rw [hx] at hl
          obtain ⟨y, -, hy⟩ := Option.map_eq_some_iff.mp hl
          exact nomatch congrArg Prod.fst hy

/-- A node that is dispatched alone comes from the pool, in its own context. -/
theorem together_single {s : State} {p q : PoolNode} (hq : q ∈ s.pool) (h : s.together q = some [p]) :
    p ∈ s.pool ∧ p.ctx = q.ctx := by
  unfold State.together at h
  cases hg : s.gangOf q with
  | none =>
    rw [hg] at h
    cases h
    exact ⟨hq, rfl⟩
  | some g =>
    rw [hg] at h
    simp only at h
    split at h
    · have hmem : p ∈ s.pool.filter fun r => r.ctx == q.ctx && s.gangOf r == some g := by
        have hp : p ∈ List.take ((s.group g).count.toNat + 1) _ := (Option.some.inj h).symm ▸ List.mem_singleton_self p
        exact List.mem_of_mem_take hp
      obtain ⟨hp, hctx⟩ := List.mem_filter.mp hmem
      simp only [Bool.and_eq_true, beq_iff_eq] at hctx
      exact ⟨hp, hctx.1⟩
    · exact nomatch h

theorem placeNext_single {s u : State} {p : PoolNode} {c : Nat} (h : s.placeNext = some ([(p, c)], u)) :
    p ∈ s.pool ∧ s.ctxRuns p.ctx = true ∧ s.seatOpen p.ctx c = true := by
  obtain ⟨q, hq, hplace⟩ := List.exists_of_findSome?_eq_some h
  split at hplace
  · exact nomatch hplace
  · rename_i hruns
    obtain ⟨l, htogether, hseats⟩ := Option.bind_eq_some_iff.mp hplace
    obtain ⟨rfl, hopen⟩ := chooseSeats_single hseats
    obtain ⟨hp, hctx⟩ := together_single hq htogether
    exact ⟨hp, by simpa [hctx] using hruns, hopen⟩

theorem exec_dispatch_single {s u : State} {p : PoolNode} {c : Nat} (hquiet : s.restsPreempted)
    (h : s.placeNext = some ([(p, c)], u)) : exec .dispatch s = .next (State.dispatchNode
      { u with pool := u.pool.filter (· != p), freeNo := u.freeNo + 1 } p c) := by
  have hpool : (u.pool.filter fun q => !([(p, c)].any fun r => r.1 == q)) = u.pool.filter (· != p) := by
    refine List.filter_congr fun q _ => ?_
    simp [bne, Bool.beq_comm (a := p)]
  rw [exec_dispatch_eq, State.restoreDue_quiet _ hquiet, State.placeNow, h]
  show Host.Outcome.next (State.dispatchNode (State.freshen { u with pool := _ }) p c) = _
  rw [hpool]
  rfl

/-! ## Registers at dispatch -/

/-- s1 to s8 at dispatch hold SRC of the six operands, the node and its launch (07 R172). -/
theorem get_dispatchRegs (r : NodeRec) (n l : W64) (i : SR) :
    (if i.toNat = 0 then 0 else Tab.get 0 (dispatchRegs r n l) i.toNat) =
      if i = 0 then 0 else if i.toNat ≤ 6 then r.word (0x40 + 16 * (i.toNat - 1)) else if i = 7 then n
      else if i = 8 then l else 0 := by
  have hregs : dispatchRegs r n l = ([r.word 0x40, r.word 0x50, r.word 0x60, r.word 0x70, r.word 0x80, r.word 0x90, n, l].zipIdx).foldl
      (fun t q => Tab.put 0 t (q.2 + 1) q.1) [] := rfl
  have hnum : ∀ k : SR, i = k ↔ i.toNat = k.toNat := fun k => BitVec.toNat_inj.symm
  simp only [hregs, List.zipIdx_cons, List.zipIdx_nil, List.foldl_cons, List.foldl_nil, Tab.get_put, hnum]
  generalize i.toNat = m
  by_cases hm : m ≤ 8
  · interval_cases m <;> rfl
  · rw [if_neg (by omega)]
    have hne : ∀ k, k ≤ 8 → m ≠ k := fun k hk => by omega
    simp [hne, show ¬m ≤ 6 by omega]

/-! ## The steps of a dispatch (07 R172) -/

section
variable {s : State} {c : Nat}

/-- The copying of images changes no core and no pool. -/
theorem copyOperands_frame (s : State) (c : Nat) (l : List (W64 × Nat × Nat)) :
    (s.copyOperands c l).1.cores = s.cores ∧ (s.copyOperands c l).1.pool = s.pool := by
  induction l generalizing s with
  | nil => exact ⟨rfl, rfl⟩
  | cons q l ih =>
    unfold State.copyOperands
    split
    · exact ih s
    · split
      · exact ⟨rfl, rfl⟩
      · exact ih _

theorem copyImages_frame (s : State) (c : Nat) (p : PoolNode) (r : NodeRec) (h : KernelHeader) :
    (s.copyImages c p r h).1.cores = s.cores ∧ (s.copyImages c p r h).1.pool = s.pool := by
  unfold State.copyImages
  split
  · exact ⟨rfl, rfl⟩
  · exact copyOperands_frame _ _ _

/-- Operand images of no bytes change nothing. -/
theorem copyOperands_empty {l : List (W64 × Nat × Nat)} (h : ∀ q ∈ l, q.2.2 = 0) : s.copyOperands c l = (s, true) := by
  induction l with
  | nil => rfl
  | cons q l ih =>
    unfold State.copyOperands
    rw [if_pos (h q List.mem_cons_self)]
    exact ih fun q hq => h q (List.mem_cons_of_mem _ hq)

theorem copyImages_image {p : PoolNode} {r : NodeRec} {h : KernelHeader} {bs : List Byte} (hops : ∀ q ∈ r.operands, q.2.2 = 0)
    (hbs : s.rootRead p.ctx (r.word 0 + .ofNat 64 h.imgOff) h.imgLen = .ok bs) :
    s.copyImages c p r h = (s.writeBytes (spBase c) bs, true) := by
  unfold State.copyImages
  rw [hbs]
  exact copyOperands_empty hops

theorem disarmAll_pool (s : State) (c : Nat) : (s.disarmAll c).pool = s.pool := by
  have h : ∀ (l : List Nat) (t : State), (l.foldl (fun t a => t.disarm (16 * a)) t).pool = t.pool := by
    intro l
    induction l with
    | nil => exact fun _ => rfl
    | cons a l ih => exact fun t => (ih _).trans rfl
  exact h _ s

/-- The partner of a core is another core, and of the device nothing else changes. -/
theorem takePartner_leaves (s : State) (ctx c : Nat) : let t := s.takePartner ctx c
    t = { s with cores := t.cores } ∧ t.core c = s.core c := by
  intro t
  have hother : c ≠ partnerOf c := by unfold partnerOf; omega
  by_cases h : (s.lockstep ctx && decide (c < 256)) = true
  · have ht : t = s.modCore (partnerOf c) fun k => { k with run := .partner } := if_pos h
    rw [ht]
    exact ⟨rfl, State.core_modCore_other s _ hother⟩
  · have ht : t = s := if_neg h
    rw [ht]
    exact ⟨rfl, rfl⟩

theorem view_freshViews (s : State) (c : Nat) : ∀ y ∈ (s.freshViews c).kept, ∀ q, y.view ≠ .engine c q := by
  intro y hy q hv
  have := (List.mem_filter.mp hy).2
  rw [hv] at this
  simp at this

end

/-- STATE = RUNNING and the core of a node that is dispatched, in its word 0x28 (07 R168, R172). -/
def runningWord (w : W64) (c : Nat) : W64 := setFld (setFld w 32 2 2) 34 8 (coreId c).toNat

section
variable {v v1 w : State} {p : PoolNode} {c : Nat} {r : NodeRec} {h : KernelHeader} {dict code : List Nat}

theorem dispatchNode_fails {e : Nat} (hd : v.dispatchTo p c = (w, some e)) : v.dispatchNode p c =
    (w.failLaunch p.ctx (.ofNat 64 p.launch) e (.ofNat 64 p.node)).leaveLive p.ctx (.ofNat 64 p.node) (.ofNat 64 p.launch) := by
  unfold State.dispatchNode
  rw [hd]

theorem dispatchNode_runs (hd : v.dispatchTo p c = (w, none)) : v.dispatchNode p c = w := by
  unfold State.dispatchNode
  rw [hd]

theorem dispatchTo_unreadable {e : Trp} (hr : v.readNode p.ctx (.ofNat 64 p.node) = .error e) :
    v.dispatchTo p c = (v, some 0x16) := by
  unfold State.dispatchTo
  simp only [hr]

theorem dispatchTo_malformed (hr : v.readNode p.ctx (.ofNat 64 p.node) = .ok r) (hok : r.ok = false) :
    v.dispatchTo p c = (v, some 0x11) := by
  unfold State.dispatchTo
  simp only [hr]
  exact if_pos (by simp [hok])

/-- The core of a dispatch and its scratchpad before the images are copied. -/
def State.clearedFor (v1 : State) (p : PoolNode) (c : Nat) : State :=
  (v1.disarmAll c).setCore c ((v1.core c).dispatched p ((v1.ctx p.ctx).elim 0 (·.ccb)))

variable (hr : v.readNode p.ctx (.ofNat 64 p.node) = .ok r) (hok : r.ok = true)
  (hput : v.rootPut p.ctx (.ofNat 64 p.node + 0x28) (runningWord (r.word 0x28) c) = .ok v1)
  (hk : v1.fetchKernel p.ctx (r.word 0) = .ok (h, dict, code))
include hr hok hput hk

theorem dispatchTo_reads : v.dispatchTo p c = match (v1.clearedFor p c).copyImages c p r h with
    | (t, false) => (t.setCore c (v1.core c).copyReset, some 0x16)
    | (t, true) => ((t.startCore c r h dict code).takePartner p.ctx c, none) := by
  unfold State.dispatchTo
  simp only [hr]
  refine (if_neg (by simp [hok])).trans ?_
  unfold runningWord at hput
  rw [hput]
  simp only [hk]
  rfl

theorem dispatchTo_uncopied (hc : (v1.clearedFor p c).copyImages c p r h = (w, false)) :
    v.dispatchTo p c = (w.setCore c (v1.core c).copyReset, some 0x16) := by
  rw [dispatchTo_reads hr hok hput hk, hc]

theorem dispatchTo_starts (hc : (v1.clearedFor p c).copyImages c p r h = (w, true)) :
    v.dispatchTo p c = ((w.startCore c r h dict code).takePartner p.ctx c, none) := by
  rw [dispatchTo_reads hr hok hput hk, hc]

end

/-- The core that has taken a node, with its trap entry and the number of its run (07 R172 step 4). -/
def Core.started (k : Core) (r : NodeRec) (h : KernelHeader) (dict code : List Nat) (entry : BitVec 32) (run : Nat) : Core :=
  { k with
    run := .running, s := dispatchRegs r k.node k.launch, pc := h.entry, code := code, dict := dict
    gvalid := .ofNat 4 ((r.word 0x18).toNat / 2 ^ 20 % 16), gid := .ofNat 32 ((r.word 0x18).toNat / 2 ^ 32)
    midx := (r.word 0x28).setWidth 32, trapEntry := entry, runId := run }

theorem core_startCore (w : State) (c : Nat) (r : NodeRec) (h : KernelHeader) (dict code : List Nat) :
    (w.startCore c r h dict code).core c =
      (w.core c).started r h dict code ((w.ccbWord (w.core c).ccb 8).setWidth 32) w.nextRun := by
  have hgid : BitVec.ofNat 32 (fld (r.word 0x18) 32 32) = .ofNat 32 ((r.word 0x18).toNat / 2 ^ 32) := by
    apply BitVec.eq_of_toNat_eq
    simp [fld, bitsAt]
  have hlow : ∀ x : W64, BitVec.ofNat 32 (fld x 0 32) = x.setWidth 32 := by
    intro x
    apply BitVec.eq_of_toNat_eq
    simp [fld, bitsAt]
  have hcores : (w.startCore c r h dict code).cores = ((w.freshViews c).setCore c
      ((w.core c).started r h dict code ((w.ccbWord (w.core c).ccb 8).setWidth 32) w.nextRun)).cores := by
    simp only [State.startCore, State.modCore, hgid, hlow]
    rfl
  exact (congrArg (fun k => Tab.get Core.reset k c) hcores).trans (State.core_setCore_same _ c _)

/-- What a node that is dispatched with its images finds: its core, its scratchpad and the views of its engines. -/
theorem startCore_leaves {x w : State} {p : PoolNode} {c : Nat} {r : NodeRec} {h : KernelHeader} (dict code : List Nat)
    (hc : x.copyImages c p r h = (w, true)) : let t := (w.startCore c r h dict code).takePartner p.ctx c
    t.pool = x.pool ∧ (∀ y ∈ t.kept, ∀ q, y.view ≠ .engine c q)
      ∧ (∀ bs, (∀ q ∈ r.operands, q.2.2 = 0) → x.rootRead p.ctx (r.word 0 + .ofNat 64 h.imgOff) h.imgLen = .ok bs →
          HoldsBytes t (spBase c) bs)
      ∧ t.core c = (x.core c).started r h dict code ((w.ccbWord (x.core c).ccb 8).setWidth 32) w.nextRun := by
  intro t
  obtain ⟨hcores, hpool⟩ := copyImages_frame x c p r h
  rw [hc] at hcores hpool
  have hcore : w.core c = x.core c := congrArg (fun k => Tab.get Core.reset k c) hcores
  obtain ⟨hrest, htcore⟩ := takePartner_leaves (w.startCore c r h dict code) p.ctx c
  refine ⟨?_, fun y hy => ?_, fun bs hops hbs => ?_, ?_⟩
  · exact (congrArg State.pool hrest).trans hpool
  · exact view_freshViews w c y ((congrArg State.kept hrest) ▸ hy)
  · have hw := copyImages_image (c := c) hops hbs
    rw [hc] at hw
    obtain ⟨rfl, -⟩ := Prod.mk.inj hw
    exact holdsBytes_congr (congrArg State.mem hrest) (holdsBytes_writeBytes x _ bs)
  · rw [htcore, core_startCore, hcore]

end Sys2Proof.Machine
end

section
/-! SUPPORT. The save and the restore of a context (08 R190 to R193): the report to the host, the bytes of a save slot, and what the
engine of saves leaves alone. -/

namespace Sys2Proof.Machine

open Sys2Proof

/-! ## Reports and answers (21 R431 to R433) -/

/-- A request of an operation that waits for a context. -/
def waitsFor (ctx opc : Nat) (q : Nat × HostReq) : Bool := decide (q.1 = ctx ∧ q.2.w0.toNat % 2 ^ 8 = opc)

/-- The event of a stop or a restore that the dispatcher made. -/
def reportOf (x : Ctx) (ctx code : Nat) (word : W64) : List HostMsg :=
  match x.byDispatcher, x.conn with
  | true, some conn => [{ conn := conn, w0 := .ofNat 64 (0x80 + 2 ^ 8 * code + 2 ^ 16 * ctx), value := word, len := 0, payload := [] }]
  | _, _ => []

/-- The answer 0 to a request that has waited. -/
def settledAnswer (opc : Nat) (q : Nat × HostReq) : HostMsg :=
  { conn := q.2.conn, w0 := .ofNat 64 (opc + 2 ^ 32 * (q.2.w0.toNat / 2 ^ 32)), value := 0, len := 0, payload := [] }

/-- The requests of the operation are answered, and the others wait on. -/
theorem answerOwed_leaves (s : State) {ctx opc : Nat} {what : Settled}
    (h : ∀ n, owedResult n what = if n = opc then some 0 else none) : let t := s.answerOwed ctx what
    t = { s with owedAnswers := t.owedAnswers, hostOut := t.hostOut }
      ∧ t.owedAnswers = s.owedAnswers.filter (fun q => !waitsFor ctx opc q)
      ∧ t.hostOut = s.hostOut ++ (s.owedAnswers.filter (waitsFor ctx opc)).map (settledAnswer opc) := by
  have hfld : ∀ q : Nat × HostReq, fld q.2.w0 0 8 = q.2.w0.toNat % 2 ^ 8 := fun q => by simp [fld, bitsAt]
  have hresult : ∀ q : Nat × HostReq, (if q.1 = ctx then owedResult (fld q.2.w0 0 8) what else none) =
      if waitsFor ctx opc q = true then some 0 else none := by
    intro q
    rw [h, hfld, waitsFor]
    by_cases h1 : q.1 = ctx <;> simp [h1]
  refine ⟨rfl, ?_, ?_⟩
  · refine List.filter_congr fun q _ => ?_
    refine (congrArg Option.isNone (hresult q)).trans ?_
    cases waitsFor ctx opc q <;> rfl
  · have hanswer : ∀ q : Nat × HostReq, ((if q.1 = ctx then owedResult (fld q.2.w0 0 8) what else none).map fun e =>
        response q.2 e 0 []) = if waitsFor ctx opc q = true then some (settledAnswer opc q) else none := by
      intro q
      rw [hresult]
      by_cases hq : waitsFor ctx opc q = true
      · have hopc : q.2.w0.toNat % 2 ^ 8 = opc := (of_decide_eq_true hq).2
        rw [if_pos hq, if_pos hq, Option.map_some, response_eq, hopc]
        rfl
      · rw [if_neg hq, if_neg hq]
        rfl
    refine congrArg (s.hostOut ++ ·) ((List.filterMap_congr fun q _ => hanswer q).trans ?_)
    induction s.owedAnswers with
    | nil => rfl
    | cons q l ih => by_cases hq : waitsFor ctx opc q = true <;> simp [hq, ih]

/-- The report and the answers when a context has been saved or restored. -/
theorem reportThenAnswer_leaves (s : State) {ctx opc code : Nat} {x y : Ctx} {what : Settled}
    (h : ∀ n, owedResult n what = if n = opc then some 0 else none) (hy : s.ctx ctx = some y) (hconn : y.conn = x.conn)
    (hccb : y.ccb = x.ccb) : let t := (if x.byDispatcher = true then s.hostEvent ctx code else s).answerOwed ctx what
    t = { s with owedAnswers := t.owedAnswers, hostOut := t.hostOut }
      ∧ t.owedAnswers = s.owedAnswers.filter (fun q => !waitsFor ctx opc q)
      ∧ t.hostOut = s.hostOut ++ reportOf x ctx code (s.ccbWord x.ccb 0x18)
          ++ (s.owedAnswers.filter (waitsFor ctx opc)).map (settledAnswer opc) := by
  have hevent : (if x.byDispatcher = true then s.hostEvent ctx code else s) =
      { s with hostOut := s.hostOut ++ reportOf x ctx code (s.ccbWord x.ccb 0x18) } := by
    unfold reportOf
    cases hd : x.byDispatcher with
    | false => exact (if_neg (by simp)).trans (by simp)
    | true =>
      rw [if_pos rfl]
      cases hc : x.conn with
      | none => rw [hostEvent_none code hy (hconn.trans hc)]; simp
      | some n => rw [hostEvent_some code hy (hconn.trans hc), hccb]
  rw [hevent]
  exact answerOwed_leaves _ h

theorem owedResult_saved (n : Nat) : owedResult n .saved = if n = 8 then some 0 else none := rfl
theorem owedResult_restored (n : Nat) : owedResult n .restored = if n = 9 then some 0 else none := rfl

/-! ## Cells of a range -/

/-- A range replaced by cells reads as they do, and the rest of memory as before. -/
theorem Memory.get_splice {m cells : Memory} {a len : Nat} (hc : ∀ c ∈ cells, a ≤ c.1 ∧ c.1 < a + len) (x : Nat) :
    Memory.get (Memory.splice m a len cells) x = if a ≤ x ∧ x < a + len then Memory.get cells x else Memory.get m x := by
  unfold Memory.get Memory.splice
  have flow := Tab.get_filter unlistedByte (fun i => decide (i < a)) m x
  have fhigh := Tab.get_filter unlistedByte (fun i => decide (a + len ≤ i)) m x
  have hhigh : ∀ c ∈ m.filter (fun c => decide (a + len ≤ c.1)), a + len ≤ c.1 := fun c h => by
    simpa using (List.mem_filter.mp h).2
  by_cases h1 : x < a
  · rw [if_neg (show ¬(a ≤ x ∧ x < a + len) by omega), get_append_low _ _ x a h1, flow]
    · simp [h1]
    · intro c hmem
      rcases List.mem_append.mp hmem with hmem | hmem
      · exact (hc c hmem).1
      · have := hhigh c hmem; omega
  · rw [get_append_high _ _ x]
    · by_cases h2 : x < a + len
      · rw [get_append_low _ _ x (a + len) h2 hhigh, if_pos ⟨by omega, h2⟩]
      · rw [get_append_high _ _ x fun c hmem => by have := hc c hmem; omega, fhigh,
          if_neg (show ¬(a ≤ x ∧ x < a + len) by omega)]
        simp [show a + len ≤ x by omega]
    · intro c hmem
      have := (List.mem_filter.mp hmem).2
      simp at this; omega

theorem byte_putCells (s : State) {a len : Nat} {cells : Memory} (hc : CellsIn a len cells) (x : Nat) :
    (s.putCells a len cells).byte x = if a ≤ x ∧ x < a + len then Memory.get cells x else s.byte x :=
  Memory.get_splice hc.2 x

/-- A range moved to another reads there what it read. -/
theorem get_moved (m : Memory) {a b len i : Nat} (hi : i < len) :
    Memory.get ((m.filter fun c => a ≤ c.1 && c.1 < a + len).map fun c => (c.1 - a + b, c.2)) (b + i) = Memory.get m (a + i) := by
  unfold Memory.get
  induction m with
  | nil => rfl
  | cons c m ih =>
    rw [Tab.get_cons unlistedByte c m]
    by_cases hin : (decide (a ≤ c.1) && decide (c.1 < a + len)) = true
    · rw [List.filter_cons, if_pos hin, List.map_cons, Tab.get_cons, ih]
      simp only [Bool.and_eq_true, decide_eq_true_eq] at hin
      by_cases hk : c.1 = a + i
      · rw [if_pos (by dsimp only; omega), if_pos hk]
      · rw [if_neg (by dsimp only; omega), if_neg hk]
    · rw [List.filter_cons, if_neg hin, ih, if_neg]
      simp only [Bool.and_eq_true, decide_eq_true_eq] at hin
      omega

theorem byte_copyCells (s : State) {a b len : Nat} (hm : s.memOk) :
    (∀ i, i < len → (s.copyCells a b len).byte (b + i) = s.byte (a + i))
      ∧ ∀ x, (x < b ∨ b + len ≤ x) → (s.copyCells a b len).byte x = s.byte x := by
  have hbyte := byte_putCells s (cellsIn_moved a b len hm)
  refine ⟨fun i hi => ?_, fun x hx => ?_⟩
  · exact (hbyte (b + i)).trans ((if_pos ⟨by omega, by omega⟩).trans (get_moved s.mem hi))
  · exact (hbyte x).trans (if_neg (by omega))

/-! ## Words of a range -/

/-- Writes of words in turn, as `wordCells` makes them. -/
def writeWords (a len n : Nat) (t : Tab Nat) (m : Memory) : Memory :=
  t.foldl (fun m q => if n * q.1 + n ≤ len then Memory.write m (a + n * q.1) (leBytes n q.2) else m) m

theorem wordCells_eq (a len n : Nat) (t : Tab Nat) : wordCells a len n t = writeWords a len n t [] := rfl

theorem writeWords_cons (a len n : Nat) (q : Nat × Nat) (t : Tab Nat) (m : Memory) : writeWords a len n (q :: t) m =
    writeWords a len n t (if n * q.1 + n ≤ len then Memory.write m (a + n * q.1) (leBytes n q.2) else m) := rfl

theorem word_inj {n i k j : Nat} (hj : j < n) (hl : n * k ≤ n * i + j) (hu : n * i + j < n * k + n) : k = i := by
  have h1 : k ≤ i := by
    by_contra hlt
    have := Nat.mul_le_mul_left n (show i + 1 ≤ k by omega)
    rw [Nat.mul_add] at this
    omega
  have h2 : i ≤ k := by
    by_contra hlt
    have := Nat.mul_le_mul_left n (show k + 1 ≤ i by omega)
    rw [Nat.mul_add] at this
    omega
  omega

/-- A word that a table does not hold stands as before. -/
theorem get_writeWords_absent {a len n i j : Nat} (hj : j < n) (t : Tab Nat) (hk : ∀ q ∈ t, q.1 ≠ i) (m : Memory) :
    Memory.get (writeWords a len n t m) (a + n * i + j) = Memory.get m (a + n * i + j) := by
  induction t generalizing m with
  | nil => rfl
  | cons q t ih =>
    obtain ⟨hq, ht⟩ := List.forall_mem_cons.mp hk
    rw [writeWords_cons, ih ht]
    split
    · rw [Memory.get_write, leBytes_length, if_neg]
      exact fun h => hq (word_inj hj (by omega) (by omega))
    · rfl

/-- A word of a table with distinct numbers stands where its number says. -/
theorem get_writeWords {a len n i j : Nat} (hj : j < n) (hi : n * i + n ≤ len) (t : Tab Nat)
    (hk : t.Pairwise fun p q => p.1 ≠ q.1) (m : Memory) (hm : Memory.get m (a + n * i + j) = 0) :
    Memory.get (writeWords a len n t m) (a + n * i + j) = (leBytes n (Tab.get 0 t i)).getD j 0 := by
  induction t generalizing m with
  | nil =>
    have hz : ∀ n j, (leBytes n 0).getD j (0 : Byte) = 0 := by
      intro n
      induction n with
      | zero => exact fun _ => rfl
      | succ n ih => exact fun j => by cases j with
        | zero => rfl
        | succ j => exact ih j
    exact hm.trans (hz n j).symm
  | cons q t ih =>
    obtain ⟨hq, ht⟩ := List.pairwise_cons.mp hk
    rw [writeWords_cons, Tab.get_cons]
    by_cases hqi : q.1 = i
    · subst hqi
      rw [if_pos hi, if_pos rfl, get_writeWords_absent hj t (fun p hp => (hq p hp).symm), Memory.get_write, leBytes_length,
        if_pos (by omega), show a + n * q.1 + j - (a + n * q.1) = j by omega]
      rfl
    · rw [if_neg hqi]
      refine ih ht _ ?_
      split
      · rw [Memory.get_write, leBytes_length, if_neg]
        · exact hm
        · exact fun h => hqi (word_inj hj (by omega) (by omega))
      · exact hm

/-- The table of a list by position: its numbers are distinct, and each reads as the list does. -/
theorem posTab_pairwise (l : List Nat) : (posTab l).Pairwise fun p q => p.1 ≠ q.1 := by
  refine List.Pairwise.filter _ (List.pairwise_map.mpr ?_)
  exact List.pairwise_map.mp (List.nodup_zipIdx_map_snd l)

theorem get_posTab (l : List Nat) (i : Nat) : Tab.get 0 (posTab l) i = l.getD i 0 := by
  have key : ∀ (l : List Nat) (k i : Nat), Tab.get 0 (((l.zipIdx k).map fun q => (q.2, q.1)).filter fun q => q.2 != 0) i =
      if k ≤ i then l.getD (i - k) 0 else 0 := by
    intro l
    induction l with
    | nil => exact fun k i => by simp
    | cons x l ih =>
      intro k i
      have hhead : Tab.get 0 ((((x :: l).zipIdx k).map fun q => (q.2, q.1)).filter fun q => q.2 != 0) i =
          if k = i then x else if k + 1 ≤ i then l.getD (i - (k + 1)) 0 else 0 := by
        rw [List.zipIdx_cons, List.map_cons, List.filter_cons]
        split
        · rw [Tab.get_cons, ih]
        · have hx : x = 0 := by simp_all
          rw [ih, hx]
          by_cases hki : k = i
          · rw [if_neg (by omega), if_pos hki]
          · rw [if_neg hki]
      rw [hhead]
      by_cases hki : k = i
      · subst hki
        simp
      · by_cases hlt : k + 1 ≤ i
        · rw [if_neg hki, if_pos hlt, if_pos (by omega), show i - k = i - (k + 1) + 1 by omega]
          rfl
        · rw [if_neg hki, if_neg hlt, if_neg (by omega)]
  exact (key l 0 i).trans (if_pos (Nat.zero_le i))

/-! ## The parts of a save slot (08 R191) -/

/-- A part of a slot: its offset, its length, the bytes of a word, and its words. -/
structure SlotPart where
  off : Nat
  len : Nat
  width : Nat
  words : Tab Nat

def State.putPart (a : Nat) (t : State) (p : SlotPart) : State :=
  t.putCells (a + p.off) p.len (wordCells (a + p.off) p.len p.width p.words)

/-- The parts of a slot below the registers, the registers, the parts above them, and the continuation records. -/
def Core.lowParts (k : Core) : List SlotPart :=
  let rows := fun (f : AccRow → Nat) => (k.acc.map fun r => (r.1, f r.2)).filter fun r => r.2 != 0
  [⟨0x200000, 0x80000, 16, k.accData⟩, ⟨0x280000, 0x2000, 32, rows AccRow.tags⟩, ⟨0x282000, 0x800, 8, rows AccRow.header⟩,
    ⟨0x282800, 0x4000, 512, k.v.map fun q => (q.1, lanesNat q.2)⟩, ⟨0x286800, 0x2000, 8, natTab k.spill⟩,
    ⟨0x288800, 0x2000, 8, natTab k.segment.shadow.spill⟩, ⟨0x28A800, 0x3C8, 8, posTab k.segment.shadow.words⟩,
    ⟨0x28B800, 0x400, 8, posTab k.bufferWords⟩]

def Core.regPart (k : Core) : SlotPart := ⟨savedRegs, 0x750, 8, posTab k.regWords⟩

def Core.highParts (k : Core) : List SlotPart :=
  [⟨0x28C400, 0x200, 64, natTab k.bn⟩, ⟨0x28C600, 0x20, 8, posTab k.stallWords⟩]

def State.recordPart (t : State) (k : Core) : SlotPart := ⟨0x290000, 0x70000, 8, posTab (t.recordWords k)⟩

/-- The slot before its continuation records. -/
def State.slotParts (s : State) (a : Nat) (k : Core) : State :=
  k.highParts.foldl (State.putPart a) ((k.lowParts.foldl (State.putPart a) s).putPart a k.regPart)

theorem writeSlot_eq (s : State) (a : Nat) (k : Core) :
    s.writeSlot a k = ((s.slotParts a k).putPart a ((s.slotParts a k).recordPart k)).freshen := by
  simp only [State.writeSlot, State.slotParts, Core.lowParts, Core.highParts, Core.regPart, State.recordPart, State.putPart,
    List.foldl_cons, List.foldl_nil]

theorem byte_putPart (a : Nat) (s : State) (p : SlotPart) (x : Nat) : (s.putPart a p).byte x =
    if a + p.off ≤ x ∧ x < a + p.off + p.len then
      Memory.get (wordCells (a + p.off) p.len p.width p.words) x else s.byte x :=
  byte_putCells s (cellsIn_wordCells _ _ _ _) x

theorem byte_putPart_other {a x : Nat} {s : State} {p : SlotPart} (h : x < a + p.off ∨ a + p.off + p.len ≤ x) :
    (s.putPart a p).byte x = s.byte x := (byte_putPart a s p x).trans (if_neg (by omega))

/-- Parts leave the bytes that lie in none of them. -/
theorem byte_foldl_putPart {a x : Nat} (l : List SlotPart) (h : ∀ p ∈ l, x < a + p.off ∨ a + p.off + p.len ≤ x) (s : State) :
    (l.foldl (State.putPart a) s).byte x = s.byte x := by
  induction l generalizing s with
  | nil => rfl
  | cons p l ih =>
    obtain ⟨hp, hl⟩ := List.forall_mem_cons.mp h
    rw [List.foldl_cons, ih hl, byte_putPart_other hp]

theorem bytesAt_congr {s t : State} {a n : Nat} (h : ∀ i, i < n → t.byte (a + i) = s.byte (a + i)) :
    t.bytesAt a n = s.bytesAt a n := List.map_congr_left fun i hi => h i (List.mem_range.mp hi)

/-- Parts change memory, its errors and what the views keep. -/
theorem foldl_putPart_frame (a : Nat) (l : List SlotPart) (s : State) : let t := l.foldl (State.putPart a) s
    t = { s with mem := t.mem, errs := t.errs, kept := t.kept } := by
  induction l generalizing s with
  | nil => rfl
  | cons p l ih =>
    intro t
    have h : t = { s.putPart a p with mem := t.mem, errs := t.errs, kept := t.kept } := ih (s.putPart a p)
    exact h.trans rfl

section
variable {s : State} {a : Nat} {k : Core}

theorem writeSlot_frame (s : State) (a : Nat) (k : Core) : let t := s.writeSlot a k
    t = { s with mem := t.mem, errs := t.errs, kept := t.kept, freeNo := t.freeNo } := by
  intro t
  have hlow := foldl_putPart_frame a k.lowParts s
  have hhigh := foldl_putPart_frame a k.highParts ((k.lowParts.foldl (State.putPart a) s).putPart a k.regPart)
  have ht : t = ((s.slotParts a k).putPart a ((s.slotParts a k).recordPart k)).freshen := writeSlot_eq s a k
  change let u := s.slotParts a k; u = _ at hhigh
  generalize k.lowParts.foldl (State.putPart a) s = u at hlow hhigh
  generalize s.slotParts a k = v at hhigh ht
  clear_value t
  rw [ht, hhigh, hlow]
  rfl

theorem lowParts_between (k : Core) : ∀ p ∈ k.lowParts, 0x200000 ≤ p.off ∧ p.off + p.len ≤ 0x28BC00 := by
  have hranges : k.lowParts.map (fun p => (p.off, p.len)) = [(0x200000, 0x80000), (0x280000, 0x2000), (0x282000, 0x800),
    (0x282800, 0x4000), (0x286800, 0x2000), (0x288800, 0x2000), (0x28A800, 0x3C8), (0x28B800, 0x400)] := rfl
  intro p hp
  have hmem := List.mem_map_of_mem (f := fun p : SlotPart => (p.off, p.len)) hp
  rw [hranges] at hmem
  exact (by decide : ∀ q ∈ ([(0x200000, 0x80000), (0x280000, 0x2000), (0x282000, 0x800), (0x282800, 0x4000), (0x286800, 0x2000),
    (0x288800, 0x2000), (0x28A800, 0x3C8), (0x28B800, 0x400)] : List (Nat × Nat)), 0x200000 ≤ q.1 ∧ q.1 + q.2 ≤ 0x28BC00) _ hmem

theorem regPart_range (k : Core) : k.regPart.off = 0x28BC00 ∧ k.regPart.len = 0x750 ∧ k.regPart.width = 8
    ∧ k.regPart.words = posTab k.regWords := by
  simp only [Core.regPart, savedRegs, and_self]

theorem highParts_above (k : Core) : ∀ p ∈ k.highParts, 0x28C400 ≤ p.off := by
  have hoffs : k.highParts.map SlotPart.off = [0x28C400, 0x28C600] := rfl
  intro p hp
  have hmem := List.mem_map_of_mem (f := SlotPart.off) hp
  rw [hoffs] at hmem
  exact (by decide : ∀ q ∈ ([0x28C400, 0x28C600] : List Nat), 0x28C400 ≤ q) _ hmem

theorem recordPart_off (s : State) (k : Core) : (s.recordPart k).off = 0x290000 := rfl

theorem byte_freshen (s : State) (x : Nat) : s.freshen.byte x = s.byte x := rfl

/-- What the parts above the registers leave alone. -/
theorem byte_writeSlot_below {x : Nat} (hx : x < a + 0x28C400) : (s.writeSlot a k).byte x =
    ((k.lowParts.foldl (State.putPart a) s).putPart a k.regPart).byte x := by
  have hoff := recordPart_off (s.slotParts a k) k
  rw [writeSlot_eq, byte_freshen, byte_putPart_other (.inl (by omega)), State.slotParts]
  refine byte_foldl_putPart _ (fun p hp => .inl ?_) _
  have := highParts_above k p hp
  omega

/-- The parts of a slot leave the scratchpad that stands before them. -/
theorem byte_writeSlot_low {i : Nat} (hi : i < 0x200000) : (s.writeSlot a k).byte (a + i) = s.byte (a + i) := by
  obtain ⟨hoff, -, -, -⟩ := regPart_range k
  refine (byte_writeSlot_below (by omega)).trans ((byte_putPart_other (.inl (by omega))).trans
    (byte_foldl_putPart _ (fun p hp => .inl ?_) s))
  have := lowParts_between k p hp
  omega

/-- The registers of a slot are the words of their block. -/
theorem bytesAt_writeSlot_regs {i : Nat} (hi : i < 234) :
    (s.writeSlot a k).bytesAt (a + 0x28BC00 + 8 * i) 8 = leBytes 8 (k.regWords.getD i 0) := by
  obtain ⟨hoff, hlen, hwidth, hwords⟩ := regPart_range k
  have hbyte : ∀ j, j < 8 → (s.writeSlot a k).byte (a + 0x28BC00 + 8 * i + j) = (leBytes 8 (k.regWords.getD i 0)).getD j 0 := by
    intro j hj
    rw [byte_writeSlot_below (by omega), byte_putPart, hoff, hlen, hwidth, hwords, if_pos (by omega), ← get_posTab,
      wordCells_eq]
    exact get_writeWords hj (by omega) _ (posTab_pairwise _) [] rfl
  refine List.ext_getElem (by simp [State.bytesAt]) fun j hj _ => ?_
  have hj8 : j < 8 := by simpa [State.bytesAt] using hj
  have hlen : j < (leBytes 8 (k.regWords.getD i 0)).length := by rwa [leBytes_length]
  simp only [State.bytesAt, List.getElem_map, List.getElem_range]
  rw [hbyte j hj8, List.getD_eq_getElem _ _ hlen]

end

/-! ## The words of the registers -/

theorem length_toWords (n x : Nat) : (toWords n x).length = n := by simp [toWords]

theorem length_flatMap_const {α : Type} {f : Nat → List α} {n : Nat} (m : Nat) (h : ∀ i, (f i).length = n) :
    ((List.range m).flatMap f).length = m * n := by
  simp [List.length_flatMap, h]

theorem length_fileWords {w : Nat} (t : Tab (BitVec w)) (m n : Nat) : (fileWords t m n).length = m * n :=
  length_flatMap_const m fun _ => length_toWords n _

theorem length_maskWords (f : Nat → W128) : (maskWords f).length = 16 := length_flatMap_const 8 fun _ => length_toWords 2 _

theorem length_agWords (b : Option AgBlock) : (agWords b).length = 9 := by cases b <;> simp [agWords]

/-- Registers of one word each stand in their order. -/
theorem getD_fileWords {w : Nat} (t : Tab (BitVec w)) {m i : Nat} (hw : w ≤ 64) (hi : i < m) :
    (fileWords t m 1).getD i 0 = (Tab.get 0 t i).toNat := by
  have hone : ∀ x : BitVec w, toWords 1 x.toNat = [x.toNat] := by
    intro x
    have hlt : x.toNat < 2 ^ 64 := x.isLt.trans_le (Nat.pow_le_pow_right (by omega) hw)
    simp only [toWords, List.range_one, List.map_singleton, Nat.mul_zero, Nat.pow_zero, Nat.div_one, Nat.mod_eq_of_lt hlt]
  have hmap : fileWords t m 1 = (List.range m).map fun i => (Tab.get 0 t i).toNat := by
    unfold fileWords
    rw [List.map_eq_flatMap]
    congr 1
    funext i
    exact hone _
  rw [hmap, List.getD_eq_getElem?_getD]
  simp [hi]

section
variable (k : Core)

/-- The words before the trap registers, after s, PWIN and the flags. -/
def Core.midWords : List Nat :=
  [k.countL, k.countS, k.countC, k.countT] ++ maskWords k.getK ++ fileWords k.mp 8 1 ++ fileWords k.cv 4 4
    ++ fileWords k.d 16 2 ++ fileWords k.cl 8 1 ++ (List.range 4).flatMap fun i => agWords (Tab.get none k.ag i)

theorem length_midWords : k.midWords.length = 120 := by
  simp [Core.midWords, length_fileWords, length_maskWords, length_flatMap_const 4 fun i => length_agWords (Tab.get none k.ag i)]

/-- The words from the trap registers on. -/
def Core.trapWords : List Nat :=
  [k.trapCode.toNat, k.trapPc.toNat, k.trapInfo.toNat, k.trapSlot.toNat, k.trapEntry.toNat, k.trapAddr.toNat,
    k.brkPc.toNat, k.brkMask.toNat, k.brkCount.toNat, k.status.toNat, k.pc]
    ++ (repWords k.rep ++ pendWords k.hold ++ repWords k.hidRep ++ pendWords k.hidHold ++ [b2n k.segment.mode, b2n k.hidSeg])

theorem regWords_eq : k.regWords = fileWords k.s 64 1 ++ (k.pwin.toNat :: (fileWords k.f 16 1 ++ (k.midWords ++ k.trapWords))) := by
  simp only [Core.regWords, Core.midWords, Core.trapWords, List.append_assoc, List.cons_append, List.nil_append]

theorem getD_regWords_s {i : Nat} (hi : i < 64) : k.regWords.getD i 0 = (Tab.get 0 k.s i).toNat := by
  rw [regWords_eq, List.getD_append _ _ _ _ (by rw [length_fileWords]; omega), getD_fileWords _ (by omega) hi]

/-- The words after s, by their position from PWIN on. -/
theorem getD_regWords_rest (i : Nat) :
    k.regWords.getD (64 + i) 0 = (k.pwin.toNat :: (fileWords k.f 16 1 ++ (k.midWords ++ k.trapWords))).getD i 0 := by
  rw [regWords_eq, List.getD_append_right _ _ _ _ (by rw [length_fileWords]; omega), length_fileWords]
  congr 1
  omega

theorem getD_regWords_pwin : k.regWords.getD 64 0 = k.pwin.toNat := by
  have h := getD_regWords_rest k 0
  rwa [Nat.add_zero, List.getD_cons_zero] at h

theorem getD_regWords_f {i : Nat} (hi : i < 16) : k.regWords.getD (65 + i) 0 = (k.flag i).toNat := by
  rw [show 65 + i = 64 + (i + 1) by omega, getD_regWords_rest, List.getD_cons_succ,
    List.getD_append _ _ _ _ (by rw [length_fileWords]; omega), getD_fileWords _ (by omega) hi]
  rfl

theorem getD_regWords_trap (i : Nat) : k.regWords.getD (201 + i) 0 = k.trapWords.getD i 0 := by
  rw [show 201 + i = 64 + (16 + 120 + i + 1) by omega, getD_regWords_rest, List.getD_cons_succ,
    List.getD_append_right _ _ _ _ (by rw [length_fileWords]; omega),
    List.getD_append_right _ _ _ _ (by rw [length_fileWords, length_midWords]; omega), length_fileWords, length_midWords,
    show 16 + 120 + i - 16 * 1 - 120 = i by omega]

end

/-! ## The save (08 R190, R191) -/

/-- A core that becomes free, and its partner under lockstep. -/
theorem bareCore_leaves (s : State) (ctx c : Nat) : let t := s.bareCore ctx c
    t = { s with cores := t.cores, kept := t.kept, drawerReqs := t.drawerReqs, readsAsked := t.readsAsked }
      ∧ t.core c = (s.core c).bare s.cycle.toNat := by
  intro t
  generalize hu : ((s.orphanReads c).freshViews c).modCore c (·.bare s.cycle.toNat) = u
  have hrest : u = { s with cores := u.cores, kept := u.kept, drawerReqs := u.drawerReqs, readsAsked := u.readsAsked } := by
    rw [← hu]; rfl
  have hcore : u.core c = (s.core c).bare s.cycle.toNat := by
    rw [← hu, State.core_modCore_same]; rfl
  have hother : c ≠ partnerOf c := by unfold partnerOf; omega
  have ht : t = if (s.lockstep ctx && decide (c < 256)) = true then
      u.modCore (partnerOf c) (·.idleSince s.cycle.toNat) else u := by rw [← hu]; rfl
  clear_value t
  split at ht
  · rw [ht]
    exact ⟨by rw [hrest]; rfl, (State.core_modCore_other u _ hother).trans hcore⟩
  · rw [ht]
    exact ⟨hrest, hcore⟩

/-- A core and its scratchpad in their slot. -/
def State.slotFilled (s : State) (a c : Nat) : State := (s.copyCells (spBase c) a 0x200000).writeSlot a (s.core c)

theorem slotFilled_frame (s : State) (a c : Nat) : let t := s.slotFilled a c
    t = { s with mem := t.mem, errs := t.errs, kept := t.kept, freeNo := t.freeNo } :=
  (writeSlot_frame (s.copyCells (spBase c) a 0x200000) a (s.core c)).trans rfl

section
variable {s t : State} {a c : Nat} (hslot : ∀ i, i < 0x400000 → t.byte (a + i) = (s.slotFilled a c).byte (a + i))
include hslot

/-- The scratchpad of a saved core stands in its slot. -/
theorem byte_saved (hm : s.memOk) {i : Nat} (hi : i < 0x200000) : t.byte (a + i) = s.byte (spBase c + i) := by
  rw [hslot i (by omega)]
  exact (byte_writeSlot_low hi).trans ((byte_copyCells s hm).1 i hi)

/-- The registers of a saved core stand in the block of its slot, a word of 8 bytes for each. -/
theorem bytesAt_saved {i : Nat} (hi : i < 234) :
    t.bytesAt (a + 0x28BC00 + 8 * i) 8 = leBytes 8 ((s.core c).regWords.getD i 0) := by
  refine (bytesAt_congr fun j hj => ?_).trans
    (bytesAt_writeSlot_regs (s := s.copyCells (spBase c) a 0x200000) (k := s.core c) hi)
  rw [show a + 0x28BC00 + 8 * i + j = a + (0x28BC00 + 8 * i + j) by omega]
  exact hslot _ (by omega)

end

/-- The slot of a compute core (08 R191). -/
theorem saveSlot_compute (s : State) (ctx ccb : Nat) {c : Nat} (hlt : c < 256) :
    s.saveSlot ctx ccb c = (s.ccbWord ccb 0x10).toNat % 2 ^ 52 + c * 0x400000 := by
  have h : fld (s.ccbWord ccb 0x10) 0 52 = (s.ccbWord ccb 0x10).toNat % 2 ^ 52 := by simp [fld, bitsAt]
  unfold State.saveSlot
  rw [if_pos hlt, h]

/-- A core as its context keeps it while it is saved. -/
def State.savedAs (s : State) (ctx c : Nat) (v : SavedCore) : Prop :=
  v.ctx = ctx ∧ v.core = c ∧ v.broken = false ∧ v.owed = s.owed.filter (fun o => o.core == c)
    ∧ v.regs = { s.core c with code := [], dict := [], hold := (s.core c).hold.map Hold.afresh }

theorem saveCore_leaves {s : State} {ctx ccb c a : Nat} (ha : s.saveSlot ctx ccb c = a) (hok : s.saveable a = true) :
    let t := s.saveCore ctx ccb c
    t = { s with
        mem := t.mem, errs := t.errs, kept := t.kept, freeNo := t.freeNo, cores := t.cores, saved := t.saved, armed := t.armed
        owed := t.owed, drawerReqs := t.drawerReqs, readsAsked := t.readsAsked }
      ∧ t.mem = (s.slotFilled a c).mem ∧ (t.core c).run = .free ∧ ∃ v ∈ t.saved, s.savedAs ctx c v := by
  intro t
  have hfill := slotFilled_frame s a c
  generalize hw : s.slotFilled a c = w at hfill
  generalize hv : ({ ctx := ctx, core := c, lock := s.lockstep ctx && c < 256
                     regs := { s.core c with code := [], dict := [], hold := (s.core c).hold.map Hold.afresh }
                     arms := s.armed.filter fun x => inOwn c (16 * x), record := w.recordCells a
                     owed := s.owed.filter fun o => o.core == c, broken := false } : SavedCore) = v
  generalize hu : ({ w with saved := w.saved ++ [v], armed := w.armed.filter (fun x => !inOwn c (16 * x))
                            owed := w.owed.filter fun o => o.core != c } : State) = u
  have ht : t = u.bareCore ctx c := by
    rw [← hu, ← hv, ← hw]
    show s.saveCore ctx ccb c = _
    simp only [State.saveCore, ha, hok, if_true, Bool.not_true, State.slotFilled]
  obtain ⟨hrest, hcore⟩ := bareCore_leaves u ctx c
  rw [← ht] at hrest hcore
  have hurest : u = { s with
      mem := u.mem, errs := u.errs, kept := u.kept, freeNo := u.freeNo, saved := u.saved, armed := u.armed, owed := u.owed } := by
    rw [← hu, hfill]
  refine ⟨?_, ?_, ?_, v, ?_, ?_⟩
  · clear_value t
    rw [hrest, hurest]
  · rw [hrest, ← hu]
  · rw [hcore]; rfl
  · rw [hrest, ← hu]; exact List.mem_append_right _ (List.mem_singleton_self v)
  · rw [← hv]; exact ⟨rfl, rfl, rfl, rfl, rfl⟩

/-- A home's write lets no view keep a byte that it did not keep. -/
theorem mem_kept_writeBytes {s : State} {pa : Nat} {bs : List Byte} {y : Kept} (h : y ∈ (s.writeBytes pa bs).kept) :
    ∃ z ∈ s.kept, z.view = y.view ∧ z.pa = y.pa := by
  obtain ⟨z, hz, hw⟩ := List.mem_filterMap.mp h
  refine ⟨z, hz, ?_⟩
  unfold Kept.written at hw
  split at hw
  · split at hw
    · exact nomatch hw
    · cases hw; exact ⟨rfl, rfl⟩
  · cases hw; exact ⟨rfl, rfl⟩

/-- A context has come to a CSTATE: its entry, its CCB, the report and the answers, and nothing else (08 R188, 21 R432, R433). -/
structure SettledTo (s t : State) (ctx : Nat) (x y : Ctx) (v code opc : Nat) : Prop where
  rest : t = { s with
    mem := t.mem, errs := t.errs, kept := t.kept, ctxs := t.ctxs, owedAnswers := t.owedAnswers, hostOut := t.hostOut }
  entry : t.ctx ctx = some y
  bytes : SameBytesBut s t (x.ccb + 0x18) 8
  kept : ∀ k ∈ t.kept, ∃ z ∈ s.kept, z.view = k.view ∧ z.pa = k.pa
  cstate : (t.ccbWord x.ccb 0x18).toNat / 2 ^ 8 % 4 = v
  owed : t.owedAnswers = s.owedAnswers.filter (fun q => !waitsFor ctx opc q)
  sent : t.hostOut = s.hostOut ++ reportOf x ctx code (t.ccbWord x.ccb 0x18)
    ++ (s.owedAnswers.filter (waitsFor ctx opc)).map (settledAnswer opc)

/-- The report and the answers, after steps that have sent and answered nothing. -/
theorem SettledTo.reports {s w t : State} {ctx v code opc : Nat} {x y : Ctx} (h : SettledTo w t ctx x y v code opc)
    (howed : w.owedAnswers = s.owedAnswers) (hsent : w.hostOut = s.hostOut) :
    t.owedAnswers = s.owedAnswers.filter (fun q => !waitsFor ctx opc q)
      ∧ t.hostOut = s.hostOut ++ reportOf x ctx code (t.ccbWord x.ccb 0x18)
        ++ (s.owedAnswers.filter (waitsFor ctx opc)).map (settledAnswer opc) := by
  have h1 := h.owed
  have h2 := h.sent
  rw [howed] at h1 h2
  rw [hsent] at h2
  exact ⟨h1, h2⟩

theorem settledTo_answerOwed {s : State} {ctx opc code v : Nat} {x y : Ctx} {what : Settled} (hv : v < 4)
    (h : ∀ n, owedResult n what = if n = opc then some 0 else none) (hconn : y.conn = x.conn) (hccb : y.ccb = x.ccb)
    (hg : s.gatedAt (x.ccb + 0x18) = false) :
    let u := State.setCstate { s with ctxs := Tab.put none s.ctxs ctx (some y) } x.ccb v
    SettledTo s ((if x.byDispatcher = true then u.hostEvent ctx code else u).answerOwed ctx what) ctx x y v code opc := by
  intro u
  have hu : u.ctx ctx = some y := (ctx_putCtx s ctx (some y) ctx).trans (if_pos rfl)
  obtain ⟨hrest, howed, hsent⟩ := reportThenAnswer_leaves u (code := code) h hu hconn hccb
  have hbytes : SameBytesBut s u (x.ccb + 0x18) 8 :=
    sameBytesBut_writeBytes { s with ctxs := Tab.put none s.ctxs ctx (some y) } (x.ccb + 0x18) (leBytes 8 _)
  have hkept : ∀ k ∈ u.kept, ∃ z ∈ s.kept, z.view = k.view ∧ z.pa = k.pa := fun k hk => mem_kept_writeBytes hk
  have hcstate := cstate_setCstate { s with ctxs := Tab.put none s.ctxs ctx (some y) } hv hg
  generalize (if x.byDispatcher = true then u.hostEvent ctx code else u).answerOwed ctx what = t at hrest howed hsent ⊢
  have hword : t.ccbWord x.ccb 0x18 = u.ccbWord x.ccb 0x18 := by rw [hrest]; rfl
  refine ⟨by rw [hrest]; rfl, by rw [hrest]; exact hu, by rw [hrest]; exact hbytes, by rw [hrest]; exact hkept, ?_, howed, ?_⟩
  · rw [hword]; exact hcstate
  · rw [hword]; exact hsent

/-- The end of a save of a pre-empted context: CSTATE is 1, and its stop is reported and answered (08 R191, R192). -/
theorem settledTo_endSave {s : State} (ctx : Nat) (x : Ctx) (hg : s.gatedAt (x.ccb + 0x18) = false) :
    SettledTo s (s.endSave ctx x 1) ctx x { x with stopping := none } 1 2 8 := by
  have h := settledTo_answerOwed (s := s) (ctx := ctx) (code := 2) (v := 1) (x := x) (y := { x with stopping := none })
    (by omega) owedResult_saved rfl rfl hg
  have heq : s.endSave ctx x 1 = (if x.byDispatcher = true then
      (State.setCstate { s with ctxs := Tab.put none s.ctxs ctx (some { x with stopping := none }) } x.ccb 1).hostEvent ctx 2
      else State.setCstate { s with ctxs := Tab.put none s.ctxs ctx (some { x with stopping := none }) } x.ccb 1).answerOwed
        ctx .saved := by
    unfold State.endSave
    simp
  rw [heq]
  exact h

/-- The end of a restore: CSTATE is 0, and the restore is reported and answered (08 R192, R193). -/
theorem settledTo_endRestore {s : State} {ctx : Nat} {x : Ctx} (hx : s.ctx ctx = some x) (hrest : x.restoring = true)
    (hsaved : s.saved = []) (hg : s.gatedAt (x.ccb + 0x18) = false) :
    SettledTo s (s.endRestore ctx) ctx x { x with restoring := false, byDispatcher := false } 0 3 9 := by
  have h := settledTo_answerOwed (s := s) (ctx := ctx) (code := 3) (v := 0) (x := x)
    (y := { x with restoring := false, byDispatcher := false }) (by omega) owedResult_restored rfl rfl hg
  unfold State.endRestore
  rw [hx]
  simp only
  rw [if_neg (by simp [hrest, hsaved])]
  exact h

theorem exec_contextSave_waits {s : State} {ctx : Nat} {x : Ctx} (hx : s.ctx ctx = some x)
    (h : s.ctxRests ctx = false ∨ x.stopping = none) : exec (.contextSave ctx) s = .next s := by
  show execContextSave ctx s = .next s
  unfold execContextSave
  rw [hx]
  simp only
  cases hstop : x.stopping with
  | none => rfl
  | some why => exact if_pos (by simp [h.resolve_right (by simp [hstop])])

theorem exec_contextSave_one {s : State} {ctx c : Nat} {x : Ctx} (hx : s.ctx ctx = some x) (hstop : x.stopping = some 1)
    (hrests : s.ctxRests ctx = true) (hcores : s.ctxCores ctx = [c]) :
    exec (.contextSave ctx) s = .next ((s.saveCore ctx x.ccb c).endSave ctx x 1) := by
  show execContextSave ctx s = _
  unfold execContextSave
  rw [hx]
  simp only [hstop]
  refine (if_neg (by simp [hrests])).trans ?_
  rw [hcores]
  rfl

/-! ## The restore (08 R192) -/

/-- A context's only saved core is restored alone. -/
theorem restoredWith_only {s : State} {v : SavedCore} (h : s.saved = [v]) : s.restoredWith v = [v] := by
  unfold State.restoredWith
  simp only
  split
  · rfl
  · rename_i hg
    have hself : (s.savedGangs v).any (s.savedGangs v).contains = true := by
      cases hl : s.savedGangs v with
      | nil => rw [hl] at hg; exact absurd rfl hg
      | cons g l => simp
    rw [h, List.filter_cons, if_pos (by simp [hself])]
    rfl

theorem exec_restore_rests {s : State} {ctx : Nat} {x : Ctx} (hx : s.ctx ctx = some x) (h : x.restoring = false) :
    exec (.restore ctx) s = .next s := by
  show execRestore ctx s = .next s
  unfold execRestore
  rw [hx]
  exact if_pos (by simp [h])

theorem exec_restore_busy {s : State} {ctx c : Nat} {x : Ctx} {v : SavedCore} (hx : s.ctx ctx = some x) (hs : s.saved = [v])
    (hc : v.core = c) (hfree : s.coreFree c = false) : exec (.restore ctx) s = .next s := by
  show execRestore ctx s = .next s
  unfold execRestore
  rw [hx]
  simp only
  split
  · rfl
  · have hseat : s.savedSeatFree v = false := by
      unfold State.savedSeatFree
      rw [hc, hfree, Bool.false_and]
    have hnone : (s.saved.find? fun v => v.ctx == ctx && (s.restoredWith v).all s.savedSeatFree) = none := by
      rw [hs, List.find?_eq_none]
      intro w hw
      rw [List.mem_singleton.mp hw, restoredWith_only hs]
      simp [hseat]
    rw [hnone]

theorem exec_restore_one {s : State} {ctx c : Nat} {x : Ctx} {v : SavedCore} (hx : s.ctx ctx = some x)
    (hrest : x.restoring = true) (hs : s.saved = [v]) (hctx : v.ctx = ctx) (hc : v.core = c) (hfree : s.coreFree c = true)
    (hlock : v.lock = false) : exec (.restore ctx) s = .next ((s.restoreCore v x.ccb).endRestore ctx) := by
  have hseat : s.savedSeatFree v = true := by
    unfold State.savedSeatFree
    rw [hc, hfree, hlock]
    rfl
  have hsome : (s.saved.find? fun v => v.ctx == ctx && (s.restoredWith v).all s.savedSeatFree) = some v := by
    rw [hs]
    exact List.find?_cons_of_pos (by rw [restoredWith_only hs]; simp [hctx, hseat])
  show execRestore ctx s = _
  unfold execRestore
  rw [hx]
  refine (if_neg (by simp [hrest])).trans ?_
  rw [hsome]
  simp only [restoredWith_only hs]
  rfl

/-- The core that a saved core becomes again, before its code is fetched. -/
def State.restoredCore (s : State) (a c : Nat) (v : SavedCore) : Core :=
  let old := s.core c
  { s.readSlot a v.regs with
    run := .running, preReq := false, idleFrom := old.idleFrom, nextId := max old.nextId v.regs.nextId
    tlb := old.tlb, tlbMx := old.tlbMx, tlbCy := old.tlbCy, tlbGa := old.tlbGa, tlbLk := old.tlbLk
    refused := old.refused, issCycle := s.cycle.toNat }

/-- The device once the only saved core has taken its core and its scratchpad again. -/
def State.restoredAt (s : State) (a c : Nat) (v : SavedCore) : State :=
  State.setCore (State.freshViews { s.copyCells a (spBase c) 0x200000 with
    saved := [], armed := s.armed ++ v.arms, owed := s.owed ++ v.owed } c) c (s.restoredCore a c v)

section
variable {s : State} {v : SavedCore} {ccb a c : Nat} {n : NodeRec} {h : KernelHeader} {dict code : List Nat}

theorem takePartner_alone {ctx : Nat} (hl : s.lockstep ctx = false) : s.takePartner ctx c = s := if_neg (by simp [hl])

theorem restoreCore_restores (hs : s.saved = [v]) (hc : v.core = c) (ha : s.saveSlot v.ctx ccb c = a)
    (hok : s.saveable a = true) (hb : s.savedBroken v a = false) (hl : (s.restoredAt a c v).lockstep v.ctx = false)
    (hn : (s.restoredAt a c v).readNode v.ctx (s.restoredCore a c v).node = .ok n)
    (hk : (s.restoredAt a c v).fetchKernel v.ctx (n.word 0) = .ok (h, dict, code)) :
    s.restoreCore v ccb = (s.restoredAt a c v).modCore c fun k => { k with code := code, dict := dict } := by
  have hleft : (s.copyCells a (spBase c) 0x200000).saved.filter (· != v) = [] := by
    show s.saved.filter (· != v) = []
    rw [hs]
    simp
  have hplace : ((State.freshViews { s.copyCells a (spBase c) 0x200000 with
      saved := (s.copyCells a (spBase c) 0x200000).saved.filter (· != v)
      armed := (s.copyCells a (spBase c) 0x200000).armed ++ v.arms
      owed := (s.copyCells a (spBase c) 0x200000).owed ++ v.owed } c).setCore c (s.restoredCore a c v)).takePartner v.ctx c =
      s.restoredAt a c v := by
    rw [hleft]
    exact takePartner_alone hl
  generalize hu : s.restoredAt a c v = u at *
  generalize hr : s.restoredCore a c v = k at *
  have hcore : s.restoreCore v ccb = match (do
      let n ← orFail 0x16 (u.readNode v.ctx k.node)
      u.fetchKernel v.ctx (n.word 0)) with
    | .error e =>
      let w := u.failLaunch v.ctx k.launch e k.node
      (if k.ndDone then w else w.leaveLive v.ctx k.node k.launch).freeCore c
    | .ok (_, dict, code) =>
      (u.modCore c fun k => { k with code := code, dict := dict }).restoreCheck c a false := by
    rw [← hplace, ← hr]
    unfold State.restoreCore
    simp only [hc, ha, hok, hb, if_true]
    rfl
  rw [hcore, hn]
  simp only [orFail, bind, Except.bind, hk]
  rfl

theorem restoredAt_frame (s : State) (a c : Nat) (v : SavedCore) : let t := s.restoredAt a c v
    t = { s with mem := t.mem, errs := t.errs, kept := t.kept, cores := t.cores, saved := []
                 armed := s.armed ++ v.arms, owed := s.owed ++ v.owed } := rfl

/-- The scratchpad of a restored core, and what its engines and views find there. -/
theorem restoredAt_leaves (hm : s.memOk) :
    (∀ i, i < 0x200000 → (s.restoredAt a c v).byte (spBase c + i) = s.byte (a + i))
      ∧ ∀ y ∈ (s.restoredAt a c v).kept, (∀ q, y.view ≠ .engine c q) ∧ (y.pa < spBase c ∨ spBase c + 0x200000 ≤ y.pa) := by
  refine ⟨(byte_copyCells s hm).1, fun y hy => ⟨view_freshViews _ c y hy, ?_⟩⟩
  have hcopied : y ∈ (s.copyCells a (spBase c) 0x200000).kept := (List.mem_filter.mp hy).1
  have hout := (List.mem_filter.mp hcopied).2
  simp only [Bool.not_eq_true', Bool.and_eq_false_iff, decide_eq_false_iff_not] at hout
  omega

end

end Sys2Proof.Machine
end

section
/-! PROPERTIES. Dispatch, pre-emption, save and restore of contexts (07 R172 to R176, 08 R189 to R193). -/

namespace Sys2Proof.Machine

open Sys2Proof

/-- Settles O53: the steps of the dispatcher and of the engine of saves, clause by clause. -/
theorem dispatchStopSaveAndRestoreOfContexts : Obligations.DispatchStopSaveAndRestoreOfContexts := by
  unfold Obligations.DispatchStopSaveAndRestoreOfContexts
  intro reports
  refine ⟨fun s => exec_dispatch_idle, fun s ctx x => exec_dispatch_due, fun s u p c hquiet hplace => ?dispatch,
    fun s p l x y => exec_preemptTimeout_stops, fun s ctx x hx => ⟨exec_contextSave_waits hx, ?save⟩,
    fun s ctx c x v hx hs hctx hc hlt => ⟨exec_restore_rests hx, exec_restore_busy hx hs hc, ?restore⟩,
    fun s ctx x => exec_dispatcherRestore_begins⟩
  case dispatch =>
    obtain ⟨hp, hruns, hopen⟩ := placeNext_single hplace
    refine ⟨hp, hruns, hopen, ?_⟩
    intro v n l fails
    have hexec : exec .dispatch s = .next (v.dispatchNode p c) := exec_dispatch_single hquiet hplace
    have hfails : ∀ {e : Nat}, v.dispatchTo p c = (v, some e) → fails e :=
      fun h => hexec.trans (by rw [dispatchNode_fails h])
    refine ⟨fun e hr => hfails (dispatchTo_unreadable hr), fun r hr hok => hfails (dispatchTo_malformed hr hok),
      fun r v1 w h dict code hr hok hput hk => ?_⟩
    intro old ccb x
    have hold : v1.core c = old := (homeWrites_rootPut hput).core c
    have hpool : v1.pool = v.pool := (homeWrites_rootPut hput).pool
    have hx : v1.clearedFor p c = x := by
      unfold State.clearedFor
      rw [hold]
    refine ⟨fun hc => ?_, fun hc => ?_⟩
    · rw [hexec, dispatchNode_fails (dispatchTo_uncopied hr hok hput hk (hx ▸ hc)), hold]
      rfl
    · have hrun := dispatchNode_runs (dispatchTo_starts hr hok hput hk (hx ▸ hc))
      obtain ⟨htpool, hviews, himage, hcore⟩ := startCore_leaves dict code hc
      have hxcore : x.core c = old.dispatched p ccb := State.core_setCore_same _ c _
      rw [hxcore] at hcore
      refine ⟨_, hexec.trans (congrArg _ hrun), ?_, hviews, himage, fun i => ?_, ?_⟩
      · have hxpool : x.pool = v.pool := (disarmAll_pool v1 c).trans hpool
        rw [htpool, hxpool]
        simp [v]
      · rw [hcore]
        exact get_dispatchRegs r n l i
      · rw [hcore]
        rfl
  case save =>
    intro c hstop hrests hcores hlt hm a hok hout hgate _ _
    have ha : s.saveSlot ctx x.ccb c = a := saveSlot_compute s ctx x.ccb hlt
    obtain ⟨hsave, hmem, hfree, v, hv, hvctx, hvcore, hvwhole, hvowed, hvregs⟩ := saveCore_leaves ha hok
    have hexec := exec_contextSave_one hx hstop hrests hcores
    generalize s.saveCore ctx x.ccb c = w at hsave hmem hfree hv hexec
    have hend := settledTo_endSave (s := w) ctx x (by rw [hsave]; exact hgate)
    have hslot : ∀ i, i < 0x400000 → (w.endSave ctx x 1).byte (a + i) = (s.slotFilled a c).byte (a + i) := by
      intro i hi
      refine (hend.bytes _ (by omega)).trans ?_
      show Memory.get w.mem _ = _
      rw [hmem]
      rfl
    generalize w.endSave ctx x 1 = t at hend hslot hexec
    refine ⟨t, hexec, fun i => byte_saved hslot hm, fun i hi => ?_, ?_, ?_, ⟨v, ?_, hvctx, hvcore, hvwhole, hvowed, hvregs⟩, hend.entry, ?_,
      hend.cstate⟩
    · rw [bytesAt_saved hslot (by omega), getD_regWords_s _ hi]
    · intro word k
      have htrap : ∀ i X, i < 33 → k.trapWords.getD i 0 = X → word (201 + i) X := by
        intro i X hi hX
        rw [← hX, ← getD_regWords_trap k i]
        exact bytesAt_saved hslot (i := 201 + i) (by omega)
      refine ⟨?_, htrap 0 _ (by omega) rfl, htrap 1 _ (by omega) rfl, htrap 2 _ (by omega) rfl, htrap 5 _ (by omega) rfl,
        htrap 9 _ (by omega) rfl, htrap 10 _ (by omega) rfl, fun i hi => ?_⟩
      · rw [← getD_regWords_pwin k]
        exact bytesAt_saved hslot (i := 64) (by omega)
      · rw [← getD_regWords_f k hi]
        exact bytesAt_saved hslot (i := 65 + i) (by omega)
    · have hcore : t.core c = w.core c := by rw [hend.rest]; rfl
      rw [hcore]
      exact hfree
    · rw [hend.rest]
      exact hv
    · exact hend.reports (by rw [hsave]) (by rw [hsave])
  case restore =>
    intro a old k u n h dict code hrest hfree hlock hl hgangs hok hb hm hout hgate hn hk
    have ha : s.saveSlot v.ctx x.ccb c = a := saveSlot_compute s v.ctx x.ccb hlt
    have hexec := exec_restore_one hx hrest hs hctx hc hfree hlock
    subst hctx
    rw [restoreCore_restores hs hc ha hok hb hl hn hk] at hexec
    obtain ⟨hbytes, hviews⟩ := restoredAt_leaves (c := c) (a := a) (v := v) hm
    have hframe := restoredAt_frame s a c v
    have hcore : (s.restoredAt a c v).core c = k := State.core_setCore_same _ c _
    generalize s.restoredAt a c v = w at hexec hbytes hviews hframe hcore
    have hmod : (w.modCore c fun k => { k with code := code, dict := dict }).core c = { k with code := code, dict := dict } := by
      rw [State.core_modCore_same, hcore]
    have hwrest : (w.modCore c fun k => { k with code := code, dict := dict }) =
        { w with cores := (w.modCore c fun k => { k with code := code, dict := dict }).cores } := rfl
    generalize (w.modCore c fun k => { k with code := code, dict := dict }) = w2 at hexec hmod hwrest
    have hrest2 : w2 = { s with mem := w.mem, errs := w.errs, kept := w.kept, cores := w2.cores, saved := []
                                armed := s.armed ++ v.arms, owed := s.owed ++ v.owed } := by
      rw [hwrest, hframe]
    have hend := settledTo_endRestore (s := w2) (ctx := v.ctx) (x := x) (by rw [hrest2]; exact hx) hrest (by rw [hrest2])
      (by rw [hrest2]; exact hgate)
    generalize w2.endRestore v.ctx = t at hexec hend
    refine ⟨t, hexec, by rw [hend.rest, hrest2], ?_, fun i hi => ?_, fun y hy => ?_, by rw [hend.rest, hrest2],
      by rw [hend.rest, hrest2], hend.entry, ?_, hend.cstate⟩
    · have htcore : t.core c = w2.core c := by rw [hend.rest]; rfl
      rw [htcore, hmod]
    · refine (hend.bytes _ (by omega)).trans (Eq.trans ?_ (hbytes i hi))
      rw [hrest2]
      rfl
    · obtain ⟨z, hz, hview, hpa⟩ := hend.kept y hy
      rw [hrest2] at hz
      rw [← hview, ← hpa]
      exact hviews z hz
    · exact hend.reports (by rw [hrest2]) (by rw [hrest2])

end Sys2Proof.Machine
end

section
/-! SUPPORT. A trap in handler state or with no handler (08 R184, R188): the word of the CCB that a context fault writes, and the
cores and the context that it stops. -/

namespace Sys2Proof.Machine

open Sys2Proof

/-! ## The other fields of a word -/

/-- A field that lies beside the one that has been replaced. -/
theorem fld_setFld_beside {n lo len lo' len' : Nat} (x : BitVec n) (v : Nat) (h : lo + len ≤ n)
    (hb : lo' + len' ≤ lo ∨ lo + len ≤ lo') : fld (setFld x lo len v) lo' len' = fld x lo' len' := by
  apply Nat.eq_of_testBit_eq
  intro i
  have hbit := getLsbD_setFld x v (lo' + i) h
  simp only [fld, bitsAt, Nat.testBit_mod_two_pow, Nat.testBit_div_two_pow]
  by_cases hi : i < len'
  · rw [if_neg (by omega)] at hbit
    simpa [hi, BitVec.getLsbD, Nat.add_comm] using hbit
  · simp [hi]

/-- A word reads back as it has been written. -/
theorem readW_writeW (s : State) {pa : Nat} (x : W64) (h : s.gatedAt pa = false) : (s.writeW pa x).readW pa = x := by
  unfold State.readW State.writeW
  rw [readNat_writeNat s 8 _ h, Nat.mod_eq_of_lt x.isLt, BitVec.ofNat_toNat, BitVec.setWidth_eq]

/-! ## What an event and the end of an issue leave -/

theorem hostEvent_rest (s : State) (z code : Nat) : s.hostEvent z code = { s with hostOut := (s.hostEvent z code).hostOut } := by
  unfold State.hostEvent
  split
  · split <;> rfl
  · rfl

theorem clearIssue_rest (s : State) (c : Nat) : s.clearIssue c = { s with iss := (s.clearIssue c).iss } := by
  unfold State.clearIssue
  split <;> rfl

/-! ## The fault of a context -/

/-- The word 0x18 of the CCB after a fault of core c: CSTATE, FAULT_CODE, FAULT_CORE and FAULT_PC (08 R188). -/
def State.faultWord (s : State) (c : Nat) (code : TrapCode) (pc : Nat) : W64 :=
  setFld (setFld (setFld (setFld (s.ccbWord (s.core c).ccb 0x18) 8 2 2) 16 8 code.num) 24 8 (coreId c).toNat) 32 32 pc

theorem fld_faultWord (s : State) (c : Nat) (code : TrapCode) (pc : Nat) : let w := s.faultWord c code pc
    fld w 8 2 = 2 ∧ fld w 16 8 = code.num ∧ fld w 24 8 = (coreId c).toNat ∧ fld w 32 32 = pc % 2 ^ 32 := by
  intro w
  have hcode : code.num < 2 ^ 8 := by cases code <;> decide
  refine ⟨?_, ?_, ?_, fld_setFld _ (by omega)⟩
  · exact (fld_setFld_beside _ _ (by omega) (by omega)).trans ((fld_setFld_beside _ _ (by omega) (by omega)).trans
      ((fld_setFld_beside _ _ (by omega) (by omega)).trans (fld_setFld _ (by omega))))
  · exact (fld_setFld_beside _ _ (by omega) (by omega)).trans ((fld_setFld_beside _ _ (by omega) (by omega)).trans
      ((fld_setFld _ (by omega)).trans (Nat.mod_eq_of_lt hcode)))
  · exact (fld_setFld_beside _ _ (by omega) (by omega)).trans ((fld_setFld _ (by omega)).trans
      (Nat.mod_eq_of_lt (coreId c).isLt))

/-- In handler state, or with no handler, a trap is a context fault (08 R183). -/
theorem takeTrap_faults {s : State} {c : Nat} (t : Trp) (pc slot : Nat)
    (h : (s.core c).hs = true ∨ (s.core c).trapEntry = 0xFFFFFFFF) : s.takeTrap c t pc slot = s.contextFault c t.code pc :=
  if_pos h

section
variable {s : State} {c : Nat} {x : Ctx} (code : TrapCode) (pc : Nat) (hx : s.ctx (s.core c).ctx = some x)
include hx

/-- A context fault, written as its write of the CCB and then what it changes besides. -/
theorem contextFault_leaves : let k := s.core c
    let w := s.writeW (k.ccb + 0x18) (s.faultWord c code pc)
    let t := s.contextFault c code pc
    t = { w with cores := t.cores, ctxs := t.ctxs, hostOut := t.hostOut, iss := t.iss }
      ∧ t.core c = { k with run := .halted, preReq := false, pc := pc }
      ∧ (∀ d, d ≠ c → t.core d =
          if (s.core d).run = .running ∧ (s.core d).ctx = k.ctx then { s.core d with preReq := true } else s.core d)
      ∧ ∃ y, t.ctx k.ctx = some y ∧ ∃ why, y.stopping = some why ∧ 2 ≤ why := by
  intro k w t
  have hstop := requestStop_setStopping (s := w) (x := k.ctx) hx 2 false
  generalize hv : (w.requestStop k.ctx).setStopping k.ctx 2 false = v at hstop
  obtain ⟨hrest, hctxs, hcores⟩ := hstop
  let m := v.modCore c fun k => { k with run := .halted, preReq := false, pc := pc }
  have ht : t = (m.hostEvent k.ctx 1).clearIssue c := by
    show s.contextFault c code pc = _
    simp only [m, ← hv]
    rfl
  have htm : t = { m with hostOut := t.hostOut, iss := t.iss } := by
    rw [ht, clearIssue_rest, hostEvent_rest]
  have htcore : ∀ d, t.core d = m.core d := fun d => by rw [htm]; rfl
  refine ⟨?_, ?_, fun d hd => ?_, ?_⟩
  · rw [htm]
    show _ = { w with cores := m.cores, ctxs := v.ctxs, hostOut := _, iss := _ }
    simp only [m, State.modCore, State.setCore]
    rw [hrest]
  · rw [htcore, State.core_modCore_same, hcores c]
    show _ = { s.core c with run := .halted, preReq := false, pc := pc }
    have hw : w.core c = s.core c := rfl
    rw [hw]
    split <;> rfl
  · rw [htcore, State.core_modCore_other v _ hd]
    exact hcores d
  · have hy : t.ctx k.ctx = v.ctx k.ctx := by rw [htm]; rfl
    exact ⟨_, hy.trans ((hctxs k.ctx).trans (if_pos rfl)), _, rfl, Nat.le_max_left 2 _⟩

/-- Of memory a context fault changes the word 0x18 of the CCB alone. -/
theorem contextFault_word (hg : s.gatedAt ((s.core c).ccb + 0x18) = false) : let t := s.contextFault c code pc
    t.readW ((s.core c).ccb + 0x18) = s.faultWord c code pc ∧ SameBytesBut s t ((s.core c).ccb + 0x18) 8 := by
  intro t
  obtain ⟨hrest, -⟩ := contextFault_leaves code pc hx
  refine ⟨?_, fun a ha => ?_⟩
  · refine Eq.trans ?_ (readW_writeW s (s.faultWord c code pc) hg)
    show State.readW t _ = _
    simp only [t]
    rw [hrest]
    rfl
  · have hbyte : t.byte a = (s.writeW ((s.core c).ccb + 0x18) (s.faultWord c code pc)).byte a := by
      simp only [t]
      rw [hrest]
      rfl
    exact hbyte.trans (sameBytesBut_writeBytes s _ (leBytes 8 (s.faultWord c code pc).toNat) a ha)

end

end Sys2Proof.Machine
end

section
/-! SUPPORT. The return from a trap (08 R204, R201), the CSRs by number (08 R186 to R188, R205) and TLB_INV (08 R196). -/

namespace Sys2Proof.Machine

open Sys2Proof

/-! ## rett -/

theorem exec_rett_returns {s : State} (h : (s.core s.cur).hs = true) :
    exec .rett s = .next (s.modCur (·.returnFromTrap)) := by
  have hf : s.rettFault = none := if_pos h
  show execRett s = _
  simp only [execRett, hf]

/-- The return with no suspended segment mode. -/
theorem returnFromTrap_plain {k : Core} (h : k.hidSeg = false) : k.returnFromTrap =
    { k with rep := k.hidRep, hold := if k.hidHold.isSome then k.hidHold else k.hold, hidRep := none, hidHold := none
             efaults := [], pc := evenPc k.trapPc }.setStatus 5 false := by
  unfold Core.returnFromTrap
  exact if_neg (by simp [Core.setStatus, h])

/-- The return that opens a segment again. -/
theorem returnFromTrap_segment {k : Core} (h : k.hidSeg = true) : k.returnFromTrap =
    { ({ k with rep := k.hidRep, hold := if k.hidHold.isSome then k.hidHold else k.hold, hidRep := none, hidHold := none
                efaults := [], pc := evenPc k.trapPc }.setStatus 5 false).openSegment (evenPc k.trapPc) with
      hidSeg := false } := by
  unfold Core.returnFromTrap
  exact if_pos (by simp [Core.setStatus, h])

/-- STATUS after the return: HS clears, and SEG is set where segment mode was suspended. -/
theorem statusBit_returnFromTrap (k : Core) (b : Nat) : k.returnFromTrap.statusBit b =
    if b = 6 then k.hidSeg || k.statusBit 6 else if b = 5 then false else k.statusBit b := by
  cases h : k.hidSeg with
  | false =>
    rw [returnFromTrap_plain h, statusBit_setStatus _ _ _ _ (by omega)]
    by_cases h6 : b = 6
    · simp [h6, Core.statusBit]
    · simp [h6, Core.statusBit]
  | true =>
    rw [returnFromTrap_segment h]
    refine (statusBit_setStatus _ 6 b true (by omega)).trans ?_
    by_cases h6 : b = 6
    · simp [h6]
    · rw [if_neg h6, if_neg h6]
      exact statusBit_setStatus _ 5 b false (by omega)

/-- The parts of the core that the return gives back, but for the segment and STATUS. -/
theorem returnFromTrap_eq (k : Core) : k.returnFromTrap =
    { k with
      rep := k.hidRep, hold := if k.hidHold.isSome then k.hidHold else k.hold
      hidRep := none, hidHold := none, hidSeg := false
      efaults := [], pc := evenPc k.trapPc
      segment := k.returnFromTrap.segment, status := k.returnFromTrap.status } := by
  cases h : k.hidSeg with
  | false => rw [returnFromTrap_plain h, ← h]; rfl
  | true => rw [returnFromTrap_segment h]; rfl

/-! ## sys.rd -/

theorem sysRd_sets {s : State} {sd : SR} {n : BitVec 12} {x : W64} (h : s.csr s.cur n.toNat = x) :
    SetsS s (.sysRd sd n) sd x :=
  h ▸ setsS_of_dstS rfl

/-- CORE_ID of a compute core is its index (08 R186). -/
theorem csr_coreId {s : State} {c : Nat} (h : c < 256) : s.csr c 0x000 = .ofNat 64 c := by
  have hid : coreId c = .ofNat 8 c := if_pos h
  show (coreId c).setWidth 64 = _
  rw [hid]
  apply BitVec.eq_of_toNat_eq
  simp only [BitVec.toNat_setWidth, BitVec.toNat_ofNat]
  omega

/-! ## sys.wr -/

/-- The op completes, and of the device only its core changes, to k. -/
def MakesCore (s : State) (i : Instr) (k : Core) : Prop :=
  ∃ t, exec i s = .next t ∧ OnlyCore s.cur s t ∧ t.core s.cur = k

/-- The op completes, and of the device only the low bytes of x from address a on change, as a home writes them. -/
def WritesHome (s : State) (i : Instr) (x : W64) (a len : Nat) : Prop :=
  ∃ t, exec i s = .next t ∧ t = { s with mem := t.mem, errs := t.errs, kept := t.kept }
    ∧ HoldsBytes t a (leBytes len x.toNat) ∧ SameBytesBut s t a len ∧ KeptAfter s t .home a len

/-- The CSRs that lie in the CCB of the context (08 R186, R188). -/
def csrInCcb (n : Nat) : Bool := (0x040 ≤ n && n < 0x054) || n == 0x070 || n == 0x071

/-- The CSRs that lie in the core and that sys.wr writes (08 R186, 19 R406). -/
def csrsInCore : List Nat := [0x010, 0x011, 0x012, 0x013, 0x014, 0x015, 0x020, 0x021, 0x022, 0x060, 0x102]

/-- A write in handler state, or of a CSR that is not marked (H), takes no PRIV (08 R186). -/
def State.mayWrite (s : State) (n : Nat) : Prop := (s.core s.cur).hs = true ∨ csrHandlerOnly n = false

theorem csrFault_none {s : State} {n : Nat} (h : s.mayWrite n) : s.csrFault n = none := by
  have hcond : (csrHandlerOnly n && !(s.core s.cur).hs) = false := by
    rcases h with h | h <;> simp [h]
  exact if_neg (by rw [Bool.not_eq_true]; exact hcond)

/-- PRIV names the register (08 R186). -/
theorem csrFault_priv {s : State} {n : Nat} (hs : (s.core s.cur).hs = false) (hn : csrHandlerOnly n = true) :
    s.csrFault n = some ⟨.priv, n, 0⟩ := by
  have hcond : (csrHandlerOnly n && !(s.core s.cur).hs) = true := by simp [hs, hn]
  exact if_pos hcond

theorem Core.setCsr_readOnly (k : Core) {n : Nat} (x : W64) (h : n ∉ csrsInCore) : k.setCsr n x = k := by
  simp only [csrsInCore, List.mem_cons, List.not_mem_nil, or_false, not_or] at h
  simp [Core.setCsr, h]

theorem setCsr_inCore (s : State) (c : Nat) {n : Nat} (x : W64) (h : csrInCcb n = false) :
    s.setCsr c n x = s.modCore c (·.setCsr n x) := by
  simp only [csrInCcb, Bool.or_eq_false_iff, Bool.and_eq_false_iff, decide_eq_false_iff_not, beq_eq_false_iff_ne] at h
  obtain ⟨⟨henergy, h70⟩, h71⟩ := h
  unfold State.setCsr
  simp only
  rw [if_neg (by omega), if_neg h70, if_neg h71]

section
variable {s : State} {sa : SR} {n : BitVec 12} (h : s.mayWrite n.toNat)
include h

theorem exec_sysWr_of : exec (.sysWr sa n) s = .next (s.setCsr s.cur n.toNat (s.srcS sa)) := by
  show execSysWr sa n s = _
  simp only [execSysWr, csrFault_none h]

theorem sysWr_makesCore {k : Core} (hn : csrInCcb n.toNat = false) (hk : (s.core s.cur).setCsr n.toNat (s.srcS sa) = k) :
    MakesCore s (.sysWr sa n) k :=
  ⟨_, (exec_sysWr_of h).trans (congrArg _ (setCsr_inCore s s.cur _ hn)), onlyCore_modCore s s.cur _,
    (State.core_modCore_same s s.cur _).trans hk⟩

theorem sysWr_writesHome {a len : Nat} (hw : s.setCsr s.cur n.toNat (s.srcS sa) = s.writeNat a len (s.srcS sa).toNat) :
    WritesHome s (.sysWr sa n) (s.srcS sa) a len := by
  have hbut := sameBytesBut_writeBytes s a (leBytes len (s.srcS sa).toNat)
  have hkept := keptAfter_writeBytes s a (leBytes len (s.srcS sa).toNat)
  rw [leBytes_length] at hbut hkept
  exact ⟨_, (exec_sysWr_of h).trans (congrArg _ hw), rfl, holdsBytes_writeBytes s a _, hbut, hkept⟩

end

/-- The read-only CSRs below the link registers (08 R186). -/
def csrsReadOnly : List (BitVec 12) :=
  [0x000, 0x001, 0x002, 0x031, 0x038, 0x039, 0x058, 0x059, 0x080, 0x081, 0x082, 0x083]

/-- They and the link registers but STALL_LIMIT lie neither among the core's writable CSRs nor in the CCB, and a write of
them takes no PRIV (08 R186, 19 R406). -/
theorem csr_readOnly {n : BitVec 12} (h : n ∈ csrsReadOnly ∨ (0x100 ≤ n.toNat ∧ n ≠ 0x102)) :
    csrHandlerOnly n.toNat = false ∧ csrInCcb n.toNat = false ∧ n.toNat ∉ csrsInCore := by
  rcases h with h | ⟨hlow, hne⟩
  · have hall : ∀ m ∈ csrsReadOnly.map BitVec.toNat,
        csrHandlerOnly m = false ∧ csrInCcb m = false ∧ m ∉ csrsInCore := by decide
    exact hall _ (List.mem_map_of_mem h)
  · have hstall : n.toNat ≠ 0x102 := fun heq => hne (BitVec.eq_of_toNat_eq heq)
    generalize n.toNat = m at hlow hstall
    refine ⟨?_, ?_, ?_⟩
    · simp [csrHandlerOnly]; omega
    · simp [csrInCcb]; omega
    · simp [csrsInCore]; omega

theorem sysWr_readOnly {s : State} {sa : SR} {n : BitVec 12} (h : csrHandlerOnly n.toNat = false)
    (hccb : csrInCcb n.toNat = false) (hcore : n.toNat ∉ csrsInCore) : MakesCore s (.sysWr sa n) (s.core s.cur) :=
  sysWr_makesCore (.inr h) hccb (Core.setCsr_readOnly _ _ hcore)

/-- MAC (row 0) and ROW (row 1) of format f lie in the pair of the format that f shares (08 R186, R188). -/
theorem energyOffset_entry {f row : Nat} (h : row < 2) :
    energyOffset (0x40 + 2 * f + row) = 0x40 + 4 * energyFormat f + 2 * row := by
  have hf : (0x40 + 2 * f + row - 0x40) / 2 = f := by omega
  have hrow : (0x40 + 2 * f + row) % 2 = row := by omega
  unfold energyOffset
  rw [hf, hrow]

theorem sysWr_energy {s : State} {sa : SR} {f row : Nat} (hs : (s.core s.cur).hs = true) (hf : f < 10) (hrow : row < 2) :
    WritesHome s (.sysWr sa (.ofNat 12 (0x40 + 2 * f + row))) (s.srcS sa)
      ((s.core s.cur).ccb + 0x40 + 4 * energyFormat f + 2 * row) 2 := by
  have hn : (BitVec.ofNat 12 (0x40 + 2 * f + row)).toNat = 0x40 + 2 * f + row := by
    rw [BitVec.toNat_ofNat]; omega
  refine sysWr_writesHome (.inl hs) ?_
  have haddr : (s.core s.cur).ccb + 0x40 + 4 * energyFormat f + 2 * row =
      (s.core s.cur).ccb + energyOffset (0x40 + 2 * f + row) := by
    rw [energyOffset_entry hrow]; omega
  rw [haddr, hn]
  exact if_pos (by omega)

/-! ## TLB_INV -/

/-- A core whose TLBs have dropped what TLB_INV names (08 R196). -/
def Core.dropTlbs (k : Core) (ctx : Nat) (va : Option Nat) : Core :=
  { k with
    tlb := dropTlb k.tlb ctx va, tlbMx := dropTlb k.tlbMx ctx va, tlbCy := dropTlb k.tlbCy ctx va
    tlbGa := dropTlb k.tlbGa ctx va, tlbLk := dropTlb k.tlbLk ctx va }

theorem core_invalidateTlbs (s : State) (ctx : Nat) (va : Option Nat) (d : Nat) :
    (s.invalidateTlbs ctx va).core d = (s.core d).dropTlbs ctx va :=
  State.core_mapCores s (·.dropTlbs ctx va) d rfl

/-- The word of TLB_INV names one address in mode 1 with its other fields 0, else every translation of the context. -/
theorem dropTlb_target (t : List TlbEntry) (x : W64) : dropTlb t (fld x 4 4) (tlbInvTarget x) =
    t.filter fun e => !(e.ctx == fld x 4 4 &&
      (if fld x 0 3 = 1 ∧ fld x 3 1 = 0 ∧ fld x 8 8 = 0 ∧ fld x 57 7 = 0 then
        decide (e.base ≤ fld x 16 41 * 65536 ∧ fld x 16 41 * 65536 < e.base + e.size) else true)) := by
  unfold dropTlb tlbInvTarget
  by_cases hmode : fld x 0 3 = 1 ∧ fld x 3 1 = 0 ∧ fld x 8 8 = 0 ∧ fld x 57 7 = 0
  · simp only [if_pos hmode, Bool.decide_and]
  · simp only [if_neg hmode]

theorem exec_tlbInv_of {s : State} {sa : SR} (h : (s.core s.cur).hs = true) :
    exec (.tlbInv sa) s = .next (s.invalidateTlbs (fld (s.srcS sa) 4 4) (tlbInvTarget (s.srcS sa))) := by
  show execTlbInv sa s = _
  simp only [execTlbInv, csrFault_none (.inl h)]

end Sys2Proof.Machine
end

section
/-! SUPPORT. cmpt.v by lanes (08 R208), the registers that a core unbinds as its node ends (17 R376), and what halt leaves
(08 R206). -/

namespace Sys2Proof.Machine

open Sys2Proof

/-! ## cmpt and cmpt.v -/

section
variable {s : State} {va vb : VR}

theorem cmptVFault_none (h : ∀ l, l < 128 → lane (s.srcV va) l = lane (s.srcV vb) l) : s.cmptVFault va vb = none := by
  have hfind : ((List.range 128).find? fun l => lane (s.srcV va) l != lane (s.srcV vb) l) = none := by
    rw [List.find?_eq_none]
    intro l hl
    simp [h l (List.mem_range.mp hl)]
  unfold State.cmptVFault
  rw [hfind]

/-- The lowest differing lane is TRAP_INFO. -/
theorem cmptVFault_lane {l : Nat} (hl : l < 128) (hne : lane (s.srcV va) l ≠ lane (s.srcV vb) l)
    (hlow : ∀ j, j < l → lane (s.srcV va) j = lane (s.srcV vb) j) : s.cmptVFault va vb = some ⟨.cmpt, l, 0⟩ := by
  have hfind : ((List.range 128).find? fun j => lane (s.srcV va) j != lane (s.srcV vb) j) = some l := by
    rw [List.find?_range_eq_some]
    exact ⟨by simpa using hne, List.mem_range.mpr hl, fun j hj => by simpa using hlow j hj⟩
  unfold State.cmptVFault
  rw [hfind]

end

/-! ## The end of a node -/

theorem unbind_pool (s : State) (c n : Nat) : (s.unbind c n).pool = s.pool := by
  unfold State.unbind
  split <;> rfl

theorem unbindAll_pool (s : State) (c : Nat) : (s.unbindAll c).pool = s.pool := by
  unfold State.unbindAll
  generalize List.range 8 = l
  induction l generalizing s with
  | nil => rfl
  | cons n l ih => exact (ih _).trans (unbind_pool s c n)

/-- A core with no bound register unbinds none. -/
theorem unbindAll_unbound {s : State} {c : Nat} (h : ∀ n, Tab.get none (s.core c).clBind n = none) : s.unbindAll c = s := by
  have hone : ∀ n, s.unbind c n = s := fun n => by
    unfold State.unbind
    rw [h n]
  unfold State.unbindAll
  generalize List.range 8 = l
  induction l with
  | nil => rfl
  | cons n l ih => rw [List.foldl_cons, hone]; exact ih

/-- Freeing a core changes, once its registers are unbound, cores alone. -/
theorem freeCore_rest (s : State) (c : Nat) : let t := s.freeCore c
    t = { s.unbindAll c with cores := t.cores } := by
  have hcores : ∀ (v : State) (b : Bool) (f g : Core → Core),
      let t := if b then (v.modCore c f).modCore (partnerOf c) g else v.modCore c f
      t = { v with cores := t.cores } := fun v b f g => by
    cases b <;> rfl
  exact hcores _ _ _ _

/-- The partner of a lockstep node is another core. -/
theorem core_freeCore (s : State) (c : Nat) :
    (s.freeCore c).core c = ((s.unbindAll c).core c).free.idleSince s.cycle.toNat := by
  have hpartner : c ≠ partnerOf c := by unfold partnerOf; omega
  unfold State.freeCore
  simp only
  split
  · rw [State.core_modCore_other _ _ hpartner, State.core_modCore_same]
  · exact State.core_modCore_same _ c _

theorem freeCore_pool (s : State) (c : Nat) : (s.freeCore c).pool = s.pool := by
  have hrest := freeCore_rest s c
  have hpool := unbindAll_pool s c
  generalize s.freeCore c = t at hrest ⊢
  generalize s.unbindAll c = v at hrest hpool
  rw [hrest]
  exact hpool

theorem freeCore_unbound {s : State} {c : Nat} (h : ∀ n, Tab.get none (s.core c).clBind n = none) :
    SameBytes s (s.freeCore c) ∧ (s.freeCore c).errs = s.errs := by
  have hrest := freeCore_rest s c
  rw [unbindAll_unbound h] at hrest
  generalize s.freeCore c = t at hrest ⊢
  rw [hrest]
  exact ⟨fun _ => rfl, rfl⟩

/-- A core that its node has left (08 R206). -/
theorem free_leaves (k : Core) (cycle : Nat) : let e := k.free.idleSince cycle
    e.run = .free ∧ e.hold = none ∧ e.rep = none ∧ e.preReq = false ∧ e.seg = false ∧ e.segment = Segment.reset
      ∧ e.loopBuf = { pinned := [], captured := [] } ∧ e.recvs = [] :=
  ⟨rfl, rfl, rfl, rfl, (statusBit_setStatus _ 6 6 false (by omega)).trans (if_pos rfl), rfl, rfl, rfl⟩

/-- nd.done leaves the bindings of every core. -/
theorem clBind_ended (u : State) (sd : SR) (x : W64) (c : Nat) :
    ((((u.modCur fun k => { k with ndDone := true }).dstS sd x).markL sd).core c).clBind = (u.core c).clBind := by
  obtain ⟨-, hother, -, hcore⟩ := marksL_ended u sd x
  by_cases hc : c = u.cur
  · subst hc
    rw [hcore]
    split <;> rfl
  · rw [hother c hc]

theorem exec_halt_ended {s : State} (h : (s.core s.cur).ndDone = true) : exec .halt s = .next (s.freeCore s.cur) := by
  have hcond : s.curCore.ndDone = true := h
  show execHalt s = _
  simp only [execHalt, hcond, if_true]

/-- A node that has not executed nd.done makes its graph effect, with result 0, as it halts. -/
theorem exec_halt_ends {s : State} (h : (s.core s.cur).ndDone = false) :
    exec .halt s = .next ((((s.releaseAll s.cur).graphDone s.cur 0).2).freeCore s.cur) := by
  have hcond : s.curCore.ndDone = false := h
  show execHalt s = _
  simp only [execHalt, hcond, Bool.false_eq_true, if_false]

/-- halt frees the core of the state as it is, or as the graph effect of nd.done leaves it. -/
theorem exec_halt_frees (s : State) : ∃ v : State, exec .halt s = .next (v.freeCore s.cur)
    ∧ ((s.core s.cur).ndDone = true → v = s)
    ∧ ((s.core s.cur).ndDone = false → v = ((s.releaseAll s.cur).graphDone s.cur 0).2) := by
  cases h : (s.core s.cur).ndDone with
  | true => exact ⟨_, exec_halt_ended h, fun _ => rfl, nofun⟩
  | false => exact ⟨_, exec_halt_ends h, nofun, fun _ => rfl⟩

/-- nd.done with result 0 leaves the pool, the memory and the bindings that halt frees its core over. -/
theorem exec_ndDone_zero {s u : State} (h : exec (.ndDone 0 0) s = .next u) :
    let v := ((s.releaseAll s.cur).graphDone s.cur 0).2
    u = { v with cores := u.cores } ∧ ∀ c, (u.core c).clBind = (v.core c).clBind := by
  generalize hg : (s.releaseAll s.cur).graphDone s.cur 0 = p
  obtain ⟨b, v⟩ := p
  have hu := Host.Outcome.next.inj (h.symm.trans (exec_ndDone_of (sd := 0) (sa := 0) hg))
  refine ⟨?_, fun c => ?_⟩
  · rw [hu]; exact (marksL_ended v 0 _).1
  · rw [hu]; exact clBind_ended v 0 _ c

end Sys2Proof.Machine
end

section
/-! PROPERTIES. Traps, CSRs and the end of a node (08 R181 to R208). -/

namespace Sys2Proof.Machine

open Sys2Proof

/-- Settles O19: a trap enters the handler of a core that handles it, and else faults the context. -/
theorem trapEntrySavesTheTrapAndEntersTheHandler : Obligations.TrapEntrySavesTheTrapAndEntersTheHandler := by
  unfold Obligations.TrapEntrySavesTheTrapAndEntersTheHandler
  exact fun s c t pc slot => ⟨takeTrap_enters s c t pc slot, takeTrap_faults t pc slot⟩

/-- Settles O20: the parts of a context fault, for the requested trap of trap. -/
theorem trapsWithNoHandlerFaultTheContext : Obligations.TrapsWithNoHandlerFaultTheContext := by
  unfold Obligations.TrapsWithNoHandlerFaultTheContext
  intro s imm x k hk hx hg
  have hexec : exec (.trap imm) s = .next (s.contextFault s.cur .trap k.pc) :=
    congrArg Host.Outcome.next (takeTrap_faults ⟨.trap, imm.toNat, 0⟩ k.pc s.iss.slot hk)
  obtain ⟨-, hcore, hothers, hctx⟩ := contextFault_leaves .trap k.pc hx
  obtain ⟨hword, hbytes⟩ := contextFault_word .trap k.pc hx hg
  refine ⟨_, hexec, hcore, hothers, hctx, ?_, hbytes⟩
  rw [hword]
  exact fld_faultWord s s.cur .trap k.pc

/-- Settles O21: the return from a trap, by whether segment mode was suspended. -/
theorem rettRestoresWhatTheTrapSaved : Obligations.RettRestoresWhatTheTrapSaved := by
  unfold Obligations.RettRestoresWhatTheTrapSaved
  intro s hs
  refine ⟨_, exec_rett_returns hs, onlyCore_modCur s _, ?_⟩
  rw [core_modCur_cur]
  generalize s.core s.cur = k
  refine ⟨returnFromTrap_eq k, statusBit_returnFromTrap k 5, fun b h5 h6 => ?_, fun hseg => ⟨?_, ?_⟩,
    fun hseg => ⟨?_, ?_⟩⟩
  · rw [statusBit_returnFromTrap, if_neg h6, if_neg h5]
  · refine (statusBit_returnFromTrap k 6).trans ?_
    rw [if_pos rfl, hseg]
    rfl
  · rw [returnFromTrap_plain hseg]; rfl
  · refine (statusBit_returnFromTrap k 6).trans ?_
    rw [if_pos rfl, hseg]
    rfl
  · rw [returnFromTrap_segment hseg]
    exact ⟨rfl, rfl, rfl, rfl⟩

/-- Settles O22: each check names PRIV, which outside a segment's UNCORR enters the handler. -/
theorem privilegedWritesTrapOutsideHandlerState : Obligations.PrivilegedWritesTrapOutsideHandlerState := by
  unfold Obligations.PrivilegedWritesTrapOutsideHandlerState
  intro s sa csr hk
  have hs : (s.core s.cur).hs = false := hk.1
  have priv : ∀ {i : Instr} {n : Nat}, exec i s = .next (s.preciseTrap ⟨.priv, n, 0⟩) →
      TrapsPrecisely s i .priv (.ofNat 64 n) 0 :=
    fun hi => ⟨_, hi, preciseTrap_enters s _ hk (.inl (show TrapCode.priv ≠ .uncorr by decide))⟩
  refine ⟨priv ?rett, priv ?tlbInv, fun hcsr => ?sysWr⟩
  case rett =>
    have hf : s.rettFault = some ⟨.priv, 0, 0⟩ := if_neg (by rw [Bool.not_eq_true]; exact hs)
    show execRett s = _
    simp only [execRett, hf]
  case tlbInv =>
    show execTlbInv sa s = _
    simp only [execTlbInv, csrFault_priv hs (show csrHandlerOnly 0x018 = true from rfl)]
  case sysWr =>
    have hmarked : csrHandlerOnly csr.toNat = true := by
      rcases hcsr with h | rfl | rfl | h
      · simp [csrHandlerOnly, h]
      · rfl
      · rfl
      · simp [csrHandlerOnly, h]
    rw [← BitVec.ofNat_toNat]
    refine priv ?_
    show execSysWr sa csr s = _
    simp only [execSysWr, csrFault_priv hs hmarked]

/-- Settles O23: sys.rd writes what the table of CSRs gives at the number. -/
theorem sysRdReadsTheNamedRegister : Obligations.SysRdReadsTheNamedRegister := by
  unfold Obligations.SysRdReadsTheNamedRegister
  intro s sd k reads
  have table : ∀ {n : BitVec 12} {x : W64}, s.csr s.cur n.toNat = x → reads n x := sysRd_sets
  exact ⟨fun n => ⟨_, table rfl⟩, fun hc => table (csr_coreId hc), table rfl, table rfl, table rfl, table rfl, table rfl,
    table rfl, table rfl, table rfl, table rfl, table rfl, table rfl, table rfl, table rfl, table rfl, table rfl, table rfl,
    table rfl, table rfl, table rfl, table rfl, table rfl, table rfl⟩

/-- Settles O24: a CSR lies in the core, in the CCB, or is not written, and TLB_INV changes every core's TLBs. -/
theorem sysWrWritesTheFieldsOfTheRegister : Obligations.SysWrWritesTheFieldsOfTheRegister := by
  unfold Obligations.SysWrWritesTheFieldsOfTheRegister
  intro s sa k x becomes stores
  have inCore : ∀ {n : BitVec 12} {k' : Core}, s.mayWrite n.toNat → csrInCcb n.toNat = false → k.setCsr n.toNat x = k' →
      becomes n k' := fun h hccb hk => sysWr_makesCore h hccb hk
  have isOpen : ∀ {n : BitVec 12} {k' : Core}, csrHandlerOnly n.toNat = false → csrInCcb n.toNat = false →
      k.setCsr n.toNat x = k' → becomes n k' := fun h => inCore (.inr h)
  refine ⟨fun hs => ?handler, fun hs q hq row hrow => ?energy, isOpen rfl rfl rfl, isOpen rfl rfl rfl, isOpen rfl rfl rfl,
    isOpen rfl rfl rfl, isOpen rfl rfl rfl, isOpen rfl rfl rfl, fun n hn => ?readOnly,
    sysWr_writesHome (.inr rfl) rfl, sysWr_writesHome (.inr rfl) rfl⟩
  case handler =>
    refine ⟨inCore (.inl hs) rfl rfl, inCore (.inl hs) rfl rfl, inCore (.inl hs) rfl rfl, inCore (.inl hs) rfl rfl,
      inCore (.inl hs) rfl rfl, _, exec_tlbInv_of hs, rfl, fun _ => rfl, fun d => ?_⟩
    intro keeps
    rw [core_invalidateTlbs]
    simp only [Core.dropTlbs, dropTlb_target]
    rfl
  case energy =>
    have hformat : q.1 < 10 ∧ energyFormat q.1 = q.2 := by
      revert q
      decide
    have hwrites := sysWr_energy (sa := sa) hs hformat.1 hrow
    rw [hformat.2] at hwrites
    exact hwrites
  case readOnly =>
    obtain ⟨hopen, hccb, hcore⟩ := csr_readOnly (hn.imp_right fun ⟨hlow, _, hne, _⟩ => ⟨hlow, hne⟩)
    exact sysWr_readOnly hopen hccb hcore

/-- Settles O25: requested traps enter the handler, a comparison traps on a difference, and halt frees its core over what
nd.done leaves. -/
theorem requestedTrapsYieldCompareAndHaltEndAsTheSpecSays :
    Obligations.RequestedTrapsYieldCompareAndHaltEndAsTheSpecSays := by
  unfold Obligations.RequestedTrapsYieldCompareAndHaltEndAsTheSpecSays
  intro s sa sb va vb imm
  refine ⟨fun hk => ⟨⟨_, rfl, takeTrap_enters s s.cur ⟨.trap, imm.toNat, 0⟩ _ _ hk⟩,
      ⟨_, rfl, takeTrap_enters s s.cur ⟨.brk, imm.toNat, 0⟩ _ _ hk⟩⟩,
    ⟨_, rfl, onlyCore_modCur s _, core_modCur_cur s _⟩, fun heq => ?equal, fun heq => ?equalLanes,
    fun hk => ⟨fun hne => ?different, fun l hl hne hlow => ?lane⟩, ?halt⟩
  case equal =>
    have hf : s.cmptFault sa sb = none := if_pos heq
    show execCmpt sa sb s = _
    simp only [execCmpt, hf]
  case equalLanes =>
    show execCmptV va vb s = _
    simp only [execCmptV, cmptVFault_none heq]
  case different =>
    have hf : s.cmptFault sa sb = some ⟨.cmpt, 0, 0⟩ := if_neg hne
    refine ⟨s.preciseTrap ⟨.cmpt, 0, 0⟩, ?_, preciseTrap_enters s _ hk (.inl (show TrapCode.cmpt ≠ .uncorr by decide))⟩
    show execCmpt sa sb s = _
    simp only [execCmpt, hf]
  case lane =>
    refine ⟨s.preciseTrap ⟨.cmpt, l, 0⟩, ?_, preciseTrap_enters s _ hk (.inl (show TrapCode.cmpt ≠ .uncorr by decide))⟩
    show execCmptV va vb s = _
    simp only [execCmptV, cmptVFault_lane hl hne hlow]
  case halt =>
    obtain ⟨v, hexec, hended, hends⟩ := exec_halt_frees s
    refine ⟨_, hexec, ?_, fun hdone => ?_, fun hdone u hu => ?_⟩
    · rw [core_freeCore]
      exact free_leaves _ _
    · rw [hended hdone]
      exact ⟨freeCore_pool s s.cur, fun hb => (freeCore_unbound hb).1⟩
    · obtain ⟨hrest, hbind⟩ := exec_ndDone_zero hu
      rw [← hends hdone] at hrest hbind
      have hbyte : SameBytes v u := fun a => by rw [hrest]; rfl
      refine ⟨(freeCore_pool v s.cur).trans (by rw [hrest]), fun hb => ?_⟩
      obtain ⟨hbytes, herrs⟩ := freeCore_unbound (s := v) (c := s.cur) fun n => by rw [← hbind]; exact hb n
      exact ⟨fun a => (hbytes a).trans (hbyte a).symm, herrs.trans (by rw [hrest])⟩

end Sys2Proof.Machine
end

section
/-! SUPPORT. Exact values (03 R53, R57): a finite value as a count of steps, and what the exact sum and product count. -/

namespace Sys2Proof.Machine

open Sys2Proof

/-- A count of steps is a sign times a magnitude. -/
theorem scaled_eq (n : Bool) (m : Nat) (e h : Int) :
    scaled n m e h = (if n then -1 else 1 : Int) * (m * 2 ^ (e - h).toNat) := by
  unfold scaled
  cases n <;> simp

/-- Finer steps of the same value. -/
theorem scaled_finer (n : Bool) (m : Nat) {e g h : Int} (hg : g ≤ e) (hh : h ≤ g) :
    scaled n m e h = scaled n m e g * 2 ^ (g - h).toNat := by
  have hexp : (e - h).toNat = (e - g).toNat + (g - h).toNat := by omega
  rw [scaled_eq, scaled_eq, hexp, pow_add]
  ring

@[simp] theorem scaled_zero (n : Bool) (e h : Int) : scaled n 0 e h = 0 := by simp [scaled_eq]

theorem scaled_not (n : Bool) (m : Nat) (e h : Int) : scaled (!n) m e h = -scaled n m e h := by
  rw [scaled_eq, scaled_eq]
  cases n <;> simp

/-- An integer as a sign and a magnitude counts itself, in finer steps too. -/
theorem scaled_ofSign (v : Int) (g h : Int) : scaled (decide (v < 0)) v.natAbs g h = v * 2 ^ (g - h).toNat := by
  rw [scaled_eq, ← mul_assoc]
  congr 1
  by_cases hv : v < 0
  · simp [hv, abs_of_neg hv]
  · simp [hv, abs_of_nonneg (not_lt.mp hv)]

/-- A product of counts counts the product. -/
theorem scaled_mul (n p : Bool) (m q : Nat) {e f h j : Int} (hh : h ≤ e) (hj : j ≤ f) :
    scaled (n != p) (m * q) (e + f) (h + j) = scaled n m e h * scaled p q f j := by
  have hexp : (e + f - (h + j)).toNat = (e - h).toNat + (f - j).toNat := by omega
  rw [scaled_eq, scaled_eq, scaled_eq, hexp, pow_add]
  cases n <;> cases p <;> push_cast <;> simp <;> ring

/-- The exact sum of two finite values is finite, and counts the sum of their counts (03 R57). -/
theorem add_fin (mode : Nat) (n p : Bool) (m q : Nat) (e f : Int) :
    ∃ r t g, (Num.fin n m e).add mode (.fin p q f) = .fin r t g
      ∧ ∀ h, h ≤ e → h ≤ f → h ≤ g → scaled r t g h = scaled n m e h + scaled p q f h := by
  have hsum : ∀ h, h ≤ min e f → scaled n m e h + scaled p q f h =
      (scaled n m e (min e f) + scaled p q f (min e f)) * 2 ^ (min e f - h).toNat := fun h hh => by
    rw [scaled_finer n m (min_le_left e f) hh, scaled_finer p q (min_le_right e f) hh, add_mul]
  by_cases hv : scaled n m e (min e f) + scaled p q f (min e f) = 0
  · have hz : ∃ r, (Num.fin n m e).add mode (.fin p q f) = .fin r 0 0 := by
      simp only [Num.add, hv, if_true]
      split <;> exact ⟨_, rfl⟩
    obtain ⟨r, hr⟩ := hz
    exact ⟨r, 0, 0, hr, fun h he hf _ => by rw [hsum h (le_min he hf), hv, zero_mul, scaled_zero]⟩
  · refine ⟨_, _, _, if_neg hv, fun h he hf _ => ?_⟩
    rw [hsum h (le_min he hf), scaled_ofSign]

/-- The sum of a finite value and its negation is a zero whose sign the mode gives (09 R219). -/
theorem add_fin_not (mode : Nat) (n : Bool) (m : Nat) (e : Int) :
    (Num.fin n m e).add mode (.fin (!n) m e) = .fin (mode == 3) 0 0 := by
  have hv : scaled n m e (min e e) + scaled (!n) m e (min e e) = 0 := by rw [scaled_not, add_neg_cancel]
  have hn : ¬(m = 0 ∧ m = 0 ∧ n = !n) := by cases n <;> simp
  simp only [Num.add, hv, if_true, if_neg hn]

/-- Two zeros of one sign give that zero (09 R219). -/
theorem add_zeros (mode : Nat) (n : Bool) (e f : Int) : (Num.fin n 0 e).add mode (.fin n 0 f) = .fin n 0 0 := by
  simp [Num.add]

end Sys2Proof.Machine
end

section
/-! SUPPORT. The float ops of the vector engine (09 R219, R220). -/

namespace Sys2Proof.Machine

open Sys2Proof

theorem fld_low_16 (x : W32) : fld x 0 16 = x.toNat % 65536 := by simp [fld, bitsAt]

/-- The choice of vmin.f and vmax.f, a NaN first (09 R220). -/
theorem f32Pick_eq (smaller : Bool) (a b : W32) : f32Pick smaller a b =
    if (f32 a).isNan ∧ (f32 b).isNan then 0x7FC00000
    else if (f32 a).isNan then b
    else if (f32 b).isNan then a
    else if smaller then (if f32Below b a then b else a) else (if f32Below a b then b else a) := by
  unfold f32Pick nanF32
  cases (f32 a).isNan <;> cases (f32 b).isNan <;> simp

/-- −0 lies below +0 (09 R220). -/
theorem f32Below_iff (a b : W32) : f32Below a b = true ↔
    (f32 a).lt (f32 b) = true ∨ ((f32 a).eq (f32 b) = true ∧ a.msb = true ∧ b.msb = false) := by
  simp [f32Below, BitVec.msb_eq_getLsbD_last, and_assoc]

/-- Settles O36: each op is a governed write of one rounding, and exact sums and products count their operands' counts. -/
theorem floatVectorOpsRoundTheExactValueOnce : Obligations.FloatVectorOpsRoundTheExactValueOnce := by
  unfold Obligations.FloatVectorOpsRoundTheExactValueOnce
  refine ⟨fun s vd va vb vc k rm => ?_, ?_⟩
  · intro x y z noise m picks
    have hnoise : ∀ l, fld (z l) 0 16 = noise l := fun l => fld_low_16 (z l)
    have arith : ∀ (i : Instr) (f : W32 → W32 → Nat → W32), exec i s = s.vecArith f vd va vb vc k →
        SetsV s i vd (s.governs k) fun l => f (x l) (y l) (noise l) := fun i f hi => by
      refine setsV_of_vecOp (hi.trans ?_)
      unfold State.vecArith
      simp only [← hnoise, x, y, z]
    have pick : ∀ smaller l, f32Pick smaller (x l) (y l) = picks smaller l := fun smaller l => by
      simp only [f32Pick_eq, f32Below_iff, picks]
    refine ⟨arith _ (f32Add m) rfl, arith _ (f32Sub m) rfl, arith _ (f32Mul m) rfl, setsV_of_vecOp rfl, ?_, ?_, setsV_of_vecOp rfl⟩
    · rw [show picks true = fun l => f32Pick true (x l) (y l) from funext fun l => (pick true l).symm]
      exact setsV_of_vecOp rfl
    · rw [show picks false = fun l => f32Pick false (x l) (y l) from funext fun l => (pick false l).symm]
      exact setsV_of_vecOp rfl
  · intro v mode n p m q e f
    simp only [v, ← scaled_eq]
    exact ⟨add_fin mode n p m q e f, ⟨_, _, _, rfl, fun h j hh hj _ => scaled_mul n p m q hh hj⟩, add_fin_not mode n m e,
      ⟨_, _, add_zeros mode n e f, rfl⟩, if_neg (by cases n <;> simp), by simp [Num.mul]⟩

end Sys2Proof.Machine
end

section
/-! SUPPORT. The order of exact values (03 R57): `lt` compares ranks in a linear order. -/

namespace Sys2Proof.Machine

open Sys2Proof

/-- The rational (−1)^n × m × 2^e. -/
def finVal (n : Bool) (m : Nat) (e : Int) : ℚ := (if n then -1 else 1) * (m * 2 ^ e)

/-- A value as an element of the ordered rationals with both infinities; a NaN has no place of its own. -/
def Num.rank : Num → WithBot (WithTop ℚ)
  | .nan => ⊥
  | .inf true => ⊥
  | .inf false => ⊤
  | .fin n m e => ((finVal n m e : WithTop ℚ) : WithBot (WithTop ℚ))

/-- A count of steps 2^g is the value over 2^g. -/
theorem scaled_eq_finVal (n : Bool) (m : Nat) {e g : Int} (h : g ≤ e) : (scaled n m e g : ℚ) = finVal n m e * 2 ^ (-g) := by
  have hpow : (2 : ℚ) ^ e * 2 ^ (-g) = 2 ^ (e - g).toNat := by
    rw [← zpow_add₀ (by norm_num), ← zpow_natCast, show ((e - g).toNat : Int) = e + -g by omega]
  rw [scaled_eq, finVal, mul_assoc, mul_assoc, hpow]
  cases n <;> simp

theorem lt_fin_iff (n p : Bool) (m q : Nat) (e f : Int) :
    (Num.fin n m e).lt (.fin p q f) = true ↔ finVal n m e < finVal p q f := by
  have hpos : (0 : ℚ) < 2 ^ (-min e f) := by positivity
  rw [← mul_lt_mul_iff_left₀ hpos, ← scaled_eq_finVal n m (min_le_left e f), ← scaled_eq_finVal p q (min_le_right e f),
    Int.cast_lt]
  exact decide_eq_true_iff

/-- Values that are not NaN compare as their ranks do. -/
theorem Num.lt_iff_rank {x y : Num} (hx : x.isNan = false) (hy : y.isNan = false) : x.lt y = true ↔ x.rank < y.rank := by
  cases x with
  | nan => simp [Num.isNan] at hx
  | inf a =>
    cases y with
    | nan => simp [Num.isNan] at hy
    | inf b => cases a <;> cases b <;> simp [Num.lt, Num.rank]
    | fin p q f =>
      cases a
      · simp [Num.lt, Num.rank]
      · simp [Num.lt, Num.rank]
  | fin n m e =>
    cases y with
    | nan => simp [Num.isNan] at hy
    | inf b =>
      cases b
      · simpa [Num.lt, Num.rank] using WithBot.coe_lt_coe.mpr (WithTop.coe_lt_top _)
      · simp [Num.lt, Num.rank]
    | fin p q f => simpa only [Num.rank, WithBot.coe_lt_coe, WithTop.coe_lt_coe] using lt_fin_iff n p m q e f

/-- A comparison with a NaN is false. -/
theorem Num.lt_of_isNan {x y : Num} (h : x.isNan = true ∨ y.isNan = true) : x.lt y = false := by
  cases x <;> cases y <;> simp_all [Num.isNan, Num.lt]

/-- No value lies both below and above another. -/
theorem Num.lt_asymm {x y : Num} (h : x.lt y = true) : y.lt x = false := by
  have hx : x.isNan = false := by
    by_contra hn
    rw [Num.lt_of_isNan (.inl (by simpa using hn))] at h
    cases h
  have hy : y.isNan = false := by
    by_contra hn
    rw [Num.lt_of_isNan (.inr (by simpa using hn))] at h
    cases h
  rw [Num.lt_iff_rank hx hy] at h
  rw [← Bool.not_eq_true, Num.lt_iff_rank hy hx]
  exact h.not_gt

end Sys2Proof.Machine
end

section
/-! SUPPORT. Numbers packed from digits in rising order (09 R213), and the bits of a mask (R212). -/

namespace Sys2Proof.Machine

open Sys2Proof

/-- Digit p of a number packed from digits below the base. -/
theorem foldr_digit {α : Type} (b : Nat) (g : α → Nat) {l : List α} (hg : ∀ a ∈ l, g a < b) {p : Nat} (hp : p < l.length) :
    l.foldr (fun a acc => g a + b * acc) 0 / b ^ p % b = g l[p] := by
  induction l generalizing p with
  | nil => simp at hp
  | cons a l ih =>
    have ha := hg a (by simp)
    have hrest := fun c hc => hg c (List.mem_cons_of_mem a hc)
    cases p with
    | zero => simp [Nat.add_mul_mod_self_left, Nat.mod_eq_of_lt ha]
    | succ p =>
      have hdiv : (g a + b * l.foldr (fun a acc => g a + b * acc) 0) / b = l.foldr (fun a acc => g a + b * acc) 0 := by
        rw [Nat.add_mul_div_left _ _ (by omega), Nat.div_eq_of_lt ha, Nat.zero_add]
      rw [List.foldr_cons, Nat.pow_succ', ← Nat.div_div_eq_div_mul, hdiv]
      exact ih hrest (by simpa using hp)

theorem foldr_digits_lt {α : Type} (b : Nat) (g : α → Nat) {l : List α} (hg : ∀ a ∈ l, g a < b) :
    l.foldr (fun a acc => g a + b * acc) 0 < b ^ l.length := by
  induction l with
  | nil => simp
  | cons a l ih =>
    have ha := hg a (by simp)
    have hl := ih fun c hc => hg c (List.mem_cons_of_mem a hc)
    rw [List.foldr_cons, List.length_cons, Nat.pow_succ']
    calc g a + b * l.foldr (fun a acc => g a + b * acc) 0
        < b * (l.foldr (fun a acc => g a + b * acc) 0 + 1) := by rw [Nat.mul_add]; omega
      _ ≤ b * b ^ l.length := Nat.mul_le_mul_left b hl

/-- Bit l of a mask made of bits. -/
theorem getLsbD_maskOf (f : Nat → Bool) {l : Nat} (hl : l < 128) : (maskOf f).getLsbD l = f l := by
  have hlt : ∀ a ∈ List.range 128, b2n (f a) < 2 := fun a _ => by cases f a <;> decide
  have hdigit := foldr_digit 2 (fun a => b2n (f a)) hlt (p := l) (by simpa using hl)
  rw [List.getElem_range] at hdigit
  rw [maskOf, BitVec.getLsbD_ofNat, Nat.testBit_eq_decide_div_mod_eq, hdigit]
  cases f l <;> simp [hl, b2n]

end Sys2Proof.Machine
end

section
/-! SUPPORT. Compares, masks and counts (09 R224 to R227). -/

namespace Sys2Proof.Machine

open Sys2Proof

/-- vcmp writes the governed truths (09 R224). -/
theorem vcmp_setsK {s : State} {kd k : KR} {va vb : VR} {kind : BitVec 2} {cond : BitVec 3} {f : Nat → Bool}
    (h : ∀ l, vcmpLane kind cond (lane (s.srcV va) l) (lane (s.srcV vb) l) = f l) :
    SetsK s (.vcmp kd va vb k kind cond) kd fun l => s.governs k l && f l :=
  setsK_of_markK rfl fun l hl => (getLsbD_maskOf _ hl).trans (by rw [h]; rfl)

/-- Of two words, read as integers by v, one is less, equal or greater (09 R224). -/
theorem compareBy_ordered {α : Type} [LinearOrder α] (v : W32 → α) (hv : v.Injective) (a b : W32) :
    (compareBy 0 false (decide (v a < v b)) (a == b) = (a == b))
    ∧ (compareBy 1 false (decide (v a < v b)) (a == b) = (a != b))
    ∧ (compareBy 2 false (decide (v a < v b)) (a == b) = decide (v a < v b))
    ∧ (compareBy 3 false (decide (v a < v b)) (a == b) = decide (v a ≤ v b))
    ∧ (compareBy 4 false (decide (v a < v b)) (a == b) = decide (v a > v b))
    ∧ (compareBy 5 false (decide (v a < v b)) (a == b) = decide (v a ≥ v b)) := by
  have heq : (a == b) = decide (v a = v b) := by
    rw [Bool.eq_iff_iff, beq_iff_eq, decide_eq_true_iff]
    exact hv.eq_iff.symm
  rcases lt_trichotomy (v a) (v b) with h | h | h
  · simp [compareBy, heq, bne, h, h.ne, h.le, h.not_gt, h.not_ge]
  · simp [compareBy, heq, bne, h]
  · simp [compareBy, heq, bne, h, h.ne', h.le, h.not_gt, h.not_ge]

/-- Of two float lanes, neither of them NaN, one is less, equal or greater (09 R224). -/
theorem compareBy_float (x y : Num) :
    let num := !x.isNan && !y.isNan
    let by_ := fun cond => compareBy cond (x.isNan || y.isNan) (x.lt y) (x.eq y)
    by_ 0 = (num && !x.lt y && !y.lt x) ∧ by_ 1 = (!num || x.lt y || y.lt x) ∧ by_ 2 = (num && x.lt y)
    ∧ by_ 3 = (num && !y.lt x) ∧ by_ 4 = (num && y.lt x) ∧ by_ 5 = (num && !x.lt y) ∧ by_ 6 = !num := by
  have hasymm : x.lt y = true → y.lt x = false := Num.lt_asymm
  unfold Num.eq
  generalize x.isNan = nx, y.isNan = ny, x.lt y = less, y.lt x = more at *
  revert nx ny less more
  decide

/-- kop writes its combination bit by bit (09 R226). -/
theorem kop_setsK {s : State} {kd ka kb : KR} {op : BitVec 3} {f : Nat → Bool}
    (h : ∀ l, l < 128 → (kopValue op (s.srcK ka) (s.srcK kb)).getLsbD l = f l) : SetsK s (.kop kd ka kb op) kd f :=
  setsK_of_markK rfl h

/-- No bit of a mask is set exactly when it is zero. -/
theorem filter_getLsbD_eq_nil_iff (m : W128) : (List.range 128).filter m.getLsbD = [] ↔ m = 0 := by
  rw [List.filter_eq_nil_iff]
  constructor
  · intro h
    refine BitVec.eq_of_getLsbD_eq fun i hi => ?_
    have hbit : m.getLsbD i = false := by simpa using h i (List.mem_range.mpr hi)
    exact hbit.trans BitVec.getLsbD_zero.symm
  · rintro rfl i _
    simp

/-- The lowest set bit of a mask, or 128 (09 R227). -/
theorem kpopValue_first (m : W128) : if m = 0 then kpopValue 1 m = 128
    else m.getLsbD (kpopValue 1 m) = true ∧ ∀ j, j < kpopValue 1 m → m.getLsbD j = false := by
  have hval : kpopValue 1 m = ((List.range 128).find? m.getLsbD).getD 128 := by
    rw [← List.head?_filter]
    rfl
  rw [hval]
  split
  · rw [List.find?_eq_none.mpr (List.filter_eq_nil_iff.mp ((filter_getLsbD_eq_nil_iff m).mpr ‹m = 0›))]
    rfl
  · cases hf : (List.range 128).find? m.getLsbD with
    | none => exact absurd ((filter_getLsbD_eq_nil_iff m).mp (List.filter_eq_nil_iff.mpr (List.find?_eq_none.mp hf))) ‹_›
    | some n =>
      rw [List.find?_range_eq_some] at hf
      obtain ⟨hn, -, hlow⟩ := hf
      exact ⟨hn, fun j hj => by simpa using hlow j hj⟩

/-- The highest set bit of a mask, or 128 (09 R227). -/
theorem kpopValue_last (m : W128) : if m = 0 then kpopValue 2 m = 128
    else m.getLsbD (kpopValue 2 m) = true ∧ ∀ j, kpopValue 2 m < j → m.getLsbD j = false := by
  have hval : kpopValue 2 m = ((List.range 128).filter m.getLsbD).getLast?.getD 128 := rfl
  rw [hval]
  split
  · rw [(filter_getLsbD_eq_nil_iff m).mpr ‹m = 0›]
    rfl
  · have hne := mt (filter_getLsbD_eq_nil_iff m).mp ‹¬m = 0›
    rw [List.getLast?_eq_some_getLast hne, Option.getD_some]
    have hmem := List.getLast_mem hne
    refine ⟨(List.mem_filter.mp hmem).2, fun j hj => ?_⟩
    by_contra hset
    rw [Bool.not_eq_false] at hset
    have hj128 : j < 128 := by
      by_contra hge
      rw [BitVec.getLsbD_of_ge m j (not_lt.mp hge)] at hset
      cases hset
    have hsorted : ((List.range 128).filter m.getLsbD).Pairwise (· ≤ ·) :=
      (List.pairwise_lt_range.imp Nat.le_of_lt).filter _
    have hjmem : j ∈ (List.range 128).filter m.getLsbD := List.mem_filter.mpr ⟨List.mem_range.mpr hj128, hset⟩
    exact absurd (hsorted.rel_getLast hjmem) (by omega)

/-- Settles O39: each op writes its mask, its lanes or its count; the conditions are one table per kind. -/
theorem maskOpsWriteMasksAndCounts : Obligations.MaskOpsWriteMasksAndCounts := by
  unfold Obligations.MaskOpsWriteMasksAndCounts
  intro s vd va vb kd ka kb k sd x y cmp num lt gt m pop
  have float := fun l => compareBy_float (f32 (x l)) (f32 (y l))
  have signed := fun l => compareBy_ordered BitVec.toInt (fun _ _ => BitVec.eq_of_toInt_eq) (x l) (y l)
  have unsigned := fun l => compareBy_ordered BitVec.toNat (fun _ _ => BitVec.eq_of_toNat_eq) (x l) (y l)
  simp only [forall_and] at float signed unsigned
  obtain ⟨feq, fne, flt, fle, fgt, fge, funo⟩ := float
  obtain ⟨seq, sne, slt, sle, sgt, sge⟩ := signed
  obtain ⟨ueq, une, ult, ule, ugt, uge⟩ := unsigned
  have count : ∀ op : BitVec 2, SetsSLate s (.kpop sd ka k op) sd (.ofNat 64 (kpopValue op m)) :=
    fun op => setsSLate_of_markS rfl
  refine ⟨vcmp_setsK feq, vcmp_setsK fne, vcmp_setsK flt, vcmp_setsK fle, vcmp_setsK fgt, vcmp_setsK fge, vcmp_setsK funo,
    vcmp_setsK seq, vcmp_setsK sne, vcmp_setsK slt, vcmp_setsK sle, vcmp_setsK sgt, vcmp_setsK sge,
    vcmp_setsK ueq, vcmp_setsK une, vcmp_setsK ult, vcmp_setsK ule, vcmp_setsK ugt, vcmp_setsK uge,
    kop_setsK fun l _ => BitVec.getLsbD_and, kop_setsK fun l _ => BitVec.getLsbD_or, kop_setsK fun l _ => ?xor,
    kop_setsK fun l hl => ?andn, kop_setsK fun l hl => ?not, kop_setsK fun l _ => rfl, setsV_of_vecPut rfl,
    ⟨_, rfl, count 0⟩, ⟨_, kpopValue_first m, count 1⟩, ⟨_, kpopValue_last m, count 2⟩⟩
  case xor => exact BitVec.getLsbD_xor.trans (by simp)
  case andn => simp [kopValue, hl]
  case not => simp [kopValue, hl]

end Sys2Proof.Machine
end

section
/-! SUPPORT. Ops of the vector engine that write one or two registers whole and gain sticky bits of STATUS (09 R214, R238 to
R242). -/

namespace Sys2Proof.Machine

open Sys2Proof

/-- Of the device only sticky bits of STATUS of the current core change. -/
def GainsSticky (s t : State) (gain : Nat → Prop) : Prop :=
  OnlyCore s.cur s t ∧ t.core s.cur = { s.core s.cur with status := (t.core s.cur).status }
    ∧ StatusGains (s.core s.cur) (t.core s.cur) gain

theorem gainsSticky_refl (s : State) : GainsSticky s s fun _ => False :=
  ⟨onlyCore_refl _ s, rfl, fun b => by simp⟩

/-- One sticky bit is set where the op says so. -/
theorem gainsSticky_sticky (s : State) {bit : Nat} (hb : bit < 7) (v : Bool) :
    GainsSticky s (s.sticky bit v) fun b => b = bit ∧ v = true := by
  cases v with
  | false => exact ⟨onlyCore_refl _ s, rfl, fun b => by simp [State.sticky]⟩
  | true =>
    have hset : s.sticky bit true = s.modCur (·.setStatus bit true) := rfl
    rw [hset]
    refine ⟨onlyCore_modCur s _, by rw [core_modCur_cur]; rfl, fun b => ?_⟩
    rw [core_modCur_cur, statusBit_setStatus _ _ _ _ hb]
    by_cases h : b = bit <;> simp [h]

theorem gainsSticky_trans {s t u : State} {p q : Nat → Prop} (h : GainsSticky s t p) (h' : GainsSticky t u q) :
    GainsSticky s u fun b => p b ∨ q b := by
  obtain ⟨honly, hcore, hgain⟩ := h
  obtain ⟨honly', hcore', hgain'⟩ := h'
  have hcur : t.cur = s.cur := by rw [honly.1]; rfl
  rw [hcur] at honly' hcore' hgain'
  exact ⟨onlyCore_trans honly honly', by rw [hcore', hcore], fun b => by rw [hgain' b, hgain b, or_assoc]⟩

theorem gainsSticky_congr {s t : State} {p q : Nat → Prop} (h : GainsSticky s t p) (hpq : ∀ b, p b ↔ q b) :
    GainsSticky s t q := ⟨h.1, h.2.1, fun b => (h.2.2 b).trans (or_congr_right (hpq b))⟩

theorem vecPut_iss (s : State) (vd : VR) (x : List W32) : (s.vecPut vd x).iss = s.iss := by
  unfold State.vecPut State.markV State.dstV
  rw [State.modCur_iss, State.modCur_iss]

@[simp] theorem vecPut_cur (s : State) (vd : VR) (x : List W32) : (s.vecPut vd x).cur = s.cur :=
  congrArg Issue.core (vecPut_iss s vd x)

theorem getV_withStatus (k : Core) (w : BitVec 7) (n : Nat) : ({ k with status := w } : Core).getV n = k.getV n := rfl

section
variable {s t : State} {i : Instr} {vd vc : VR} {x y : List W32} {f g : Nat → W32} {gain : Nat → Prop}
  (hi : exec i s = .next t)
include hi

/-- A register is written whole, and sticky bits are gained. -/
theorem setsVAll_of_vecPut (hg : GainsSticky (s.vecPut vd x) t gain) (hx : ∀ l, l < 128 → lane x l = f l) :
    SetsVAll s i vd f gain := by
  obtain ⟨honly, hcore, hgain⟩ := hg
  rw [vecPut_cur] at honly hcore hgain
  have hv : ∀ r : VR, (t.core s.cur).getV r.toNat = if r = vd then x else (s.core s.cur).getV r.toNat := fun r => by
    rw [hcore, ← vecPut_getV]
    rfl
  refine ⟨t, hi, onlyCore_trans (onlyCore_vecPut s vd x) honly, fun l hl => ?_, fun r hr => ?_, fun b => ?_, ?_⟩
  · rw [hv, if_pos rfl, hx l hl]
  · rw [hv, if_neg hr]
  · rw [hgain b, vecPut_core]
    rfl
  · rw [hcore, vecPut_core]
    rfl

/-- Two registers are written whole, and sticky bits are gained. -/
theorem setsVTwo_of_vecPut (hne : vc ≠ vd) (hg : GainsSticky ((s.vecPut vd x).vecPut vc y) t gain)
    (hx : ∀ l, l < 128 → lane x l = f l) (hy : ∀ l, l < 128 → lane y l = g l) : SetsVTwo s i vd vc f g gain := by
  obtain ⟨honly, hcore, hgain⟩ := hg
  have hput := vecPut_eq (s.vecPut vd x) vc y
  have hget := vecPut_getV (s.vecPut vd x) vc y
  have honly' := onlyCore_vecPut (s.vecPut vd x) vc y
  rw [vecPut_cur, vecPut_cur] at honly hcore hgain
  rw [vecPut_cur] at hput hget honly'
  have hv : ∀ r : VR, (t.core s.cur).getV r.toNat =
      if r = vc then y else if r = vd then x else (s.core s.cur).getV r.toNat := fun r => by
    rw [← vecPut_getV s vd x r, ← hget r, hcore, getV_withStatus]
  rw [vecPut_eq s vd x, vecPut_iss] at hput
  generalize (s.vecPut vd x).core s.cur = p at hput
  generalize ((s.vecPut vd x).vecPut vc y).core s.cur = q at hput hcore hgain
  refine ⟨t, hi, onlyCore_trans (onlyCore_vecPut s vd x) (onlyCore_trans honly' honly),
    fun l hl => ⟨?_, ?_⟩, fun r hd hc => ?_, fun b => ?_, ?_⟩
  · rw [hv, if_neg (Ne.symm hne), if_pos rfl, hx l hl]
  · rw [hv, if_pos rfl, hy l hl]
  · rw [hv, if_neg hc, if_neg hd]
  · rw [hgain b, hput]
    rfl
  · rw [hcore, hput]
    rfl

end

/-- The lanes that a governed op writes may be named by another function that agrees on them. -/
theorem setsV_congr {s : State} {i : Instr} {vd : VR} {m : Nat → Bool} {f g : Nat → W32} (h : SetsV s i vd m f)
    (hfg : ∀ l, l < 128 → m l = true → f l = g l) : SetsV s i vd m g := by
  obtain ⟨t, hi, honly, hlanes, hothers, hcore⟩ := h
  refine ⟨t, hi, honly, fun l hl => ?_, hothers, hcore⟩
  rw [hlanes l hl]
  split
  · exact hfg l hl ‹_›
  · rfl

end Sys2Proof.Machine
end

section
/-! SUPPORT. Moves of lanes (09 R233 to R239). -/

namespace Sys2Proof.Machine

open Sys2Proof

/-- Two copies of n bits, one above the other. -/
theorem testBit_twice {n v b : Nat} (hv : v < 2 ^ n) (hb : b < 2 * n) : (v * (2 ^ n + 1)).testBit b = v.testBit (b % n) := by
  rw [show v * (2 ^ n + 1) = 2 ^ n * v + v by ring, Nat.testBit_two_pow_mul_add v hv]
  split
  · rw [Nat.mod_eq_of_lt ‹_›]
  · rw [Nat.mod_eq_sub_mod (by omega), Nat.mod_eq_of_lt (by omega)]

theorem testBit_fld_low (x : W32) {n b : Nat} (hb : b < n) : (fld x 0 n).testBit b = x.getLsbD b := by
  simp [fld, bitsAt, Nat.testBit_mod_two_pow, hb, BitVec.getLsbD]

/-- vbcast of 16-bit elements repeats the low half (09 R234). -/
theorem getLsbD_bcast16 (x : W32) {b : Nat} (hb : b < 32) :
    (BitVec.ofNat 32 (fld x 0 16 * 0x10001)).getLsbD b = x.getLsbD (b % 16) := by
  have hlow : fld x 0 16 < 2 ^ 16 := Nat.mod_lt _ (by norm_num)
  rw [BitVec.getLsbD_ofNat, decide_eq_true hb, Bool.true_and, show 0x10001 = 2 ^ 16 + 1 by rfl,
    testBit_twice hlow (by omega), testBit_fld_low x (Nat.mod_lt b (by norm_num))]

/-- vbcast of 8-bit elements repeats the low byte (09 R234). -/
theorem getLsbD_bcast8 (x : W32) {b : Nat} (hb : b < 32) :
    (BitVec.ofNat 32 (fld x 0 8 * 0x1010101)).getLsbD b = x.getLsbD (b % 8) := by
  have hlow : fld x 0 8 < 2 ^ 8 := Nat.mod_lt _ (by norm_num)
  have htwo : fld x 0 8 * (2 ^ 8 + 1) < 2 ^ 16 := by omega
  rw [BitVec.getLsbD_ofNat, decide_eq_true hb, Bool.true_and,
    show fld x 0 8 * 0x1010101 = fld x 0 8 * (2 ^ 8 + 1) * (2 ^ 16 + 1) by ring, testBit_twice htwo (by omega),
    testBit_twice hlow (by omega), Nat.mod_mod_of_dvd b (by norm_num), testBit_fld_low x (Nat.mod_lt b (by norm_num))]

/-- vbcast writes its lanes (09 R234). -/
theorem vbcast_setsV {s : State} {vd : VR} {sb : SR} {k : KR} {ty : BitVec 4} {iota : Bool} {f : Nat → W32}
    (h : ∀ l, bcastLane ty iota ((s.srcS sb).setWidth 32) l = f l) :
    SetsV s (.vbcast vd sb k ty iota) vd (s.governs k) f :=
  setsV_congr (setsV_of_vecOp rfl) fun l _ _ => h l

/-- vxg takes each lane from the group that its mode names (09 R237). -/
theorem vxg_setsV {s : State} {vd va vb : VR} {k : KR} {mode c : BitVec 3} {grp : Nat → Nat}
    (h : ∀ l, vxgGroup mode c (l / 16) (lane (s.srcV vb) l) = grp l) :
    SetsV s (.vxg vd va vb k mode c) vd (s.governs k) fun l => lane (s.srcV va) (16 * grp l + l % 16) :=
  setsV_congr (setsV_of_vecOp rfl) fun l _ _ => by rw [h]

/-- Settles O40: each op is one write of lanes, named by the lane that it comes from. -/
theorem vectorMovesPermuteLanes : Obligations.VectorMovesPermuteLanes := by
  unfold Obligations.VectorMovesPermuteLanes
  intro s vd va vb vc k sb ln c x y low set moves
  refine ⟨setsV_of_vecOp rfl, vbcast_setsV fun l => rfl, vbcast_setsV fun l => ?iota, fun ty hty => ?half, fun ty hty => ?byte,
    ?vext, setsSLate_of_markS rfl, ?vperm, vxg_setsV fun l => rfl, vxg_setsV fun l => rfl, vxg_setsV fun l => rfl,
    vxg_setsV fun l => ?index, fun hne => ?vcmprs, ?vexpd⟩
  case iota =>
    show low + .ofNat 32 l = _
    exact BitVec.eq_of_toNat_eq (by simp)
  case half =>
    have hw : ∀ l, bcastLane ty false low l = .ofNat 32 (fld low 0 16 * 0x10001) := fun l => by
      rcases hty with rfl | rfl <;> rfl
    exact ⟨_, vbcast_setsV hw, fun l b hb => getLsbD_bcast16 low hb⟩
  case byte =>
    have hw : ∀ l, bcastLane ty false low l = .ofNat 32 (fld low 0 8 * 0x1010101) := fun l => by
      rcases hty with rfl | rfl <;> rfl
    exact ⟨_, vbcast_setsV hw, fun l b hb => getLsbD_bcast8 low hb⟩
  case vext =>
    have hzero : (x ln.toNat).setWidth 64 = .ofNat 64 (x ln.toNat).toNat := BitVec.eq_of_toNat_eq (by simp)
    rw [← hzero]
    exact setsSLate_of_markS rfl
  case vperm =>
    refine setsV_congr (setsV_of_vecOp rfl) fun l _ _ => ?_
    rw [Nat.mul_comm (l / 16) 16, show fld (lane (s.srcV vb) l) 0 4 = (y l).toNat % 16 by simp [fld, bitsAt, y]]
  case index =>
    show fld (y l) 0 3 = _
    simp [fld, bitsAt]
  case vcmprs =>
    refine setsVTwo_of_vecPut rfl hne (gainsSticky_refl _) (fun l hl => ?_) fun l hl => lane_lanes _ l hl
    rw [lane_lanes _ l hl, Nat.mul_comm (l / 16) 16]
    rfl
  case vexpd =>
    refine setsV_congr (setsV_of_vecPut rfl) fun l _ _ => ?_
    rw [Nat.mul_comm (l / 16) 16]
    rfl

end Sys2Proof.Machine
end

section
/-! SUPPORT. Integer elements (03 R67, 09 R213, R221): their value, what saturation does, and a lane made element by element. -/

namespace Sys2Proof.Machine

open Sys2Proof

/-- The signed value of w bits is that of the word. -/
theorem signed_eq_toInt {w : Nat} (hw : 0 < w) (x : Nat) : signed w x = (BitVec.ofNat w x).toInt := by
  have htwo := Nat.two_pow_pred_add_two_pow_pred hw
  rw [BitVec.toInt_eq_toNat_cond, BitVec.toNat_ofNat, signed]
  have hiff : x % 2 ^ w < 2 ^ (w - 1) ↔ 2 * (x % 2 ^ w) < 2 ^ w := by omega
  simp only [hiff]

/-- An element as an integer of its kind. -/
theorem elemInt_eq {w : Nat} (hw : 0 < w) (sgn : Bool) {x : Nat} (hx : x < 2 ^ w) :
    elemInt w sgn x = if sgn then (BitVec.ofNat w x).toInt else (x : Int) := by
  rw [elemInt, signed_eq_toInt hw, Nat.mod_eq_of_lt hx]

theorem intMin_le_intMax (w : Nat) (sgn : Bool) : intMin w sgn ≤ intMax w sgn := by
  have h1 : (0 : Int) < 2 ^ (w - 1) := by positivity
  have h2 : (0 : Int) < 2 ^ w := by positivity
  cases sgn <;> simp only [intMin, intMax, if_true, Bool.false_eq_true, if_false] <;> omega

/-- Saturation gives the nearest value of the kind, and reports a value outside it (03 R67). -/
theorem satInt_eq (w : Nat) (sgn : Bool) (y : Int) : satInt w sgn y =
    (min (intMax w sgn) (max (intMin w sgn) y), decide (y < intMin w sgn ∨ intMax w sgn < y)) := by
  have hle := intMin_le_intMax w sgn
  unfold satInt
  split
  · rw [max_eq_right (by omega), min_eq_left (by omega), decide_eq_true (.inr ‹_›)]
  · split
    · rw [max_eq_left (by omega), min_eq_right hle, decide_eq_true (.inl ‹_›)]
    · rw [max_eq_right (by omega), min_eq_right (by omega), decide_eq_false (by omega)]

theorem wrapInt_lt (w : Nat) (y : Int) : wrapInt w y < 2 ^ w := by
  have hpos : (0 : Int) < 2 ^ w := by positivity
  have hlt := Int.emod_lt_of_pos y hpos
  have hcast : ((2 ^ w : Nat) : Int) = 2 ^ w := by push_cast; rfl
  unfold wrapInt
  omega

theorem wrapInt_cast (w : Nat) (y : Int) : (wrapInt w y : Int) = y % 2 ^ w :=
  Int.toNat_of_nonneg (Int.emod_nonneg y (by positivity))

/-- An exact result as an element: wrapped, or first saturated (03 R67). -/
theorem finishInt_eq (w : Nat) (sgn clamp : Bool) (e : Int) : finishInt w sgn clamp e =
    (wrapInt w (if clamp then min (intMax w sgn) (max (intMin w sgn) e) else e),
      clamp && decide (e < intMin w sgn ∨ intMax w sgn < e)) := by
  unfold finishInt
  rw [satInt_eq]
  cases clamp <;> rfl

section
variable {w : Nat} (hw : 32 / w * w = 32) (f : Nat → Nat → Nat × Bool) (hf : ∀ x y, x < 2 ^ w → (f x y).1 < 2 ^ w) (a b : W32)
include hw hf

/-- Each element of a lane made element by element (09 R213). -/
theorem elemAt_mapElems {p : Nat} (hp : p < 32 / w) :
    elemAt w p (mapElems w f a b).1 = (f (elemAt w p a) (elemAt w p b)).1 := by
  have hdig : ∀ e ∈ (List.range (32 / w)).map (fun p => f (elemAt w p a) (elemAt w p b)), e.1 < 2 ^ w := by
    simp only [List.mem_map]
    rintro _ ⟨q, -, rfl⟩
    exact hf _ _ (Nat.mod_lt _ (by positivity))
  have hlt := foldr_digits_lt (2 ^ w) Prod.fst hdig
  rw [List.length_map, List.length_range, ← Nat.pow_mul, Nat.mul_comm w, hw] at hlt
  have hdigit := foldr_digit (2 ^ w) Prod.fst hdig (p := p) (by simpa using hp)
  rw [← Nat.pow_mul, List.getElem_map, List.getElem_range] at hdigit
  rw [← hdigit]
  show (mapElems w f a b).1.toNat / 2 ^ (w * p) % 2 ^ w = _
  rw [mapElems, BitVec.toNat_ofNat, Nat.mod_eq_of_lt hlt]

omit hw hf in
/-- A lane reports a saturation when one of its elements does. -/
theorem mapElems_sat : (mapElems w f a b).2 = true ↔ ∃ p, p < 32 / w ∧ (f (elemAt w p a) (elemAt w p b)).2 = true := by
  simp [mapElems]

end

end Sys2Proof.Machine
end

section
/-! SUPPORT. The integer and bitwise ops of the vector engine (09 R221 to R223). -/

namespace Sys2Proof.Machine

open Sys2Proof

/-- The kinds of elements that integer ops act on (09 R221). -/
theorem intKind_eq {ty : BitVec 4} (h : ty ∈ [0#4, 6#4, 7#4, 8#4, 9#4]) (uns : Bool) : intKind ty uns =
    (if ty = 0 then 32 else if ty.toNat ≤ 7 then 16 else 8, decide ((ty = 0 ∧ uns = false) ∨ ty = 6 ∨ ty = 8)) := by
  simp only [List.mem_cons, List.not_mem_nil, or_false] at h
  rcases h with rfl | rfl | rfl | rfl | rfl <;> cases uns <;> rfl

theorem elemShl_eq (w x c : Nat) : elemShl w x c = x * 2 ^ c % 2 ^ w := by
  unfold elemShl
  split
  · exact (Nat.mod_eq_zero_of_dvd (Dvd.dvd.mul_left (Nat.pow_dvd_pow 2 ‹w ≤ c›) x)).symm
  · rfl

theorem elemShr_eq {w x : Nat} (hx : x < 2 ^ w) (c : Nat) : elemShr w x c = x / 2 ^ c := by
  unfold elemShr
  split
  · exact (Nat.div_eq_of_lt (hx.trans_le (Nat.pow_le_pow_right (by norm_num) ‹_›))).symm
  · rfl

/-- Floor division by a power of 2 beyond a word leaves its sign alone. -/
theorem toInt_ediv_two_pow {w n : Nat} (x : BitVec w) (hn : w ≤ n) : x.toInt / 2 ^ n = if x.toInt < 0 then -1 else 0 := by
  have hle : (2 : Int) ^ (w - 1) ≤ 2 ^ n := pow_le_pow_right₀ (by norm_num) (by omega)
  have hlow := x.le_toInt
  have hhigh := x.toInt_lt
  split
  · exact Int.ediv_eq_neg_one_of_neg_of_le ‹_› (by omega)
  · exact Int.ediv_eq_zero_of_lt (by omega) (by omega)

/-- A count of w or more gives the sign (09 R223). -/
theorem elemSar_eq {w : Nat} (hw : 0 < w) (x c : Nat) :
    elemSar w x c = ((BitVec.ofNat w x).toInt / 2 ^ c % 2 ^ w).toNat := by
  have hdiv : (BitVec.ofNat w x).toInt / (2 ^ Nat.min c w : Nat) = (BitVec.ofNat w x).toInt / 2 ^ c := by
    rw [Nat.cast_pow, Nat.cast_ofNat]
    by_cases hc : c ≤ w
    · rw [show Nat.min c w = c from min_eq_left hc]
    · rw [show Nat.min c w = w from min_eq_right (by omega), toInt_ediv_two_pow _ le_rfl, toInt_ediv_two_pow _ (by omega)]
  rw [elemSar, signed_eq_toInt hw, hdiv]
  rfl

/-- A shift of each element, whose results fit it (09 R223). -/
theorem vecShift_setsV {i : Instr} {s : State} {op : Nat → Nat → Nat → Nat} {f : Nat → Nat → Nat} {vd va vb : VR} {k : KR}
    {ty : BitVec 4} {imm : Bool} {count : BitVec 5} {w : Nat} (hi : exec i s = s.vecShift op vd va vb k ty imm count)
    (hkind : (intKind ty false).1 = w) (hw : 32 / w * w = 32) (hop : ∀ e c, e < 2 ^ w → op w e c = f e c)
    (hlt : ∀ e c, e < 2 ^ w → op w e c < 2 ^ w) :
    ∃ g : Nat → W32, SetsV s i vd (s.governs k) g ∧ ∀ l p, l < 128 → p < 32 / w →
      elemAt w p (g l) = f (elemAt w p (lane (s.srcV va) l)) (if imm then count.toNat else elemAt w p (lane (s.srcV vb) l)) := by
  refine ⟨_, setsV_of_vecOp hi, fun l p _ hp => ?_⟩
  rw [hkind, elemAt_mapElems hw _ (fun e _ => hlt e _) _ _ hp]
  exact hop _ _ (Nat.mod_lt _ (by positivity))

/-- Settles O38: each op makes a lane element by element, from the exact result or by a shift. -/
theorem integerVectorOpsActOnEachElement : Obligations.IntegerVectorOpsActOnEachElement := by
  unfold Obligations.IntegerVectorOpsActOnEachElement
  intro s vd va vb k ty uns sat imm count hty w sgn bits x y val lo hi makes shifts
  have hkind : intKind ty uns = (w, sgn) := intKind_eq hty uns
  have hwidth : (intKind ty false).1 = w := congrArg Prod.fst (intKind_eq hty false)
  have hwide : 0 < w ∧ 32 / w * w = 32 := by
    simp only [w]
    split
    · decide
    · split <;> decide
  obtain ⟨hw, hall⟩ := hwide
  have helem : ∀ (r : W32) p, elemInt w sgn (elemAt w p r) = val (bits r p) := fun r p =>
    elemInt_eq hw sgn (Nat.mod_lt _ (by positivity))
  have make : ∀ (i : Instr) (clamp : Bool) (f : Int → Int → Int), exec i s = s.vecInt f vd va vb k ty uns clamp →
      makes i clamp f := fun i clamp f hi => by
    unfold State.vecInt at hi
    rw [hkind] at hi
    refine ⟨_, setsVSat_of_vecSat hi, fun l _ => ⟨?_, fun p hp => ?_⟩⟩
    · simp only [mapElems_sat, finishInt_eq, helem, Bool.and_eq_true, decide_eq_true_iff]
      exact ⟨fun ⟨p, hp, hc, hout⟩ => ⟨hc, p, hp, hout⟩, fun ⟨hc, p, hp, hout⟩ => ⟨p, hp, hc, hout⟩⟩
    · have hdigit := elemAt_mapElems hall (fun u v => finishInt w sgn clamp (f (elemInt w sgn u) (elemInt w sgn v)))
        (fun u v _ => finishInt_eq w sgn clamp _ ▸ wrapInt_lt _ _) (x l) (y l) hp
      rw [finishInt_eq, helem, helem] at hdigit
      exact (congrArg Int.ofNat hdigit).trans (wrapInt_cast w _)
  refine ⟨make _ _ _ rfl, make _ _ _ rfl, make _ _ _ rfl, make _ _ _ rfl, make _ _ _ rfl, setsV_of_vecOp rfl, setsV_of_vecOp rfl,
    setsV_of_vecOp rfl, vecShift_setsV rfl hwidth hall (fun e c _ => elemShl_eq w e c) fun e c _ => ?shl,
    vecShift_setsV rfl hwidth hall (fun e c he => elemShr_eq he c) fun e c he => ?shr,
    vecShift_setsV rfl hwidth hall (fun e c _ => elemSar_eq hw e c) fun e c _ => wrapInt_lt _ _⟩
  case shl =>
    rw [elemShl_eq]
    exact Nat.mod_lt _ (by positivity)
  case shr =>
    rw [elemShr_eq he]
    exact (Nat.div_le_self e _).trans_lt he

end Sys2Proof.Machine
end

section
/-! SUPPORT. Vector loads and stores at issue (09 R245, R246): the addresses of their lanes, their checks in lane order, and what
they leave of the state. -/

namespace Sys2Proof.Machine

open Sys2Proof

/-! ## The own scratchpad -/

theorem spCore_spBase_add {c a : Nat} (hc : c < 260) (ha : a < 0x200000) : spCore (spBase c + a) = some c := by
  unfold spCore spBase
  by_cases h : c < 256
  · rw [if_pos h, if_pos (by omega)]
    congr 1
    omega
  · rw [if_neg h, if_neg (by omega), if_pos (by omega)]
    congr 1
    omega

/-- The bytes of a scratchpad are gated together (21 R421). -/
theorem gatedAt_spBase_add (s : State) {c a : Nat} (hc : c < 260) (ha : a < 0x200000) :
    s.gatedAt (spBase c + a) = s.gatedAt (spBase c) := by
  have h0 := spCore_spBase_add hc (a := 0) (by norm_num)
  rw [Nat.add_zero] at h0
  unfold State.gatedAt
  rw [spCore_spBase_add hc ha, h0]

/-! ## Addresses -/

/-- The address of vld and vst: S[sb] + 64 × sext(imm12). -/
theorem eaV_eq_ofNat (s : State) (sb : SR) (off : BitVec 12) :
    s.eaV sb off = .ofNat 64 ((s.srcS sb).toNat + (.ofInt 64 (64 * off.toInt) : W64).toNat) := by
  have hoff : sx off * 64 = (.ofInt 64 (64 * off.toInt) : W64) := by
    rw [sx_eq_ofInt off (by norm_num), mul_comm 64 off.toInt, BitVec.ofInt_mul]
    rfl
  rw [State.eaV, hoff, add_eq_ofNat]

theorem toNat_laneAddr {a : W64} {l : Nat} (ha : a.toNat ≤ 0x1FFE00) (hl : l < 128) : (laneAddr a l).toNat = a.toNat + 4 * l := by
  unfold laneAddr
  rw [BitVec.toNat_add, BitVec.toNat_ofNat]
  omega

/-- The address of lane l of vldx and vstx: S[sb] + (index << s). -/
theorem indexAddr_eq_ofNat (a : W64) (idx : List W32) (sh : BitVec 2) (l : Nat) :
    indexAddr a idx sh l = .ofNat 64 (indexSum a idx sh l) := by
  have hlane := (lane idx l).isLt
  have hpow : 2 ^ sh.toNat ≤ 2 ^ 3 := Nat.pow_le_pow_right (by norm_num) (by have := sh.isLt; omega)
  have hprod : (lane idx l).toNat * 2 ^ sh.toNat < 2 ^ 64 := by
    calc (lane idx l).toNat * 2 ^ sh.toNat ≤ (lane idx l).toNat * 2 ^ 3 := Nat.mul_le_mul_left _ hpow
      _ < 2 ^ 64 := by omega
  unfold indexAddr indexSum
  apply BitVec.eq_of_toNat_eq
  rw [BitVec.toNat_add, BitVec.toNat_shiftLeft, BitVec.toNat_setWidth, BitVec.toNat_ofNat, Nat.shiftLeft_eq,
    Nat.mod_eq_of_lt (show (lane idx l).toNat < 2 ^ 64 by omega), Nat.mod_eq_of_lt hprod]

/-! ## Checks in lane order -/

theorem mem_governedLanes {s : State} {k : KR} {l : Nat} : l ∈ governedLanes (s.srcK k) ↔ l < 128 ∧ s.governs k l = true := by
  unfold governedLanes State.governs
  rw [List.mem_filter, List.mem_range]

/-- The first governed lane that fails a check decides the fault. -/
theorem findSome_governedLanes {s : State} {k : KR} {f : Nat → Option Trp} {l : Nat} {t : Trp}
    (hl : l < 128 ∧ s.governs k l = true) (ht : f l = some t) (hbefore : ∀ j, j < 128 ∧ s.governs k j = true → j < l → f j = none) :
    (governedLanes (s.srcK k)).findSome? f = some t := by
  have hsplit : List.range 128 = List.range l ++ l :: (List.range (127 - l)).map (l + 1 + ·) := by
    rw [show 128 = l + 1 + (127 - l) by omega, List.range_add, List.range_succ, List.append_assoc]
    simp
  have hmask : (s.srcK k).getLsbD l = true := hl.2
  unfold governedLanes
  rw [hsplit, List.filter_append, List.findSome?_append, List.filter_cons_of_pos hmask, List.findSome?_cons, ht,
    List.findSome?_eq_none_iff.mpr]
  · rfl
  · intro j hj
    obtain ⟨hj, hg⟩ := List.mem_filter.mp hj
    have hjl := List.mem_range.mp hj
    exact hbefore j ⟨by omega, hg⟩ hjl

/-- The check of one lane of vldx and vstx. -/
def indexFault (a : W64) (idx : List W32) (sh : BitVec 2) (l : Nat) : Option Trp :=
  if (indexAddr a idx sh l).toNat % 4 ≠ 0 then some (alignTrap 2 (indexAddr a idx sh l))
  else if 0x1FFFFF < indexSum a idx sh l + 3 then some (xlateTrap 7 4 (indexAddr a idx sh l)) else none

theorem indexFault_none {a : W64} {idx : List W32} {sh : BitVec 2} {l : Nat} (h4 : (indexAddr a idx sh l).toNat % 4 = 0)
    (hin : indexSum a idx sh l + 3 ≤ 0x1FFFFF) : indexFault a idx sh l = none := by
  unfold indexFault
  rw [if_neg (by omega), if_neg (by omega)]

theorem indexFault_align {a : W64} {idx : List W32} {sh : BitVec 2} {l : Nat} (h4 : (indexAddr a idx sh l).toNat % 4 ≠ 0) :
    indexFault a idx sh l = some (alignTrap 2 (indexAddr a idx sh l)) := if_pos h4

theorem indexFault_xlate {a : W64} {idx : List W32} {sh : BitVec 2} {l : Nat} (h4 : (indexAddr a idx sh l).toNat % 4 = 0)
    (hout : 0x1FFFFF < indexSum a idx sh l + 3) :
    indexFault a idx sh l = some (xlateTrap 7 4 (indexAddr a idx sh l)) := by
  unfold indexFault
  rw [if_neg (by omega), if_pos hout]

theorem indexCheck_eq (a : W64) (idx : List W32) (sh : BitVec 2) (ls : List Nat) :
    indexCheck a idx sh ls = match ls.findSome? (indexFault a idx sh) with
      | some t => .error t
      | none => .ok () := by
  induction ls with
  | nil => rfl
  | cons l ls ih =>
    rw [indexCheck, List.findSome?_cons, ih]
    unfold indexFault
    split
    · rfl
    · split <;> rfl

theorem vldCheck_ok {a : W64} (h64 : a.toNat % 64 = 0) (hin : a.toNat ≤ 0x1FFE00) : vldCheck a = .ok () := by
  unfold vldCheck
  rw [if_neg (by omega), if_neg (by omega)]

theorem vldCheck_align {a : W64} (h64 : a.toNat % 64 ≠ 0) : vldCheck a = .error (alignTrap 6 a) := if_pos h64

theorem vldCheck_xlate {a : W64} (h64 : a.toNat % 64 = 0) (hout : 0x1FFE00 < a.toNat) :
    vldCheck a = .error (xlateTrap 7 4 a) := by
  unfold vldCheck
  rw [if_neg (by omega), if_pos hout]

/-- The check of one lane of a store: an armed slot, then a marked word. -/
def State.laneStoreFault (s : State) (c : Nat) (f : Nat → W64) (l : Nat) : Option Trp :=
  if s.overlapsArmed (spBase c + (f l).toNat) 4 then some ⟨.barState, 4, .ofNat 64 ((f l).toNat / 16 * 16)⟩
  else if s.overlapsMark (spBase c + (f l).toNat) 4 then some ⟨.seqState, 6, f l⟩ else none

theorem laneStoreCheck_eq (s : State) (c : Nat) (f : Nat → W64) (ls : List Nat) :
    s.laneStoreCheck c f ls = match ls.findSome? (s.laneStoreFault c f) with
      | some t => .error t
      | none => .ok () := rfl

section
variable {s : State} {k : KR} {f : Nat → W64} {g : Nat → Nat}
  (hf : ∀ l, l < 128 ∧ s.governs k l = true → (f l).toNat = g l)
include hf

/-- A store of lanes that meets no armed slot and no marked word passes. -/
theorem laneStoreCheck_ok (hfree : ∀ l, l < 128 ∧ s.governs k l = true →
      s.overlapsArmed (spBase s.cur + g l) 4 = false ∧ s.overlapsMark (spBase s.cur + g l) 4 = false) :
    s.laneStoreCheck s.cur f (governedLanes (s.srcK k)) = .ok () := by
  rw [laneStoreCheck_eq, List.findSome?_eq_none_iff.mpr]
  intro l hl
  obtain ⟨harmed, hmarked⟩ := hfree l (mem_governedLanes.mp hl)
  unfold State.laneStoreFault
  rw [hf l (mem_governedLanes.mp hl), harmed, hmarked]
  rfl

omit hf in
/-- A store of lanes of which one fails takes the fault of one of them. -/
theorem laneStoreCheck_fails {p : Trp → Prop}
    (hone : ∃ l, (l < 128 ∧ s.governs k l = true) ∧ s.laneStoreFault s.cur f l ≠ none)
    (hall : ∀ l t, l < 128 ∧ s.governs k l = true → s.laneStoreFault s.cur f l = some t → p t) :
    ∃ t, s.laneStoreCheck s.cur f (governedLanes (s.srcK k)) = .error t ∧ p t := by
  obtain ⟨l, hl, hfault⟩ := hone
  rw [laneStoreCheck_eq]
  cases hfind : (governedLanes (s.srcK k)).findSome? (s.laneStoreFault s.cur f) with
  | none => exact absurd (List.findSome?_eq_none_iff.mp hfind l (mem_governedLanes.mpr hl)) hfault
  | some t =>
    obtain ⟨j, hj, ht⟩ := List.exists_of_findSome?_eq_some hfind
    exact ⟨t, rfl, hall j t (mem_governedLanes.mp hj) ht⟩

/-- A store of lanes that meets an armed slot and no marked word is a fault of the slot (14 R322). -/
theorem laneStoreCheck_armed
    (harmed : ∃ l, (l < 128 ∧ s.governs k l = true) ∧ s.overlapsArmed (spBase s.cur + g l) 4 = true)
    (hmarked : ¬∃ l, (l < 128 ∧ s.governs k l = true) ∧ s.overlapsMark (spBase s.cur + g l) 4 = true) :
    ∃ t, s.laneStoreCheck s.cur f (governedLanes (s.srcK k)) = .error t ∧ t.code = .barState ∧ t.info = 4 := by
  obtain ⟨l, hl, harmed⟩ := harmed
  refine laneStoreCheck_fails ⟨l, hl, ?_⟩ fun j t hj ht => ?_
  · unfold State.laneStoreFault
    rw [hf l hl, if_pos harmed]
    exact Option.some_ne_none _
  · unfold State.laneStoreFault at ht
    rw [hf j hj, if_neg fun h => hmarked ⟨j, hj, h⟩] at ht
    split at ht
    · cases ht
      exact ⟨rfl, rfl⟩
    · cases ht

/-- A store of lanes that meets a marked word and no armed slot is a fault of the word (16 R341). -/
theorem laneStoreCheck_marked
    (harmed : ¬∃ l, (l < 128 ∧ s.governs k l = true) ∧ s.overlapsArmed (spBase s.cur + g l) 4 = true)
    (hmarked : ∃ l, (l < 128 ∧ s.governs k l = true) ∧ s.overlapsMark (spBase s.cur + g l) 4 = true) :
    ∃ t, s.laneStoreCheck s.cur f (governedLanes (s.srcK k)) = .error t ∧ t.code = .seqState ∧ t.info = 6 := by
  obtain ⟨l, hl, hmarked⟩ := hmarked
  refine laneStoreCheck_fails ⟨l, hl, ?_⟩ fun j t hj ht => ?_
  · unfold State.laneStoreFault
    rw [hf l hl, if_neg fun h => harmed ⟨l, hl, h⟩, if_pos hmarked]
    exact Option.some_ne_none _
  · unfold State.laneStoreFault at ht
    rw [hf j hj, if_neg fun h => harmed ⟨j, hj, h⟩] at ht
    split at ht
    · cases ht
      exact ⟨rfl, rfl⟩
    · cases ht

/-! ## Effects at issue -/

/-- A load of lanes: the governed lanes of vd, one outstanding op of class L, and nothing else (06 R131, R132). -/
theorem laneLoad_loads {i : Instr} {vd : VR} (hi : exec i s = .next (s.laneLoad vd k f))
    (hg : s.gatedAt (spBase s.cur) = false) (hc : s.cur < 260)
    (hin : ∀ l, l < 128 ∧ s.governs k l = true → g l < 0x200000)
    (hp : ∀ l, l < 128 ∧ s.governs k l = true → poisoned s.errs (spBase s.cur + g l) 4 = none) :
    ∃ t, exec i s = .next t ∧ OnlyCore s.cur s t
      ∧ (∀ l, l < 128 → lane ((t.core s.cur).getV vd.toNat) l =
          if s.governs k l then .ofNat 32 (leNat (s.bytesSeen .cp (spBase s.cur + g l) 4))
          else lane ((s.core s.cur).getV vd.toNat) l)
      ∧ (∀ r : VR, r ≠ vd → (t.core s.cur).getV r.toNat = (s.core s.cur).getV r.toNat)
      ∧ t.core s.cur = { (s.core s.cur).awaits s.iss.seq [.v vd.toNat] true with v := (t.core s.cur).v } := by
  have hfind : ((governedLanes (s.srcK k)).findSome? fun l => poisoned s.errs (spBase s.cur + (f l).toNat) 4) = none := by
    rw [List.findSome?_eq_none_iff]
    intro l hl
    rw [hf l (mem_governedLanes.mp hl)]
    exact hp l (mem_governedLanes.mp hl)
  unfold State.laneLoad at hi
  simp only [hfind] at hi
  refine ⟨_, hi, onlyCore_trans (onlyCore_modCur s _) (onlyCore_modCur (s.dstV vd _) _), ?_⟩
  unfold State.dstV
  rw [core_modCur2]
  refine ⟨fun l hl => ?_, fun r hr => ?_, rfl⟩
  · show lane ((Core.setV _ _ _).getV _) l = _
    rw [Core.getV_setV, if_pos rfl, State.governed, lane_lanes _ l hl]
    by_cases hgov : s.governs k l = true
    · rw [if_pos hgov, if_pos (show (s.srcK k).getLsbD l = true from hgov), hf l ⟨hl, hgov⟩,
        natAs_eq s .cp _ 4 ((gatedAt_spBase_add s hc (hin l ⟨hl, hgov⟩)).trans hg)]
    · rw [if_neg hgov, if_neg (show ¬(s.srcK k).getLsbD l = true from hgov)]
      rfl
  · show (Core.setV _ _ _).getV _ = _
    rw [Core.getV_setV, if_neg ((bv_toNat_inj r vd).not.mpr hr)]

/-- A store of lanes is outstanding in class S, with its addresses and values (06 R131, R132). -/
theorem laneStore_stores {i : Instr} {vd : VR} {a : W64} (hi : exec i s = .next (s.laneStore (s.srcV vd) k a f)) :
    ∃ t, exec i s = .next t ∧ OnlyCore s.cur s t
      ∧ t.core s.cur = { s.core s.cur with
          stores := (s.core s.cur).stores ++ [s.newStore a.toNat (spBase s.cur) []
            (((List.range 128).filter (s.governs k)).map fun l => (spBase s.cur + g l, lane (s.srcV vd) l))]
          nextId := (s.core s.cur).nextId + 1 } := by
  have hlanes : (governedLanes (s.srcK k)).map (fun l => (spBase s.cur + (f l).toNat, lane (s.srcV vd) l)) =
      ((List.range 128).filter (s.governs k)).map fun l => (spBase s.cur + g l, lane (s.srcV vd) l) :=
    List.map_congr_left fun l hl => by rw [hf l (mem_governedLanes.mp hl)]
  simp only [State.laneStore, hlanes] at hi
  exact ⟨_, hi, onlyCore_modCur s _, by rw [core_modCur_cur]; rfl⟩

end

/-! ## The ops -/

section
variable {s : State} {vd va : VR} {sb : SR} {k : KR} {off : BitVec 12} {sh : BitVec 2} {t : Trp}

theorem exec_vld_fault (h : vldCheck (s.eaV sb off) = .error t) :
    exec (.vld vd sb k off) s = .next (s.preciseTrap t) ∧ exec (.vst vd sb k off) s = .next (s.preciseTrap t) := by
  constructor
  · show execVld vd sb k off s = _
    unfold execVld State.vldFault
    rw [h]
  · show execVst vd sb k off s = _
    unfold execVst State.vstFault
    rw [h]
    rfl

theorem exec_vld_ok (h : vldCheck (s.eaV sb off) = .ok ()) :
    exec (.vld vd sb k off) s = .next (s.laneLoad vd k (laneAddr (s.eaV sb off))) := by
  show execVld vd sb k off s = _
  unfold execVld State.vldFault
  rw [h]

/-- vst past its address check is decided by the check of its lanes. -/
theorem exec_vst_ok (h : vldCheck (s.eaV sb off) = .ok ()) : exec (.vst vd sb k off) s =
    match s.laneStoreCheck s.cur (laneAddr (s.eaV sb off)) (governedLanes (s.srcK k)) with
      | .error t => .next (s.preciseTrap t)
      | .ok _ => .next (s.laneStore (s.srcV vd) k (s.eaV sb off) (laneAddr (s.eaV sb off))) := by
  show execVst vd sb k off s = _
  unfold execVst State.vstFault
  rw [h]
  rfl

theorem exec_vldx_fault (h : s.vldxFault va sb k sh = .error t) :
    exec (.vldx vd va sb k sh) s = .next (s.preciseTrap t) ∧ exec (.vstx vd va sb k sh) s = .next (s.preciseTrap t) := by
  constructor
  · show execVldx vd va sb k sh s = _
    unfold execVldx
    rw [h]
  · show execVstx vd va sb k sh s = _
    unfold execVstx State.vstxFault
    rw [h]
    rfl

theorem exec_vldx_ok (h : s.vldxFault va sb k sh = .ok ()) :
    exec (.vldx vd va sb k sh) s = .next (s.laneLoad vd k (indexAddr (s.srcS sb) (s.srcV va) sh)) := by
  show execVldx vd va sb k sh s = _
  unfold execVldx
  rw [h]

/-- vstx past its address checks is decided by the check of its lanes. -/
theorem exec_vstx_ok (h : s.vldxFault va sb k sh = .ok ()) : exec (.vstx vd va sb k sh) s =
    match s.laneStoreCheck s.cur (indexAddr (s.srcS sb) (s.srcV va) sh) (governedLanes (s.srcK k)) with
      | .error t => .next (s.preciseTrap t)
      | .ok _ => .next (s.laneStore (s.srcV vd) k (s.srcS sb) (indexAddr (s.srcS sb) (s.srcV va) sh)) := by
  show execVstx vd va sb k sh s = _
  unfold execVstx State.vstxFault
  rw [h]
  rfl

end

end Sys2Proof.Machine
end

section
/-! SUPPORT. A store of lanes that performs (02 R33, 09 R246): its lanes are written in order, so of equal addresses the highest
lane stays. -/

namespace Sys2Proof.Machine

open Sys2Proof

/-- The lanes of a store of core c written in order. -/
def State.writeLanes (s : State) (c : Nat) (qs : List (Nat × W32)) : State :=
  qs.foldl (fun t q => t.writeBy (.cp c) q.1 (leBytes 4 q.2.toNat)) s

theorem writeLanes_concat (s : State) (c : Nat) (qs : List (Nat × W32)) (q : Nat × W32) :
    s.writeLanes c (qs ++ [q]) = (s.writeLanes c qs).writeBy (.cp c) q.1 (leBytes 4 q.2.toNat) := by
  simp [State.writeLanes]

/-- A store of lanes lands as its lanes, but in configuration space. -/
theorem landStore_lanes {s : State} (c : Nat) {x : Sto} (hr : s.region x.pa ≠ .config) :
    s.landStore c x = (s.writeBy (.cp c) x.pa x.bytes).writeLanes c x.lanes := by
  unfold State.landStore
  split
  · exact absurd ‹_› hr
  · rfl

@[simp] theorem length_leBytes (n x : Nat) : (leBytes n x).length = n := by simp [leBytes_eq_map]

/-- After a write every view but the writer's reads what it keeps, and the writer's keeps no byte more. -/
theorem wroteViews_writeBy (s : State) (w : Writer) (pa : Nat) (bs : List Byte) : WroteViews s (s.writeBy w pa bs) w := by
  have hview : ∀ v a x, s.keptAt v a = some x → x.view = v := fun v a x hx => by
    have := List.find?_some hx
    simp only [Bool.and_eq_true, beq_iff_eq] at this
    exact this.1
  refine ⟨fun a => ?_, fun v a hv => ?_⟩
  · rw [keptAfter_writeBy]
    cases hx : s.keptAt w.view a with
    | none => exact .inl rfl
    | some x =>
      simp only [Option.bind_some, Kept.written, hview _ _ x hx, if_true]
      split
      · exact .inl rfl
      · exact .inr rfl
  · rw [keptAfter_writeBy]
    cases hx : s.keptAt v a with
    | none => rfl
    | some x =>
      simp only [Option.bind_some, Kept.written, hview _ _ x hx, if_neg hv]
      split <;> rfl

theorem wroteViews_trans {s t u : State} {w : Writer} (h : WroteViews s t w) (h' : WroteViews t u w) : WroteViews s u w := by
  refine ⟨fun a => ?_, fun v a hv => (h'.2 v a hv).trans (h.2 v a hv)⟩
  rcases h'.1 a with hn | he
  · exact .inl hn
  · rw [he]
    exact h.1 a

section
variable (s : State) (c : Nat) (qs : List (Nat × W32))

/-- Of the device only memory, its errors and its views change. -/
theorem writeLanes_rest : s.writeLanes c qs =
    { s with mem := (s.writeLanes c qs).mem, errs := (s.writeLanes c qs).errs, kept := (s.writeLanes c qs).kept } := by
  induction qs using List.reverseRecOn with
  | nil => rfl
  | append_singleton qs q ih =>
    rw [writeLanes_concat]
    unfold State.writeBy
    rw [ih]

theorem wroteViews_writeLanes : WroteViews s (s.writeLanes c qs) (.cp c) := by
  induction qs using List.reverseRecOn with
  | nil => exact ⟨fun _ => .inr rfl, fun _ _ _ => rfl⟩
  | append_singleton qs q ih =>
    rw [writeLanes_concat]
    exact wroteViews_trans ih (wroteViews_writeBy _ _ _ _)

/-- CP accesses keep no byte of a lane that has been written. -/
theorem keptAt_writeLanes {q : Nat × W32} (hq : q ∈ qs) {i : Nat} (hi : i < 4) :
    (s.writeLanes c qs).keptAt .cp (q.1 + i) = none := by
  induction qs using List.reverseRecOn with
  | nil => cases hq
  | append_singleton qs r ih =>
    rw [writeLanes_concat]
    rcases List.mem_append.mp hq with hmem | hmem
    · rw [keptAfter_writeBy, ih hmem]
      rfl
    · obtain rfl := List.mem_singleton.mp hmem
      exact keptAt_own _ (.cp c) _ _ _ (by rw [length_leBytes]; omega)

/-- Every byte outside the lanes reads as before. -/
theorem byte_writeLanes {a : Nat} (ha : ∀ q ∈ qs, a < q.1 ∨ q.1 + 4 ≤ a) : (s.writeLanes c qs).byte a = s.byte a := by
  induction qs using List.reverseRecOn with
  | nil => rfl
  | append_singleton qs r ih =>
    have hr := ha r (by simp)
    rw [writeLanes_concat, State.byte_writeBy, length_leBytes, if_neg (by omega)]
    exact ih fun q hq => ha q (by simp [hq])

/-- The last lane at an address stands there, when lanes meet only at equal addresses. -/
theorem holdsBytes_writeLanes (hapart : ∀ q r, q ∈ qs → r ∈ qs → q.1 = r.1 ∨ q.1 + 4 ≤ r.1 ∨ r.1 + 4 ≤ q.1) {n : Nat}
    {q : Nat × W32} (hn : qs[n]? = some q) (hlast : ∀ (m : Nat) (r : Nat × W32), n < m → qs[m]? = some r → r.1 ≠ q.1) :
    HoldsBytes (s.writeLanes c qs) q.1 (leBytes 4 q.2.toNat) := by
  induction qs using List.reverseRecOn with
  | nil => cases hn
  | append_singleton qs r ih =>
    rw [writeLanes_concat]
    by_cases hlen : n < qs.length
    · have hq : q ∈ qs := List.mem_of_getElem? (by rwa [List.getElem?_append_left hlen] at hn)
      have hne : r.1 ≠ q.1 := hlast qs.length r hlen (by simp)
      have hold := ih (fun p p' hp hp' => hapart p p' (by simp [hp]) (by simp [hp']))
        (by rwa [List.getElem?_append_left hlen] at hn)
        fun m p hm hp => hlast m p hm (by rw [List.getElem?_append_left (List.getElem?_eq_some_iff.mp hp).1, hp])
      intro i b hb
      have hi : i < 4 := by simpa using (List.getElem?_eq_some_iff.mp hb).1
      rw [State.byte_writeBy, length_leBytes, if_neg]
      · exact hold i b hb
      · rcases hapart q r (by simp [hq]) (by simp) with h | h | h <;> omega
    · have hr : q = r := by
        rw [List.getElem?_append_right (not_lt.mp hlen)] at hn
        obtain ⟨h0, hget⟩ := List.getElem?_eq_some_iff.mp hn
        simpa using hget.symm
      rw [hr]
      exact holdsBytes_writeBy _ _ _ _

@[simp] theorem core_writeLanes (d : Nat) : (s.writeLanes c qs).core d = s.core d := by
  rw [writeLanes_rest]
  rfl

end

/-- A store of lanes that performs: its lanes stand, every other byte and core stays, and it leaves class S (02 R31). -/
theorem storePerform_lanes {s : State} {c j : Nat} {x : Sto} (hj : (s.core c).stores[j]? = some x)
    (hp : x.performed = false) (hb : x.bytes = []) (hr : s.region x.pa ≠ .config) (hready : s.storeReady c x = true)
    (hret : s.returns c x.ready = true)
    (hapart : ∀ q r, q ∈ x.lanes → r ∈ x.lanes → q.1 = r.1 ∨ q.1 + 4 ≤ r.1 ∨ r.1 + 4 ≤ q.1) :
    ∃ t, exec (.storePerform c j) s = .next t
      ∧ t = { s with cores := t.cores, mem := t.mem, errs := t.errs, kept := t.kept }
      ∧ WroteViews s t (.cp c) ∧ (∀ q ∈ x.lanes, ∀ i, i < 4 → t.keptAt .cp (q.1 + i) = none)
      ∧ (∀ (n : Nat) (q : Nat × W32), x.lanes[n]? = some q →
          (∀ (m : Nat) (r : Nat × W32), n < m → x.lanes[m]? = some r → r.1 ≠ q.1) → HoldsBytes t q.1 (leBytes 4 q.2.toNat))
      ∧ (∀ a, (∀ q ∈ x.lanes, a < q.1 ∨ q.1 + 4 ≤ a) → t.byte a = s.byte a)
      ∧ (∀ d, d ≠ c → t.core d = s.core d)
      ∧ t.core c = { s.core c with stores := (s.core c).stores.eraseIdx j } := by
  have hexec := exec_storePerform_due hj hp hret hready
  rw [landStore_lanes c (s := s.modCore c _) hr, hb] at hexec
  refine ⟨_, hexec, ?_, ?_, fun q hq i hi => keptAt_writeLanes _ _ _ hq hi, fun n q hn hlast =>
    holdsBytes_writeLanes _ _ _ hapart hn hlast, fun a ha => ?_, fun d hd => ?_, ?_⟩
  · rw [writeLanes_rest]
    rfl
  · exact wroteViews_trans (wroteViews_writeBy (s.modCore c _) _ _ _) (wroteViews_writeLanes _ _ _)
  · rw [byte_writeLanes _ _ _ ha, State.byte_writeBy, if_neg (by simp only [List.length_nil]; omega)]
    rfl
  · rw [core_writeLanes, State.writeBy_core, State.core_modCore_other s _ hd]
  · rw [core_writeLanes, State.writeBy_core, State.core_modCore_same]

/-- Settles O42: each op passes or fails its checks in lane order, and a store of lanes performs as one write per lane. -/
theorem vectorLoadsAndStoresUseTheOwnScratchpad : Obligations.VectorLoadsAndStoresUseTheOwnScratchpad := by
  unfold Obligations.VectorLoadsAndStoresUseTheOwnScratchpad
  refine ⟨fun s vd va sb k off sh hg hc => ?_, fun s c j x hj hp hb hr hready hdue hapart =>
    storePerform_lanes hj hp hb hr hready ((returns_iff s c x.ready).mpr hdue) hapart⟩
  intro base a dense at_ sum spread gov loads stores free denseOk laneOk both guarded
  have ha : s.eaV sb off = a := eaV_eq_ofNat s sb off
  have hat : ∀ l, indexAddr (s.srcS sb) (s.srcV va) sh l = at_ l := fun l => indexAddr_eq_ofNat _ _ sh l
  have traps : ∀ {p q : Instr} {e : Trp}, exec p s = .next (s.preciseTrap e) ∧ exec q s = .next (s.preciseTrap e) →
      e.code ≠ .uncorr → both p q e.code (.ofNat 64 e.info) e.addr := fun ⟨hp, hq⟩ hu hk =>
    ⟨traps_of_preciseTrap hp hu hk, traps_of_preciseTrap hq hu hk⟩
  have hdense : denseOk → ∀ l, gov l → (laneAddr (s.eaV sb off) l).toNat = dense l := fun ⟨_, hin⟩ l ⟨hl, _⟩ =>
    ha ▸ toNat_laneAddr hin hl
  have hcheck : denseOk → vldCheck (s.eaV sb off) = .ok () := fun ⟨h64, hin⟩ => ha ▸ vldCheck_ok h64 hin
  have hbad : ∀ {e}, vldCheck a = .error e →
      exec (.vld vd sb k off) s = .next (s.preciseTrap e) ∧ exec (.vst vd sb k off) s = .next (s.preciseTrap e) :=
    fun h => exec_vld_fault (ha.symm ▸ h)
  have hspread : ∀ l, gov l → (indexAddr (s.srcS sb) (s.srcV va) sh l).toNat = spread l := fun l _ => by rw [hat]
  have hfault : ∀ l, laneOk l → indexFault (s.srcS sb) (s.srcV va) sh l = none := fun l ⟨h4, hin⟩ =>
    indexFault_none (hat l ▸ h4) hin
  have hchecks : (∀ l, gov l → laneOk l) → s.vldxFault va sb k sh = .ok () := fun hall => by
    unfold State.vldxFault
    rw [indexCheck_eq, List.findSome?_eq_none_iff.mpr fun l hl => hfault l (hall l (mem_governedLanes.mp hl))]
  have hfirst : ∀ {l e}, gov l → (∀ j, gov j → j < l → laneOk j) → indexFault (s.srcS sb) (s.srcV va) sh l = some e →
      s.vldxFault va sb k sh = .error e := fun hl hbefore he => by
    unfold State.vldxFault
    rw [indexCheck_eq, findSome_governedLanes hl he fun j hj hjl => hfault j (hbefore j hj hjl)]
  have hguard : ∀ {i : Instr} {f : Nat → W64} {g : Nat → Nat} {x : Out3}, (∀ l, gov l → (f l).toNat = g l) →
      (exec i s = match s.laneStoreCheck s.cur f (governedLanes (s.srcK k)) with
        | .error t => .next (s.preciseTrap t)
        | .ok _ => x) → guarded i g := fun {i f g x} hf hi hk => by
    have fails : ∀ {code : TrapCode} {n : Nat}, code ≠ .uncorr →
        (∃ e, s.laneStoreCheck s.cur f (governedLanes (s.srcK k)) = .error e ∧ e.code = code ∧ e.info = n) →
        ∃ addr, TrapsPrecisely s i code (.ofNat 64 n) addr := by
      rintro _ _ hu ⟨e, he, rfl, rfl⟩
      rw [he] at hi
      exact ⟨_, traps_of_preciseTrap hi hu hk⟩
    exact ⟨fun harmed hmarked => fails (by decide) (laneStoreCheck_armed hf harmed hmarked),
      fun harmed hmarked => fails (by decide) (laneStoreCheck_marked hf harmed hmarked)⟩
  refine ⟨fun hd => ⟨fun hp => laneLoad_loads (hdense hd) (exec_vld_ok (hcheck hd)) hg hc (fun l hl => ?denseIn) hp,
      fun hfree => ?vst⟩,
    fun h64 => traps (hbad (vldCheck_align h64)) (show TrapCode.align ≠ .uncorr by decide),
    fun h64 hout => traps (hbad (vldCheck_xlate h64 hout)) (show TrapCode.xlate ≠ .uncorr by decide),
    fun hall => ⟨fun hp => laneLoad_loads hspread (exec_vldx_ok (hchecks hall)) hg hc (fun l hl => ?spreadIn) hp,
      fun hfree => laneStore_stores hspread ?vstx⟩,
    fun l hl hbefore hnot => ⟨fun h4 => ?indexAlign, fun h4 => ?indexXlate⟩,
    fun hd => hguard (hdense hd) (exec_vst_ok (hcheck hd)), fun hall => hguard hspread (exec_vstx_ok (hchecks hall))⟩
  case denseIn =>
    obtain ⟨-, hin⟩ := hd
    obtain ⟨hl, -⟩ := hl
    show a.toNat + 4 * l < 0x200000
    omega
  case vst =>
    rw [← ha]
    refine laneStore_stores (hdense hd) ?_
    rw [exec_vst_ok (hcheck hd), laneStoreCheck_ok (hdense hd) hfree]
  case spreadIn =>
    obtain ⟨-, hin⟩ := hall l hl
    have hle : spread l ≤ sum l := (BitVec.toNat_ofNat ..).trans_le (Nat.mod_le _ _)
    omega
  case vstx => rw [exec_vstx_ok (hchecks hall), laneStoreCheck_ok hspread hfree]
  case indexAlign =>
    have hf := hfirst hl hbefore (indexFault_align (by rw [hat]; exact h4))
    rw [hat] at hf
    exact traps (exec_vldx_fault hf) (show TrapCode.align ≠ .uncorr by decide)
  case indexXlate =>
    have hf := hfirst hl hbefore (indexFault_xlate (by rw [hat]; exact h4) (not_le.mp fun hin => hnot ⟨h4, hin⟩))
    rw [hat] at hf
    exact traps (exec_vldx_fault hf) (show TrapCode.xlate ≠ .uncorr by decide)

end Sys2Proof.Machine
end

section
/-! SUPPORT. The values of f32 encodings (03 R53, R54), and that RoundTo gives an f32 value its encoding back (R62). -/

namespace Sys2Proof.Machine

open Sys2Proof

theorem signBit_eq_msb (x : W32) : (x.toNat / 2 ^ 31 % 2 == 1) = x.msb := by
  have := x.isLt
  rw [BitVec.msb_eq_decide, Bool.eq_iff_iff, beq_iff_eq, decide_eq_true_iff]
  omega

/-- An encoding up to the largest finite magnitude: a subnormal, or a mantissa with its hidden bit (03 R53). -/
theorem f32_finite {x : W32} (h : x.toNat % 2 ^ 31 ≤ 0x7F7FFFFF) : f32 x =
    if x.toNat % 2 ^ 31 / 2 ^ 23 = 0 then .fin x.msb (x.toNat % 2 ^ 31) (-149)
    else .fin x.msb (2 ^ 23 + x.toNat % 2 ^ 31 % 2 ^ 23) ((x.toNat % 2 ^ 31 / 2 ^ 23 : Nat) - 150) := by
  have hdec : f32 x = f32Fmt.value x.toNat := if_pos h
  rw [hdec, ← signBit_eq_msb]
  show (if x.toNat % 2 ^ 31 / 2 ^ 23 = 0 then Num.fin _ _ _ else Num.fin _ _ _) = _
  split
  · show Num.fin _ (x.toNat % 2 ^ 31 % 2 ^ 23) _ = _
    rw [Nat.mod_eq_of_lt (show x.toNat % 2 ^ 31 < 2 ^ 23 by omega)]
    rfl
  · congr 1
    show ((x.toNat % 2 ^ 31 / 2 ^ 23 : Nat) : Int) - 127 - 23 = _
    omega

/-- What an encoding is: a NaN, an infinity, or a finite value with its sign, zero only for the two zeros (03 R54). -/
theorem f32_cases (x : W32) : f32 x = .nan ∨ (f32 x = .inf false ∧ x = 0x7F800000) ∨ (f32 x = .inf true ∧ x = 0xFF800000)
    ∨ (x.toNat % 2 ^ 31 ≤ 0x7F7FFFFF ∧ ∃ m e, f32 x = .fin x.msb m e ∧ (m = 0 → x.toNat % 2 ^ 31 = 0)) := by
  by_cases hfin : x.toNat % 2 ^ 31 ≤ 0x7F7FFFFF
  · refine .inr (.inr (.inr ⟨hfin, ?_⟩))
    rw [f32_finite hfin]
    split
    · exact ⟨_, _, rfl, id⟩
    · exact ⟨_, _, rfl, fun h => by omega⟩
  · have hdec : f32 x = if x.toNat % 2 ^ 31 = 0x7F800000 then .inf (x.toNat / 2 ^ 31 % 2 == 1) else .nan := by
      have hspecial : f32 x = if true = true ∧ x.toNat % 2 ^ 31 = 0x7F800000 then .inf (x.toNat / 2 ^ 31 % 2 == 1) else .nan :=
        if_neg hfin
      simpa only [true_and] using hspecial
    rw [signBit_eq_msb] at hdec
    have hlt := x.isLt
    by_cases hinf : x.toNat % 2 ^ 31 = 0x7F800000
    · rw [if_pos hinf] at hdec
      have hmsb : x.msb = decide (2 ^ 31 ≤ x.toNat) := BitVec.msb_eq_decide x
      by_cases hs : 2 ^ 31 ≤ x.toNat
      · refine .inr (.inr (.inl ⟨by rw [hdec, hmsb, decide_eq_true hs], BitVec.eq_of_toNat_eq ?_⟩))
        show x.toNat = 0xFF800000
        omega
      · refine .inr (.inl ⟨by rw [hdec, hmsb, decide_eq_false hs], BitVec.eq_of_toNat_eq ?_⟩)
        show x.toNat = 0x7F800000
        omega
    · exact .inl (hdec.trans (if_neg hinf))

/-- A value that stands on its own grid is not rounded. -/
theorem round_onGrid (mode noise : Nat) (n : Bool) {m : Nat} {e : Int} (hm : m ≠ 0)
    (hg : max ((Nat.log2 m : Int) + e - 23) (-149) = e) (hmag : (e + 149) * 2 ^ 23 + m ≤ 0x7F7FFFFF) :
    (f32Fmt.round mode (.fin n m e) noise).1 = f32Fmt.sign n + ((e + 149) * 2 ^ 23 + m).toNat := by
  have hg' : max ((Nat.log2 m : Int) + e - (f32Fmt.mbits : Nat)) (1 - f32Fmt.bias - (f32Fmt.mbits : Nat)) = e := hg
  have hsteps : stepsOf m e e = (m, 0, 0) := by simp [stepsOf]
  have hup : ∀ q, roundsUp mode n q 0 0 noise = false := fun q => if_pos rfl
  have hbase : (e + (f32Fmt.mbits : Nat) + f32Fmt.bias - 1) * 2 ^ f32Fmt.mbits = (e + 149) * 2 ^ 23 := by
    show (e + 23 + 127 - 1) * 2 ^ 23 = _
    ring
  simp only [FloatFmt.round, if_neg hm, hg', hsteps, hup, Bool.false_eq_true, if_false, hbase]
  rw [if_pos (show (e + 149) * 2 ^ 23 + (m : Int) ≤ f32Fmt.maxFin from hmag)]

/-- RoundTo of an f32 value that is not NaN gives back its encoding (03 R62). -/
theorem toF32_f32 (mode noise : Nat) (x : W32) (h : (f32 x).isNan = false) : toF32 mode (f32 x) noise = x := by
  rcases f32_cases x with hx | ⟨hx, hval⟩ | ⟨hx, hval⟩ | ⟨hfin, -⟩
  · rw [hx] at h
    cases h
  · rw [hx, hval]
    rfl
  · rw [hx, hval]
    rfl
  · have hlt := x.isLt
    have hsign : f32Fmt.sign x.msb + x.toNat % 2 ^ 31 = x.toNat := by
      rw [BitVec.msb_eq_decide]
      unfold FloatFmt.sign
      show (if decide (2 ^ 31 ≤ x.toNat) = true then 2 ^ 31 else 0) + _ = _
      by_cases hs : 2 ^ 31 ≤ x.toNat <;> simp only [hs, decide_true, decide_false, if_true, Bool.false_eq_true, if_false] <;> omega
    have back : ∀ {m : Nat} {e : Int}, m ≠ 0 → max ((Nat.log2 m : Int) + e - 23) (-149) = e →
        (e + 149) * 2 ^ 23 + m = (x.toNat % 2 ^ 31 : Nat) → toF32 mode (.fin x.msb m e) noise = x := fun hm hg hmag => by
      rw [toF32, round_onGrid mode noise x.msb hm hg (by omega), hmag, Int.toNat_natCast, hsign, BitVec.ofNat_toNat,
        BitVec.setWidth_eq]
    rw [f32_finite hfin]
    split
    · by_cases hz : x.toNat % 2 ^ 31 = 0
      · rw [hz] at hsign ⊢
        rw [toF32]
        show BitVec.ofNat 32 (f32Fmt.sign x.msb) = x
        rw [show f32Fmt.sign x.msb = x.toNat from hsign, BitVec.ofNat_toNat, BitVec.setWidth_eq]
      · refine back hz ?_ (by ring)
        have hlog : Nat.log2 (x.toNat % 2 ^ 31) < 23 := (Nat.log2_lt hz).mpr (by omega)
        omega
    · have hlog : Nat.log2 (2 ^ 23 + x.toNat % 2 ^ 31 % 2 ^ 23) = 23 := by
        rw [Nat.log2_eq_iff (by omega)]
        omega
      refine back (by omega) (by rw [hlog]; omega) ?_
      omega

end Sys2Proof.Machine
end

section
/-! SUPPORT. Special functions, conversions and MX blocks of the vector engine (09 R228 to R232). -/

namespace Sys2Proof.Machine

open Sys2Proof

/-! ## Special inputs (09 R228) -/

/-- The table of R228 for one op: its value for each special input, and the rounded value elsewhere. -/
def specialTable (atNinf atNeg atNzero atPzero atPinf : Option W32) (f : Num → Num) (x : W32) : W32 :=
  let other := toF32 0 (f (f32 x)) 0
  if (f32 x).isNan then 0x7FC00000
  else if x = 0xFF800000 then atNinf.getD other
  else if x = 0x80000000 then atNzero.getD other
  else if x = 0 then atPzero.getD other
  else if x = 0x7F800000 then atPinf.getD other
  else if x.msb then atNeg.getD other
  else other

/-- A value of the table that the function has itself may be left to it. -/
theorem getD_of_forall {o : Option W32} {v : W32} (h : ∀ w ∈ o, v = w) : o.getD v = v := by
  cases o with
  | none => rfl
  | some w => exact (h w rfl).symm

/-- A negative finite non-zero value. -/
theorem f32_neg {x : W32} (hs : x.msb = true) (hn : (f32 x).isNan = false) (hinf : x ≠ 0xFF800000) (hz : x ≠ 0x80000000) :
    ∃ m e, m ≠ 0 ∧ f32 x = .fin true m e := by
  rcases f32_cases x with h | ⟨-, rfl⟩ | ⟨-, h⟩ | ⟨-, m, e, h, hm⟩
  · rw [h] at hn
    cases hn
  · cases hs
  · exact absurd h hinf
  · refine ⟨m, e, fun h0 => hz (BitVec.eq_of_toNat_eq ?_), hs ▸ h⟩
    have hmag := hm h0
    have hlt := x.isLt
    rw [BitVec.msb_eq_decide, decide_eq_true_iff] at hs
    show x.toNat = 0x80000000
    omega

section
variable {atNinf atNeg atNzero atPzero atPinf : Option W32} {f : Num → Num} (hnan : f .nan = .nan)
  (hninf : ∀ w ∈ atNinf, toF32 0 (f (f32 0xFF800000)) 0 = w) (hnzero : ∀ w ∈ atNzero, toF32 0 (f (f32 0x80000000)) 0 = w)
  (hpzero : ∀ w ∈ atPzero, toF32 0 (f (f32 0)) 0 = w) (hpinf : ∀ w ∈ atPinf, toF32 0 (f (f32 0x7F800000)) 0 = w)
  (hneg : ∀ w ∈ atNeg, ∀ m e, m ≠ 0 → toF32 0 (f (.fin true m e)) 0 = w)
include hnan hninf hnzero hpzero hpinf hneg

/-- A function that has the table's values at the special inputs is the table. -/
theorem specialTable_eq (x : W32) : specialTable atNinf atNeg atNzero atPzero atPinf f x = toF32 0 (f (f32 x)) 0 := by
  unfold specialTable
  split
  · have hx : f32 x = .nan := by
      cases h : f32 x <;> simp_all [Num.isNan]
    rw [hx, hnan]
    rfl
  split
  · subst x
    exact getD_of_forall hninf
  split
  · subst x
    exact getD_of_forall hnzero
  split
  · subst x
    exact getD_of_forall hpzero
  split
  · subst x
    exact getD_of_forall hpinf
  split
  · obtain ⟨m, e, hm, hx⟩ := f32_neg ‹_› (by simpa using ‹¬(f32 x).isNan = true›) ‹_› ‹_›
    rw [hx]
    exact getD_of_forall fun w hw => hneg w hw m e hm
  · rfl

/-- A special function writes the table to the governed lanes. -/
theorem vecFun_setsV {i : Instr} {s : State} {vd va : VR} {k : KR} (hi : exec i s = s.vecFun f vd va k) :
    SetsV s i vd (s.governs k) fun l => specialTable atNinf atNeg atNzero atPzero atPinf f (lane (s.srcV va) l) :=
  setsV_congr (setsV_of_vecOp hi) fun l _ hg => by
    rw [specialTable_eq hnan hninf hnzero hpzero hpinf hneg]
    exact if_pos hg

end

theorem log2Num_neg {m : Nat} (e : Int) (hm : m ≠ 0) : log2Num (.fin true m e) = .nan :=
  (if_neg hm).trans (if_pos rfl)

theorem rsqrtNum_neg {m : Nat} (e : Int) (hm : m ≠ 0) : rsqrtNum (.fin true m e) = .nan :=
  (if_neg hm).trans (if_pos rfl)

theorem forall_mem_none {p : W32 → Prop} : ∀ w ∈ (none : Option W32), p w := fun _ h => by cases h

theorem forall_mem_some {p : W32 → Prop} {v : W32} (h : p v) : ∀ w ∈ some v, p w := fun w hw => by
  obtain rfl : v = w := by simpa using hw
  exact h

section
variable (s : State) (vd va : VR) (k : KR)

theorem vexp2_setsV : SetsV s (.vexp2 vd va k) vd (s.governs k) fun l =>
    specialTable (some 0) none (some 0x3F800000) (some 0x3F800000) (some 0x7F800000) exp2Num (lane (s.srcV va) l) :=
  vecFun_setsV rfl (forall_mem_some rfl) (forall_mem_some rfl) (forall_mem_some rfl) (forall_mem_some rfl) forall_mem_none rfl

theorem vlog2_setsV : SetsV s (.vlog2 vd va k) vd (s.governs k) fun l =>
    specialTable (some 0x7FC00000) (some 0x7FC00000) (some 0xFF800000) (some 0xFF800000) (some 0x7F800000) log2Num
      (lane (s.srcV va) l) :=
  vecFun_setsV rfl (forall_mem_some rfl) (forall_mem_some rfl) (forall_mem_some rfl) (forall_mem_some rfl)
    (forall_mem_some fun m e hm => by rw [log2Num_neg e hm]; rfl) rfl

theorem vrcp_setsV : SetsV s (.vrcp vd va k) vd (s.governs k) fun l =>
    specialTable (some 0x80000000) none (some 0xFF800000) (some 0x7F800000) (some 0) rcpNum (lane (s.srcV va) l) :=
  vecFun_setsV rfl (forall_mem_some rfl) (forall_mem_some rfl) (forall_mem_some rfl) (forall_mem_some rfl) forall_mem_none rfl

theorem vrsqrt_setsV : SetsV s (.vrsqrt vd va k) vd (s.governs k) fun l =>
    specialTable (some 0x7FC00000) (some 0x7FC00000) (some 0xFF800000) (some 0x7F800000) (some 0) rsqrtNum
      (lane (s.srcV va) l) :=
  vecFun_setsV rfl (forall_mem_some rfl) (forall_mem_some rfl) (forall_mem_some rfl) (forall_mem_some rfl)
    (forall_mem_some fun m e hm => by rw [rsqrtNum_neg e hm]; rfl) rfl

theorem vtanh_setsV : SetsV s (.vtanh vd va k) vd (s.governs k) fun l =>
    specialTable (some 0xBF800000) none (some 0x80000000) (some 0) (some 0x3F800000) tanhNum (lane (s.srcV va) l) :=
  vecFun_setsV rfl (forall_mem_some rfl) (forall_mem_some rfl) (forall_mem_some rfl) (forall_mem_some rfl) forall_mem_none rfl

end

/-! ## Conversions and MX blocks (09 R229 to R232) -/

/-- vcvt of one lane: an element is rounded into its position (09 R229). -/
theorem convertLane_eq {from_ to_ : Nat} {f t : Fmt} (hf : fmtOf from_ = some f) (ht : fmtOf to_ = some t)
    (rm spos dpos noise : Nat) (a old : W32) : convertLane from_ to_ rm spos dpos noise a old =
      (setFld old (t.width * dpos) t.width (t.round rm (f.decode (elemAt f.width spos a)) noise).1,
        (t.round rm (f.decode (elemAt f.width spos a)) noise).2) := by
  unfold convertLane
  rw [hf, ht]

/-- The eight-bit float formats hold every e2m1 value (03 R65). -/
theorem round_e2m1_lt {to_ : BitVec 4} {t : Fmt} (hto : to_ = 3 ∨ to_ = 4) (ht : fmtOf to_.toNat = some t) {nib : Nat}
    (hn : nib < 16) : (t.round 0 (e2m1Fmt.decode nib) 0).1 < 256 := by
  have h5 : ∀ n, n < 16 → (e5m2Fmt.round 0 (e2m1Fmt.decode n) 0).1 < 256 := by decide
  have h4 : ∀ n, n < 16 → (e4m3Fmt.round 0 (e2m1Fmt.decode n) 0).1 < 256 := by decide
  rcases hto with rfl | rfl
  · cases ht
    exact h5 nib hn
  · cases ht
    exact h4 nib hn

/-- Byte b of an unpacked lane (09 R231). -/
theorem unpackLane_byte {to_ : BitVec 4} {t : Fmt} (hto : to_ = 3 ∨ to_ = 4) (ht : fmtOf to_.toNat = some t) (h : Nat)
    (a : List W32) (g j : Nat) {b : Nat} (hb : b < 4) :
    (unpackLane to_.toNat h a g j).toNat / 2 ^ (8 * b) % 256 = (t.round 0 (e2m1Fmt.decode
      (fld (lane a (16 * g + 8 * h + (4 * j + b) / 8)) (4 * ((4 * j + b) % 8)) 4)) 0).1 := by
  have hdig : ∀ b ∈ List.range 4, (t.round 0 (e2m1Fmt.decode
      (fld (lane a (16 * g + 8 * h + (4 * j + b) / 8)) (4 * ((4 * j + b) % 8)) 4)) 0).1 % 256 < 256 :=
    fun _ _ => Nat.mod_lt _ (by norm_num)
  have hlt := foldr_digits_lt 256 _ hdig
  have hdigit := foldr_digit 256 _ hdig (p := b) (by simpa using hb)
  unfold unpackLane
  rw [ht, BitVec.toNat_ofNat, Nat.mod_eq_of_lt (hlt.trans_le (by simp)), Nat.pow_mul]
  rw [List.getElem_range] at hdigit
  exact hdigit.trans (Nat.mod_eq_of_lt (round_e2m1_lt hto ht (Nat.mod_lt _ (by norm_num))))

/-- Four-bit element j of a packed lane (09 R230). -/
theorem packLane_nibble (scale : Nat) (q : List Nat) {i j : Nat} (hi : i < 4) (hj : j < 8) :
    (packLane scale q i).toNat / 2 ^ (4 * j) % 16 = q.getD (8 * i + j) 0 % 16 := by
  have hdig : ∀ j ∈ List.range 8, q.getD (8 * i + j) 0 % 16 < 16 := fun _ _ => Nat.mod_lt _ (by norm_num)
  have hlt := foldr_digits_lt 16 _ hdig
  have hdigit := foldr_digit 16 _ hdig (p := j) (by simpa using hj)
  rw [List.getElem_range] at hdigit
  unfold packLane
  rw [if_pos hi, BitVec.toNat_ofNat, Nat.mod_eq_of_lt (hlt.trans_le (by simp)), Nat.pow_mul]
  exact hdigit

/-- The lanes of vpack.mx from the packs of the groups. -/
theorem packs_getD {f : Nat → Nat × List Nat} {g i : Nat} (hg : g < 8) (hi : i < 16) :
    ((List.range 8).map f).getD ((16 * g + i) / 16) (0, []) = f g := by
  rw [show (16 * g + i) / 16 = g by omega]
  simp [List.getD_eq_getElem?_getD, hg]

/-- Settles O37: special values by the table, conversions by the field that they write, and packs digit by digit. -/
theorem conversionsAndSpecialFunctionsRoundOnce : Obligations.ConversionsAndSpecialFunctionsRoundOnce := by
  unfold Obligations.ConversionsAndSpecialFunctionsRoundOnce
  refine ⟨fun s vd va vb k rm => ?_, fun mode noise x h => toF32_f32 mode noise x h⟩
  intro x y nan pinf ninf pzero nzero one by_
  refine ⟨vexp2_setsV s vd va k, vlog2_setsV s vd va k, vrcp_setsV s vd va k, vrsqrt_setsV s vd va k, vtanh_setsV s vd va k, ?vscl,
    fun from_ to_ dpos spos f t hf ht _ hd => ⟨_, setsVSat_of_vecSat rfl, fun l _ => ?vcvt⟩,
    fun to_ h t hto ht => ⟨_, setsV_of_vecOp rfl, fun l b _ hb => ?vunpk⟩,
    ⟨_, setsV_of_vecPut rfl, fun gr hgr => ?vpack⟩⟩
  case vscl =>
    refine setsV_congr (setsV_of_vecOp rfl) fun l _ _ => ?_
    show scaleLane rm.toNat (x l) (y l) = _
    simp only [scaleLane, show fld (y l) 0 8 = (y l).toNat % 256 by simp [fld, bitsAt]]
    rfl
  case vcvt =>
    have hroom : t.width * dpos.toNat + t.width ≤ 32 := by rw [← Nat.mul_succ, Nat.mul_comm]; exact hd
    intro r
    rw [convertLane_eq hf ht, fld_low_16]
    refine ⟨rfl, fld_setFld _ hroom, fun b hb => ?_⟩
    rw [getLsbD_setFld _ _ _ hroom, if_neg (by rw [Nat.mul_succ] at hb; omega)]
    rfl
  case vunpk =>
    intro e src
    rw [unpackLane_byte hto ht _ _ _ _ hb]
    have hsrc : 16 * (l / 16) + 8 * b2n h + e / 8 = src := by cases h <;> rfl
    rw [hsrc]
    rfl
  case vpack =>
    intro block
    refine ⟨fun j hj => ?_, ?_, fun i hi hi' => ?_⟩
    · have h8 : 8 * (j / 8) + j % 8 = j := Nat.div_add_mod j 8
      simp only
      rw [packs_getD hgr (by omega), show (16 * gr + j / 8) % 16 = j / 8 by omega,
        packLane_nibble _ _ (by omega) (Nat.mod_lt _ (by norm_num)), h8]
    · simp only
      rw [packs_getD hgr (by omega), show (16 * gr + 4) % 16 = 4 by omega]
      rfl
    · simp only
      rw [packs_getD hgr hi', show (16 * gr + i) % 16 = i by omega, packLane, if_neg (by omega), if_neg (by omega)]

end Sys2Proof.Machine
end

section
/-! SUPPORT. The best of a list under a strict comparison, the first of equals (09 R240), and the order of float lanes (R220). -/

namespace Sys2Proof.Machine

open Sys2Proof

/-- The best element of a list, kept until a better one comes. -/
def bestOf {α : Type} (better : α → α → Bool) (l : List α) : Option α :=
  l.foldl (fun best p => match best with
    | none => some p
    | some q => if better p q then some p else best) none

theorem bestOf_concat {α : Type} (better : α → α → Bool) (l : List α) (p : α) : bestOf better (l ++ [p]) =
    match bestOf better l with
      | none => some p
      | some q => if better p q then some p else some q := by
  unfold bestOf
  rw [List.foldl_append]
  cases l.foldl _ none <;> rfl

/-- The best by keys of a linear order: nothing before it is as good, and nothing after it is better. -/
theorem bestOf_spec {α κ : Type} [LinearOrder κ] {better : α → α → Bool} (key : α → κ) {l : List α}
    (hb : ∀ p ∈ l, ∀ q ∈ l, better p q = true ↔ key p < key q) :
    (bestOf better l = none ∧ l = [])
    ∨ ∃ r l₁ l₂, bestOf better l = some r ∧ l = l₁ ++ r :: l₂ ∧ (∀ p ∈ l₁, key r < key p) ∧ ∀ p ∈ l₂, key r ≤ key p := by
  induction l using List.reverseRecOn with
  | nil => exact .inl ⟨rfl, rfl⟩
  | append_singleton l p ih =>
    right
    rw [bestOf_concat]
    rcases ih fun a ha b hb' => hb a (by simp [ha]) b (by simp [hb']) with ⟨hnone, rfl⟩ | ⟨r, l₁, l₂, hsome, rfl, hbefore, hafter⟩
    · rw [hnone]
      exact ⟨p, [], [], rfl, rfl, by simp, by simp⟩
    · have hcmp := hb p (by simp) r (by simp)
      rw [hsome]
      by_cases hp : key p < key r
      · refine ⟨p, l₁ ++ r :: l₂, [], if_pos (hcmp.mpr hp), rfl, fun q hq => ?_, by simp⟩
        rcases List.mem_append.mp hq with h | h
        · exact hp.trans (hbefore q h)
        · rcases List.mem_cons.mp h with rfl | h
          · exact hp
          · exact hp.trans_le (hafter q h)
      · refine ⟨r, l₁, l₂ ++ [p], if_neg (mt hcmp.mp hp), by simp, hbefore, fun q hq => ?_⟩
        rcases List.mem_append.mp hq with h | h
        · exact hafter q h
        · rw [List.mem_singleton.mp h]
          exact not_lt.mp hp

/-- Of the best of a list nothing in it is better. -/
theorem bestOf_le {α κ : Type} [LinearOrder κ] {better : α → α → Bool} (key : α → κ) {l : List α}
    (hb : ∀ p ∈ l, ∀ q ∈ l, better p q = true ↔ key p < key q) {r : α} (hr : bestOf better l = some r) :
    r ∈ l ∧ ∀ p ∈ l, key r ≤ key p := by
  rcases bestOf_spec key hb with ⟨hnone, -⟩ | ⟨r', l₁, l₂, hsome, hl, hbefore, hafter⟩
  · rw [hnone] at hr
    cases hr
  · obtain rfl : r' = r := Option.some.inj (hsome.symm.trans hr)
    rw [hl]
    refine ⟨by simp, fun p hp => ?_⟩
    rcases List.mem_append.mp hp with h | h
    · exact (hbefore p h).le
    · rcases List.mem_cons.mp h with rfl | h
      · exact le_rfl
      · exact hafter p h

theorem bestOf_eq_none_iff {α : Type} (better : α → α → Bool) (l : List α) : bestOf better l = none ↔ l = [] := by
  induction l using List.reverseRecOn with
  | nil => simp [bestOf]
  | append_singleton l p _ =>
    rw [bestOf_concat]
    cases bestOf better l with
    | none => simp
    | some q =>
      simp only
      split <;> simp

theorem bestOf_mem {α : Type} {better : α → α → Bool} {l : List α} {r : α} (h : bestOf better l = some r) : r ∈ l := by
  induction l using List.reverseRecOn generalizing r with
  | nil => cases h
  | append_singleton l p ih =>
    rw [bestOf_concat] at h
    cases hl : bestOf better l with
    | none =>
      rw [hl] at h
      obtain rfl := Option.some.inj h
      simp
    | some q =>
      rw [hl] at h
      simp only at h
      split at h
      · obtain rfl := Option.some.inj h
        simp
      · obtain rfl := Option.some.inj h
        simp [ih hl]

/-! ## Float lanes -/

/-- The place of a float lane that is not NaN in the order of 09 R220, in which −0 lies below +0. -/
def floatKey (a : W32) : WithBot (WithTop ℚ) ×ₗ Bool := toLex ((f32 a).rank, !a.msb)

theorem Num.eq_iff_rank {x y : Num} (hx : x.isNan = false) (hy : y.isNan = false) : x.eq y = true ↔ x.rank = y.rank := by
  have h1 := Num.lt_iff_rank hx hy
  have h2 := Num.lt_iff_rank hy hx
  rw [Num.eq, hx, hy]
  simp only [Bool.not_false, Bool.true_and, Bool.and_eq_true, Bool.not_eq_true', ← Bool.not_eq_true, h1, h2, not_lt]
  exact ⟨fun ⟨h, h'⟩ => le_antisymm h' h, fun h => ⟨h.ge, h.le⟩⟩

theorem f32Below_iff_key {a b : W32} (ha : (f32 a).isNan = false) (hb : (f32 b).isNan = false) :
    f32Below a b = true ↔ floatKey a < floatKey b := by
  rw [f32Below_iff, Num.lt_iff_rank ha hb, Num.eq_iff_rank ha hb, floatKey, floatKey, Prod.Lex.toLex_lt_toLex]
  cases a.msb <;> cases b.msb <;> simp

end Sys2Proof.Machine
end

section
/-! SUPPORT. Reductions of governed lanes (09 R240): the sets that they combine, their sums and their extremes. -/

namespace Sys2Proof.Machine

open Sys2Proof

/-! ## The sets -/

/-- The governed lanes that the result in lane l combines: all, or those of its group (09 R240). -/
def State.redSet (s : State) (k : KR) (grp : Bool) (l : Nat) : List Nat :=
  (List.range 128).filter fun j => s.governs k j && (!grp || j / 16 == l / 16)

/-- Those lanes with their values. -/
def State.redLanes (s : State) (va : VR) (k : KR) (grp : Bool) (l : Nat) : List (Nat × W32) :=
  (s.redSet k grp l).map fun j => (j, lane (s.srcV va) j)

/-- The sets of vred as the model lists them: one, or one of each group. -/
def State.redSets (s : State) (va : VR) (k : KR) (grp : Bool) : List (List (Nat × W32)) :=
  if grp then (List.range 8).map fun x => laneSet (s.srcK k) (s.srcV va) (some x) else [laneSet (s.srcK k) (s.srcV va) none]

theorem laneSet_none (s : State) (va : VR) (k : KR) (l : Nat) :
    laneSet (s.srcK k) (s.srcV va) none = s.redLanes va k false l := rfl

theorem laneSet_some (s : State) (va : VR) (k : KR) (l : Nat) :
    laneSet (s.srcK k) (s.srcV va) (some (l / 16)) = s.redLanes va k true l := rfl

/-- The result of the set of lane l. -/
theorem redSets_getD {α : Type} (s : State) (va : VR) (k : KR) (grp : Bool) (f : List (Nat × W32) → α) (d : α) {l : Nat}
    (hl : l < 128) : ((s.redSets va k grp).map f).getD (if grp then l / 16 else 0) d = f (s.redLanes va k grp l) := by
  have hgroup : l / 16 < 8 := by omega
  cases grp with
  | false => rfl
  | true => simp [State.redSets, List.getD_eq_getElem?_getD, hgroup, laneSet_some]

/-- Some set has a property when the set of some lane does. -/
theorem redSets_any {α : Type} (s : State) (va : VR) (k : KR) (grp : Bool) (f : List (Nat × W32) → α) (p : α → Bool) :
    ((s.redSets va k grp).map f).any p = true ↔ ∃ l, l < 128 ∧ p (f (s.redLanes va k grp l)) = true := by
  cases grp with
  | false =>
    simp only [State.redSets, laneSet_none s va k 0, Bool.false_eq_true, if_false, List.map_cons, List.map_nil, List.any_cons,
      List.any_nil, Bool.or_false]
    exact ⟨fun h => ⟨0, by norm_num, h⟩, fun ⟨_, _, h⟩ => h⟩
  | true =>
    simp only [State.redSets, if_true, List.map_map, List.any_map, List.any_eq_true, List.mem_range, Function.comp]
    constructor
    · rintro ⟨g, hg, h⟩
      refine ⟨16 * g, by omega, ?_⟩
      rw [← laneSet_some, show 16 * g / 16 = g by omega]
      exact h
    · rintro ⟨l, hl, h⟩
      exact ⟨l / 16, by omega, laneSet_some s va k l ▸ h⟩

theorem setSat_eq_sticky {t : State} {c : Nat} (h : t.cur = c) (v : Bool) : t.setSat c v = t.sticky 3 v := by
  subst h
  rfl

section
variable {s : State} {vd va vc : VR} {k : KR} {rm : BitVec 2} {grp : Bool} {kind : BitVec 2} {op : BitVec 3}

/-- vred of one result: each lane receives that of its set, and SAT is set when one saturates. -/
theorem vred_setsVAll {f : List W32 → W32 × Bool} {g : Nat → W32} {gain : Nat → Prop} (hop : op.toNat < 3)
    (hf : ∀ set, (if op = 0 then redSum kind rm.toNat set else (redExtreme kind (op == 1 || op == 3) set, false)) = f set)
    (hg : ∀ l, l < 128 → (f ((s.redLanes va k grp l).map (·.2))).1 = g l)
    (hgain : ∀ b, (b = 3 ∧ ∃ l, l < 128 ∧ (f ((s.redLanes va k grp l).map (·.2))).2 = true) ↔ gain b) :
    SetsVAll s (.vred vd va vc k rm grp kind op) vd g gain := by
  have hexec : exec (.vred vd va vc k rm grp kind op) s =
      let r := (s.redSets va k grp).map fun set => f (set.map (·.2))
      .next ((s.vecPut vd (lanes fun l => (r.getD (if grp then l / 16 else 0) (0, false)).1)).setSat s.cur (r.any (·.2))) := by
    show execVred vd va vc k rm grp kind op s = _
    unfold execVred
    simp only [if_pos hop, hf]
    rfl
  simp only [setSat_eq_sticky (vecPut_cur s vd _)] at hexec
  refine setsVAll_of_vecPut hexec (gainsSticky_congr (gainsSticky_sticky _ (by norm_num) _) fun b => ?_) fun l hl => ?_
  · rw [redSets_any, hgain b]
  · rw [lane_lanes _ l hl, redSets_getD _ _ _ _ _ _ hl, hg l hl]

end

theorem map_snd_redLanes (s : State) (va : VR) (k : KR) (grp : Bool) (l : Nat) :
    (s.redLanes va k grp l).map (·.2) = (s.redSet k grp l).map fun j => lane (s.srcV va) j := by
  simp [State.redLanes]

/-! ## Sums -/

theorem ofNat_wrapInt (y : Int) : BitVec.ofNat 32 (wrapInt 32 y) = BitVec.ofInt 32 y := by
  apply BitVec.eq_of_toNat_eq
  rw [BitVec.toNat_ofNat, Nat.mod_eq_of_lt (wrapInt_lt 32 y), BitVec.toNat_ofInt]
  rfl

theorem intMax_kind (kind : BitVec 2) : intMax 32 (kind == 1) = if kind = 1 then 2 ^ 31 - 1 else 2 ^ 32 - 1 := by
  by_cases h : kind = 1 <;> simp [intMax, h]

theorem intMin_kind (kind : BitVec 2) : intMin 32 (kind == 1) = if kind = 1 then -(2 ^ 31) else 0 := by
  by_cases h : kind = 1 <;> simp [intMin, h]

/-- An exact sum as a lane, and whether it saturates (03 R67). -/
theorem satSum_eq (kind : BitVec 2) (v : Int) : satSum kind v =
    (BitVec.ofInt 32 (min (intMax 32 (kind == 1)) (max (intMin 32 (kind == 1)) v)),
      decide (v < intMin 32 (kind == 1) ∨ intMax 32 (kind == 1) < v)) := by
  simp only [satSum, satInt_eq, ofNat_wrapInt]

/-- An integer lane of its kind. -/
theorem laneInt_eq (kind : BitVec 2) (x : W32) : laneInt kind x = if kind = 1 then x.toInt else (x.toNat : Int) := by
  rw [laneInt, elemInt_eq (by norm_num) _ x.isLt, BitVec.ofNat_toNat, BitVec.setWidth_eq]
  simp

/-! ## Extremes of integers -/

/-- The least or greatest of a list, or a value for the empty one. -/
def extremeInt (smaller : Bool) (empty : Int) : List Int → Int
  | [] => empty
  | a :: l => l.foldl (if smaller then min else max) a

/-- The extreme of a list with an element is one of it, and no element lies beyond it. -/
theorem extremeInt_spec (smaller : Bool) (empty : Int) {l : List Int} (hl : l ≠ []) :
    extremeInt smaller empty l ∈ l
    ∧ ∀ a ∈ l, if smaller then extremeInt smaller empty l ≤ a else a ≤ extremeInt smaller empty l := by
  obtain ⟨a, l, rfl⟩ := List.exists_cons_of_ne_nil hl
  clear hl
  cases smaller with
  | true => exact List.min?_eq_some_iff.mp (List.min?_cons' (x := a) (xs := l))
  | false => exact List.max?_eq_some_iff.mp (List.max?_cons' (x := a) (xs := l))

theorem redExtreme_int {kind : BitVec 2} (h0 : kind ≠ 0) (hk : kind.toNat ≤ 2) (smaller : Bool) (set : List W32) :
    redExtreme kind smaller set = BitVec.ofInt 32
      (extremeInt smaller (if smaller then intMax 32 (kind == 1) else intMin 32 (kind == 1)) (set.map (laneInt kind))) := by
  cases set with
  | nil =>
    have hkinds : kind = 1 ∨ kind = 2 := by
      revert kind
      decide
    rcases hkinds with rfl | rfl <;> cases smaller <;> rfl
  | cons a set =>
    unfold redExtreme
    rw [if_neg (by simp), if_neg h0, ofNat_wrapInt]
    rfl

/-! ## Extremes of floats -/

/-- The extreme of float lanes is the best of those that are not NaN (09 R220). -/
theorem foldl_f32Pick (smaller : Bool) (l : List W32) : l.foldl (f32Pick smaller) nanF32 =
    (bestOf (fun p q => if smaller then f32Below p q else f32Below q p) (l.filter fun a => !(f32 a).isNan)).getD nanF32 := by
  induction l using List.reverseRecOn with
  | nil => rfl
  | append_singleton l p ih =>
    rw [List.foldl_append, List.foldl_cons, List.foldl_nil, ih, List.filter_append]
    have hnan : (f32 nanF32).isNan = true := rfl
    cases hp : (f32 p).isNan with
    | true =>
      rw [List.filter_cons_of_neg (by simp [hp]), List.filter_nil, List.append_nil]
      cases hbest : bestOf _ _ with
      | none => simp [f32Pick, hnan, hp]
      | some r =>
        have hr : (f32 r).isNan = false := by simpa using (List.mem_filter.mp (bestOf_mem hbest)).2
        simp [f32Pick, hr, hp]
    | false =>
      rw [List.filter_cons_of_pos (by simp [hp]), List.filter_nil, bestOf_concat]
      cases hbest : bestOf _ _ with
      | none => simp [f32Pick, hnan, hp]
      | some r =>
        have hr : (f32 r).isNan = false := by simpa using (List.mem_filter.mp (bestOf_mem hbest)).2
        cases smaller <;> simp only [f32Pick, hr, hp, Option.getD_some, Bool.false_eq_true, if_false, if_true] <;> split <;> rfl

/-- The extreme of float lanes that are not all NaN is one of them, and none of them lies beyond it (09 R220, R240). -/
theorem foldl_f32Pick_spec (smaller : Bool) (l : List W32) :
    let nums := l.filter fun a => !(f32 a).isNan
    let r := l.foldl (f32Pick smaller) nanF32
    (nums = [] → r = nanF32)
    ∧ (nums ≠ [] → r ∈ nums ∧ ∀ a ∈ nums, if smaller then f32Below a r = false else f32Below r a = false) := by
  intro nums r
  have hr : r = _ := foldl_f32Pick smaller l
  have hnum : ∀ a ∈ nums, (f32 a).isNan = false := fun a ha => by simpa using (List.mem_filter.mp ha).2
  refine ⟨fun h => ?_, fun h => ?_⟩
  · rw [hr, (bestOf_eq_none_iff _ _).mpr h]
    rfl
  · obtain ⟨b, hb⟩ := Option.ne_none_iff_exists'.mp (mt (bestOf_eq_none_iff (fun p q =>
      if smaller then f32Below p q else f32Below q p) nums).mp h)
    rw [hb, Option.getD_some] at hr
    rw [hr]
    have hmem := bestOf_mem hb
    refine ⟨hmem, fun a ha => ?_⟩
    cases smaller with
    | true =>
      have hle := (bestOf_le floatKey (fun p hp q hq => f32Below_iff_key (hnum p hp) (hnum q hq)) hb).2 a ha
      rw [if_pos rfl, ← Bool.not_eq_true, f32Below_iff_key (hnum a ha) (hnum b hmem)]
      exact hle.not_gt
    | false =>
      have hle := (bestOf_le (fun a => OrderDual.toDual (floatKey a))
        (fun p hp q hq => f32Below_iff_key (hnum q hq) (hnum p hp)) hb).2 a ha
      rw [if_neg (by simp), ← Bool.not_eq_true, f32Below_iff_key (hnum b hmem) (hnum a ha)]
      exact (OrderDual.toDual_le_toDual.mp hle).not_gt

end Sys2Proof.Machine
end

section
/-! SUPPORT. The forms of vred (09 R240). -/

namespace Sys2Proof.Machine

open Sys2Proof

section
variable (s : State) (vd va vc : VR) (k : KR) (rm : BitVec 2) (grp : Bool) {kind : BitVec 2} {op : BitVec 3}

/-- The sum of a set: a binary64 running sum rounded once, or an exact sum that saturates. -/
theorem vred_sum : SetsVAll s (.vred vd va vc k rm grp kind 0) vd
    (fun l => if kind = 0 then toF32 rm.toNat (runningSum ((s.redSet k grp l).map fun j => f32 (lane (s.srcV va) j))) 0
      else BitVec.ofInt 32 (min (intMax 32 (kind == 1)) (max (intMin 32 (kind == 1))
        ((s.redSet k grp l).map fun j => laneInt kind (lane (s.srcV va) j)).sum)))
    (fun b => b = 3 ∧ kind ≠ 0 ∧ ∃ l, l < 128 ∧
      (((s.redSet k grp l).map fun j => laneInt kind (lane (s.srcV va) j)).sum < intMin 32 (kind == 1)
        ∨ intMax 32 (kind == 1) < ((s.redSet k grp l).map fun j => laneInt kind (lane (s.srcV va) j)).sum)) := by
  have hsum : ∀ l, redSum kind rm.toNat ((s.redLanes va k grp l).map (·.2)) =
      if kind = 0 then (toF32 rm.toNat (runningSum ((s.redSet k grp l).map fun j => f32 (lane (s.srcV va) j))) 0, false)
      else satSum kind ((s.redSet k grp l).map fun j => laneInt kind (lane (s.srcV va) j)).sum := fun l => by
    rw [map_snd_redLanes, redSum, List.map_map, List.map_map]
    rfl
  refine vred_setsVAll (f := redSum kind rm.toNat) (by decide) (fun set => if_pos rfl) (fun l _ => ?_) fun b => ?_
  · rw [hsum, satSum_eq]
    split <;> rfl
  · simp only [hsum]
    by_cases h0 : kind = 0
    · simp only [if_pos h0]
      simp [h0]
    · simp only [if_neg h0, satSum_eq, decide_eq_true_iff]
      exact ⟨fun ⟨h, hl⟩ => ⟨h, h0, hl⟩, fun ⟨h, _, hl⟩ => ⟨h, hl⟩⟩

theorem vred_extreme {g : Nat → W32} (hop : op = 1 ∨ op = 2)
    (hg : ∀ l, l < 128 → redExtreme kind (op == 1) ((s.redSet k grp l).map fun j => lane (s.srcV va) j) = g l) :
    SetsVAll s (.vred vd va vc k rm grp kind op) vd g fun _ => False := by
  have hsmaller : (op == 1 || op == 3) = (op == 1) := by rcases hop with rfl | rfl <;> rfl
  refine vred_setsVAll (f := fun set => (redExtreme kind (op == 1) set, false)) (by rcases hop with rfl | rfl <;> decide)
    (fun set => ?_) (fun l hl => ?_) fun b => by simp
  · rw [hsmaller]
    exact if_neg (by rcases hop with rfl | rfl <;> decide)
  · rw [map_snd_redLanes]
    exact hg l hl

/-- The extreme of a set of integers: one of them, beyond which none lies. -/
theorem vred_extreme_int (hop : op = 1 ∨ op = 2) (h0 : kind ≠ 0) (hk : kind.toNat ≤ 2) :
    ∃ f : Nat → Int, SetsVAll s (.vred vd va vc k rm grp kind op) vd (fun l => BitVec.ofInt 32 (f l)) (fun _ => False)
      ∧ ∀ l, l < 128 →
        if s.redSet k grp l = [] then f l = (if op = 1 then intMax 32 (kind == 1) else intMin 32 (kind == 1))
        else (∃ j ∈ s.redSet k grp l, f l = laneInt kind (lane (s.srcV va) j))
          ∧ ∀ j ∈ s.redSet k grp l, if op = 1 then f l ≤ laneInt kind (lane (s.srcV va) j)
            else laneInt kind (lane (s.srcV va) j) ≤ f l := by
  refine ⟨fun l => extremeInt (op == 1) (if op == 1 then intMax 32 (kind == 1) else intMin 32 (kind == 1))
    ((s.redSet k grp l).map fun j => laneInt kind (lane (s.srcV va) j)), vred_extreme s vd va vc k rm grp hop fun l _ => ?_,
    fun l _ => ?_⟩
  · rw [redExtreme_int h0 hk, List.map_map]
    rfl
  · simp only [beq_iff_eq]
    split
    · rw [‹s.redSet k grp l = []›]
      rfl
    · obtain ⟨hmem, hbound⟩ := extremeInt_spec (op == 1) (if op = 1 then intMax 32 (kind == 1) else intMin 32 (kind == 1))
        (l := (s.redSet k grp l).map fun j => laneInt kind (lane (s.srcV va) j)) (by simpa using ‹¬s.redSet k grp l = []›)
      obtain ⟨j, hj, hval⟩ := List.mem_map.mp hmem
      refine ⟨⟨j, hj, hval.symm⟩, fun i hi => ?_⟩
      simpa only [beq_iff_eq] using hbound _ (List.mem_map_of_mem hi)

/-- The extreme of a set of floats: one of those that are not NaN, beyond which none of them lies. -/
theorem vred_extreme_float (hop : op = 1 ∨ op = 2) :
    ∃ f : Nat → W32, SetsVAll s (.vred vd va vc k rm grp 0 op) vd f (fun _ => False) ∧ ∀ l, l < 128 →
      let x := fun j => lane (s.srcV va) j
      let nums := (s.redSet k grp l).filter fun j => !(f32 (x j)).isNan
      if s.redSet k grp l = [] then f l = (if op = 1 then 0x7F800000 else 0xFF800000)
      else if nums = [] then f l = 0x7FC00000
      else (∃ j ∈ nums, f l = x j) ∧ ∀ j ∈ nums, if op = 1 then ¬f32Below (x j) (f l) = true else ¬f32Below (f l) (x j) = true := by
  refine ⟨fun l => redExtreme 0 (op == 1) ((s.redSet k grp l).map fun j => lane (s.srcV va) j),
    vred_extreme s vd va vc k rm grp hop fun l _ => rfl, fun l _ => ?_⟩
  intro x nums
  have hnums : ((s.redSet k grp l).map x).filter (fun a => !(f32 a).isNan) = nums.map x := List.filter_map
  split
  · show redExtreme 0 (op == 1) ((s.redSet k grp l).map x) = _
    rw [‹s.redSet k grp l = []›]
    rcases hop with rfl | rfl <;> rfl
  · have hfold : redExtreme 0 (op == 1) ((s.redSet k grp l).map x) = ((s.redSet k grp l).map x).foldl (f32Pick (op == 1)) nanF32 := by
      unfold redExtreme
      rw [if_neg (by simpa using ‹¬s.redSet k grp l = []›), if_pos rfl]
    obtain ⟨hnone, hsome⟩ := foldl_f32Pick_spec (op == 1) ((s.redSet k grp l).map x)
    rw [hnums, ← hfold] at hnone hsome
    split
    · exact hnone (by simpa using ‹nums = []›)
    · obtain ⟨hmem, hbound⟩ := hsome (by simpa using ‹¬nums = []›)
      obtain ⟨j, hj, hval⟩ := List.mem_map.mp hmem
      refine ⟨⟨j, hj, hval.symm⟩, fun i hi => ?_⟩
      simpa only [beq_iff_eq, Bool.not_eq_true] using hbound _ (List.mem_map_of_mem hi)

end

end Sys2Proof.Machine
end

section
/-! SUPPORT. The index of an extreme (09 R240): vred argmin and argmax. -/

namespace Sys2Proof.Machine

open Sys2Proof

/-- One lane value beats another as the least or the greatest. -/
def argBetter (kind : BitVec 2) (smaller : Bool) (a b : W32) : Bool :=
  if smaller then (argKey kind smaller a).lt (argKey kind smaller b) else (argKey kind smaller b).lt (argKey kind smaller a)

/-- The lane that argmin or argmax picks in a set, or 128 when it has no candidate (09 R240). -/
def argIndex (kind : BitVec 2) (smaller : Bool) (set : List (Nat × W32)) : Nat :=
  match argBest kind smaller set with
  | none => 128
  | some p => if kind = 0 ∧ argKey kind smaller p.2 = .inf (!smaller) then 128 else p.1

theorem argKey_not_nan (kind : BitVec 2) (smaller : Bool) (a : W32) : (argKey kind smaller a).isNan = false := by
  unfold argKey
  split
  · split
    · rfl
    · simpa using ‹¬(f32 a).isNan = true›
  · rfl

theorem argKey_eq (kind : BitVec 2) (smaller : Bool) (a : W32) : argKey kind smaller a =
    if kind ≠ 0 then Num.ofInt (laneInt kind a) else if (f32 a).isNan then .inf (!smaller) else f32 a := by
  unfold argKey
  by_cases h0 : kind = 0
  · rw [if_pos h0, if_neg (not_not_intro h0)]
  · rw [if_neg h0, if_pos h0]

theorem argBetter_asymm {kind : BitVec 2} {smaller : Bool} {a b : W32} (h : argBetter kind smaller a b = true) :
    argBetter kind smaller b a = false := by
  cases smaller <;> exact Num.lt_asymm h

/-- Nothing is beaten by the worst candidate, and what does not beat it is the worst itself. -/
theorem argKey_worst {kind : BitVec 2} {smaller : Bool} {a b : W32} (hb : argKey kind smaller b = .inf (!smaller))
    (h : argBetter kind smaller a b = false) : argKey kind smaller a = .inf (!smaller) := by
  have hnum := argKey_not_nan kind smaller a
  cases smaller
  · simp only [argBetter, Bool.false_eq_true, if_false, hb] at h
    generalize argKey kind false a = x at h hnum
    match x, hnum, h with
    | .inf true, _, _ => rfl
  · simp only [argBetter, if_true, hb] at h
    generalize argKey kind true a = x at h hnum
    match x, hnum, h with
    | .inf false, _, _ => rfl

/-- The pick beats all that stand before it, and nothing beats it. -/
theorem argBest_spec (kind : BitVec 2) (smaller : Bool) (set : List (Nat × W32)) :
    (argBest kind smaller set = none ∧ set = [])
    ∨ ∃ r l₁ l₂, argBest kind smaller set = some r ∧ set = l₁ ++ r :: l₂
      ∧ (∀ p ∈ l₁, argBetter kind smaller r.2 p.2 = true) ∧ ∀ p ∈ set, argBetter kind smaller p.2 r.2 = false := by
  have hbest : argBest kind smaller set = bestOf (fun p q => argBetter kind smaller p.2 q.2) set := by
    refine congrArg (fun f => set.foldl f none) (funext₂ fun best p => ?_)
    cases best with
    | none => rfl
    | some q => cases smaller <;> rfl
  have hrank : ∀ a b, (argKey kind smaller a).lt (argKey kind smaller b) = true ↔
      (argKey kind smaller a).rank < (argKey kind smaller b).rank :=
    fun a b => Num.lt_iff_rank (argKey_not_nan _ _ a) (argKey_not_nan _ _ b)
  have hsplit : (bestOf (fun p q => argBetter kind smaller p.2 q.2) set = none ∧ set = [])
      ∨ ∃ r l₁ l₂, bestOf (fun p q => argBetter kind smaller p.2 q.2) set = some r ∧ set = l₁ ++ r :: l₂
        ∧ (∀ p ∈ l₁, argBetter kind smaller r.2 p.2 = true) ∧ ∀ p ∈ l₂, argBetter kind smaller p.2 r.2 = false := by
    cases smaller with
    | true =>
      have hkey : ∀ p q : Nat × W32, argBetter kind true p.2 q.2 = true ↔
          (argKey kind true p.2).rank < (argKey kind true q.2).rank := fun p q => hrank p.2 q.2
      simpa only [← Bool.not_eq_true, hkey, not_lt] using
        bestOf_spec (fun p : Nat × W32 => (argKey kind true p.2).rank) (l := set) fun p _ q _ => hkey p q
    | false =>
      have hkey : ∀ p q : Nat × W32, argBetter kind false p.2 q.2 = true ↔
          OrderDual.toDual (argKey kind false p.2).rank < OrderDual.toDual (argKey kind false q.2).rank :=
        fun p q => hrank q.2 p.2
      simpa only [← Bool.not_eq_true, hkey, not_lt] using
        bestOf_spec (fun p : Nat × W32 => OrderDual.toDual (argKey kind false p.2).rank) (l := set) fun p _ q _ => hkey p q
  rw [hbest]
  refine hsplit.imp_right fun ⟨r, l₁, l₂, hr, hset, hbefore, hafter⟩ => ⟨r, l₁, l₂, hr, hset, hbefore, fun p hp => ?_⟩
  rw [hset] at hp
  rcases List.mem_append.mp hp with hp | hp
  · exact argBetter_asymm (hbefore p hp)
  · rcases List.mem_cons.mp hp with rfl | hp
    · exact Bool.eq_false_iff.mpr fun h => absurd h (by rw [argBetter_asymm h]; decide)
    · exact hafter p hp

/-- What argmin and argmax give is the pick with its value, or the marks of a set without a candidate. -/
theorem redArg_eq {kind : BitVec 2} {smaller : Bool} {set : List (Nat × W32)} {x : Nat → W32}
    (hset : ∀ p ∈ set, p.1 < 128 ∧ p.2 = x p.1) : redArg kind smaller set =
      if argIndex kind smaller set = 128 then (0xFFFFFFFF, if smaller then kindMax kind else kindMin kind, true)
      else (.ofNat 32 (argIndex kind smaller set), x (argIndex kind smaller set), false) := by
  unfold redArg argIndex
  rcases argBest_spec kind smaller set with ⟨hr, -⟩ | ⟨r, l₁, l₂, hr, hl, -, -⟩
  · rw [hr]
    rfl
  · rw [hr]
    obtain ⟨hlt, hval⟩ := hset r (by rw [hl]; simp)
    simp only
    split
    · rfl
    · rw [if_neg (by omega), hval]

section
variable (s : State) (va : VR) (k : KR) (grp : Bool) (kind : BitVec 2) (smaller : Bool)

theorem mem_redSet {s : State} {k : KR} {grp : Bool} {l j : Nat} (h : j ∈ s.redSet k grp l) : j < 128 :=
  List.mem_range.mp (List.mem_filter.mp h).1

theorem redLanes_spec {l : Nat} : ∀ p ∈ s.redLanes va k grp l, p.1 < 128 ∧ p.2 = lane (s.srcV va) p.1 := by
  intro p hp
  obtain ⟨j, hj, rfl⟩ := List.mem_map.mp hp
  exact ⟨mem_redSet hj, rfl⟩

/-- The pick of the set of lane l: none when every candidate is the worst, else the first of the best (09 R240). -/
theorem argIndex_spec (l : Nat) :
    let x := fun j => lane (s.srcV va) j
    let idx := argIndex kind smaller (s.redLanes va k grp l)
    let hopeless := ∀ j ∈ s.redSet k grp l, kind = 0 ∧ argKey kind smaller (x j) = .inf (!smaller)
    (idx = 128 ∧ hopeless) ∨ (¬hopeless ∧ idx ∈ s.redSet k grp l
      ∧ (∀ j ∈ s.redSet k grp l, argBetter kind smaller (x j) (x idx) = false)
      ∧ ∀ j ∈ s.redSet k grp l, j < idx → argBetter kind smaller (x idx) (x j) = true) := by
  intro x idx hopeless
  have hmem : ∀ j, j ∈ s.redSet k grp l → (j, x j) ∈ s.redLanes va k grp l := fun j hj => List.mem_map.mpr ⟨j, hj, rfl⟩
  rcases argBest_spec kind smaller (s.redLanes va k grp l) with ⟨hr, hnil⟩ | ⟨r, l₁, l₂, hr, hl, hbefore, hnone⟩
  · refine .inl ⟨?_, fun j hj => ?_⟩
    · show argIndex kind smaller (s.redLanes va k grp l) = 128
      rw [argIndex, hr]
    · exact absurd (hmem j hj) (by simp [hnil])
  · have hrmem : r ∈ s.redLanes va k grp l := by rw [hl]; simp
    obtain ⟨i, hi, rfl⟩ := List.mem_map.mp hrmem
    have hbest : ∀ j ∈ s.redSet k grp l, argBetter kind smaller (x j) (x i) = false := fun j hj => hnone (j, x j) (hmem j hj)
    have hidx : idx = if kind = 0 ∧ argKey kind smaller (x i) = .inf (!smaller) then 128 else i := by
      show argIndex kind smaller (s.redLanes va k grp l) = _
      rw [argIndex, hr]
    by_cases hworst : kind = 0 ∧ argKey kind smaller (x i) = .inf (!smaller)
    · rw [if_pos hworst] at hidx
      exact .inl ⟨hidx, fun j hj => ⟨hworst.1, argKey_worst (a := x j) (b := x i) hworst.2 (hbest j hj)⟩⟩
    · rw [if_neg hworst] at hidx
      rw [hidx]
      refine .inr ⟨fun h => hworst (h i hi), hi, hbest, fun j hj hlt => ?_⟩
      have hsorted : (s.redLanes va k grp l).Pairwise fun p q => p.1 < q.1 :=
        List.pairwise_map.mpr (List.pairwise_lt_range.filter _)
      rw [hl, List.pairwise_append] at hsorted
      obtain ⟨-, hafter, -⟩ := hsorted
      have hj' := hmem j hj
      rw [hl] at hj'
      rcases List.mem_append.mp hj' with h | h
      · exact hbefore (j, x j) h
      · rcases List.mem_cons.mp h with h | h
        · exact absurd (congrArg Prod.fst h) (by simpa using hlt.ne)
        · exact absurd ((List.pairwise_cons.mp hafter).1 (j, x j) h) (by simpa using hlt.le)

/-- argmin and argmax: the index and the value, EMPTY_SAMPLE for a set without a candidate and NAN_SEEN for a NaN. -/
theorem vred_arg {vd vc : VR} {rm : BitVec 2} {op : BitVec 3} (hop : op = 3 ∨ op = 4) (hne : vc ≠ vd) :
    let idx := fun l => argIndex kind (op == 3) (s.redLanes va k grp l)
    SetsVTwo s (.vred vd va vc k rm grp kind op) vd vc
      (fun l => if idx l = 128 then 0xFFFFFFFF else .ofNat 32 (idx l))
      (fun l => if idx l = 128 then (if op == 3 then kindMax kind else kindMin kind) else lane (s.srcV va) (idx l))
      (fun b => (b = 2 ∧ ∃ l, l < 128 ∧ idx l = 128)
        ∨ (b = 1 ∧ kind = 0 ∧ ∃ l, l < 128 ∧ ∃ j ∈ s.redSet k grp l, (f32 (lane (s.srcV va) j)).isNan = true)) := by
  intro idx
  have hexec : exec (.vred vd va vc k rm grp kind op) s =
      let r := (s.redSets va k grp).map (redArg kind (op == 3))
      let pick := fun l => if grp then l / 16 else 0
      .next ((((s.vecPut vd (lanes fun l => (r.getD (pick l) (0, 0, false)).1)).vecPut vc
        (lanes fun l => (r.getD (pick l) (0, 0, false)).2.1)).sticky 2 (r.any (·.2.2))).sticky 1
          (kind == 0 && ((s.redSets va k grp).map id).any fun set => set.any fun p => (f32 p.2).isNan)) := by
    rw [List.map_id]
    rcases hop with rfl | rfl <;> rfl
  have hlane : ∀ l, l < 128 → _ := fun l hl =>
    (redSets_getD s va k grp (redArg kind (op == 3)) (0, 0, false) hl).trans (redArg_eq (redLanes_spec s va k grp))
  refine setsVTwo_of_vecPut hexec hne (gainsSticky_congr (gainsSticky_trans
    (gainsSticky_sticky _ (by norm_num) _) (gainsSticky_sticky _ (by norm_num) _)) fun b => ?_) (fun l hl => ?_) fun l hl => ?_
  · rw [redSets_any, Bool.and_eq_true, beq_iff_eq, redSets_any]
    refine or_congr (and_congr_right fun _ => exists_congr fun l => and_congr_right fun hl => ?_)
      (and_congr_right fun _ => and_congr_right fun _ => exists_congr fun l => and_congr_right fun _ => ?_)
    · rw [redArg_eq (redLanes_spec s va k grp)]
      show _ ↔ argIndex kind (op == 3) (s.redLanes va k grp l) = 128
      split
      · exact iff_of_true rfl ‹_›
      · exact iff_of_false Bool.false_ne_true ‹_›
    · simp [State.redLanes]
  · rw [lane_lanes _ l hl, hlane l hl]
    split <;> rfl
  · rw [lane_lanes _ l hl, hlane l hl]
    show _ = if argIndex kind (op == 3) (s.redLanes va k grp l) = 128 then _ else _
    split <;> rfl

end

end Sys2Proof.Machine
end

section
/-! SUPPORT. Prefix sums (09 R241): vpfx. -/

namespace Sys2Proof.Machine

open Sys2Proof

/-- The lanes whose sum lane l of vd receives: those of its group up to l (09 R241). -/
def prefixLanes (l : Nat) : List Nat := (List.range (l + 1)).filter fun j => j / 16 == l / 16

/-- The lanes whose running total lane l of vc receives: all up to the end of its group (09 R241). -/
def totalLanes (l : Nat) : List Nat := List.range (16 * (l / 16) + 16)

/-- The sum of the contributions of a list of lanes, and whether it saturates (09 R241). -/
def State.sumOver (s : State) (va : VR) (k : KR) (w : Bool) (kind : BitVec 2) (js : List Nat) : W32 × Bool :=
  if kind = 0 then
    (toF32 0 (runningSum (js.map fun j => prefixWeight w (s.governs k j) (lane (s.srcV va) j))) 0, false)
  else satSum kind (js.map fun j => if s.governs k j then laneInt kind (lane (s.srcV va) j) else 0).sum

theorem prefixLanes_eq (l : Nat) : prefixLanes l = List.range' (l / 16 * 16) (l + 1 - l / 16 * 16) := by
  have hsplit : List.range (l + 1) = List.range (l / 16 * 16) ++ List.range' (l / 16 * 16) (l + 1 - l / 16 * 16) := by
    have happend := List.range'_append_1 (s := 0) (m := l / 16 * 16) (n := l + 1 - l / 16 * 16)
    rw [Nat.zero_add, show l / 16 * 16 + (l + 1 - l / 16 * 16) = l + 1 by omega] at happend
    rw [List.range_eq_range', List.range_eq_range', happend]
  rw [prefixLanes, hsplit, List.filter_append, List.filter_eq_nil_iff.mpr, List.filter_eq_self.mpr, List.nil_append]
  · intro j hj
    simp only [List.mem_range'_1] at hj
    simp only [beq_iff_eq]
    omega
  · intro j hj
    simp only [List.mem_range] at hj
    simp only [beq_iff_eq]
    omega

/-- A stretch of lanes. -/
theorem take_drop_lanes {α : Type} (f : Nat → α) (lo : Nat) {hi : Nat} (h : hi < 128) :
    ((lanes f).take (hi + 1)).drop lo = (List.range' lo (hi + 1 - lo)).map f := by
  rw [lanes, ← List.map_take, ← List.map_drop, List.take_range, show min (hi + 1) 128 = hi + 1 by omega,
    List.range_eq_range', List.drop_range', Nat.zero_add, Nat.mul_one]

section
variable (s : State) {vd va vc : VR} (k : KR) (w : Bool) (kind : BitVec 2)

theorem prefixSum_lanes (lo : Nat) {hi : Nat} (h : hi < 128) :
    prefixSum kind (lanes fun l => prefixWeight w (s.governs k l) (lane (s.srcV va) l))
      (lanes fun l => if s.governs k l then laneInt kind (lane (s.srcV va) l) else 0) lo hi =
    s.sumOver va k w kind (List.range' lo (hi + 1 - lo)) := by
  rw [prefixSum, take_drop_lanes _ _ h, take_drop_lanes _ _ h, State.sumOver]

/-- vpfx: the prefixes and the running totals; SAT when one saturates, NAN_SEEN when a weight is NaN (09 R241). -/
theorem vpfx_setsVTwo (hne : vc ≠ vd) : SetsVTwo s (.vpfx vd va vc k w kind) vd vc
    (fun l => (s.sumOver va k w kind (prefixLanes l)).1) (fun l => (s.sumOver va k w kind (totalLanes l)).1)
    (fun b => (b = 3 ∧ ∃ l, l < 128 ∧ ((s.sumOver va k w kind (prefixLanes l)).2 = true
        ∨ (s.sumOver va k w kind (totalLanes l)).2 = true))
      ∨ (b = 1 ∧ w = true ∧ ∃ l, l < 128 ∧ s.governs k l = true ∧ (f32 (lane (s.srcV va) l)).isNan = true)) := by
  have hprefixes : (lanes fun l => prefixSum kind (lanes fun l => prefixWeight w (s.governs k l) (lane (s.srcV va) l))
      (lanes fun l => if s.governs k l then laneInt kind (lane (s.srcV va) l) else 0) (l / 16 * 16) l) =
      lanes fun l => s.sumOver va k w kind (prefixLanes l) := by
    refine List.map_congr_left fun l hl => ?_
    rw [prefixSum_lanes s k w kind _ (List.mem_range.mp hl), prefixLanes_eq]
  have htotals : ((List.range 8).map fun g => prefixSum kind
      (lanes fun l => prefixWeight w (s.governs k l) (lane (s.srcV va) l))
      (lanes fun l => if s.governs k l then laneInt kind (lane (s.srcV va) l) else 0) 0 (16 * g + 15)) =
      (List.range 8).map fun g => s.sumOver va k w kind (totalLanes (16 * g)) := by
    refine List.map_congr_left fun g hg => ?_
    rw [prefixSum_lanes s k w kind _ (by have := List.mem_range.mp hg; omega), totalLanes, List.range_eq_range',
      show 16 * (16 * g / 16) + 16 = 16 * g + 15 + 1 - 0 by omega]
  have hexec : exec (.vpfx vd va vc k w kind) s =
      let p := lanes fun l => s.sumOver va k w kind (prefixLanes l)
      let c := (List.range 8).map fun g => s.sumOver va k w kind (totalLanes (16 * g))
      let t := (s.vecPut vd (p.map (·.1))).vecPut vc (lanes fun l => (c.getD (l / 16) (0, false)).1)
      .next ((t.setSat t.cur (p.any (·.2) || c.any (·.2))).sticky 1
        (w && (List.range 128).any fun l => s.governs k l && (f32 (lane (s.srcV va) l)).isNan)) := by
    rw [← hprefixes, ← htotals]
    rfl
  have hgroup : ∀ l, totalLanes (16 * (l / 16)) = totalLanes l := fun l => by
    rw [totalLanes, totalLanes, show 16 * (l / 16) / 16 = l / 16 by omega]
  simp only [setSat_eq_sticky rfl] at hexec
  refine setsVTwo_of_vecPut hexec hne (gainsSticky_congr (gainsSticky_trans
    (gainsSticky_sticky _ (by norm_num) _) (gainsSticky_sticky _ (by norm_num) _)) fun b => ?_) (fun l hl => ?_) fun l hl => ?_
  · simp only [lanes, Bool.or_eq_true, Bool.and_eq_true, List.any_map, List.any_eq_true, List.mem_range, Function.comp]
    refine or_congr (and_congr_right fun _ => ⟨?_, ?_⟩) Iff.rfl
    · rintro (⟨l, hl, h⟩ | ⟨g, hg, h⟩)
      · exact ⟨l, hl, .inl h⟩
      · exact ⟨16 * g, by omega, .inr h⟩
    · rintro ⟨l, hl, h | h⟩
      · exact .inl ⟨l, hl, h⟩
      · exact .inr ⟨l / 16, by omega, by rw [hgroup]; exact h⟩
  · rw [lanes, List.map_map]
    exact lane_lanes _ l hl
  · rw [lane_lanes _ l hl, ← hgroup l]
    simp [List.getD_eq_getElem?_getD, show l / 16 < 8 by omega]

end

end Sys2Proof.Machine
end

section
/-! SUPPORT. Keyed noise (09 R243): vnoise. -/

namespace Sys2Proof.Machine

open Sys2Proof

/-- Fields that do not overlap: their sum is their union. -/
theorem noiseFields_or (pos a stream : Nat) (hstream : stream < 2 ^ 8) :
    (pos % 2 ^ 32 * 2 ^ 32 + stream * 2 ^ 24 + a % 2 ^ 24) % 2 ^ 64 =
    pos <<< 32 % 2 ^ 64 ||| stream <<< 24 % 2 ^ 64 ||| (a &&& 0xFFFFFF) := by
  have ha : a % 2 ^ 24 < 2 ^ 24 := Nat.mod_lt _ (by norm_num)
  have hlow : a &&& 0xFFFFFF = a % 2 ^ 24 := Nat.and_two_pow_sub_one_eq_mod a 24
  have hmid : stream <<< 24 ||| a % 2 ^ 24 = stream * 2 ^ 24 + a % 2 ^ 24 := by
    rw [← Nat.shiftLeft_add_eq_or_of_lt ha, Nat.shiftLeft_eq]
  have hhigh : pos <<< 32 % 2 ^ 64 = (pos % 2 ^ 32) <<< 32 := by
    rw [Nat.shiftLeft_eq, Nat.shiftLeft_eq]
    omega
  have hstream' : stream <<< 24 % 2 ^ 64 = stream <<< 24 := by
    rw [Nat.shiftLeft_eq]
    omega
  rw [hhigh, hstream', hlow, Nat.or_assoc, hmid, ← Nat.shiftLeft_add_eq_or_of_lt (by omega), Nat.shiftLeft_eq]
  omega

theorem noiseKey_eq (seed pos : W64) (stream : BitVec 8) (a : W32) : noiseKey seed pos stream a =
    seed ^^^ ((pos <<< 32) ||| ((stream.setWidth 64 : W64) <<< 24) ||| (a.setWidth 64 &&& 0xFFFFFF)) := by
  have hfields := noiseFields_or pos.toNat a.toNat stream.toNat stream.isLt
  rw [noiseKey]
  refine congrArg (seed ^^^ ·) (BitVec.eq_of_toNat_eq ?_)
  have hwide : (stream.setWidth 64 : W64).toNat = stream.toNat := BitVec.toNat_setWidth_of_le (by norm_num)
  have hwide' : (a.setWidth 64 : W64).toNat = a.toNat := BitVec.toNat_setWidth_of_le (by norm_num)
  rw [BitVec.toNat_or, BitVec.toNat_or, BitVec.toNat_shiftLeft, BitVec.toNat_shiftLeft, BitVec.toNat_and, hwide, hwide',
    show (0xFFFFFF : W64).toNat = 0xFFFFFF from rfl, BitVec.toNat_ofNat]
  simpa only [fld, bitsAt, Nat.pow_zero, Nat.div_one] using hfields

/-- The top bits of a word. -/
theorem fld_top (z : W64) {lo len : Nat} (h : lo + len = 64) : fld z lo len = z.toNat / 2 ^ lo := by
  refine Nat.mod_eq_of_lt ((Nat.div_lt_iff_lt_mul (by positivity)).mpr ?_)
  rw [← pow_add, Nat.add_comm, h]
  exact z.isLt

/-- The draws of a mode stand in the governed lanes. -/
theorem vnoise_setsV (s : State) (vd va : VR) (sb : SR) (k : KR) (mode : BitVec 2) (stream : BitVec 8) :
    SetsV s (.vnoise vd va sb k mode stream) vd (s.governs k)
      fun l => noiseLane mode (noiseKey (s.srcS sb) (s.srcS (sb ||| 1)) stream (lane (s.srcV va) l)) :=
  setsV_congr (setsV_of_vecOp rfl) fun _ _ hg => if_pos hg

/-- The three kinds of draw from the finalised key (09 R243). -/
theorem noiseLane_eq (key : W64) : let z := splitMix key
    noiseLane 0 key = toF32 1 (.fin false (2 * (z.toNat / 2 ^ 40) + 1) (-25)) 0
    ∧ noiseLane 1 key = toF32 0 (gumbel (2 * (z.toNat / 2 ^ 40) + 1)) 0
    ∧ noiseLane 2 key = .ofNat 32 (z.toNat / 2 ^ 48) := by
  intro z
  rw [← fld_top z (lo := 40) (len := 24) rfl, ← fld_top z (lo := 48) (len := 16) rfl]
  exact ⟨rfl, rfl, rfl⟩

/-- vnoise with each mode, its key written as in 09 R243. -/
theorem vnoise_modes (s : State) (vd va : VR) (sb : SR) (k : KR) (mode : BitVec 2) (stream : BitVec 8) :
    let mix := fun l => splitMix (s.srcS sb ^^^ (((s.srcS (sb ||| 1)) <<< 32) ||| ((stream.setWidth 64 : W64) <<< 24)
      ||| ((lane (s.srcV va) l).setWidth 64 &&& 0xFFFFFF)))
    let top := fun l => (mix l).toNat / 2 ^ 40
    (mode = 0 → SetsV s (.vnoise vd va sb k mode stream) vd (s.governs k)
      fun l => toF32 1 (.fin false (2 * top l + 1) (-25)) 0)
    ∧ (mode = 1 → SetsV s (.vnoise vd va sb k mode stream) vd (s.governs k) fun l => toF32 0 (gumbel (2 * top l + 1)) 0)
    ∧ (mode = 2 → SetsV s (.vnoise vd va sb k mode stream) vd (s.governs k) fun l => .ofNat 32 ((mix l).toNat / 2 ^ 48)) := by
  intro mix top
  have h := vnoise_setsV s vd va sb k mode stream
  simp only [noiseKey_eq] at h
  refine ⟨?_, ?_, ?_⟩ <;> rintro rfl
  · exact setsV_congr h fun l _ _ => (noiseLane_eq _).1
  · exact setsV_congr h fun l _ _ => (noiseLane_eq _).2.1
  · exact setsV_congr h fun l _ _ => (noiseLane_eq _).2.2

end Sys2Proof.Machine
end

section
/-! SUPPORT. The descent of a draw (09 R242): vdesc. -/

namespace Sys2Proof.Machine

open Sys2Proof

/-! ## Searches of a range -/

/-- A search of a range finds the first, or nothing is to be found. -/
theorem find?_range_cases (n : Nat) (p : Nat → Bool) :
    ((List.range n).find? p = none ∧ ∀ j, j < n → p j = false)
    ∨ ∃ i, i < n ∧ (List.range n).find? p = some i ∧ p i = true ∧ ∀ j, j < i → p j = false := by
  cases hfind : (List.range n).find? p with
  | none => exact .inl ⟨rfl, fun j hj => by simpa using List.find?_range_eq_none.mp hfind j hj⟩
  | some i =>
    obtain ⟨hp, hmem, hfirst⟩ := List.find?_range_eq_some.mp hfind
    exact .inr ⟨i, List.mem_range.mp hmem, rfl, hp, fun j hj => by simpa using hfirst j hj⟩

theorem find?_range_first {n : Nat} {p : Nat → Bool} (h : ∃ i, i < n ∧ p i = true) :
    ∃ i, i < n ∧ (List.range n).find? p = some i ∧ p i = true ∧ ∀ j, j < i → p j = false := by
  obtain ⟨i, hi, hp⟩ := h
  refine (find?_range_cases n p).resolve_left fun ⟨_, hnone⟩ => ?_
  rw [hnone i hi] at hp
  cases hp

theorem getLast?_filter_range (n : Nat) (p : Nat → Bool) :
    (((List.range n).filter p).getLast? = none ∧ ∀ j, j < n → p j = false)
    ∨ ∃ i, i < n ∧ ((List.range n).filter p).getLast? = some i ∧ p i = true ∧ ∀ j, i < j → j < n → p j = false := by
  induction n with
  | zero => exact .inl ⟨rfl, by simp⟩
  | succ n ih =>
    rw [List.range_succ, List.filter_append]
    cases hp : p n with
    | true =>
      refine .inr ⟨n, by omega, ?_, hp, fun j hj hj' => by omega⟩
      rw [List.filter_cons_of_pos hp, List.filter_nil, List.getLast?_concat]
    | false =>
      rw [List.filter_cons_of_neg (by simp [hp]), List.filter_nil, List.append_nil]
      have hsucc : ∀ q : Nat → Prop, (∀ j, q j → j < n → p j = false) → ∀ j, q j → j < n + 1 → p j = false :=
        fun q h j hq hj => by
          rcases Nat.lt_succ_iff_lt_or_eq.mp hj with hlt | rfl
          · exact h j hq hlt
          · exact hp
      refine ih.imp (fun ⟨h, hall⟩ => ⟨h, fun j hj => hsucc (fun _ => True) (fun j _ => hall j) j trivial hj⟩)
        fun ⟨i, hi, h, hpi, hall⟩ => ⟨i, by omega, h, hpi, hsucc _ hall⟩

/-- An entry of a row of values. -/
theorem rowAt (c : Nat → W32) {n i : Nat} (hi : i < n) (d : Num) : (((List.range n).map c).map f32).getD i d = f32 (c i) := by
  simp [List.getD_eq_getElem?_getD, hi]

/-! ## The draw -/

theorem finVal_mul (a b : Bool) (m n : Nat) (e f : Int) : finVal (a != b) (m * n) (e + f) = finVal a m e * finVal b n f := by
  rw [finVal, finVal, finVal, zpow_add₀ (by norm_num)]
  cases a <;> cases b <;> push_cast <;> simp <;> ring

/-- The draw lies in [0, 1). -/
theorem drawOf_unit (u : W32) : ∃ n m e, drawOf u = .fin n m e ∧ 0 ≤ finVal n m e ∧ finVal n m e < 1 := by
  have hzero : finVal false 0 0 = 0 := by simp [finVal]
  have hone : finVal false 1 0 = 1 := by simp [finVal]
  simp only [drawOf]
  split
  · exact ⟨false, 0, 0, rfl, hzero.ge, by rw [hzero]; norm_num⟩
  · next hlow =>
    split
    · next hhigh =>
      match hu : f32 u, hlow, hhigh with
      | .inf true, hlow, _ => exact absurd rfl hlow
      | .fin n m e, hlow, hhigh =>
        refine ⟨n, m, e, rfl, ?_, ?_⟩
        · rw [← hzero]
          exact not_lt.mp fun h => hlow ((lt_fin_iff _ _ _ _ _ _).mpr h)
        · rw [← hone]
          exact (lt_fin_iff _ _ _ _ _ _).mp hhigh
    · exact ⟨false, 2 ^ 24 - 1, -24, rfl, by norm_num [finVal], by norm_num [finVal]⟩

/-- A positive total times the draw lies below the total, so that some running total exceeds it. -/
theorem drawOf_mul_lt (u : W32) {x : Num} (hpos : (Num.fin false 0 0).lt x = true) (hfin : x ≠ .inf false) :
    ((drawOf u).mul x).lt x = true := by
  obtain ⟨n, m, e, hdraw, hnonneg, hlt⟩ := drawOf_unit u
  match x, hpos, hfin with
  | .fin p q f, hpos, _ =>
    have hx : 0 < finVal p q f := by simpa [finVal] using (lt_fin_iff _ _ _ _ _ _).mp hpos
    rw [hdraw]
    refine (lt_fin_iff _ _ _ _ _ _).mpr ?_
    rw [finVal_mul]
    exact mul_lt_of_lt_one_left hx hlt

/-! ## The top level -/

section
variable (c : Nat → W32) (u : W32)

/-- The top level by the running totals of the groups. -/
theorem descTop_eq : descTop ((List.range 8).map c) u =
    if !(Num.fin false 0 0).lt (f32 (c 7)) then none
    else if f32 (c 7) = .inf false then
      some (((List.range 8).find? fun i => f32 (c i) == .inf false).getD 7, 0x7F800000)
    else
      let t := (drawOf u).mul (f32 (c 7))
      let g := ((List.range 8).find? fun i => t.lt (f32 (c i))).getD 7
      some (g, toF32 3 (t.add 0 (if g = 0 then .fin false 0 0 else f32 (c (g - 1))).neg) 0) := by
  have hrow := fun i (hi : i < 8) => rowAt c hi (.fin false 0 0)
  have hfind : ∀ p : Num → Bool,
      ((List.range 8).find? fun i => p ((((List.range 8).map c).map f32).getD i (.fin false 0 0))) =
      (List.range 8).find? fun i => p (f32 (c i)) :=
    fun p => List.find?_congr fun i hi => by rw [hrow i (List.mem_range.mp hi)]
  unfold descTop
  simp only [hrow 7 (by norm_num), hfind (· == .inf false), hfind (((drawOf u).mul (f32 (c 7))).lt ·)]
  generalize hg : ((List.range 8).find? fun i => ((drawOf u).mul (f32 (c 7))).lt (f32 (c i))).getD 7 = g
  have hlt : g < 8 := by
    rcases find?_range_cases 8 fun i => ((drawOf u).mul (f32 (c 7))).lt (f32 (c i)) with ⟨h, -⟩ | ⟨i, hi, h, -⟩
    · rw [h] at hg
      exact hg ▸ by norm_num
    · rw [h] at hg
      exact hg ▸ hi
  rw [hrow (g - 1) (by omega)]

theorem descTop_none (h : (Num.fin false 0 0).lt (f32 (c 7)) = false) : descTop ((List.range 8).map c) u = none := by
  rw [descTop_eq, if_pos (by rw [h]; rfl)]

theorem descTop_inf (h : f32 (c 7) = .inf false) : ∃ g, g < 8 ∧ f32 (c g) = .inf false ∧ (∀ j, j < g → f32 (c j) ≠ .inf false)
    ∧ descTop ((List.range 8).map c) u = some (g, 0x7F800000) := by
  obtain ⟨g, hg, hfind, hinf, hfirst⟩ := find?_range_first (n := 8) (p := fun i => f32 (c i) == .inf false)
    ⟨7, by norm_num, beq_iff_eq.mpr h⟩
  refine ⟨g, hg, beq_iff_eq.mp hinf, fun j hj => beq_eq_false_iff_ne.mp (hfirst j hj), ?_⟩
  rw [descTop_eq, if_neg (by rw [h]; decide), if_pos h, hfind]
  rfl

theorem descTop_fin (hpos : (Num.fin false 0 0).lt (f32 (c 7)) = true) (hfin : f32 (c 7) ≠ .inf false) :
    let t := (drawOf u).mul (f32 (c 7))
    ∃ g, g < 8 ∧ t.lt (f32 (c g)) = true ∧ (∀ j, j < g → t.lt (f32 (c j)) = false)
      ∧ descTop ((List.range 8).map c) u =
        some (g, toF32 3 (t.add 0 (if g = 0 then .fin false 0 0 else f32 (c (g - 1))).neg) 0) := by
  intro t
  obtain ⟨g, hg, hfind, hlt, hfirst⟩ := find?_range_first (n := 8) (p := fun i => t.lt (f32 (c i)))
    ⟨7, by norm_num, drawOf_mul_lt u hpos hfin⟩
  refine ⟨g, hg, hlt, hfirst, ?_⟩
  rw [descTop_eq, if_neg (by rw [hpos]; decide), if_neg hfin]
  simp only [show ((List.range 8).find? fun i => ((drawOf u).mul (f32 (c 7))).lt (f32 (c i))) = some g from hfind]
  rfl

end

/-! ## The leaf level -/

section
variable (w : Nat → W32) (rem : W32)

/-- The running total before lane i of a group. -/
def prefixBefore (i : Nat) : Num := if i = 0 then .fin false 0 0 else f32 (w (i - 1))

/-- The leaf level by the prefixes of the lanes. -/
theorem descLeaf_eq : descLeaf ((List.range 16).map w) rem =
    if rem = 0x7F800000 then ((List.range 16).find? fun i => f32 (w i) == .inf false).getD 15
    else ((List.range 16).find? fun i => (f32 rem).lt (f32 (w i))).getD
      (((List.range 16).filter fun i => (prefixBefore w i).lt (f32 (w i))).getLast?.getD 15) := by
  have hrow := fun i (hi : i < 16) => rowAt w hi (.fin false 0 0)
  have hfind : ∀ p : Num → Bool,
      ((List.range 16).find? fun i => p ((((List.range 16).map w).map f32).getD i (.fin false 0 0))) =
      (List.range 16).find? fun i => p (f32 (w i)) :=
    fun p => List.find?_congr fun i hi => by rw [hrow i (List.mem_range.mp hi)]
  have hfilter : ((List.range 16).filter fun i =>
      (if i = 0 then Num.fin false 0 0 else (((List.range 16).map w).map f32).getD (i - 1) (.fin false 0 0)).lt
        ((((List.range 16).map w).map f32).getD i (.fin false 0 0))) =
      (List.range 16).filter fun i => (prefixBefore w i).lt (f32 (w i)) := by
    refine List.filter_congr fun i hi => ?_
    have hi16 := List.mem_range.mp hi
    rw [hrow i hi16, hrow (i - 1) (by omega), prefixBefore]
  unfold descLeaf
  simp only [hfind (· == .inf false), hfind ((f32 rem).lt ·), hfilter]
  cases (List.range 16).find? fun i => (f32 rem).lt (f32 (w i)) <;> rfl

/-- The lane of the group that the leaf level picks (09 R242). -/
theorem descLeaf_spec :
    let p := fun i => f32 (w i)
    let i := descLeaf ((List.range 16).map w) rem
    i < 16 ∧ if rem = 0x7F800000 then
        (p i = .inf false ∧ ∀ j, j < i → p j ≠ .inf false) ∨ (i = 15 ∧ ∀ j, j < 16 → p j ≠ .inf false)
      else
        ((f32 rem).lt (p i) = true ∧ ∀ j, j < i → (f32 rem).lt (p j) = false)
        ∨ ((∀ j, j < 16 → (f32 rem).lt (p j) = false)
          ∧ (((prefixBefore w i).lt (p i) = true ∧ ∀ j, i < j → j < 16 → (prefixBefore w j).lt (p j) = false)
            ∨ (i = 15 ∧ ∀ j, j < 16 → (prefixBefore w j).lt (p j) = false))) := by
  simp only [descLeaf_eq]
  split
  · rcases find?_range_cases 16 fun i => f32 (w i) == .inf false with ⟨h, hnone⟩ | ⟨i, hi, h, hp, hfirst⟩
    · rw [h]
      exact ⟨by norm_num, .inr ⟨rfl, fun j hj => beq_eq_false_iff_ne.mp (hnone j hj)⟩⟩
    · rw [h]
      exact ⟨hi, .inl ⟨beq_iff_eq.mp hp, fun j hj => beq_eq_false_iff_ne.mp (hfirst j hj)⟩⟩
  · rcases find?_range_cases 16 fun i => (f32 rem).lt (f32 (w i)) with ⟨h, hnone⟩ | ⟨i, hi, h, hp, hfirst⟩
    · rw [h]
      rcases getLast?_filter_range 16 fun i => (prefixBefore w i).lt (f32 (w i)) with ⟨h', hnone'⟩ | ⟨i, hi, h', hp, hlast⟩
      · rw [h']
        exact ⟨by norm_num, .inr ⟨hnone, .inr ⟨rfl, hnone'⟩⟩⟩
      · rw [h']
        exact ⟨hi, .inr ⟨hnone, .inl ⟨hp, hlast⟩⟩⟩
    · rw [h]
      exact ⟨hi, .inl ⟨hp, hfirst⟩⟩

end

/-! ## The op -/

section
variable (s : State) (vd va vb vc : VR)

/-- A lane of vd after the top level: the rest in the picked group and the empty mark elsewhere. -/
def topLane (r : Option (Nat × W32)) (l : Nat) : W32 :=
  match r with
  | none => emptyMark
  | some (g, rem) => if l / 16 = g then rem else emptyMark

/-- The first lanes of the groups, where the running totals and the rests stand. -/
def State.heads (s : State) (vb : VR) : List W32 := (List.range 8).map fun g => lane (s.srcV vb) (16 * g)

theorem heads_getD {g : Nat} (hg : g < 8) : (s.heads vb).getD g 0 = lane (s.srcV vb) (16 * g) := by
  simp [State.heads, List.getD_eq_getElem?_getD, hg]

/-- The top level of vdesc, by what it picks. -/
theorem vdesc_top {r : Option (Nat × W32)} {f : Nat → W32} (hr : descTop (s.heads vb) (lane (s.srcV vc) 0) = r)
    (hf : ∀ l, topLane r l = f l) : SetsVAll s (.vdesc vd va vb vc false) vd f fun _ => False := by
  have hexec : exec (.vdesc vd va vb vc false) s = .next (s.vecPut vd (lanes (topLane r))) := by
    show execVdesc vd va vb vc false s = _
    unfold execVdesc
    rw [State.heads] at hr
    simp only [Bool.false_eq_true, if_false, hr]
    cases r <;> rfl
  exact setsVAll_of_vecPut hexec (gainsSticky_refl _) fun l hl => (lane_lanes _ l hl).trans (hf l)

/-- A group whose rest is neither a NaN nor negative: the one that the top level picked. -/
def groupOpen (x : W32) : Bool := !(f32 x).isNan && !(f32 x).lt (.fin false 0 0)

/-- The search of the leaf level. -/
theorem heads_find : ((List.range 8).find? fun g => groupOpen ((s.heads vb).getD g 0)) =
    (List.range 8).find? fun g => groupOpen (lane (s.srcV vb) (16 * g)) :=
  List.find?_congr fun _ hg => by rw [heads_getD _ _ (List.mem_range.mp hg)]

theorem vdesc_leaf_none (h : ∀ g, g < 8 → groupOpen (lane (s.srcV vb) (16 * g)) = false) :
    SetsVAll s (.vdesc vd va vb vc true) vd (fun _ => 0xFFFFFFFF) fun b => b = 2 := by
  have hfind := (heads_find s vb).trans (List.find?_range_eq_none.mpr fun g hg => by simp [h g hg])
  have hexec : exec (.vdesc vd va vb vc true) s = .next ((s.vecPut vd (lanes fun _ => 0xFFFFFFFF)).sticky 2 true) := by
    show execVdesc vd va vb vc true s = _
    unfold execVdesc
    simp only [groupOpen, State.heads] at hfind
    simp only [if_true, hfind]
  exact setsVAll_of_vecPut hexec (gainsSticky_congr (gainsSticky_sticky _ (by norm_num) _) fun b => by simp)
    fun l hl => lane_lanes _ l hl

theorem vdesc_leaf_some {g : Nat} (hg : g < 8) (hopen : groupOpen (lane (s.srcV vb) (16 * g)) = true)
    (hfirst : ∀ j, j < g → groupOpen (lane (s.srcV vb) (16 * j)) = false) :
    SetsVAll s (.vdesc vd va vb vc true) vd (fun _ => .ofNat 32 (16 * g +
      descLeaf ((List.range 16).map fun i => lane (s.srcV va) (16 * g + i)) (lane (s.srcV vb) (16 * g)))) fun _ => False := by
  have hfind := (heads_find s vb).trans
    (List.find?_range_eq_some.mpr ⟨hopen, List.mem_range.mpr hg, fun j hj => by simp [hfirst j hj]⟩)
  have hhead := heads_getD s vb hg
  have hexec : exec (.vdesc vd va vb vc true) s = .next (s.vecPut vd (lanes fun _ => .ofNat 32 (16 * g +
      descLeaf ((List.range 16).map fun i => lane (s.srcV va) (16 * g + i)) (lane (s.srcV vb) (16 * g))))) := by
    show execVdesc vd va vb vc true s = _
    unfold execVdesc
    simp only [groupOpen, State.heads] at hfind hhead
    simp only [if_true, hfind, hhead]
  exact setsVAll_of_vecPut hexec (gainsSticky_refl _) fun l hl => lane_lanes _ l hl

end

end Sys2Proof.Machine
end

section
/-! PROOF. Reductions, running sums, the descent of a draw and keyed noise (09 R240 to R243). -/

namespace Sys2Proof.Machine

open Sys2Proof

theorem setsVAll_congr {s : State} {i : Instr} {vd : VR} {f g : Nat → W32} {p q : Nat → Prop} (h : SetsVAll s i vd f p)
    (hfg : ∀ l, l < 128 → f l = g l) (hpq : ∀ b, p b ↔ q b) : SetsVAll s i vd g q := by
  obtain ⟨t, hi, honly, hlanes, hothers, hgain, hcore⟩ := h
  exact ⟨t, hi, honly, fun l hl => (hlanes l hl).trans (hfg l hl), hothers,
    fun b => (hgain b).trans (or_congr_right (hpq b)), hcore⟩

theorem setsVTwo_congr {s : State} {i : Instr} {vd vc : VR} {f f' g g' : Nat → W32} {p q : Nat → Prop}
    (h : SetsVTwo s i vd vc f g p) (hf : ∀ l, l < 128 → f l = f' l) (hg : ∀ l, l < 128 → g l = g' l)
    (hpq : ∀ b, p b ↔ q b) : SetsVTwo s i vd vc f' g' q := by
  obtain ⟨t, hi, honly, hlanes, hothers, hgain, hcore⟩ := h
  exact ⟨t, hi, honly, fun l hl => ⟨(hlanes l hl).1.trans (hf l hl), (hlanes l hl).2.trans (hg l hl)⟩, hothers,
    fun b => (hgain b).trans (or_congr_right (hpq b)), hcore⟩

/-- The value of a set without a candidate (09 R240). -/
theorem argNone_eq {kind : BitVec 2} (hk : kind.toNat ≤ 2) (smaller : Bool) : (if smaller then kindMax kind else kindMin kind) =
    if kind = 0 then (if smaller then 0x7F800000 else 0xFF800000)
    else BitVec.ofInt 32 (if smaller then intMax 32 (kind == 1) else intMin 32 (kind == 1)) := by
  have hkinds : kind = 0 ∨ kind = 1 ∨ kind = 2 := by
    revert kind
    decide
  rcases hkinds with rfl | rfl | rfl <;> cases smaller <;> rfl

/-- A lane's contribution to a running sum of floats. -/
theorem prefixWeight_eq (w governed : Bool) (x : W32) : prefixWeight w governed x =
    if governed = false then .fin false 0 0
    else if w = true ∧ ((f32 x).isNan = true ∨ (f32 x).lt (.fin false 0 0) = true) then .fin false 0 0 else f32 x := by
  simp only [prefixWeight, Bool.not_eq_true', Bool.and_eq_true, Bool.or_eq_true]

/-- A sum of contributions, with its saturation. -/
theorem sumOver_snd (s : State) (va : VR) (k : KR) (w : Bool) (kind : BitVec 2) (js : List Nat) :
    let sum := (js.map fun j => if s.governs k j then laneInt kind (lane (s.srcV va) j) else 0).sum
    (s.sumOver va k w kind js).2 = true ↔ kind ≠ 0 ∧ (sum < intMin 32 (kind == 1) ∨ intMax 32 (kind == 1) < sum) := by
  intro sum
  unfold State.sumOver
  by_cases h0 : kind = 0
  · rw [if_pos h0]
    exact iff_of_false Bool.false_ne_true fun ⟨h, _⟩ => h h0
  · rw [if_neg h0, satSum_eq]
    exact decide_eq_true_iff.trans (and_iff_right h0).symm

/-- vpfx with its contributions and saturations written as in 09 R241. -/
theorem vpfx_spec (s : State) {vd va vc : VR} (k : KR) (w : Bool) (kind : BitVec 2) (hne : vc ≠ vd) :
    let part := fun j => prefixWeight w (s.governs k j) (lane (s.srcV va) j)
    let whole := fun j => if s.governs k j then laneInt kind (lane (s.srcV va) j) else 0
    let outs := fun js : List Nat => if kind = 0 then toF32 0 (runningSum (js.map part)) 0
      else BitVec.ofInt 32 (min (intMax 32 (kind == 1)) (max (intMin 32 (kind == 1)) (js.map whole).sum))
    let outside := fun v : Int => v < intMin 32 (kind == 1) ∨ intMax 32 (kind == 1) < v
    SetsVTwo s (.vpfx vd va vc k w kind) vd vc (fun l => outs (prefixLanes l)) (fun l => outs (totalLanes l))
      (fun b => (b = 3 ∧ kind ≠ 0 ∧ ∃ l, l < 128 ∧ (outside ((prefixLanes l).map whole).sum
          ∨ outside ((totalLanes l).map whole).sum))
        ∨ (b = 1 ∧ w = true ∧ ∃ l, l < 128 ∧ s.governs k l = true ∧ (f32 (lane (s.srcV va) l)).isNan = true)) := by
  intro part whole outs outside
  have houts : ∀ js, (s.sumOver va k w kind js).1 = outs js := fun js => by
    show (if kind = 0 then _ else satSum kind _ : W32 × Bool).1 = if kind = 0 then _ else _
    rw [satSum_eq]
    split <;> rfl
  refine setsVTwo_congr (vpfx_setsVTwo s k w kind hne) (fun l _ => houts _) (fun l _ => houts _) fun b => ?_
  refine or_congr_left (and_congr_right fun _ => ?_)
  simp only [sumOver_snd, ← and_or_left]
  constructor
  · rintro ⟨l, hl, h0, h⟩
    exact ⟨h0, l, hl, h⟩
  · rintro ⟨h0, l, hl, h⟩
    exact ⟨l, hl, h0, h⟩

/-- The draw of the top level, limited to [0, 1) (09 R242). -/
theorem drawOf_eq (x : W32) : drawOf x =
    if (f32 x).isNan = true ∨ (f32 x).lt (.fin false 0 0) = true then .fin false 0 0
    else if (f32 x).lt (.fin false 1 0) = true then f32 x else .fin false (2 ^ 24 - 1) (-24) := by
  simp only [drawOf, Bool.or_eq_true]

theorem groupOpen_iff (x : W32) : groupOpen x = true ↔ (f32 x).isNan = false ∧ (f32 x).lt (.fin false 0 0) = false := by
  simp only [groupOpen, Bool.and_eq_true, Bool.not_eq_true']

/-- Settles O41: each op writes its registers whole, and what stands in a lane is a fold over the lanes of its set. -/
theorem reductionsCombineTheGovernedLanes : Obligations.ReductionsCombineTheGovernedLanes := by
  unfold Obligations.ReductionsCombineTheGovernedLanes
  intro s vd va vb vc k rm grp kind sb mode stream hk x y set val lo hi fits outside zero d run sumOf
  have hval : ∀ j, laneInt kind (lane (s.srcV va) j) = val j := fun j => laneInt_eq kind _
  have hlo : intMin 32 (kind == 1) = lo := intMin_kind kind
  have hhi : intMax 32 (kind == 1) = hi := intMax_kind kind
  have hrun : ∀ l, runningSum l = run l := fun l => by cases l <;> rfl
  refine ⟨?sum, ?int, ?float, ?wf, ?arg, ?prefixes, ?descent, vnoise_modes s vd va sb k mode stream⟩
  case sum =>
    have h := vred_sum s vd va vc k rm grp (kind := kind)
    simp only [hval, hlo, hhi, hrun] at h
    exact h
  case int =>
    intro op hop h0
    have h := vred_extreme_int s vd va vc k rm grp hop h0 hk
    simp only [hval, hlo, hhi] at h
    exact h
  case float =>
    rintro op hop rfl
    have h := vred_extreme_float s vd va vc k rm grp hop
    simp only [f32Below_iff] at h
    exact h
  case wf =>
    refine ⟨?_, fun w => by simp [Instr.wellFormed]⟩
    rintro op (rfl | rfl) <;> simp [Instr.wellFormed]
  case arg =>
    intro op hop hne key better hopeless none_
    have hsmaller : (!(op == 3)) = (op == 4) := by rcases hop with rfl | rfl <;> rfl
    have hkey : ∀ j, argKey kind (op == 3) (lane (s.srcV va) j) = key j := fun j => by
      rw [argKey_eq, hval, hsmaller]
    have hbetter : ∀ i j, argBetter kind (op == 3) (lane (s.srcV va) i) (lane (s.srcV va) j) = true ↔ better i j := fun i j => by
      show _ ↔ if op = 3 then (key i).lt (key j) = true else (key j).lt (key i) = true
      rw [argBetter, hkey, hkey]
      rcases hop with rfl | rfl <;> rfl
    have hnone : (if op == 3 then kindMax kind else kindMin kind) = none_ := by
      rw [argNone_eq hk, hlo, hhi]
      rcases hop with rfl | rfl <;> rfl
    have hsets := vred_arg s va k grp kind (rm := rm) hop hne
    simp only [hnone] at hsets
    refine ⟨_, hsets, fun l _ => ?_⟩
    have hspec := argIndex_spec s va k grp kind (op == 3) l
    simp only [hkey, hsmaller, ← Bool.not_eq_true, hbetter] at hspec
    exact hspec
  case prefixes =>
    intro w _ hne part whole outs upTo groups
    have h := vpfx_spec s (va := va) k w kind hne
    simp only [hval, hlo, hhi, hrun, prefixWeight_eq] at h
    exact h
  case descent =>
    intro c v
    refine ⟨fun h => ?_, fun h => ?_, fun hpos hfin => ?_, fun h => ?_, fun g hg hopen hfirst => ?_⟩
    · exact vdesc_top s vd va vb vc (descTop_none c _ h) fun l => rfl
    · obtain ⟨g, hg, hinf, hfirst, hr⟩ := descTop_inf c (lane (s.srcV vc) 0) h
      exact ⟨g, hg, hinf, hfirst, vdesc_top s vd va vb vc hr fun l => rfl⟩
    · have h := descTop_fin c (lane (s.srcV vc) 0) hpos hfin
      rw [drawOf_eq] at h
      obtain ⟨g, hg, hlt, hfirst, hr⟩ := h
      exact ⟨g, hg, hlt, hfirst, vdesc_top s vd va vb vc hr fun l => rfl⟩
    · exact vdesc_leaf_none s vd va vb vc fun g hg => Bool.eq_false_iff.mpr (mt (groupOpen_iff _).mp (h g hg))
    · intro p before rem
      have hsets := vdesc_leaf_some s vd va vb vc hg ((groupOpen_iff _).mpr hopen)
        fun j hj => Bool.eq_false_iff.mpr (mt (groupOpen_iff _).mp (hfirst j hj))
      obtain ⟨hi, hpick⟩ := descLeaf_spec (fun i => lane (s.srcV va) (16 * g + i)) (c g)
      exact ⟨_, hi, hsets, hpick⟩

end Sys2Proof.Machine
end

section
/-! SUPPORT. The departure of an op whose queue no other op has left (01 R17, 11 R261, 12 R277 to R279): what it leaves of its core
and of the views, when it acts and when its start fails. -/

namespace Sys2Proof.Machine

open Sys2Proof

/-! ## What a departure leaves -/

/-- The departure from a slot queue of core c changes of the device that core and what the views keep, and nothing else. -/
def Becomes (s : State) (c queue : Nat) (views : State → Prop) (good : Core → Prop) : Prop :=
  ∃ t, exec (.queuedOpDepart c queue) s = .next t ∧ t = { s with cores := t.cores, kept := t.kept }
    ∧ (∀ d, d ≠ c → t.core d = s.core d) ∧ SameBytes s t ∧ views t ∧ good (t.core c)

/-- An op that has left its queue with the registers that it reads then (12 R279). -/
def QEntry.gone (e : QEntry) (k : Core) : QEntry :=
  { e with left := true, mps := (List.range 8).map k.param, ds := (List.range 16).map k.desc }

/-- The fault of the matrix engine that a core has pending. -/
def matrixFault (f : Trp) : EFault :=
  { unit := 0, queue := 0, cause := f.code.num, detail := f.info % 2 ^ 48
    addr := if f.code = .uncorr then 0 else f.addr, taken := false }

/-- Only what the views keep differs. -/
def ViewsOnly (s u : State) : Prop := u = { s with kept := u.kept }

theorem viewsOnly_refl (s : State) : ViewsOnly s s := rfl

theorem ViewsOnly.core {s u : State} (h : ViewsOnly s u) (d : Nat) : u.core d = s.core d := by rw [h]; rfl

section
variable {s u : State} {c queue : Nat} {views views' : State → Prop} {good good' : Core → Prop}

theorem Becomes.imp (h : Becomes s c queue views good) (hviews : ∀ t, views t → views' t) (hgood : ∀ k, good k → good' k) :
    Becomes s c queue views' good' := by
  obtain ⟨t, hx, hrest, hothers, hbytes, hv, hg⟩ := h
  exact ⟨t, hx, hrest, hothers, hbytes, hviews t hv, hgood _ hg⟩

theorem becomes_of_onlyCore {t : State} (hu : ViewsOnly s u) (ho : OnlyCore c u t)
    (hx : exec (.queuedOpDepart c queue) s = .next t) :
    Becomes s c queue (fun t => t.kept = u.kept) (fun k => k = t.core c) := by
  obtain ⟨hrest, hothers, hbytes⟩ := ho
  have hsame : t = { s with cores := t.cores, kept := t.kept } := by rw [hrest, hu]
  exact ⟨t, hx, hsame, fun d hd => (hothers d hd).trans (hu.core d), fun a => (hbytes a).trans (by rw [hu]; rfl),
    by rw [hrest], rfl⟩

/-! ## The head of a queue -/

variable {e : QEntry} {rest : List QEntry}

/-- Of a queue that no op has left, the head alone may act. -/
theorem exec_queuedOpDepart_head (hon : (s.core c).engineOn = true) (hq : (s.core c).queueAt queue = e :: rest)
    (he : e.left = false) (hr : ∀ x ∈ rest, x.left = false) :
    exec (.queuedOpDepart c queue) s = .next (s.departFirst c queue [e]) := by
  show execQueuedOpDepart c queue s = _
  unfold execQueuedOpDepart
  simp only [hon, if_true, hq, leavers_head he hr]

/-- Op e heads a slot queue of core c which no op has left, and the others have issued after it. -/
structure Core.heads (k : Core) (queue : Nat) (e : QEntry) (rest : List QEntry) : Prop where
  engineOn : k.engineOn = true
  queued : k.queueAt queue = e :: rest
  inQueue : e.left = false
  behind : ∀ x ∈ rest, x.left = false ∧ e.seq < x.seq

theorem leaveOp_head {k : Core} (he : e.left = false) (hr : ∀ x ∈ rest, e.seq < x.seq) :
    leaveOp k e.seq (e :: rest) = e.gone k :: rest := by
  have hrest : rest.map (fun x => if x.seq = e.seq then x.leave k else x) = rest := by
    refine (List.map_congr_left (g := id) fun x hx => ?_).trans (List.map_id rest)
    have := hr x hx
    exact if_neg (by omega)
  unfold leaveOp
  rw [List.map_cons, hrest, if_pos rfl, QEntry.leave, if_neg (by simp [he])]
  rfl

/-- The head acts: what the checkpoint of an open segment takes of it (08 R201), and the op is out of its queue. -/
theorem Core.heads.leaves (h : (s.core c).heads queue e rest) {v w : State} (hv : ViewsOnly s v) (hw : OnlyCore c v w)
    (hd : (s.onLeave c e).departAt c queue e = .leaves w) :
    Becomes s c queue (fun t => t.kept = v.kept)
      (fun k => k = (s.core c).carry ((w.core c).modQueue queue (dropOp e.seq)) e.seq) := by
  have hx := exec_queuedOpDepart_head h.engineOn h.queued h.inQueue fun x hx => (h.behind x hx).1
  simp only [State.departFirst, hd] at hx
  exact (becomes_of_onlyCore hv (onlyCore_trans hw (onlyCore_modCore _ c _)) hx).imp (fun _ => id) fun k hk => by
    rw [hk, State.core_modCore_same]

theorem core_engineFault (v : State) (c : Nat) (f : Trp) : (v.engineFault c 0 0 f).core c =
    { v.core c with efaults := (v.core c).efaults ++ [matrixFault f] } := State.core_modCore_same v c _

theorem onlyCore_engineFault (v : State) (c : Nat) (f : Trp) : OnlyCore c v (v.engineFault c 0 0 f) := by
  unfold State.engineFault State.engineFaultAt
  exact onlyCore_modCore v c _

/-- The start of the head fails: the fault is pending, and the op has left its queue with its registers (08 R185). -/
theorem Core.heads.faults (h : (s.core c).heads queue e rest) {f : Trp} (hu : ViewsOnly s (s.onLeave c e))
    (hd : (s.onLeave c e).departAt c queue e = .faults 0 0 f) :
    Becomes s c queue (fun t => t.kept = (s.onLeave c e).kept)
      (fun k => k = { (s.core c).modQueue queue (leaveOp (s.core c) e.seq) with
        efaults := (s.core c).efaults ++ [matrixFault f] }) := by
  have hx := exec_queuedOpDepart_head h.engineOn h.queued h.inQueue fun x hx => (h.behind x hx).1
  simp only [State.departFirst, hd] at hx
  refine (becomes_of_onlyCore hu (onlyCore_trans (onlyCore_modCore _ c _) (onlyCore_engineFault _ c f)) hx).imp
    (fun _ => id) fun k hk => ?_
  rw [hk, core_engineFault, State.core_modCore_same, hu.core]
  obtain rfl | rfl | hq : queue = 0 ∨ queue = 1 ∨ ¬(queue = 0 ∨ queue = 1) := by omega
  · rfl
  · rfl
  · rw [not_or] at hq
    simp only [Core.modQueue, if_neg hq.1, if_neg hq.2]
    rfl

end

end Sys2Proof.Machine
end

section
/-! SUPPORT. The M ops on registers, descriptors, coverage records and routines (12 R281 to R284, R289, R298), as they leave the
M queue of a core whose matrix engine is idle. -/

namespace Sys2Proof.Machine

open Sys2Proof

/-! ## An idle matrix engine -/

theorem anyBefore_head {e : QEntry} {rest : List QEntry} (hr : ∀ x ∈ rest, e.seq < x.seq) (p : Instr → Bool) :
    anyBefore (e :: rest) e p = false := by
  have hbefore : ∀ x ∈ e :: rest, x.before e = false := by
    intro x hx
    unfold QEntry.before
    rcases List.mem_cons.mp hx with rfl | hx
    · simp
    · have := hr x hx
      simp [show ¬x.seq < e.seq by omega, show x.seq ≠ e.seq by omega]
  unfold anyBefore
  rw [List.any_eq_false]
  intro x hx
  simp [hbefore x hx]

/-- An op waits for no other at an engine that runs nothing when every queued op has issued after it (11 R261, R275). -/
theorem Core.yields_idle {k : Core} {e : QEntry} {rest : List QEntry} (hruns : k.stopped 0 0 = false) (hcall : k.call = none)
    (hacpy : k.acpy = none) (hall : k.mq ++ k.c0q ++ k.c1q = e :: rest) (hr : ∀ x ∈ rest, e.seq < x.seq) :
    k.yields e = false := by
  unfold Core.yields
  rw [hall, anyBefore_head hr, hruns, hcall, hacpy]
  rfl

/-- Op e heads the M queue of a core whose matrix engine runs nothing, with no op in the C queues. -/
structure Core.headsM (k : Core) (e : QEntry) (rest : List QEntry) : Prop extends k.heads 0 e rest where
  c0q : k.c0q = []
  c1q : k.c1q = []
  call : k.call = none
  acpy : k.acpy = none
  runs : k.stopped 0 0 = false

section
variable {s : State} {c : Nat} {e : QEntry} {rest : List QEntry}

/-- Nothing holds the head back in its queue; an mcall has its tags (12 R277, R279). -/
theorem Core.headsM.not_mWaits {k : Core} (h : k.headsM e rest) (htags : ∀ r, e.instr = .mcall r → k.tagsReady e = true) :
    k.mWaits e = false := by
  have hdue : k.mq.any k.effectDue = false := by
    rw [List.any_eq_false, show k.mq = e :: rest from h.queued]
    intro x hx
    have hx : x.left = false := by
      rcases List.mem_cons.mp hx with rfl | hx
      · exact h.inQueue
      · exact (h.behind x hx).1
    simp [Core.effectDue, hx]
  unfold Core.mWaits
  simp only [h.runs, hdue, h.call, h.c0q, h.c1q, List.append_nil, List.filter_nil, anyEarlier, List.any_nil, Bool.or_false,
    Bool.false_or]
  cases writesDesc e.instr
  all_goals
    simp only [Bool.false_or]
    split
    · simp [htags _ ‹_›]
    · rfl

/-- The head of the M queue acts as it leaves it. -/
theorem Core.headsM.departAt_eq (h : (s.core c).headsM e rest)
    (htags : ∀ r, e.instr = .mcall r → (s.core c).tagsReady e = true) :
    s.departAt c 0 e = departOf 0 0 (s.matrixAct c e) := by
  have hall : (s.core c).mq ++ (s.core c).c0q ++ (s.core c).c1q = e :: rest := by
    rw [h.c0q, h.c1q, List.append_nil, List.append_nil]
    exact h.queued
  have hyields := Core.yields_idle h.runs h.call h.acpy hall fun x hx => (h.behind x hx).2
  show s.departM c e = _
  unfold State.departM State.atMatrix
  simp only [h.not_mWaits htags, hyields, h.runs, Bool.and_false, Bool.false_eq_true, if_false, ite_self]

/-- An M op that acts on its core alone, once it has seen what its tags have released, leaves its queue. -/
theorem Core.headsM.acts_on (h : (s.core c).headsM e rest) {u v w : State} (hl : s.onLeave c e = u) (hu : ViewsOnly s u)
    (htags : ∀ r, e.instr = .mcall r → (s.core c).tagsReady e = true) (hv : ViewsOnly s v) (hw : OnlyCore c v w)
    (hact : u.matrixAct c e = .ok w) (hq : (w.core c).mq = (s.core c).mq) :
    Becomes s c 0 (fun t => t.kept = v.kept) (fun k => k = (s.core c).carry { w.core c with mq := rest } e.seq) := by
  have hcore := hu.core c
  have hd : (s.onLeave c e).departAt c 0 e = .leaves w := by
    rw [hl, Core.headsM.departAt_eq (hcore.symm ▸ h) (hcore.symm ▸ htags), hact]
    rfl
  have hdrop : (w.core c).modQueue 0 (dropOp e.seq) = { w.core c with mq := rest } := by
    show { w.core c with mq := dropOp e.seq (w.core c).mq } = _
    rw [hq, show (s.core c).mq = e :: rest from h.queued, dropOp_head fun x hx => by have := (h.behind x hx).2; omega]
  rw [← hdrop]
  exact h.toheads.leaves hv hw hd

/-- An M op whose start fails has left its queue with its registers, and its fault is pending (08 R185, 12 R280). -/
theorem Core.headsM.faults_on (h : (s.core c).headsM e rest) {u : State} {f : Trp} (hl : s.onLeave c e = u) (hu : ViewsOnly s u)
    (htags : ∀ r, e.instr = .mcall r → (s.core c).tagsReady e = true) (hact : u.matrixAct c e = .error f) :
    Becomes s c 0 (fun t => t.kept = u.kept) (fun k => k = { s.core c with
      mq := e.gone (s.core c) :: rest, efaults := (s.core c).efaults ++ [matrixFault f] }) := by
  have hcore := hu.core c
  have hd : (s.onLeave c e).departAt c 0 e = .faults 0 0 f := by
    rw [hl, Core.headsM.departAt_eq (hcore.symm ▸ h) (hcore.symm ▸ htags), hact]
    rfl
  have hleave : (s.core c).modQueue 0 (leaveOp (s.core c) e.seq) = { s.core c with mq := e.gone (s.core c) :: rest } := by
    show { s.core c with mq := leaveOp (s.core c) e.seq (s.core c).mq } = _
    rw [show (s.core c).mq = e :: rest from h.queued, leaveOp_head h.inQueue fun x hx => (h.behind x hx).2]
  have hfaults := h.toheads.faults (hl ▸ hu) hd
  rw [hl, hleave] at hfaults
  exact hfaults

section
variable (h : (s.core c).headsM e rest) (hm : ∀ r, e.instr ≠ .mcall r) (ha : isAcpy e.instr = false)
include h hm ha

/-- An M op other than mcall acts on its core by f. -/
theorem Core.headsM.acts {v : State} {f : Core → Core} (hv : ViewsOnly s v) (hact : s.matrixAct c e = .ok (v.modCore c f))
    (hq : (f (s.core c)).mq = (s.core c).mq) :
    Becomes s c 0 (fun t => t.kept = v.kept) (fun k => k = (s.core c).carry { f (s.core c) with mq := rest } e.seq) := by
  have hcore : (v.modCore c f).core c = f (s.core c) := by rw [State.core_modCore_same, hv.core]
  rw [← hcore] at hq ⊢
  exact h.acts_on (s.onLeave_quiet c hm ha) (viewsOnly_refl s) (fun r hr => absurd hr (hm r)) hv (onlyCore_modCore v c f) hact hq

theorem Core.headsM.faults {f : Trp} (hact : s.matrixAct c e = .error f) :
    Becomes s c 0 (fun t => t.kept = s.kept) (fun k => k = { s.core c with
      mq := e.gone (s.core c) :: rest, efaults := (s.core c).efaults ++ [matrixFault f] }) :=
  h.faults_on (s.onLeave_quiet c hm ha) (viewsOnly_refl s) (fun r hr => absurd hr (hm r)) hact

/-- The same where no register that a checkpoint takes is written. -/
theorem Core.headsM.acts_sameRegs {v : State} {f : Core → Core} (hv : ViewsOnly s v)
    (hact : s.matrixAct c e = .ok (v.modCore c f)) (hq : (f (s.core c)).mq = (s.core c).mq)
    (hs : (f (s.core c)).s = (s.core c).s) (hmp : (f (s.core c)).mp = (s.core c).mp) (hcv : (f (s.core c)).cv = (s.core c).cv) :
    Becomes s c 0 (fun t => t.kept = v.kept) (fun k => k = { f (s.core c) with mq := rest }) :=
  (h.acts hm ha hv hact hq).imp (fun _ => id) fun _ hk => hk.trans (Core.carry_sameRegs _ _ _ hs hmp hcv)

end

end

end Sys2Proof.Machine
end

section
/-! SUPPORT. The M ops on registers, descriptors, coverage records and routines (12 R281 to R284, R289, R298), as they leave
their queue. -/

namespace Sys2Proof.Machine

open Sys2Proof

/-! ## Fields -/

theorem extractLsb'_eq_fld {n : Nat} (x : BitVec n) (lo len : Nat) : x.extractLsb' lo len = .ofNat len (fld x lo len) := by
  apply BitVec.eq_of_toNat_eq
  simp [fld, bitsAt, Nat.shiftRight_eq_div_pow]

theorem mpsetValue_eq (e : QEntry) (imm : BitVec 25) : mpsetValue e imm = .ofInt 64 ((e.val 0).toInt + imm.toInt) := by
  rw [mpsetValue, add_eq_ofInt, toInt_sx imm (by decide)]

/-! ## Coverage records -/

theorem Core.setCv_eq (k : Core) (i : Nat) (r : BitVec 256) :
    k.setCv i r = { k with cv := Tab.put 0 k.cv i r, status := (k.setCv i r).status } := by
  unfold Core.setCv
  split <;> rfl

theorem Core.cover_setCv (k : Core) (i j : Nat) (r : BitVec 256) :
    (k.setCv i r).cover j = if j = i then r else k.cover j := by
  rw [Core.setCv_eq]
  exact Tab.get_put _ _ _ _ _

/-- THROTTLED of a record that is written sets THROTTLED_SEEN (11 R267). -/
theorem Core.statusBit_setCv (k : Core) (i : Nat) (r : BitVec 256) (b : Nat) :
    (k.setCv i r).statusBit b = (k.statusBit b || (b == 4 && cvThrottled r)) := by
  unfold Core.setCv
  split
  · rename_i hr
    rw [statusBit_setStatus _ _ _ _ (by omega), hr]
    by_cases hb : b = 4
    · simp [hb]
    · simp [hb, Core.statusBit]
  · rename_i hr
    simp [hr, Core.statusBit]

theorem Core.seg_setCv (k : Core) (i : Nat) (r : BitVec 256) : (k.setCv i r).seg = k.seg := by
  show (k.setCv i r).statusBit 6 = k.statusBit 6
  rw [Core.statusBit_setCv]
  simp

/-! ## Descriptors and views -/

/-- A change of the writers that a kept byte names changes no byte that a view reads. -/
theorem sameViews_mapWriters (s : State) (f : Writer → Writer) : SameViews s (s.mapWriters f) := by
  intro v a
  have hfind : (s.mapWriters f).keptAt v a = (s.keptAt v a).map fun x => { x with unseen := x.unseen.map f } := by
    unfold State.keptAt State.mapWriters
    rw [List.find?_map]
    rfl
  rw [hfind, Option.map_map]
  rfl

theorem SameViews.seen {s t : State} (h : SameViews s t) (hb : SameBytes s t) (v : View) (a : Nat) : t.seen v a = s.seen v a := by
  have hk := h v a
  unfold State.seen
  rw [hb a]
  cases hs : s.keptAt v a <;> cases ht : t.keptAt v a <;> simp_all

theorem SameViews.bytesSeen {s t : State} (h : SameViews s t) (hb : SameBytes s t) (v : View) (pa n : Nat) :
    t.bytesSeen v pa n = s.bytesSeen v pa n := List.map_congr_left fun _ _ => h.seen hb v _

/-- A range of the own scratchpad that MX can read is read as MX sees it. -/
theorem ownRead_ok {s : State} {c off n : Nat} (hp : poisoned s.errs (spBase c + off) n = none)
    (hg : s.gatedAt (spBase c + off) = false) : s.ownRead c off n = .ok (s.bytesSeen (.engine c .mx) (spBase c + off) n) := by
  unfold State.ownRead
  rw [hp, readAs_eq s _ _ n hg]

/-! ## The ops -/

/-- A scalar register receives a word as op e leaves its queue, and of its core nothing else changes. -/
def GivesScalar (k t : Core) (e : QEntry) (rest : List QEntry) (sd : SR) (x : W64) : Prop :=
  ScalarIs k t sd x ∧ Checkpoints k t e.seq ∧ t = { k with mq := rest, s := t.s, segment := t.segment }

/-- A coverage record is written as op e leaves its queue; THROTTLED of the record sets THROTTLED_SEEN (11 R267). -/
def CoversRecord (k t : Core) (e : QEntry) (rest : List QEntry) (d : BitVec 2) (r : BitVec 256) : Prop :=
  (∀ j, t.cover j = if j = d.toNat then r else k.cover j)
    ∧ (∀ b, t.statusBit b = (k.statusBit b || (b == 4 && cvThrottled r)))
    ∧ Checkpoints k t e.seq ∧ t = { k with mq := rest, cv := t.cv, status := t.status, segment := t.segment }

/-- A descriptor is replaced, and of its core nothing else changes. -/
def Describes (k t : Core) (rest : List QEntry) (n : BitVec 4) (good : BitVec 128 → Prop) : Prop :=
  good (t.desc n.toNat) ∧ (∀ j, j ≠ n.toNat → t.desc j = k.desc j) ∧ t = { k with mq := rest, d := t.d }

section
variable {s : State} {c : Nat} {e : QEntry} {rest : List QEntry} (h : (s.core c).headsM e rest)
include h

/-- mpset (12 R281). -/
theorem Core.headsM.mpset {n : BitVec 3} {sa : SR} {imm : BitVec 25} (hi : e.instr = .mpset n sa imm) :
    Becomes s c 0 (fun t => t.kept = s.kept) fun t =>
      (∀ j, t.param j = if j = n.toNat then .ofInt 64 ((e.val 0).toInt + imm.toInt) else (s.core c).param j)
      ∧ Checkpoints (s.core c) t e.seq
      ∧ t = { s.core c with mq := rest, mp := t.mp, segment := t.segment } := by
  have hact : s.matrixAct c e = .ok (s.modCore c fun k => { k with mp := Tab.put 0 k.mp n.toNat (mpsetValue e imm) }) := by
    rw [State.matrixAct, hi]
  refine (h.acts (by rw [hi]; nofun) (by rw [hi]; rfl) (viewsOnly_refl s) hact rfl).imp (fun _ => id) ?_
  rintro _ rfl
  refine ⟨fun j => ?_, checkpoints_carry _ _ _ rfl rfl, by rw [Core.carry_eq]⟩
  rw [Core.carry_eq, ← mpsetValue_eq]
  exact Tab.get_put _ _ _ _ _

/-- An op that gives a word to a scalar register (12 R281, R283, R289). -/
theorem Core.headsM.gives {sd : SR} {x : W64} (hm : ∀ r, e.instr ≠ .mcall r) (ha : isAcpy e.instr = false)
    (hact : s.matrixAct c e = .ok (s.modCore c fun k => k.giveS sd x)) :
    Becomes s c 0 (fun t => t.kept = s.kept) fun t => GivesScalar (s.core c) t e rest sd x := by
  refine (h.acts hm ha (viewsOnly_refl s) hact (by rw [Core.giveS, Core.setS_eq])).imp (fun _ => id) ?_
  rintro _ rfl
  refine ⟨?_, checkpoints_carry _ _ _ (by rw [Core.giveS, Core.setS_eq]) (by rw [Core.giveS, Core.setS_eq]; rfl), ?_⟩
  · rw [Core.carry_eq]
    exact scalarIs_setS (s.core c) sd x
  · rw [Core.carry_eq, Core.giveS, Core.setS_eq]

/-- An op that writes a coverage record (12 R289). -/
theorem Core.headsM.covers {d : BitVec 2} {r : BitVec 256} {f : Core → Core} (hm : ∀ r, e.instr ≠ .mcall r)
    (ha : isAcpy e.instr = false) (hact : s.matrixAct c e = .ok (s.modCore c f))
    (hf : f (s.core c) = (s.core c).setCv d.toNat r) :
    Becomes s c 0 (fun t => t.kept = s.kept) fun t => CoversRecord (s.core c) t e rest d r := by
  refine (h.acts hm ha (viewsOnly_refl s) hact (by rw [hf, Core.setCv_eq])).imp (fun _ => id) ?_
  rintro _ rfl
  rw [hf]
  refine ⟨fun j => ?_, fun b => ?_, checkpoints_carry _ _ _ (by rw [Core.setCv_eq]) ((s.core c).seg_setCv _ _), ?_⟩
  · rw [Core.carry_eq]
    exact (s.core c).cover_setCv _ _ _
  · rw [Core.carry_eq]
    exact (s.core c).statusBit_setCv _ _ _
  · rw [Core.carry_eq, Core.setCv_eq]

/-- An op that replaces a descriptor (12 R282, R283). -/
theorem Core.headsM.describes {n : BitVec 4} {x : BitVec 128} {v : State} {good : BitVec 128 → Prop}
    (hm : ∀ r, e.instr ≠ .mcall r) (ha : isAcpy e.instr = false) (hv : ViewsOnly s v) (hviews : SameViews s v)
    (hact : s.matrixAct c e = .ok (v.modCore c fun k => { k with d := Tab.put 0 k.d n.toNat x })) (hgood : good x) :
    Becomes s c 0 (SameViews s) fun t => Describes (s.core c) t rest n good := by
  refine (h.acts_sameRegs hm ha hv hact rfl rfl rfl rfl).imp (fun t ht w a => ?_) ?_
  · rw [State.keptAt, ht]
    exact hviews w a
  · rintro _ rfl
    have hdesc : Core.desc { s.core c with d := Tab.put 0 (s.core c).d n.toNat x, mq := rest } n.toNat = x :=
      Tab.get_put_same _ _ _ _
    exact ⟨hdesc.symm ▸ hgood, fun j hj => Tab.get_put_other _ _ _ hj, rfl⟩

/-- dset from memory (12 R282). -/
theorem Core.headsM.dsetMem {n : BitVec 4} {sa : SR} {off : BitVec 20} (hi : e.instr = .dsetMem n sa off) {a : Nat}
    (ha : a = (dsetAddr (e.val 0) off).toNat) (hg : s.gatedAt (spBase c + a) = false)
    (hp : poisoned s.errs (spBase c + a) 16 = none)
    (hw : leNat (s.bytesSeen (.engine c .mx) (spBase c + a) 16) < 2 ^ 82) :
    Becomes s c 0 (SameViews s) fun t => Describes (s.core c) t rest n
      (· = .ofNat 128 (leNat (s.bytesSeen (.engine c .mx) (spBase c + a) 16))) := by
  subst ha
  have hviews : SameViews s (s.untag c n.toNat) := sameViews_mapWriters s _
  have hread := ownRead_ok (s := s.untag c n.toNat) hp hg
  rw [hviews.bytesSeen fun _ => rfl] at hread
  refine h.describes (v := s.untag c n.toNat) (by rw [hi]; nofun) (by rw [hi]; rfl) rfl hviews ?_ rfl
  have hhigh : ∀ w < 2 ^ 82, ¬fld (BitVec.ofNat 128 w) 82 46 ≠ 0 := fun w hw => by
    rw [fld, bitsAt, BitVec.toNat_ofNat, Nat.mod_eq_of_lt (a := w) (by omega), Nat.div_eq_of_lt hw, Nat.zero_mod]
    exact fun h => h rfl
  rw [State.matrixAct, hi]
  show (s.untag c n.toNat).dsetAct c n.toNat _ = _
  unfold State.dsetAct
  rw [hread]
  exact if_neg (hhigh _ hw)

/-- An op that loads or clears a routine (12 R298). -/
theorem Core.headsM.loads {n : Nat} {ws : List W64} (hm : ∀ r, e.instr ≠ .mcall r) (ha : isAcpy e.instr = false)
    (hact : s.matrixAct c e = .ok (s.modCore c fun k => { k with ucode := Tab.put [] k.ucode n ws })) :
    Becomes s c 0 (fun t => t.kept = s.kept) fun t =>
      (∀ j, Tab.get [] t.ucode j = if j = n then ws else Tab.get [] (s.core c).ucode j)
      ∧ t = { s.core c with mq := rest, ucode := t.ucode } := by
  refine (h.acts_sameRegs hm ha (viewsOnly_refl s) hact rfl rfl rfl rfl).imp (fun _ => id) ?_
  rintro _ rfl
  exact ⟨fun j => Tab.get_put [] (s.core c).ucode n j ws, rfl⟩

/-- The 64 words of a routine that bytes hold (12 R298). -/
def routineWords (bs : List Byte) : List W64 := (List.range 64).map fun i => .ofNat 64 (leNat ((bs.drop (8 * i)).take 8))

/-- mucode (12 R298). -/
theorem Core.headsM.mucode {sa : SR} {count n : BitVec 6} (hi : e.instr = .mucode sa count n)
    (hg : s.gatedAt (spBase c + (e.val 0).toNat) = false)
    (hp : poisoned s.errs (spBase c + (e.val 0).toNat) (8 * (count.toNat + 1)) = none) :
    let bs := s.bytesSeen (.engine c .mx) (spBase c + (e.val 0).toNat) (8 * (count.toNat + 1))
    Becomes s c 0 (fun t => t.kept = s.kept) fun t =>
      (∀ i, i < 64 → (Tab.get [] t.ucode n.toNat).getD i 0 = .ofNat 64 (leNat ((bs.drop (8 * i)).take 8)))
      ∧ (∀ j, j ≠ n.toNat → Tab.get [] t.ucode j = Tab.get [] (s.core c).ucode j)
      ∧ t = { s.core c with mq := rest, ucode := t.ucode } := by
  intro bs
  have hact : s.matrixAct c e = .ok (s.modCore c fun k =>
      { k with ucode := Tab.put [] k.ucode n.toNat (routineWords bs) }) := by
    rw [State.matrixAct, hi]
    show s.mucodeAct c n.toNat _ _ = _
    unfold State.mucodeAct
    rw [ownRead_ok hp hg]
    rfl
  refine (h.loads (by rw [hi]; nofun) (by rw [hi]; rfl) hact).imp (fun _ => id) ?_
  rintro t ⟨hloaded, hcore⟩
  refine ⟨fun i hlt => ?_, fun j hj => ?_, hcore⟩
  · rw [hloaded, if_pos rfl]
    simp [routineWords, hlt]
  · rw [hloaded, if_neg hj]

end

end Sys2Proof.Machine
end

section
/-! SUPPORT. mcall and mzero as they leave their queue (12 R284, R287): the call in hand, and the rows of the accumulator
store. -/

namespace Sys2Proof.Machine

open Sys2Proof

/-! ## mcall -/

/-- MX reads see what the ready tags of some descriptors have released (11 R276). -/
theorem seesTagged_seeTagged (s : State) (c : Nat) (ds : List Nat) : SeesTagged s (s.seeTagged c ds) c ds := by
  intro x
  simp only [State.seeTagged, List.mem_filter, Bool.not_eq_true', Bool.and_eq_false_imp, beq_iff_eq, List.any_eq_false,
    Bool.and_eq_true, List.any_eq_true, not_and, not_exists]

section
variable {s : State} {c : Nat} {e : QEntry} {rest : List QEntry}

/-- The head of the M queue finds its parameters as they stand: no mpset is before it. -/
theorem Core.headsM.paramAt {k : Core} (h : k.headsM e rest) (n : Nat) : k.paramAt n e.seq = k.param n := by
  have hnone : ∀ x ∈ k.mq, ¬x.seq < e.seq := by
    rw [show k.mq = e :: rest from h.queued]
    intro x hx
    rcases List.mem_cons.mp hx with rfl | hx
    · exact Nat.lt_irrefl _
    · exact Nat.lt_asymm (h.behind x hx).2
  unfold Core.paramAt
  refine List.foldlRecOn (motive := fun v => v = k.param n) k.mq _ rfl fun v hv x hx => ?_
  split
  · rw [if_neg fun hm => hnone x hx hm.2]
    exact hv
  · exact hv

theorem Core.headsM.namedTags {k : Core} (h : k.headsM e rest) {r : BitVec 6} (hi : e.instr = .mcall r) :
    k.namedTags e = [(k.param 0).toNat % 16, (k.param 1).toNat % 16] := by
  have hparam : ∀ n, fld (k.callParam e n) 0 4 = (k.param n).toNat % 16 := fun n => by
    rw [Core.callParam, if_neg (by simp [h.inQueue]), h.paramAt]
    simp [fld, bitsAt]
  rw [← hparam, ← hparam, Core.namedTags, hi]

theorem State.callStart_ok (u : State) (c : Nat) (e : QEntry) (r : Nat) (hf : u.callFault c (u.callState c e r) = none) :
    u.callStart c e r = .ok (u.modCore c fun k => { k with call := some (u.callState c e r) }) := by
  simp only [State.callStart, hf]

theorem State.callStart_error (u : State) (c : Nat) (e : QEntry) (r : Nat) {f : Trp}
    (hf : u.callFault c (u.callState c e r) = some f) : u.callStart c e r = .error f := by
  simp only [State.callStart, hf]

/-- mcall with both tags set starts (12 R284). -/
theorem Core.headsM.mcall (h : (s.core c).headsM e rest) {r : BitVec 6} (hi : e.instr = .mcall r)
    (hx : (s.core c).tag (((s.core c).param 0).toNat % 16) = true) (hw : (s.core c).tag (((s.core c).param 1).toNat % 16) = true) :
    let u := s.seeTagged c ((s.core c).namedTags e)
    let x := u.callState c e r.toNat
    (u.callFault c x = none → Becomes s c 0 (fun t => t.kept = u.kept) fun k => k = { s.core c with mq := rest, call := some x })
    ∧ ∀ f, u.callFault c x = some f → Becomes s c 0 (fun t => t.kept = u.kept) fun k => k = { s.core c with
        mq := e.gone (s.core c) :: rest, efaults := (s.core c).efaults ++ [matrixFault f] } := by
  intro u x
  have hl : s.onLeave c e = u := by
    rw [State.onLeave, h.inQueue, hi]
  have hu : ViewsOnly s u := rfl
  have htags : ∀ r, e.instr = .mcall r → (s.core c).tagsReady e = true := fun _ _ => by
    simp [Core.tagsReady, h.namedTags hi, hx, hw]
  have hact : u.matrixAct c e = u.callStart c e r.toNat := by
    rw [State.matrixAct, hi]
  constructor
  · intro hf
    have hcore : (u.modCore c fun k => { k with call := some x }).core c = { s.core c with call := some x } :=
      State.core_modCore_same u c _
    refine (h.acts_on hl hu htags hu (onlyCore_modCore u c _) (hact.trans (u.callStart_ok c e _ hf)) (by rw [hcore])).imp
      (fun _ => id) fun _ hk => ?_
    rw [hk, hcore]
    exact Core.carry_sameRegs _ _ _ rfl rfl rfl
  · intro f hf
    exact h.faults_on hl hu htags (hact.trans (u.callStart_error c e _ hf))

end

/-! ## Rows that a loop sets -/

/-- Rows set one after the other, each from what stands in it. -/
def Core.changeRows (k : Core) (b m : Nat) (g : AccRow → AccRow) : Core :=
  (List.range m).foldl (fun k i => k.setRow (b + i) (g (k.accRow (b + i)))) k

theorem Core.changeRows_succ (k : Core) (b m : Nat) (g : AccRow → AccRow) : k.changeRows b (m + 1) g =
    (k.changeRows b m g).setRow (b + m) (g ((k.changeRows b m g).accRow (b + m))) := by
  unfold Core.changeRows
  rw [List.range_succ, List.foldl_append]
  rfl

theorem Core.accRow_changeRows (k : Core) (b m : Nat) (g : AccRow → AccRow) (r : Nat) :
    (k.changeRows b m g).accRow r = if b ≤ r ∧ r < b + m then g (k.accRow r) else k.accRow r := by
  induction m with
  | zero => rw [if_neg (by omega)]; rfl
  | succ m ih =>
    rw [Core.changeRows_succ, Core.accRow_setRow]
    by_cases hr : r = b + m
    · subst hr
      rw [if_neg (by omega)] at ih
      rw [if_pos rfl, if_pos (by omega), ih]
    · rw [if_neg hr, ih]
      exact if_congr (by omega) rfl rfl

theorem Core.changeRows_eq (k : Core) (b m : Nat) (g : AccRow → AccRow) :
    k.changeRows b m g = { k with acc := (k.changeRows b m g).acc } := by
  induction m with
  | zero => rfl
  | succ m ih =>
    rw [Core.changeRows_succ, Core.setRow]
    generalize k.changeRows b m g = x at ih
    rw [ih]

/-! ## mzero -/

/-- The header that mzero gives a cleared row (12 R287). -/
def AccRow.anchoredAt (a : BitVec 11) (x : AccRow) : AccRow := { x with anchor := a, anchored := true }

theorem Core.mzeroAct_eq (k : Core) (e : QEntry) (anc kind : Bool) (m b : Nat) : k.mzeroAct e anc kind m b =
    if anc then (k.changeRows b m (·.clear kind)).changeRows b m (AccRow.anchoredAt (.ofNat 11 (fld (e.val 0) 0 11)))
    else k.changeRows b m (·.clear kind) := rfl

/-- A row after mzero (12 R287). -/
theorem Core.accRow_mzeroAct (k : Core) (e : QEntry) (anc kind : Bool) (m b r : Nat) :
    let x := (k.mzeroAct e anc kind m b).accRow r
    if b ≤ r ∧ r < b + m then
      x.kind = kind ∧ x.words = [] ∧ x.anchored = anc ∧ (anc = true → x.anchor = (e.val 0).setWidth 11)
    else x = k.accRow r := by
  have hanchor : BitVec.ofNat 11 (fld (e.val 0) 0 11) = (e.val 0).setWidth 11 := by
    apply BitVec.eq_of_toNat_eq
    simp [fld, bitsAt]
  intro x
  have hx : x = (k.mzeroAct e anc kind m b).accRow r := rfl
  rw [Core.mzeroAct_eq] at hx
  cases anc with
  | false =>
    rw [if_neg Bool.false_ne_true, Core.accRow_changeRows] at hx
    split
    · rw [if_pos ‹_›] at hx
      rw [hx]
      exact ⟨rfl, rfl, rfl, nofun⟩
    · rw [if_neg ‹_›] at hx
      exact hx
  | true =>
    rw [if_pos rfl, Core.accRow_changeRows, Core.accRow_changeRows] at hx
    split
    · rw [if_pos ‹_›, if_pos ‹_›] at hx
      rw [hx]
      exact ⟨rfl, rfl, rfl, fun _ => hanchor⟩
    · rw [if_neg ‹_›, if_neg ‹_›] at hx
      exact hx

theorem Core.mzeroAct_acc (k : Core) (e : QEntry) (anc kind : Bool) (m b : Nat) :
    k.mzeroAct e anc kind m b = { k with acc := (k.mzeroAct e anc kind m b).acc } := by
  rw [Core.mzeroAct_eq]
  split
  · rw [Core.changeRows_eq (k.changeRows b m _), Core.changeRows_eq k]
  · exact Core.changeRows_eq k b m _

theorem Core.headsM.mzero {s : State} {c : Nat} {e : QEntry} {rest : List QEntry} (h : (s.core c).headsM e rest) {sa : SR}
    {anc kind : Bool} {m1 b : BitVec 8} (hi : e.instr = .mzero sa anc kind m1 b) :
    Becomes s c 0 (fun t => t.kept = s.kept) fun t =>
      (∀ r, let x := t.accRow r
        if b.toNat ≤ r ∧ r ≤ b.toNat + m1.toNat then
          x.kind = kind ∧ x.words = [] ∧ x.anchored = anc ∧ (anc = true → x.anchor = (e.val 0).setWidth 11)
        else x = (s.core c).accRow r)
      ∧ t = { s.core c with mq := rest, acc := t.acc } := by
  have hact : s.matrixAct c e = .ok (s.modCore c (·.mzeroAct e anc kind (m1.toNat + 1) b.toNat)) := by
    rw [State.matrixAct, hi]
  have hacc := (s.core c).mzeroAct_acc e anc kind (m1.toNat + 1) b.toNat
  have hrows := (s.core c).accRow_mzeroAct e anc kind (m1.toNat + 1) b.toNat
  refine (h.acts_sameRegs (by rw [hi]; nofun) (by rw [hi]; rfl) (viewsOnly_refl s) hact (by rw [hacc]) (by rw [hacc])
    (by rw [hacc]) (by rw [hacc])).imp (fun _ => id) ?_
  rintro _ rfl
  refine ⟨fun r => ?_, by rw [hacc]⟩
  have hr := hrows r
  simp only [show r < b.toNat + (m1.toNat + 1) ↔ r ≤ b.toNat + m1.toNat by omega] at hr
  exact hr

end Sys2Proof.Machine
end

section
/-! SUPPORT. msca as it leaves its queue (12 R288): its checks, and the rows that it adds its scaled partials to. -/

namespace Sys2Proof.Machine

open Sys2Proof

/-! ## Rows set one after the other, with saturation -/

/-- Rows from b on set one after the other, each to what a function of the core gives, and whether one of them saturates. -/
def Core.setRows (k : Core) (b m : Nat) (g : Core → Nat → AccRow × Bool) : Core × Bool :=
  (List.range m).foldl (fun t i => (t.1.setRow (b + i) (g t.1 i).1, t.2 || (g t.1 i).2)) (k, false)

/-- What the rows hold where no row depends on those that are set before it. -/
theorem Core.setRows_spec (k : Core) (b m : Nat) (g : Core → Nat → AccRow × Bool)
    (hg : ∀ k' i, i < m → (∀ r, ¬(b ≤ r ∧ r < b + i) → k'.accRow r = k.accRow r) → g k' i = g k i) :
    let t := k.setRows b m g
    (∀ i, i < m → t.1.accRow (b + i) = (g k i).1) ∧ (∀ r, ¬(b ≤ r ∧ r < b + m) → t.1.accRow r = k.accRow r)
      ∧ (t.2 = true ↔ ∃ i, i < m ∧ (g k i).2 = true) ∧ t.1 = { k with acc := t.1.acc } := by
  induction m with
  | zero => exact ⟨by omega, fun _ _ => rfl, ⟨nofun, by omega⟩, rfl⟩
  | succ m ih =>
    obtain ⟨hset, hother, hsat, hacc⟩ := ih fun k' i hi => hg k' i (by omega)
    have hlast := hg (k.setRows b m g).1 m (by omega) hother
    have hsucc : k.setRows b (m + 1) g =
        ((k.setRows b m g).1.setRow (b + m) (g k m).1, (k.setRows b m g).2 || (g k m).2) := by
      rw [← hlast, Core.setRows, List.range_succ, List.foldl_append]
      rfl
    simp only [hsucc]
    refine ⟨fun i hi => ?_, fun r hr => ?_, ?_, ?_⟩
    · rw [Core.accRow_setRow]
      by_cases him : i = m
      · rw [if_pos (by omega), him]
      · rw [if_neg (by omega), hset i (by omega)]
    · rw [Core.accRow_setRow, if_neg (by omega), hother r (by omega)]
    · rw [Bool.or_eq_true, hsat]
      constructor
      · rintro (⟨i, hi, hs⟩ | hs)
        · exact ⟨i, by omega, hs⟩
        · exact ⟨m, by omega, hs⟩
      · rintro ⟨i, hi, hs⟩
        by_cases him : i = m
        · exact .inr (him ▸ hs)
        · exact .inl ⟨i, by omega, hs⟩
    · generalize (k.setRows b m g).1 = x at hacc
      rw [Core.setRow, hacc]

/-! ## The operands of msca -/

/-- What S[sa] and S[sa + 1] name: the first row of the partials and of the destination, the rows, the blocks of each, and the
offsets of the scales of both sides. -/
structure MscaFields where
  src : Nat
  dst : Nat
  rows : Nat
  blocks : Nat
  xo : Nat
  wo : Nat

def mscaFields (p q : W64) : MscaFields :=
  { src := p.toNat % 2 ^ 8, dst := p.toNat / 2 ^ 8 % 2 ^ 8, rows := p.toNat / 2 ^ 16 % 2 ^ 8 + 1
    blocks := p.toNat / 2 ^ 24 % 2 ^ 8 + 1, xo := q.toNat % 2 ^ 21, wo := q.toNat / 2 ^ 32 % 2 ^ 21 }

/-- A reserved bit is set, rows pass the last one, or a row has the wrong KIND. -/
def MscaBad (k : Core) (p q : W64) : Prop :=
  let f := mscaFields p q
  p.toNat / 2 ^ 32 ≠ 0 ∨ q.toNat / 2 ^ 21 % 2 ^ 11 ≠ 0 ∨ q.toNat / 2 ^ 53 ≠ 0 ∨ 256 < f.src + f.rows * f.blocks
    ∨ 256 < f.dst + f.rows ∨ (∃ i, i < f.rows * f.blocks ∧ (k.accRow (f.src + i)).kind = true)
    ∨ ∃ i, i < f.rows ∧ (k.accRow (f.dst + i)).kind = false

theorem fld_zero {n : Nat} (x : BitVec n) (len : Nat) : fld x 0 len = x.toNat % 2 ^ len := by
  rw [fld, bitsAt, Nat.pow_zero, Nat.div_one]

open Classical in
/-- The checks of msca in their order (12 R288). -/
theorem mscaFault_eq (k : Core) (p q : W64) (n : Nat) : let f := mscaFields p q
    mscaFault k p q n =
      if MscaBad k p q then some ⟨.illegalOp, 0, 0⟩
      else if 0x200000 < f.xo + f.rows * f.blocks then some (xlateTrap 7 4 (.ofNat 64 f.xo))
      else if 0x200000 < f.wo + f.blocks * n then some (xlateTrap 7 4 (.ofNat 64 f.wo)) else none := by
  intro f
  have hany : ((List.range (f.rows * f.blocks)).any fun i => (k.accRow (f.src + i)).kind) = true ↔
      ∃ i, i < f.rows * f.blocks ∧ (k.accRow (f.src + i)).kind = true := by simp
  have hnot : ((List.range f.rows).any fun i => !(k.accRow (f.dst + i)).kind) = true ↔
      ∃ i, i < f.rows ∧ (k.accRow (f.dst + i)).kind = false := by simp
  have h32 : fld p 32 32 = p.toNat / 2 ^ 32 := fld_top p rfl
  have h53 : fld q 53 11 = q.toNat / 2 ^ 53 := fld_top q rfl
  unfold mscaFault
  simp only [h32, h53, fld_zero]
  exact if_congr (or_congr_right (or_congr_right (or_congr_right (or_congr_right (or_congr_right (or_congr hany hnot)))))) rfl rfl

/-- msca does not read the rows that it writes: they are of another KIND. -/
theorem mscaRows_disjoint {k : Core} {p q : W64} (h : ¬MscaBad k p q) : let f := mscaFields p q
    ∀ i m, i < f.rows * f.blocks → m < f.rows → f.src + i ≠ f.dst + m := by
  intro f i m hi hm heq
  simp only [MscaBad, not_or, not_exists, not_and] at h
  obtain ⟨-, -, -, -, -, hsrc, hdst⟩ := h
  have hs := hsrc i hi
  rw [heq] at hs
  exact hdst m hm (Bool.eq_false_iff.mpr hs)

/-! ## A destination row -/

/-- A destination row after its partials, each with its two scales, have entered it: `all` are the scales that eb counts. -/
def scaledRow (blocks n : Nat) (explicit : Option Nat) (part : Nat → Nat → Num) (x : Nat → Num) (w : Nat → Nat → Num)
    (all : List Num) (old : AccRow) : AccRow × Bool :=
  let ea := topExp ((List.range blocks).flatMap fun j => (List.range n).map fun i => (part j i).mul (x j))
  old.addColumns explicit ea (if ea = none then none else topExp all)
    ((List.range n).map fun i => (List.range blocks).map fun j => ((part j i).mul (x j)).mul (w j i))

theorem scaledRow_congr {blocks n : Nat} (explicit : Option Nat) {part part' : Nat → Nat → Num} {x x' : Nat → Num}
    {w w' : Nat → Nat → Num} (all : List Num) (old : AccRow) (hpart : ∀ j i, j < blocks → part j i = part' j i)
    (hx : ∀ j, j < blocks → x j = x' j) (hw : ∀ j i, j < blocks → i < n → w j i = w' j i) :
    scaledRow blocks n explicit part x w all old = scaledRow blocks n explicit part' x' w' all old := by
  have hrow : ∀ j ∈ List.range blocks, ((List.range n).map fun i => (part j i).mul (x j))
      = (List.range n).map fun i => (part' j i).mul (x' j) := fun j hj => by
    simp only [hpart j _ (List.mem_range.mp hj), hx j (List.mem_range.mp hj)]
  have hcols : ((List.range n).map fun i => (List.range blocks).map fun j => ((part j i).mul (x j)).mul (w j i))
      = (List.range n).map fun i => (List.range blocks).map fun j => ((part' j i).mul (x' j)).mul (w' j i) :=
    List.map_congr_left fun i hi => List.map_congr_left fun j hj => by
      rw [hpart j i (List.mem_range.mp hj), hx j (List.mem_range.mp hj), hw j i (List.mem_range.mp hj) (List.mem_range.mp hi)]
  unfold scaledRow
  simp only [List.flatMap_congr hrow, hcols]

/-- The partials of destination row m. -/
def Core.mscaPart (k : Core) (f : MscaFields) (m j i : Nat) : Num := (k.accRow (f.src + j * f.rows + m)).value i

/-- One destination row of msca with the scales xs and ws. -/
def Core.mscaRowOf (k : Core) (f : MscaFields) (n : Nat) (explicit : Option Nat) (xs ws : List Num) (m : Nat) : AccRow × Bool :=
  scaledRow f.blocks n explicit (k.mscaPart f m) (fun j => xs.getD (m * f.blocks + j) .nan) (fun j i => ws.getD (j * n + i) .nan)
    ws (k.accRow (f.dst + m))

theorem Core.mscaRow_eq (k : Core) (e : QEntry) (n : Nat) (explicit : Option Nat) (xs ws : List Num) (m : Nat) :
    let f := mscaFields (e.val 0) (e.val 1)
    k.mscaRow e n explicit xs ws m =
      (k.setRow (f.dst + m) (k.mscaRowOf f n explicit xs ws m).1, (k.mscaRowOf f n explicit xs ws m).2) := by
  have heb : ∀ ea : Option Int, (if ea.isSome then topExp ws else none) = if ea = none then none else topExp ws := fun ea => by
    cases ea <;> rfl
  unfold Core.mscaRow
  simp only [heb, fld_zero]
  rfl

/-- An entry of a table by rows. -/
theorem index_lt {rows cols i j : Nat} (hi : i < rows) (hj : j < cols) : i * cols + j < rows * cols :=
  calc i * cols + j < (i + 1) * cols := by rw [Nat.succ_mul]; omega
    _ ≤ rows * cols := Nat.mul_le_mul_right _ hi

/-- A row of msca with its scales by block and column. -/
theorem Core.mscaRowOf_eq {k : Core} {f : MscaFields} {n : Nat} {xs ws : List Num} {m : Nat} {x : Nat → Num}
    {w : Nat → Nat → Num} (explicit : Option Nat) (hx : ∀ j, j < f.blocks → xs.getD (m * f.blocks + j) .nan = x j)
    (hw : ∀ j i, j < f.blocks → i < n → ws.getD (j * n + i) .nan = w j i) :
    k.mscaRowOf f n explicit xs ws m = scaledRow f.blocks n explicit (k.mscaPart f m) x w ws (k.accRow (f.dst + m)) :=
  scaledRow_congr _ _ _ (fun _ _ _ => rfl) hx hw

/-- The partials of a row lie among the source rows. -/
theorem mscaPart_index {f : MscaFields} {j m : Nat} (hj : j < f.blocks) (hm : m < f.rows) :
    f.src + j * f.rows + m = f.src + (j * f.rows + m) ∧ j * f.rows + m < f.rows * f.blocks := by
  have hlt := index_lt hj hm
  rw [Nat.mul_comm f.blocks] at hlt
  exact ⟨Nat.add_assoc _ _ _, hlt⟩

/-- A row of msca depends on none of the rows that msca has written before. -/
theorem Core.mscaRowOf_congr {k k' : Core} {p q : W64} (h : ¬MscaBad k p q) (n : Nat) (explicit : Option Nat) (xs ws : List Num)
    {m : Nat} : let f := mscaFields p q
    m < f.rows → (∀ r, ¬(f.dst ≤ r ∧ r < f.dst + m) → k'.accRow r = k.accRow r) →
    k'.mscaRowOf f n explicit xs ws m = k.mscaRowOf f n explicit xs ws m := by
  intro f hm hsame
  unfold Core.mscaRowOf
  rw [hsame _ (by omega)]
  refine scaledRow_congr _ _ _ (fun j i hj => ?_) (fun _ _ => rfl) fun _ _ _ _ => rfl
  obtain ⟨hindex, hlt⟩ := mscaPart_index hj hm
  rw [Core.mscaPart, Core.mscaPart, hindex, hsame]
  rintro ⟨hle, hge⟩
  obtain ⟨d, hd⟩ := Nat.exists_eq_add_of_le hle
  exact mscaRows_disjoint h (j * f.rows + m) d hlt (show d < f.rows by omega) hd

/-- The rows of msca. -/
def Core.mscaRows (k : Core) (f : MscaFields) (n : Nat) (explicit : Option Nat) (xs ws : List Num) : Core × Bool :=
  k.setRows f.dst f.rows fun k m => k.mscaRowOf f n explicit xs ws m

theorem Core.mscaRows_spec {k : Core} {p q : W64} (hok : ¬MscaBad k p q) (n : Nat) (explicit : Option Nat) (xs ws : List Num)
    {row : Nat → AccRow × Bool} : let f := mscaFields p q
    (∀ m, m < f.rows → k.mscaRowOf f n explicit xs ws m = row m) →
    let t := k.mscaRows f n explicit xs ws
    (∀ m, m < f.rows → t.1.accRow (f.dst + m) = (row m).1)
      ∧ (∀ r, ¬(f.dst ≤ r ∧ r < f.dst + f.rows) → t.1.accRow r = k.accRow r)
      ∧ (t.2 = true ↔ ∃ m, m < f.rows ∧ (row m).2 = true) ∧ t.1 = { k with acc := t.1.acc } := by
  intro f hrow t
  obtain ⟨hset, hother, hsat, hacc⟩ := k.setRows_spec f.dst f.rows (fun k m => k.mscaRowOf f n explicit xs ws m)
    fun k' m hm hsame => Core.mscaRowOf_congr hok n explicit xs ws hm hsame
  refine ⟨fun m hm => (hset m hm).trans (by rw [hrow m hm]), hother, hsat.trans ?_, hacc⟩
  exact exists_congr fun m => and_congr_right fun hm => by rw [hrow m hm]

/-- The scales of a side, as MX reads them. -/
def State.scales (s : State) (c a n : Nat) : List Num :=
  (s.bytesSeen (.engine c .mx) (spBase c + a) n).map fun b => e8m0 b.toNat

/-- msca whose checks pass and whose scales can be read. -/
theorem State.mscaAct_ok {s : State} {c : Nat} {e : QEntry} {n : Nat} (explicit : Option Nat)
    (hf : mscaFault (s.core c) (e.val 0) (e.val 1) n = none) : let f := mscaFields (e.val 0) (e.val 1)
    poisoned s.errs (spBase c + f.xo) (f.rows * f.blocks) = none → s.gatedAt (spBase c + f.xo) = false →
    poisoned s.errs (spBase c + f.wo) (f.blocks * n) = none → s.gatedAt (spBase c + f.wo) = false →
    let r := (s.core c).mscaRows f n explicit (s.scales c f.xo (f.rows * f.blocks)) (s.scales c f.wo (f.blocks * n))
    s.mscaAct c e n explicit = .ok ((s.setCore c r.1).setSat c r.2) := by
  intro f hpx hgx hpw hgw r
  have hx : s.ownRead c (fld (e.val 1) 0 21) ((fld (e.val 0) 16 8 + 1) * (fld (e.val 0) 24 8 + 1)) =
      .ok (s.bytesSeen (.engine c .mx) (spBase c + f.xo) (f.rows * f.blocks)) := by
    rw [fld_zero]
    exact ownRead_ok hpx hgx
  have hw : s.ownRead c (fld (e.val 1) 32 21) ((fld (e.val 0) 24 8 + 1) * n) =
      .ok (s.bytesSeen (.engine c .mx) (spBase c + f.wo) (f.blocks * n)) := ownRead_ok hpw hgw
  unfold State.mscaAct
  simp only [hf, hx, hw, Core.mscaRow_eq]
  rfl

theorem State.mscaAct_error {s : State} {c : Nat} {e : QEntry} {n : Nat} (explicit : Option Nat) {t : Trp}
    (hf : mscaFault (s.core c) (e.val 0) (e.val 1) n = some t) : s.mscaAct c e n explicit = .error t := by
  simp only [State.mscaAct, hf]

/-! ## Saturation -/

theorem core_setSat_of (s : State) (c : Nat) (v : Bool) :
    (s.setSat c v).core c = if v then (s.core c).setStatus 3 true else s.core c := by
  unfold State.setSat
  split
  · exact State.core_modCore_same s c _
  · rfl

/-- SetSat() gains SAT and no other bit (03 R63). -/
theorem statusGains_setSat (s : State) (c : Nat) (v : Bool) :
    StatusGains (s.core c) ((s.setSat c v).core c) fun b => b = 3 ∧ v = true := by
  intro b
  rw [core_setSat_of]
  cases v with
  | false => simp
  | true =>
    rw [if_pos rfl, statusBit_setStatus _ _ _ _ (by omega)]
    by_cases hb : b = 3 <;> simp [hb]

/-- Of the device the accumulator store of core c is a, and SAT is gained where `sat` says so. -/
def StoresRows (s w : State) (c : Nat) (a : Tab AccRow) (sat : Bool) : Prop :=
  OnlyCore c s w ∧ w.core c = { s.core c with acc := a, status := (w.core c).status }
    ∧ StatusGains (s.core c) (w.core c) fun b => b = 3 ∧ sat = true

theorem storesRows_setCore (s : State) (c : Nat) (a : Tab AccRow) (sat : Bool) :
    StoresRows s ((s.setCore c { s.core c with acc := a }).setSat c sat) c a sat := by
  have hgain := statusGains_setSat (s.setCore c { s.core c with acc := a }) c sat
  rw [State.core_setCore_same] at hgain
  refine ⟨onlyCore_trans (onlyCore_modCore s c fun _ => _) (onlyCore_setSat _ c sat), ?_, hgain⟩
  rw [core_setSat_of, State.core_setCore_same]
  split <;> rfl

theorem statusGains_congr {k k' : Core} {p q : Nat → Prop} (h : StatusGains k k' p) (hpq : ∀ b, p b ↔ q b) :
    StatusGains k k' q :=
  fun b => (h b).trans (or_congr_right (hpq b))

theorem Core.accRow_congr {k k' : Core} (h : k'.acc = k.acc) (r : Nat) : k'.accRow r = k.accRow r := by
  rw [Core.accRow, Core.accRow, h]

/-! ## msca -/

/-- One scale. -/
def State.scale (s : State) (c a : Nat) : Num := e8m0 (s.seen (.engine c .mx) (spBase c + a)).toNat

theorem State.scales_eq (s : State) (c a n : Nat) : s.scales c a n = (List.range n).map fun i => s.scale c (a + i) := by
  simp only [State.scales, State.bytesSeen, List.map_map, State.scale, Function.comp_def, Nat.add_assoc]

theorem State.scales_getD (s : State) (c a : Nat) {n i : Nat} (hi : i < n) :
    (s.scales c a n).getD i .nan = s.scale c (a + i) := by
  simp [State.scales_eq, hi]

/-- Destination row m of an msca with the scales that MX sees. -/
def State.mscaRowSeen (s : State) (c : Nat) (f : MscaFields) (n : Nat) (explicit : Option Nat) (m : Nat) : AccRow × Bool :=
  scaledRow f.blocks n explicit ((s.core c).mscaPart f m) (fun j => s.scale c (f.xo + m * f.blocks + j))
    (fun j i => s.scale c (f.wo + j * n + i)) ((List.range (f.blocks * n)).map fun i => s.scale c (f.wo + i))
    ((s.core c).accRow (f.dst + m))

theorem State.mscaRowOf_scales (s : State) (c : Nat) (f : MscaFields) (n : Nat) (explicit : Option Nat) {m : Nat}
    (hm : m < f.rows) :
    (s.core c).mscaRowOf f n explicit (s.scales c f.xo (f.rows * f.blocks)) (s.scales c f.wo (f.blocks * n)) m
      = s.mscaRowSeen c f n explicit m := by
  unfold State.mscaRowSeen
  rw [← s.scales_eq]
  refine Core.mscaRowOf_eq explicit (fun j hj => ?_) fun j i hj hi => ?_
  · rw [s.scales_getD c f.xo (index_lt hm hj), Nat.add_assoc]
  · rw [s.scales_getD c f.wo (index_lt hj hi), Nat.add_assoc]

section
variable {s : State} {c : Nat} {e : QEntry} {rest : List QEntry} (h : (s.core c).headsM e rest) {sa : SR} {n1 : BitVec 7}
  {anc : Bool} {anchor : BitVec 11} (hi : e.instr = .msca sa n1 anc anchor)
include h hi

theorem Core.headsM.msca_faults {t : Trp} (hf : mscaFault (s.core c) (e.val 0) (e.val 1) (n1.toNat + 1) = some t) :
    Becomes s c 0 (fun t => t.kept = s.kept) fun k => k = { s.core c with
      mq := e.gone (s.core c) :: rest, efaults := (s.core c).efaults ++ [matrixFault t] } :=
  h.faults (by rw [hi]; nofun) (by rw [hi]; rfl) (by rw [State.matrixAct, hi]; exact State.mscaAct_error _ hf)

/-- msca adds the scaled partials of its blocks to its destination rows. -/
theorem Core.headsM.msca (hok : ¬MscaBad (s.core c) (e.val 0) (e.val 1)) : let f := mscaFields (e.val 0) (e.val 1)
    let n := n1.toNat + 1
    let explicit := if anc then some anchor.toNat else none
    let row := s.mscaRowSeen c f n explicit
    f.xo + f.rows * f.blocks ≤ 0x200000 → f.wo + f.blocks * n ≤ 0x200000 →
    poisoned s.errs (spBase c + f.xo) (f.rows * f.blocks) = none → poisoned s.errs (spBase c + f.wo) (f.blocks * n) = none →
    (∀ i, i < 0x200000 → s.gatedAt (spBase c + i) = false) →
    Becomes s c 0 (fun t => t.kept = s.kept) fun t =>
      (∀ m, m < f.rows → t.accRow (f.dst + m) = (row m).1)
      ∧ (∀ r, ¬(f.dst ≤ r ∧ r < f.dst + f.rows) → t.accRow r = (s.core c).accRow r)
      ∧ StatusGains (s.core c) t (fun b => b = 3 ∧ ∃ m, m < f.rows ∧ (row m).2 = true)
      ∧ t = { s.core c with mq := rest, acc := t.acc, status := t.status } := by
  intro f n explicit row hxo hwo hpx hpw hg
  have hrows : 0 < f.rows * f.blocks := Nat.mul_pos (Nat.succ_pos _) (Nat.succ_pos _)
  have hcols : 0 < f.blocks * n := Nat.mul_pos (Nat.succ_pos _) (Nat.succ_pos _)
  have hf : mscaFault (s.core c) (e.val 0) (e.val 1) n = none := by
    rw [mscaFault_eq, if_neg hok, if_neg (Nat.not_lt.mpr hxo), if_neg (Nat.not_lt.mpr hwo)]
  have hact : s.mscaAct c e n explicit = .ok ((s.setCore c ((s.core c).mscaRows f n explicit _ _).1).setSat c _) :=
    State.mscaAct_ok explicit hf hpx (hg f.xo (by omega)) hpw (hg f.wo (by omega))
  have hspec := Core.mscaRows_spec hok n explicit _ _ fun m hm => s.mscaRowOf_scales c f n explicit hm
  generalize (s.core c).mscaRows _ n explicit _ _ = r at hact hspec
  obtain ⟨hset, hother, hsat, hacc⟩ := hspec
  have hset_acc : s.setCore c r.1 = s.setCore c { s.core c with acc := r.1.acc } := congrArg (s.setCore c) hacc
  rw [hset_acc] at hact
  obtain ⟨honly, hcore, hgain⟩ := storesRows_setCore s c r.1.acc r.2
  have hact := (show s.matrixAct c e = s.mscaAct c e n explicit by rw [State.matrixAct, hi]).trans hact
  refine (h.acts_on (s.onLeave_quiet c (by rw [hi]; nofun) (by rw [hi]; rfl)) (viewsOnly_refl s) (by rw [hi]; nofun)
    (viewsOnly_refl s) honly hact (by rw [hcore])).imp (fun _ => id) fun t ht => ?_
  rw [Core.carry_sameRegs _ _ _ (by rw [hcore]) (by rw [hcore]) (by rw [hcore])] at ht
  have hrow := Core.accRow_congr (k' := t) (by rw [ht, hcore])
  refine ⟨fun m hm => (hrow _).trans (hset m hm), fun m hm => (hrow m).trans (hother m hm), ?_, ?_⟩
  · refine statusGains_congr (fun b => ?_) fun b => and_congr_right fun _ => hsat
    rw [ht]
    exact hgain b
  · rw [ht, hcore]

end

end Sys2Proof.Machine
end

section
/-! SUPPORT. The start of an accumulator copy (12 R290), at the head of C0 of a core whose matrix engine is idle. -/

namespace Sys2Proof.Machine

open Sys2Proof

/-! ## The op -/

/-- An accumulator copy names one descriptor, waits on no other tag, and is no mcall. -/
theorem acpyOp_some {e : QEntry} {o : AcpyOp} (ho : acpyOp e = some o) :
    isAcpy e.instr = true ∧ waitTag e.instr = none ∧ (∀ r, e.instr ≠ .mcall r) ∧ ∀ k : Core, k.namedTags e = [o.n] := by
  unfold acpyOp at ho
  split at ho
  · rename_i hi
    cases ho
    exact ⟨by rw [hi]; rfl, by rw [hi]; rfl, by rw [hi]; nofun, fun k => by rw [Core.namedTags, hi]⟩
  · rename_i hi
    cases ho
    exact ⟨by rw [hi]; rfl, by rw [hi]; rfl, by rw [hi]; nofun, fun k => by rw [Core.namedTags, hi]⟩
  · cases ho

/-- The op of a copy that writes memory. -/
theorem acpyOp_out {e : QEntry} {o : AcpyOp} (ho : acpyOp e = some o) (hout : o.out = true) :
    ∃ dn sr sn upd cvc flag post wrap rm, e.instr = .acpyOut dn sr sn upd cvc flag post o.raw wrap rm := by
  unfold acpyOp at ho
  split at ho
  · cases ho
    exact ⟨_, _, _, _, _, _, _, _, _, ‹_›⟩
  · cases ho
    cases hout
  · cases ho

/-- The op of a copy that reads memory. -/
theorem acpyOp_in {e : QEntry} {o : AcpyOp} (ho : acpyOp e = some o) (hout : o.out = false) :
    ∃ dn sr flag post, e.instr = .acpyIn dn sr flag o.accum post o.raw := by
  unfold acpyOp at ho
  split at ho
  · cases ho
    cases hout
  · cases ho
    exact ⟨_, _, _, _, ‹_›⟩
  · cases ho

/-- Accumulator copy o heads C0 with its tag set, on a core whose matrix engine runs nothing and which has no other queue. -/
structure Core.headsAcpy (k : Core) (e : QEntry) (rest : List QEntry) (o : AcpyOp) : Prop extends k.heads 1 e rest where
  mq : k.mq = []
  c1q : k.c1q = []
  call : k.call = none
  acpy : k.acpy = none
  runs : k.stopped 0 0 = false
  runsC : k.stopped 11 0 = false
  op : acpyOp e = some o
  tagged : k.tag o.n = true

/-! ## The start -/

/-- What a copy is as its rows begin. -/
def acpyBegins (e : QEntry) (d : BitVec 128) (imgs : List (List Byte)) : AcpyRun :=
  { entry := e, d := d, images := imgs, row := 0, rho := none, rhoInf := false }

theorem QEntry.descOf_inQueue {e : QEntry} (he : e.left = false) (k : Core) (n : Nat) : e.descOf k n = k.desc n := by
  rw [QEntry.descOf, he]
  rfl

section
variable {u : State} {c : Nat} {e : QEntry} {o : AcpyOp} (he : e.left = false)
include he

theorem State.acpyStart_faults {f : Trp} (hf : u.acpyStartFault c e o ((u.core c).desc o.n) = some f) :
    u.acpyStart c e o = .error f := by
  simp only [State.acpyStart, e.descOf_inQueue he, hf]

theorem State.acpyStart_imagesBad {f : Trp} (hf : u.acpyStartFault c e o ((u.core c).desc o.n) = none)
    (hi : u.acpyImages c e o ((u.core c).desc o.n) = .error f) : u.acpyStart c e o = .error f := by
  simp only [State.acpyStart, e.descOf_inQueue he, hf, hi]
  rfl

theorem State.acpyStart_runs {imgs : List (List Byte)} (hf : u.acpyStartFault c e o ((u.core c).desc o.n) = none)
    (hi : u.acpyImages c e o ((u.core c).desc o.n) = .ok imgs) :
    u.acpyStart c e o = .ok (u.modCore c fun k => { k with acpy := some (acpyBegins e ((u.core c).desc o.n) imgs) }) := by
  simp only [State.acpyStart, e.descOf_inQueue he, hf, hi]
  rfl

end

/-- Only acpy.in in raw mode reads images as it starts (12 R291). -/
theorem State.acpyImages_none (u : State) (c : Nat) (e : QEntry) {o : AcpyOp} (d : BitVec 128)
    (ho : o.out = true ∨ o.raw = false) :
    u.acpyImages c e o d = .ok [] := by
  refine if_pos ?_
  rcases ho with ho | ho <;> simp [ho]

/-- A copy is refused for its rows, its format, or the kind of its rows (12 R290). -/
theorem State.acpyStartFault_illegal (u : State) (c : Nat) (e : QEntry) (o : AcpyOp) (d : BitVec 128)
    (hbad : 256 < (e.val 0).toNat % 2 ^ 8 + dRows d ∨ 128 < dCols d ∨ 10 ≤ dFmt d ∨ dMc d = true
      ∨ (dFmt d = 5 ∧ (o.raw = false ∨ dCols d % 2 = 1))
      ∨ (o.raw = false ∧ ∃ r, r < dRows d ∧
        ((u.core c).accRow ((e.val 0).toNat % 2 ^ 8 + r)).kind ≠ decide (dFmt d ≤ 1))
      ∨ (o.out = false ∧ o.raw = true ∧ dStride d < 2112)) : u.acpyStartFault c e o d = some ⟨.illegalOp, 0, 0⟩ := by
  unfold State.acpyStartFault
  refine if_pos ?_
  simp only [acpyBase, fld_zero, elemKind, Bool.or_eq_true, decide_eq_true_eq, Bool.and_eq_true, beq_iff_eq,
    Bool.not_eq_true', List.any_eq_true, List.mem_range, bne_iff_ne]
  simpa only [or_assoc, and_assoc, show rawBytes = 2112 from rfl] using hbad

section
variable {s : State} {c : Nat} {e : QEntry} {rest : List QEntry} {o : AcpyOp} (h : (s.core c).headsAcpy e rest o)
include h

theorem Core.headsAcpy.onLeave : s.onLeave c e = s.seeTagged c [o.n] := by
  obtain ⟨hacpy, -, hcall, htags⟩ := acpyOp_some h.op
  rw [← htags (s.core c)]
  unfold State.onLeave
  split
  · exact absurd ‹_› (hcall _)
  · exact if_pos hacpy
  · rw [h.inQueue] at *
    contradiction

/-- An accumulator copy whose tag is set starts at an idle engine. -/
theorem Core.headsAcpy.departAt_eq :
    (s.onLeave c e).departAt c 1 e = departOf 0 0 ((s.seeTagged c [o.n]).acpyStart c e o) := by
  obtain ⟨-, hwait, -, -⟩ := acpyOp_some h.op
  have hall : (s.core c).mq ++ (s.core c).c0q ++ (s.core c).c1q = e :: rest := by
    rw [h.mq, h.c1q, List.nil_append, List.append_nil]
    exact h.queued
  have hyields := Core.yields_idle h.runs h.call h.acpy hall fun x hx => (h.behind x hx).2
  have hwaits : (s.core c).acpyWaits e o.n = false := by
    rw [Core.acpyWaits, h.runs, h.tagged, h.mq]
    rfl
  rw [h.onLeave]
  generalize hu : s.seeTagged c [o.n] = u
  have hcore : u.core c = s.core c := by rw [← hu]; rfl
  show u.departC c 0 (u.core c).c1q e = _
  unfold State.departC State.atMatrix
  simp only [hcore, hwait, h.runsC, h.op, hwaits, hyields, Bool.or_true, Bool.not_true, Bool.or_false, Bool.and_false,
    Bool.false_eq_true, if_false]

/-- A copy whose start faults has left its queue with its registers, and the fault is pending. -/
theorem Core.headsAcpy.faults {f : Trp} (hf : (s.seeTagged c [o.n]).acpyStart c e o = .error f) :
    Becomes s c 1 (fun t => SeesTagged s t c [o.n]) fun k => k = { s.core c with
      c0q := e.gone (s.core c) :: rest, efaults := (s.core c).efaults ++ [matrixFault f] } := by
  have hleave : (s.core c).modQueue 1 (leaveOp (s.core c) e.seq) = { s.core c with c0q := e.gone (s.core c) :: rest } := by
    show { s.core c with c0q := leaveOp (s.core c) e.seq (s.core c).c0q } = _
    rw [show (s.core c).c0q = e :: rest from h.queued, leaveOp_head h.inQueue fun x hx => (h.behind x hx).2]
  have hfaults := h.toheads.faults (h.onLeave ▸ rfl) (h.departAt_eq.trans (congrArg (departOf 0 0) hf))
  rw [hleave, h.onLeave] at hfaults
  exact hfaults.imp (fun t ht => by rw [SeesTagged, ht]; exact seesTagged_seeTagged s c [o.n]) fun _ => id

/-- A copy whose checks pass becomes the copy in hand. -/
theorem Core.headsAcpy.starts {imgs : List (List Byte)}
    (hf : (s.seeTagged c [o.n]).acpyStartFault c e o ((s.core c).desc o.n) = none)
    (hi : (s.seeTagged c [o.n]).acpyImages c e o ((s.core c).desc o.n) = .ok imgs) :
    Becomes s c 1 (fun t => SeesTagged s t c [o.n]) fun k => k = { s.core c with
      c0q := rest, acpy := some (acpyBegins e ((s.core c).desc o.n) imgs) } := by
  have hleaves := h.departAt_eq.trans (congrArg (departOf 0 0) (State.acpyStart_runs h.inQueue hf hi))
  have hsees := seesTagged_seeTagged s c [o.n]
  have hviews : ViewsOnly s (s.seeTagged c [o.n]) := rfl
  generalize s.seeTagged c [o.n] = u at hleaves hsees hviews
  have hw := State.core_modCore_same u c fun k => { k with acpy := some (acpyBegins e ((u.core c).desc o.n) imgs) }
  rw [hviews.core c] at hw
  refine (h.toheads.leaves hviews (onlyCore_modCore u c _) hleaves).imp (fun t ht => by rw [SeesTagged, ht]; exact hsees)
    fun k hk => ?_
  have hdrop : dropOp e.seq (s.core c).c0q = rest := by
    rw [show (s.core c).c0q = e :: rest from h.queued, dropOp_head fun x hx => by have := (h.behind x hx).2; omega]
  rw [hviews.core c, hw] at hk
  rw [hk, ← hdrop]
  exact Core.carry_sameRegs _ _ _ rfl rfl rfl

end

end Sys2Proof.Machine
end

section
/-! SUPPORT. The rows of an accumulator copy (12 R290 to R292): a turn of the engine, what it leaves of the device, and the rows
that acpy.in adds to. -/

namespace Sys2Proof.Machine

open Sys2Proof

/-! ## A turn of the engine -/

/-- Copy r runs on a core whose matrix engine does not stop and has no call. -/
structure Core.copies (k : Core) (r : AcpyRun) : Prop where
  call : k.call = none
  acpy : k.acpy = some r
  engineOn : k.engineOn = true
  runs : k.stopped 0 0 = false

/-- Of the device only core c, memory, its errors and what the views keep change. -/
def CoreAndMemory (c : Nat) (s t : State) : Prop :=
  t = { s with cores := t.cores, mem := t.mem, errs := t.errs, kept := t.kept } ∧ ∀ d, d ≠ c → t.core d = s.core d

theorem coreAndMemory_trans {c : Nat} {s t u : State} (h : CoreAndMemory c s t) (h' : CoreAndMemory c t u) :
    CoreAndMemory c s u := by
  obtain ⟨hst, hothers⟩ := h
  obtain ⟨htu, hothers'⟩ := h'
  exact ⟨by rw [htu, hst], fun d hd => (hothers' d hd).trans (hothers d hd)⟩

theorem coreAndMemory_of_onlyCore {c : Nat} {s t : State} (h : OnlyCore c s t) : CoreAndMemory c s t := by
  obtain ⟨hst, hothers, -⟩ := h
  exact ⟨by rw [hst], hothers⟩

theorem coreAndMemory_writeBy (c : Nat) (s : State) (w : Writer) (pa : Nat) (bs : List Byte) :
    CoreAndMemory c s (s.writeBy w pa bs) := ⟨rfl, fun _ _ => rfl⟩

section
variable {s t : State} {c : Nat} {r r' : AcpyRun}

/-- The turn of an engine without a call is that of its accumulator copy. -/
theorem step_copy {l : List Turn} (ha : s.agenda = .engine c :: l) (hcall : (s.core c).call = none) :
    step s = .next (State.acpyStep { s with agenda := l } c) := by
  have hcore : (State.core { s with agenda := l } c).call = none := hcall
  have hmicro : (State.core { s with agenda := l } c).microOp = none := by rw [Core.microOp, hcore]
  simp only [step, State.turnNext, State.turnDone, ha, hmicro, State.engineElse, hcore, Option.isSome_none,
    Bool.false_eq_true, if_false]

/-- What a turn of the engine of core c leaves when l is what the agenda holds after it. -/
def TurnLeaves (s : State) (c : Nat) (l : List Turn) (good : State → Prop) : Prop :=
  ∃ t, step s = .next t ∧ t = { s with agenda := l, cores := t.cores, mem := t.mem, errs := t.errs, kept := t.kept }
    ∧ (∀ d, d ≠ c → t.core d = s.core d) ∧ good t

theorem turnLeaves_copy {l : List Turn} {good : State → Prop} (ha : s.agenda = .engine c :: l) (hcall : (s.core c).call = none)
    (hmem : CoreAndMemory c { s with agenda := l } (State.acpyStep { s with agenda := l } c))
    (hgood : good (State.acpyStep { s with agenda := l } c)) : TurnLeaves s c l good :=
  ⟨_, step_copy ha hcall, hmem.1, hmem.2, hgood⟩

/-- A row. -/
theorem Core.copies.step_row (h : (s.core c).copies r) (hr : r.row < dRows r.d) (hrow : s.acpyRow c r = .ok (r', t)) :
    s.acpyStep c = t.modCore c fun k => { k with acpy := some r' } := by
  simp only [State.acpyStep, h.acpy, h.runs, h.engineOn, Bool.not_true, Bool.or_false, Bool.false_eq_true, if_false,
    if_neg (Nat.not_le.mpr hr), hrow]

/-- After the last row. -/
theorem Core.copies.step_done (h : (s.core c).copies r) (hr : dRows r.d ≤ r.row) :
    s.acpyStep c = (if r.posts then s.release (r.writer c).sameOp fun _ => true else s).modCore c fun k =>
      k.carry (k.acpyDone r) r.entry.seq := by
  simp only [State.acpyStep, h.acpy, h.runs, h.engineOn, Bool.not_true, Bool.or_false, Bool.false_eq_true, if_false,
    if_pos hr]

/-! ## The rows of acpy.in -/

/-- The next row of a copy. -/
def AcpyRun.next (r : AcpyRun) : AcpyRun := { r with row := r.row + 1 }

/-- A row of acpy.in in element mode: its elements enter the row as products with 1 (12 R290). -/
theorem State.acpyRow_inElements {o : AcpyOp} (ho : acpyOp r.entry = some o) (hin : o.out = false) (hraw : o.raw = false)
    {xs : List Nat} (hx : s.tileElems c (tilePa c r.d r.row) (dFmt r.d) 0 (dCols r.d) = .ok xs) :
    let i := acpyBase r.entry + r.row
    let vs := xs.map (elemValue (dFmt r.d))
    let y := ((s.core c).accRow i).addColumns none (topExp vs) (some 0) (vs.map fun v => [v])
    s.acpyRow c r = .ok (r.next, (s.modCore c (·.setRow i y.1)).setSat c y.2) := by
  obtain ⟨dn, sr, flag, post, hi⟩ := acpyOp_in ho hin
  intro i vs y
  unfold State.acpyRow State.acpyInRow
  simp only [ho, hi, hraw, hx]
  rfl

/-- A row of acpy.in in raw mode: it takes or adds the image (12 R291, R292). -/
theorem State.acpyRow_inRaw {o : AcpyOp} (ho : acpyOp r.entry = some o) (hin : o.out = false) (hraw : o.raw = true) :
    let i := acpyBase r.entry + r.row
    let y := ((s.core c).accRow i).takeImage (r.images.getD r.row []) (dCols r.d) o.accum
    s.acpyRow c r = .ok (r.next, (s.modCore c (·.setRow i y.1)).setSat c y.2) := by
  obtain ⟨dn, sr, flag, post, hi⟩ := acpyOp_in ho hin
  intro i y
  unfold State.acpyRow
  simp only [ho, hi, hraw]
  rfl

/-- A row of the accumulator store changes, with saturation, and the copy goes on to the next one. -/
theorem Core.copies.changesRow (h : (s.core c).copies r) (hr : r.row < dRows r.d) {i : Nat} {x : AccRow} {sat : Bool}
    (hrow : s.acpyRow c r = .ok (r.next, (s.modCore c (·.setRow i x)).setSat c sat)) :
    let t := s.acpyStep c
    OnlyCore c s t ∧ t.kept = s.kept ∧ t.errs = s.errs
      ∧ (∀ j, (t.core c).accRow j = if j = i then x else (s.core c).accRow j)
      ∧ StatusGains (s.core c) (t.core c) (fun b => b = 3 ∧ sat = true)
      ∧ t.core c = { s.core c with acc := (t.core c).acc, status := (t.core c).status, acpy := some r.next } := by
  intro t
  obtain ⟨honly, hcore, hgain⟩ := storesRows_setCore s c (Tab.put AccRow.reset (s.core c).acc i x) sat
  generalize hw : State.setSat _ c sat = w at honly hcore hgain
  have ht : t = w.modCore c fun k => { k with acpy := some r.next } := by
    rw [← hw]
    exact h.step_row hr hrow
  have hlast : t.core c = { w.core c with acpy := some r.next } := by rw [ht, State.core_modCore_same]
  have hall : OnlyCore c s t := by
    rw [ht]
    exact onlyCore_trans honly (onlyCore_modCore w c _)
  refine ⟨hall, by rw [hall.1], by rw [hall.1], fun j => ?_, fun b => ?_, ?_⟩
  · refine (Core.accRow_congr (k := (s.core c).setRow i x) ?_ j).trans (Core.accRow_setRow _ _ _ _)
    rw [hlast, hcore]
    rfl
  · refine Iff.trans (Eq.to_iff (congrArg (· = true) ?_)) (hgain b)
    rw [hlast]
    rfl
  · rw [hlast, hcore]

end

end Sys2Proof.Machine
end

section
/-! SUPPORT. The rows that acpy.out writes: rounded codes with their rounding term, and raw images (12 R290, R291). -/

namespace Sys2Proof.Machine

open Sys2Proof

/-! ## The write of a row -/

theorem overlapsArmed_within {s : State} {a n b m : Nat} (h : s.overlapsArmed a n = false) (hlo : a ≤ b) (hhi : b + m ≤ a + n) :
    s.overlapsArmed b m = false := by
  simp only [State.overlapsArmed, List.any_eq_false, Bool.and_eq_true, decide_eq_true_eq] at h ⊢
  intro x hx
  have := h x hx
  omega

theorem overlapsMark_within {s : State} {a n b m : Nat} (h : s.overlapsMark a n = false) (hlo : a ≤ b) (hhi : b + m ≤ a + n) :
    s.overlapsMark b m = false := by
  simp only [State.overlapsMark, List.any_eq_false, Bool.and_eq_true, decide_eq_true_eq] at h ⊢
  intro x hx
  have := h x hx
  omega

/-- A write whose parts lie in a range without an armed slot and a marked word (14 R322). -/
theorem State.acpyWrite_ok {s : State} {w : Writer} {pa n : Nat} (va : W64) {parts : List (Nat × List Byte)}
    (ha : s.overlapsArmed pa n = false) (hm : s.overlapsMark pa n = false) (hin : ∀ p ∈ parts, p.1 + p.2.length ≤ n) :
    s.acpyWrite w pa va parts = .ok (parts.foldl (fun t p => t.writeBy w (pa + p.1) p.2) s) := by
  have harmed : (parts.any fun p => s.overlapsArmed (pa + p.1) p.2.length) = false := by
    rw [List.any_eq_false]
    intro p hp
    have := hin p hp
    rw [overlapsArmed_within ha (by omega) (by omega)]
    exact Bool.false_ne_true
  have hmarked : (parts.any fun p => s.overlapsMark (pa + p.1) p.2.length) = false := by
    rw [List.any_eq_false]
    intro p hp
    have := hin p hp
    rw [overlapsMark_within hm (by omega) (by omega)]
    exact Bool.false_ne_true
  simp only [State.acpyWrite, harmed, hmarked, Bool.false_eq_true, if_false]

/-! ## Lists -/

theorem mapM_range_ok {α : Type} {f : Nat → Except Trp α} {g : Nat → α} {n : Nat} (h : ∀ i, i < n → f i = .ok (g i)) :
    (List.range n).mapM f = .ok ((List.range n).map g) := by
  have hlist : ∀ l : List Nat, (∀ i ∈ l, f i = .ok (g i)) → l.mapM f = .ok (l.map g) := by
    intro l hl
    induction l with
    | nil => rfl
    | cons i l ih =>
      rw [List.mapM_cons, hl i List.mem_cons_self, ih fun j hj => hl j (List.mem_cons_of_mem i hj)]
      rfl
  exact hlist _ fun i hi => h i (List.mem_range.mp hi)

theorem map_zipIdx_range {α β : Type} (z : Nat → α) (f : α × Nat → β) (n : Nat) :
    ((List.range n).map z).zipIdx.map f = (List.range n).map fun i => f (z i, i) := by
  apply List.ext_getElem
  · simp
  · intro i h1 h2
    simp

/-! ## The rounding term -/

/-- The larger of a term and those of a list. -/
def topTerm (a : Option Int) (l : List Int) : Option Int := l.foldl maxExp a

theorem topTerm_cons (a : Option Int) (x : Int) (l : List Int) : topTerm a (x :: l) = topTerm (maxExp a x) l := rfl

theorem maxExp_cases (a : Option Int) (x : Int) : (maxExp a x = a ∨ maxExp a x = some x)
    ∧ ∃ b, maxExp a x = some b ∧ x ≤ b := by
  cases a with
  | none => exact ⟨.inr rfl, x, rfl, Int.le_refl x⟩
  | some y =>
    refine ⟨?_, max y x, rfl, Int.le_max_right y x⟩
    rcases Int.le_total y x with hyx | hxy
    · exact .inr (congrArg some (Int.max_eq_right hyx))
    · exact .inl (congrArg some (Int.max_eq_left hxy))

theorem le_topTerm_start {b : Int} (l : List Int) : ∀ {a : Int}, b ≤ a → ∃ t, topTerm (some a) l = some t ∧ b ≤ t := by
  induction l with
  | nil => exact fun h => ⟨_, rfl, h⟩
  | cons x l ih => exact fun {a} h => ih (Int.le_trans h (Int.le_max_left a x))

/-- No term of the list is larger. -/
theorem le_topTerm {l : List Int} {x : Int} (hx : x ∈ l) : ∀ a, ∃ t, topTerm a l = some t ∧ x ≤ t := by
  induction l with
  | nil => cases hx
  | cons y l ih =>
    intro a
    rw [topTerm_cons]
    rcases List.mem_cons.mp hx with rfl | hx
    · obtain ⟨-, b, hb, hle⟩ := maxExp_cases a x
      rw [hb]
      exact le_topTerm_start l hle
    · exact ih hx _

/-- It is the first one or one of the list. -/
theorem topTerm_mem (l : List Int) : ∀ a, topTerm a l = a ∨ ∃ x ∈ l, topTerm a l = some x := by
  induction l with
  | nil => exact fun a => .inl rfl
  | cons y l ih =>
    intro a
    rw [topTerm_cons]
    rcases ih (maxExp a y) with hsame | ⟨x, hx, htop⟩
    · rcases (maxExp_cases a y).1 with ha | hy
      · exact .inl (hsame.trans ha)
      · exact .inr ⟨y, List.mem_cons_self, hsame.trans hy⟩
    · exact .inr ⟨x, List.mem_cons_of_mem y hx, htop⟩

/-! ## Rounded codes -/

/-- Element i of a row of acpy.out: its code, whether SetSat is called, and whether its term is +∞ (12 R290). -/
def roundedElem (f : Fmt) (rm : Nat) (wrap : Bool) (row : AccRow) (z : Nat → Nat) (i : Nat) : Nat × Bool × Bool :=
  roundOut f rm wrap (row.value i) (z i)

/-- The copy after n elements of a row. -/
def AcpyRun.rounds (r : AcpyRun) (f : Fmt) (rm : Nat) (row : AccRow) (y : Nat → Nat × Bool × Bool) (n : Nat) : AcpyRun :=
  { r with
    row := r.row + 1
    rho := topTerm r.rho (((List.range n).filter fun i => !(y i).2.2).map fun i => rhoExp f rm (row.value i))
    rhoInf := r.rhoInf || (List.range n).any fun i => (y i).2.2 }

section
variable {s : State} {c : Nat} {r : AcpyRun} {o : AcpyOp}

/-- The noise of the elements: zero without an array, else the low 16 bits of its words as MX sees them. -/
theorem State.acpyNoise_ok {i z : Nat} (hzero : o.noise = none → z = 0)
    (harray : ∀ a, o.noise = some a → let b := spBase c + a + 4 * i
      z = leNat (s.bytesSeen (.engine c .mx) b 4) % 2 ^ 16 ∧ poisoned s.errs b 4 = none ∧ s.gatedAt b = false) :
    s.acpyNoise c o i = .ok (z) := by
  unfold State.acpyNoise
  cases hn : o.noise with
  | none => rw [hzero hn]
  | some a =>
    obtain ⟨hz, hp, hg⟩ := harray a hn
    rw [Nat.add_assoc] at hz hp hg
    have hword : s.ownWord c (a + 4 * i) = .ok (.ofNat 32 (leNat (s.bytesSeen (.engine c .mx) (spBase c + (a + 4 * i)) 4))) := by
      rw [State.ownWord, ownRead_ok hp hg]
      rfl
    have hmod : ∀ x : Nat, x % 2 ^ 32 % 65536 = x % 2 ^ 16 := fun x => by omega
    simp only [hword, Except.map, BitVec.toNat_ofNat, hmod, hz]

/-- The elements of a row in element mode, once their codes are written. -/
theorem State.acpyOutRow_ok {t : State} {f : Fmt} {rm pa : Nat} {wrap : Bool} {va : W64} {z : Nat → Nat}
    (hf : fmtOf (dFmt r.d) = some f) (hz : ∀ i, i < dCols r.d → s.acpyNoise c o (r.row * dCols r.d + i) = .ok (z i)) :
    let n := dCols r.d
    let row := (s.core c).accRow (acpyBase r.entry + r.row)
    let y := roundedElem f rm wrap row z
    s.acpyWrite (r.writer c) pa va [(0, (List.range n).flatMap fun i => leBytes (f.width / 8) (y i).1)] = .ok t →
    (s.acpyOutRow c r o rm wrap pa va).map (fun q => (q.1.next, q.2)) =
      .ok (r.rounds f rm row y n, t.setSat c ((List.range n).any fun i => (y i).2.1)) := by
  dsimp only [roundedElem]
  intro hwrite
  unfold State.acpyOutRow
  simp only [hf, mapM_range_ok hz, bind, Except.bind, map_zipIdx_range, List.flatMap_map, hwrite, List.any_map, Function.comp_def,
    pure, Except.pure, Except.map, List.filter_map, List.foldl_map, AcpyRun.next, AcpyRun.rounds, topTerm]
  rfl

/-- A row of acpy.out in element mode (12 R290). -/
theorem State.acpyRow_outElements (ho : acpyOp r.entry = some o) {dn : BitVec 4} {sr sn : SR} {upd : Bool} {cvc : BitVec 2}
    {flag : BitVec 4} {post wrap : Bool} {rm : BitVec 3} {f : Fmt} {z : Nat → Nat}
    (hi : r.entry.instr = .acpyOut dn sr sn upd cvc flag post false wrap rm) (hf : fmtOf (dFmt r.d) = some f)
    (hz : ∀ i, i < dCols r.d → s.acpyNoise c o (r.row * dCols r.d + i) = .ok (z i)) :
    let n := dCols r.d
    let row := (s.core c).accRow (acpyBase r.entry + r.row)
    let y := roundedElem f rm.toNat wrap row z
    let pa := tilePa c r.d r.row
    let bytes := (List.range n).flatMap fun i => leBytes (f.width / 8) (y i).1
    s.overlapsArmed pa bytes.length = false → s.overlapsMark pa bytes.length = false →
    s.acpyRow c r = .ok (r.rounds f rm.toNat row y n,
      (s.writeBy (r.writer c) pa bytes).setSat c ((List.range n).any fun i => (y i).2.1)) := by
  intro n row y pa bytes harmed hmark
  have hwrite : s.acpyWrite (r.writer c) pa (tileVa c r.d (dBase r.d + r.row * dStride r.d)) [(0, bytes)]
      = .ok (s.writeBy (r.writer c) pa bytes) :=
    State.acpyWrite_ok _ harmed hmark fun p hp => by
      rw [List.mem_singleton.mp hp]
      exact Nat.le_of_eq (Nat.zero_add _)
  rw [← State.acpyOutRow_ok hf hz hwrite]
  unfold State.acpyRow
  simp only [ho, hi]
  rfl

/-- A row of acpy.out is written, SAT is gained as its elements say, and the copy goes on as r'. -/
theorem Core.copies.writes (h : (s.core c).copies r) (hr : r.row < dRows r.d) {r' : AcpyRun} {w : State} {sat : Bool}
    (hrow : s.acpyRow c r = .ok (r', w.setSat c sat)) (hw : CoreAndMemory c s w) (hcore : w.core c = s.core c) :
    let t := s.acpyStep c
    CoreAndMemory c s t ∧ t.mem = w.mem ∧ t.kept = w.kept
      ∧ StatusGains (s.core c) (t.core c) (fun b => b = 3 ∧ sat = true)
      ∧ t.core c = { s.core c with status := (t.core c).status, acpy := some r' } := by
  intro t
  have ht : t = (w.setSat c sat).modCore c fun k => { k with acpy := some r' } := h.step_row hr hrow
  have hlast : t.core c = { (w.setSat c sat).core c with acpy := some r' } := by rw [ht, State.core_modCore_same]
  have honly : OnlyCore c w t := by
    rw [ht]
    exact onlyCore_trans (onlyCore_setSat w c sat) (onlyCore_modCore _ c _)
  refine ⟨coreAndMemory_trans hw (coreAndMemory_of_onlyCore honly), by rw [honly.1], by rw [honly.1], fun b => ?_, ?_⟩
  · refine Iff.trans (Eq.to_iff (congrArg (· = true) ?_)) (hcore ▸ statusGains_setSat w c sat b)
    rw [hlast]
    rfl
  · rw [hlast, core_setSat_of, hcore]
    split <;> rfl

/-- The rounding term after a row: it is no less than that of a finite element, and it is the term before or that of one. -/
theorem AcpyRun.rho_rounds (r : AcpyRun) (f : Fmt) (rm : Nat) (row : AccRow) (y : Nat → Nat × Bool × Bool) (n : Nat) :
    let rho := (r.rounds f rm row y n).rho
    (∀ i, i < n → (y i).2.2 = false → ∃ b, rho = some b ∧ rhoExp f rm (row.value i) ≤ b)
      ∧ (rho = r.rho ∨ ∃ i, i < n ∧ rho = some (rhoExp f rm (row.value i))) := by
  constructor
  · intro i hi hfin
    refine le_topTerm (List.mem_map.mpr ⟨i, List.mem_filter.mpr ⟨List.mem_range.mpr hi, ?_⟩, rfl⟩) r.rho
    rw [hfin]
    rfl
  · refine (topTerm_mem _ r.rho).imp_right ?_
    rintro ⟨x, hx, htop⟩
    obtain ⟨i, hi, rfl⟩ := List.mem_map.mp hx
    exact ⟨i, List.mem_range.mp (List.mem_filter.mp hi).1, htop⟩

/-- The term of one element (12 R290). -/
theorem rhoExp_eq (f : Fmt) (rm : BitVec 3) (v : Num) : rhoExp f rm.toNat v = f.stepExp v - (if rm = 0 then 1 else 0) := by
  have hzero : rm.toNat = 0 ↔ rm = 0 := ⟨fun h => BitVec.eq_of_toNat_eq h, fun h => h ▸ rfl⟩
  rw [rhoExp, if_congr hzero rfl rfl]

/-- What a row of acpy.out in element mode leaves: the codes, SAT and the rounding term (12 R290). -/
theorem Core.copies.writesCodes (h : (s.core c).copies r) (hr : r.row < dRows r.d) (ho : acpyOp r.entry = some o)
    {dn : BitVec 4} {sr sn : SR} {upd : Bool} {cvc : BitVec 2} {flag : BitVec 4} {post wrap : Bool} {rm : BitVec 3} {f : Fmt}
    {z : Nat → Nat} (hi : r.entry.instr = .acpyOut dn sr sn upd cvc flag post false wrap rm) (hf : fmtOf (dFmt r.d) = some f)
    (hz : ∀ i, i < dCols r.d → s.acpyNoise c o (r.row * dCols r.d + i) = .ok (z i)) :
    let n := dCols r.d
    let row := (s.core c).accRow (acpyBase r.entry + r.row)
    let y := roundedElem f rm.toNat wrap row z
    let pa := tilePa c r.d r.row
    let bytes := (List.range n).flatMap fun i => leBytes (f.width / 8) (y i).1
    let t := s.acpyStep c
    s.overlapsArmed pa bytes.length = false → s.overlapsMark pa bytes.length = false →
    CoreAndMemory c s t ∧ HoldsBytes t pa bytes ∧ SameBytesBut s t pa bytes.length
      ∧ KeptAfter s t (r.writer c) pa bytes.length
      ∧ StatusGains (s.core c) (t.core c) (fun b => b = 3 ∧ ∃ i, i < n ∧ (y i).2.1 = true)
      ∧ t.core c = { s.core c with status := (t.core c).status, acpy := some (r.rounds f rm.toNat row y n) } := by
  intro n row y pa bytes t harmed hmark
  obtain ⟨hmoves, hmem, hkept, hgain, hcore⟩ := h.writes hr (State.acpyRow_outElements ho hi hf hz harmed hmark)
    (coreAndMemory_writeBy c s _ pa bytes) rfl
  refine ⟨hmoves, holdsBytes_congr hmem (holdsBytes_writeBy s _ pa bytes), fun a ha => ?_, fun v a => ?_, ?_, hcore⟩
  · exact (congrArg (fun m => Memory.get m a) hmem).trans (sameBytesBut_writeBy s (r.writer c) pa bytes a ha)
  · rw [State.keptAt, hkept]
    exact keptAfter_writeBy s (r.writer c) pa bytes v a
  · refine statusGains_congr hgain fun b => and_congr_right fun _ => ?_
    simp only [List.any_eq_true, List.mem_range]
    exact Iff.rfl

end

/-! ## Raw images -/

theorem holdsBytes_append {t : State} {a : Nat} {xs ys : List Byte} (h : HoldsBytes t a (xs ++ ys)) :
    HoldsBytes t a xs ∧ HoldsBytes t (a + xs.length) ys := by
  constructor
  · intro i b hb
    exact h i b (by rw [List.getElem?_append_left (List.getElem?_eq_some_iff.mp hb).1, hb])
  · intro i b hb
    rw [Nat.add_assoc]
    exact h (xs.length + i) b (by rw [List.getElem?_append_right (Nat.le_add_right _ _), Nat.add_sub_cancel_left, hb])

theorem bytesAt_of_holdsBytes {t : State} {a n : Nat} {bs : List Byte} (h : HoldsBytes t a bs) (hn : bs.length = n) :
    t.bytesAt a n = bs := by
  subst hn
  apply List.ext_getElem
  · simp [State.bytesAt]
  · intro i _ hi
    simp only [State.bytesAt, List.getElem_map, List.getElem_range]
    exact h i _ (List.getElem?_eq_getElem hi)

/-- The tags of the first n words as digits of base 4. -/
def packTags (g : Nat → Nat) (n : Nat) : Nat := (List.range n).foldl (fun t i => t + 4 ^ i * g i) 0

theorem packTags_succ (g : Nat → Nat) (n : Nat) : packTags g (n + 1) = packTags g n + 4 ^ n * g n := by
  unfold packTags
  rw [List.range_succ, List.foldl_append]
  rfl

theorem packTags_spec {g : Nat → Nat} (hg : ∀ i, g i < 4) (n : Nat) :
    packTags g n < 4 ^ n ∧ ∀ i, i < n → packTags g n / 4 ^ i % 4 = g i := by
  induction n with
  | zero => exact ⟨Nat.one_pos, by omega⟩
  | succ n ih =>
    obtain ⟨hlt, hdigit⟩ := ih
    rw [packTags_succ]
    constructor
    · have : 4 ^ n * g n ≤ 4 ^ n * 3 := Nat.mul_le_mul_left _ (by have := hg n; omega)
      rw [Nat.pow_succ]
      omega
    · intro i hi
      have hpos : 0 < 4 ^ i := Nat.pow_pos (by decide)
      by_cases hin : i = n
      · subst hin
        rw [Nat.add_mul_div_left _ _ hpos, Nat.div_eq_of_lt hlt, Nat.zero_add, Nat.mod_eq_of_lt (hg i)]
      · obtain ⟨d, hd⟩ : ∃ d, n = i + 1 + d := ⟨n - (i + 1), by omega⟩
        have hpow : 4 ^ n * g n = 4 ^ i * (4 * (4 ^ d * g n)) := by
          rw [hd, Nat.pow_add, Nat.pow_succ]
          simp only [Nat.mul_assoc]
        rw [hpow, Nat.add_mul_div_left _ _ hpos, Nat.add_mul_mod_self_left, hdigit i (by omega)]

/-- The words of a raw row image. -/
def AccRow.rawWords (row : AccRow) (n : Nat) : List Byte := (List.range n).flatMap fun i => leBytes 16 (row.word i).2.toNat

/-- Its header. -/
def AccRow.rawHeader (row : AccRow) : List Byte := leBytes 8 row.header ++ List.replicate 24 0

theorem AccRow.length_rawWords (row : AccRow) (n : Nat) : (row.rawWords n).length = 16 * n := by
  simp [AccRow.rawWords, List.length_flatMap, Nat.mul_comm]

theorem AccRow.length_rawHeader (row : AccRow) : row.rawHeader.length = 32 := by
  simp [AccRow.rawHeader]

/-- Memory after a raw row image has been written: its words, and from 2048 on its tags and its header. -/
def State.writeImage (s : State) (w : Writer) (pa : Nat) (row : AccRow) (n : Nat) : State :=
  (s.writeBy w pa (row.rawWords n)).writeBy w (pa + 2048)
    (leBytes 32 (packTags (fun i => (row.word i).1.toNat) n) ++ row.rawHeader)

/-- What a raw row image leaves in memory (12 R291). -/
theorem State.writeImage_spec (s : State) (w : Writer) (pa : Nat) (row : AccRow) {n : Nat} (hn : n ≤ 128) :
    let t := s.writeImage w pa row n
    WroteViews s t w ∧ HoldsBytes t pa (row.rawWords n)
      ∧ (∀ i, i < n → leNat (t.bytesAt (pa + 2048) 32) / 4 ^ i % 4 = (row.word i).1.toNat)
      ∧ HoldsBytes t (pa + 2080) row.rawHeader
      ∧ ∀ a, (a < pa ∨ pa + 16 * n ≤ a) → (a < pa + 2048 ∨ pa + 2112 ≤ a) → t.byte a = s.byte a := by
  intro t
  obtain ⟨hlt, hdigit⟩ := packTags_spec (g := fun i => (row.word i).1.toNat) (fun i => (row.word i).1.isLt) n
  have hwords := row.length_rawWords n
  have hmeta : (leBytes 32 (packTags (fun i => (row.word i).1.toNat) n) ++ row.rawHeader).length = 64 := by
    rw [List.length_append, leBytes_length, row.length_rawHeader]
  have hfirst := sameBytesBut_writeBy s w pa (row.rawWords n)
  have hsecond : SameBytesBut _ t (pa + 2048) 64 := hmeta ▸ sameBytesBut_writeBy _ w (pa + 2048) _
  obtain ⟨htags, hheader⟩ := holdsBytes_append (holdsBytes_writeBy (s.writeBy w pa (row.rawWords n)) w (pa + 2048)
    (leBytes 32 (packTags (fun i => (row.word i).1.toNat) n) ++ row.rawHeader))
  refine ⟨wroteViews_trans (wroteViews_writeBy s w pa _) (wroteViews_writeBy _ w (pa + 2048) _), fun i b hb => ?_, fun i hi => ?_,
    by rwa [leBytes_length] at hheader, fun a ha hb => ?_⟩
  · have hi := (List.getElem?_eq_some_iff.mp hb).1
    rw [hsecond _ (by omega)]
    exact holdsBytes_writeBy s w pa _ i b hb
  · have hbound : packTags (fun i => (row.word i).1.toNat) n < 2 ^ (8 * 32) :=
      Nat.lt_of_lt_of_le hlt (Nat.pow_le_pow_right (by decide) hn)
    rw [show t.bytesAt (pa + 2048) 32 = _ from bytesAt_of_holdsBytes htags (leBytes_length _ _), leNat_leBytes,
      Nat.mod_eq_of_lt hbound]
    exact hdigit i hi
  · rw [hsecond a (by omega), hfirst a (by omega)]

/-- A row of acpy.out in raw mode (12 R291). -/
theorem State.acpyRow_outRaw {s : State} {c : Nat} {r : AcpyRun} {o : AcpyOp} (ho : acpyOp r.entry = some o) (hout : o.out = true)
    (hraw : o.raw = true) (hn : dCols r.d ≤ 128) : let pa := tilePa c r.d r.row
    s.overlapsArmed pa 2112 = false → s.overlapsMark pa 2112 = false →
    s.acpyRow c r = .ok (r.next,
      s.writeImage (r.writer c) pa ((s.core c).accRow (acpyBase r.entry + r.row)) (dCols r.d)) := by
  obtain ⟨dn, sr, sn, upd, cvc, flag, post, wrap, rm, hi⟩ := acpyOp_out ho hout
  intro pa harmed hmark
  generalize hrow : (s.core c).accRow (acpyBase r.entry + r.row) = row
  have hwrite := State.acpyWrite_ok (s := s) (w := r.writer c) (tileVa c r.d (dBase r.d + r.row * dStride r.d)) (parts :=
    [(0, row.rawWords (dCols r.d)),
      (2048, leBytes 32 (packTags (fun i => (row.word i).1.toNat) (dCols r.d)) ++ row.rawHeader)]) harmed hmark fun p hp => by
    have hwords := row.length_rawWords (dCols r.d)
    have hheader := row.length_rawHeader
    rcases List.mem_cons.mp hp with rfl | hp
    · dsimp only
      omega
    · rw [List.mem_singleton.mp hp]
      simp only [List.length_append, leBytes_length, hheader]
      omega
  have hrawRow : s.acpyRawRow c r pa (tileVa c r.d (dBase r.d + r.row * dStride r.d)) =
      .ok (s.writeImage (r.writer c) pa row (dCols r.d)) := by
    unfold State.acpyRawRow
    rw [hrow]
    dsimp only
    rw [List.append_assoc]
    exact hwrite
  unfold State.acpyRow
  simp only [ho, hi, hraw, if_true]
  rw [show tilePa c r.d r.row = pa from rfl, hrawRow]
  rfl

/-- What a row of acpy.out in raw mode leaves: its image (12 R291). -/
theorem Core.copies.writesImage {s : State} {c : Nat} {r : AcpyRun} {o : AcpyOp} (h : (s.core c).copies r)
    (hr : r.row < dRows r.d) (ho : acpyOp r.entry = some o) (hout : o.out = true) (hraw : o.raw = true) (hn : dCols r.d ≤ 128) :
    let n := dCols r.d
    let row := (s.core c).accRow (acpyBase r.entry + r.row)
    let pa := tilePa c r.d r.row
    let t := s.acpyStep c
    s.overlapsArmed pa 2112 = false → s.overlapsMark pa 2112 = false →
    CoreAndMemory c s t ∧ WroteViews s t (r.writer c) ∧ HoldsBytes t pa (row.rawWords n)
      ∧ (∀ i, i < n → leNat (t.bytesAt (pa + 2048) 32) / 4 ^ i % 4 = (row.word i).1.toNat)
      ∧ HoldsBytes t (pa + 2080) row.rawHeader
      ∧ (∀ a, (a < pa ∨ pa + 16 * n ≤ a) → (a < pa + 2048 ∨ pa + 2112 ≤ a) → t.byte a = s.byte a)
      ∧ t.core c = { s.core c with acpy := some r.next } := by
  intro n row pa t harmed hmark
  have hrow := State.acpyRow_outRaw ho hout hraw hn harmed hmark
  obtain ⟨hviews, hwords, htags, hheader, hothers⟩ := s.writeImage_spec (r.writer c) pa row hn
  have ht : t = (s.writeImage (r.writer c) pa row n).modCore c fun k => { k with acpy := some r.next } := h.step_row hr hrow
  have hmoves : CoreAndMemory c s (s.writeImage (r.writer c) pa row n) := ⟨rfl, fun _ _ => rfl⟩
  have hcore : (s.writeImage (r.writer c) pa row n).core c = s.core c := rfl
  rw [ht, State.core_modCore_same, hcore]
  exact ⟨coreAndMemory_trans hmoves (coreAndMemory_of_onlyCore (onlyCore_modCore _ c _)), hviews, hwords, htags, hheader,
    hothers, rfl⟩

end Sys2Proof.Machine
end

section
/-! SUPPORT. The end of an accumulator copy (12 R290): UPD, its post and what the post releases. -/

namespace Sys2Proof.Machine

open Sys2Proof

/-! ## Posts -/

theorem Core.post_eq (k : Core) (n amt : Nat) :
    k.post n amt = { k with f := (k.post n amt).f, status := (k.post n amt).status } := by
  unfold Core.post
  dsimp only
  split <;> rfl

/-- A post adds to its flag and stops at 0xFFFF (06 R157). -/
theorem Core.flag_post (k : Core) (n j amt : Nat) :
    (k.post n amt).flag j = if j = n then .ofNat 16 (min 0xFFFF ((k.flag j).toNat + amt)) else k.flag j := by
  by_cases hj : j = n
  · subst hj
    rw [if_pos rfl, Core.flag_post_same]
    split
    · rw [Nat.min_eq_left (by omega)]
      rfl
    · rw [Nat.min_eq_right (by omega)]
  · rw [if_neg hj, Core.flag_post_other k amt hj]

theorem Core.seg_post (k : Core) (n amt : Nat) : (k.post n amt).seg = k.seg := by
  show (k.post n amt).statusBit 6 = k.statusBit 6
  unfold Core.post
  dsimp only
  split
  · exact (statusBit_setStatus _ _ _ _ (by omega)).trans (if_neg (by omega))
  · rfl

/-- A post that an op asks for. -/
def Core.postIf (k : Core) (post : Bool) (n : Nat) : Core := if post then k.post n 1 else k

theorem Core.postIf_eq (k : Core) (post : Bool) (n : Nat) :
    k.postIf post n = { k with f := (k.postIf post n).f, status := (k.postIf post n).status } := by
  cases post with
  | false => rfl
  | true => exact k.post_eq n 1

theorem Core.flag_postIf (k : Core) (post : Bool) (n j : Nat) :
    (k.postIf post n).flag j = if post = true ∧ j = n then .ofNat 16 (min 0xFFFF ((k.flag j).toNat + 1)) else k.flag j := by
  cases post with
  | false => simp [Core.postIf]
  | true => simp [Core.postIf, Core.flag_post]

theorem Core.seg_postIf (k : Core) (post : Bool) (n : Nat) : (k.postIf post n).seg = k.seg := by
  cases post with
  | false => rfl
  | true => exact k.seg_post n 1

/-! ## UPD -/

/-- The rounding term of a copy enters a record when its op asks for it. -/
def Core.updIf (k : Core) (upd : Bool) (n : Nat) (term : Num) : Core :=
  if upd then k.setCv n (cvRound (k.cover n) term) else k

theorem Core.updIf_eq (k : Core) (upd : Bool) (n : Nat) (term : Num) :
    k.updIf upd n term = { k with cv := (k.updIf upd n term).cv, status := (k.updIf upd n term).status } := by
  cases upd with
  | false => rfl
  | true =>
    show k.setCv _ _ = { k with cv := (k.setCv _ _).cv, status := (k.setCv _ _).status }
    rw [Core.setCv_eq]

theorem Core.cover_updIf (k : Core) (upd : Bool) (n j : Nat) (term : Num) :
    (k.updIf upd n term).cover j = if upd = true ∧ j = n then cvRound (k.cover j) term else k.cover j := by
  cases upd with
  | false => simp [Core.updIf]
  | true =>
    simp only [Core.updIf, if_true, Core.cover_setCv, true_and]
    split
    · rw [‹j = n›]
    · rfl

theorem Core.seg_updIf (k : Core) (upd : Bool) (n : Nat) (term : Num) : (k.updIf upd n term).seg = k.seg := by
  cases upd with
  | false => rfl
  | true => exact k.seg_setCv _ _

/-! ## The end of a copy -/

section
variable {r : AcpyRun}

theorem Core.acpyDone_out (k : Core) {dn : BitVec 4} {sr sn : SR} {upd : Bool} {cvc : BitVec 2} {flag : BitVec 4}
    {post raw wrap : Bool} {rm : BitVec 3} (hi : r.entry.instr = .acpyOut dn sr sn upd cvc flag post raw wrap rm) :
    k.acpyDone r = (Core.updIf { k with acpy := none } upd cvc.toNat r.term).postIf post flag.toNat := by
  simp only [Core.acpyDone, hi, Core.updIf, Core.postIf]

theorem Core.acpyDone_in (k : Core) {dn : BitVec 4} {sr : SR} {flag : BitVec 4} {accum post raw : Bool}
    (hi : r.entry.instr = .acpyIn dn sr flag accum post raw) :
    k.acpyDone r = Core.postIf { k with acpy := none } post flag.toNat := by
  simp only [Core.acpyDone, hi, Core.postIf]

/-- What the end of a copy leaves of its core. -/
def AcpyEnds (k t : Core) : Prop :=
  t = { k with acpy := none, cv := t.cv, f := t.f, status := t.status } ∧ t.seg = k.seg

theorem Core.acpyEnds_acpyDone (k : Core) {o : AcpyOp} (ho : acpyOp r.entry = some o) : AcpyEnds k (k.acpyDone r) := by
  cases hout : o.out with
  | true =>
    obtain ⟨dn, sr, sn, upd, cvc, flag, post, wrap, rm, hi⟩ := acpyOp_out ho hout
    rw [k.acpyDone_out hi]
    constructor
    · rw [Core.postIf_eq, Core.updIf_eq]
    · rw [Core.seg_postIf, Core.seg_updIf]
      rfl
  | false =>
    obtain ⟨dn, sr, flag, post, hi⟩ := acpyOp_in ho hout
    rw [k.acpyDone_in hi]
    constructor
    · rw [Core.postIf_eq]
    · rw [Core.seg_postIf]
      rfl

variable {s : State} {c : Nat}

/-- After its last row a copy ends: its post releases what it has written, and the checkpoint of an open segment takes its
record (08 R201). -/
theorem Core.copies.ends (h : (s.core c).copies r) (hr : dRows r.d ≤ r.row) {o : AcpyOp} (ho : acpyOp r.entry = some o) :
    let t := s.acpyStep c
    CoreAndMemory c s t ∧ SameBytes s t ∧ t.errs = s.errs ∧ (r.posts = false → t.kept = s.kept)
      ∧ (r.posts = true → Releases s t (r.writer c).sameOp fun _ => true)
      ∧ Checkpoints (s.core c) (t.core c) r.entry.seq
      ∧ (t.core c).cv = ((s.core c).acpyDone r).cv ∧ (t.core c).f = ((s.core c).acpyDone r).f
      ∧ t.core c = { s.core c with
        acpy := none, cv := (t.core c).cv, f := (t.core c).f, status := (t.core c).status, segment := (t.core c).segment } := by
  intro t
  have ht := h.step_done hr
  generalize hu : (if r.posts then s.release (r.writer c).sameOp fun _ => true else s) = u at ht
  have hviews : ViewsOnly s u ∧ (r.posts = false → u.kept = s.kept)
      ∧ (r.posts = true → Releases s u (r.writer c).sameOp fun _ => true) := by
    rw [← hu]
    cases r.posts with
    | false => exact ⟨rfl, fun _ => rfl, nofun⟩
    | true => exact ⟨rfl, nofun, fun _ => (if_pos (c := true = true) rfl).symm ▸ releases_release s _ _⟩
  obtain ⟨hsu, hkept, hrel⟩ := hviews
  obtain ⟨hends, hseg⟩ := (s.core c).acpyEnds_acpyDone ho
  have htu : t = u.modCore c fun k => k.carry (k.acpyDone r) r.entry.seq := ht
  have hcore : t.core c = (s.core c).carry ((s.core c).acpyDone r) r.entry.seq := by
    rw [htu, State.core_modCore_same, hsu.core]
  have honly : OnlyCore c u t := htu ▸ onlyCore_modCore u c _
  obtain ⟨hrest, hothers, hbytes⟩ := honly
  have hsame : t.kept = u.kept := by rw [hrest]
  refine ⟨⟨by rw [hrest, hsu], fun d hd => (hothers d hd).trans (hsu.core d)⟩, fun a => (hbytes a).trans (by rw [hsu]; rfl),
    by rw [hrest, hsu], fun hp => hsame.trans (hkept hp), fun hp => ?_, ?_, ?_, ?_, ?_⟩
  · unfold Releases
    rw [hsame]
    exact hrel hp
  · rw [hcore]
    exact checkpoints_carry _ _ _ (by rw [hends]) hseg
  · rw [hcore, Core.carry_eq]
  · rw [hcore, Core.carry_eq]
  · rw [hcore, Core.carry_eq, hends]

/-- The records and flags after an acpy.out. -/
theorem Core.acpyDone_out_leaves (k : Core) {dn : BitVec 4} {sr sn : SR} {upd : Bool} {cvc : BitVec 2} {flag : BitVec 4}
    {post raw wrap : Bool} {rm : BitVec 3} (hi : r.entry.instr = .acpyOut dn sr sn upd cvc flag post raw wrap rm) :
    (∀ i, (k.acpyDone r).cover i = if upd = true ∧ i = cvc.toNat then cvRound (k.cover i) r.term else k.cover i)
      ∧ ∀ i, (k.acpyDone r).flag i = if post = true ∧ i = flag.toNat then .ofNat 16 (min 0xFFFF ((k.flag i).toNat + 1))
        else k.flag i := by
  rw [k.acpyDone_out hi]
  constructor
  · intro i
    rw [Core.postIf_eq]
    exact Core.cover_updIf _ upd cvc.toNat i r.term
  · intro i
    rw [Core.flag_postIf, Core.updIf_eq]
    rfl

/-- The records and flags after an acpy.in. -/
theorem Core.acpyDone_in_leaves (k : Core) {dn : BitVec 4} {sr : SR} {flag : BitVec 4} {accum post raw : Bool}
    (hi : r.entry.instr = .acpyIn dn sr flag accum post raw) :
    (k.acpyDone r).cv = k.cv ∧ ∀ i, (k.acpyDone r).flag i = if post = true ∧ i = flag.toNat then
      .ofNat 16 (min 0xFFFF ((k.flag i).toNat + 1)) else k.flag i := by
  rw [k.acpyDone_in hi]
  constructor
  · rw [Core.postIf_eq]
  · intro i
    exact Core.flag_postIf _ post flag.toNat i

end

end Sys2Proof.Machine
end

section
/-! SUPPORT. The values that the M ops on descriptors and coverage records write (11 R267, R274, 12 R282, R283, R289). -/

namespace Sys2Proof.Machine

open Sys2Proof

/-! ## Fields -/

/-- Two records agree outside a field. -/
def AgreeOutside (lo len : Nat) (x y : BitVec 128) : Prop := ∀ b, (b < lo ∨ lo + len ≤ b) → x.getLsbD b = y.getLsbD b

theorem agreeOutside_setFld {lo len : Nat} (x : BitVec 128) (v : Nat) (h : lo + len ≤ 128) :
    AgreeOutside lo len (setFld x lo len v) x := fun b hb => by
  rw [getLsbD_setFld x v b h, if_neg (by omega)]

/-- A field of dset lies in its descriptor. -/
theorem dsetBits_le {f : Nat} (hf : f ≤ 6) :
    dsetBits f = [(0, 21), (21, 3), (24, 9), (33, 12), (45, 12), (57, 20), (77, 4)].getD f (0, 0)
      ∧ (dsetBits f).1 + (dsetBits f).2 ≤ 128 := by
  interval_cases f <;> decide

/-- The tag bit of a descriptor that dtag writes. -/
theorem getLsbD_setTag (x : BitVec 128) (w : Bool) : (setFld x 81 1 (b2n w)).getLsbD 81 = w := by
  rw [getLsbD_setFld x (b2n w) 81 (by decide)]
  cases w <;> rfl

theorem dsetAddr_eq_add (a : W64) (off : BitVec 20) : dsetAddr a off = a + .ofInt 64 (16 * off.toInt) := by
  rw [dsetAddr_eq, BitVec.ofNat_add, BitVec.ofNat_toNat, BitVec.ofNat_toNat, BitVec.setWidth_eq, BitVec.setWidth_eq]

/-! ## Coverage records -/

/-- A record of cv.wr: one quarter is new, and the reserved bits are zero (12 R289). -/
theorem getLsbD_cvWr (r : BitVec 256) (q : BitVec 2) (v : W64) {b : Nat} (hb : b < 256) :
    (cvMask (setFld r (64 * q.toNat) 64 v.toNat)).getLsbD b =
      if 232 ≤ b ∨ (181 ≤ b ∧ b ≤ 183) then false
      else if b / 64 = q.toNat then v.getLsbD (b % 64) else r.getLsbD b := by
  have hq := q.isLt
  rw [cvMask, getLsbD_setFld _ _ _ (by decide), getLsbD_setFld _ _ _ (by decide), getLsbD_setFld _ _ _ (by omega)]
  by_cases hlow : 181 ≤ b ∧ b ≤ 183
  · rw [if_pos (by omega), if_pos (.inr hlow), Nat.zero_testBit]
  · rw [if_neg (by omega)]
    by_cases hhigh : 232 ≤ b
    · rw [if_pos (by omega), if_pos (.inl hhigh), Nat.zero_testBit]
    · rw [if_neg (by omega), if_neg (show ¬(232 ≤ b ∨ (181 ≤ b ∧ b ≤ 183)) by omega)]
      by_cases hquarter : b / 64 = q.toNat
      · rw [if_pos (by omega), if_pos hquarter, show b - 64 * q.toNat = b % 64 by omega]
        rfl
      · rw [if_neg (by omega), if_neg hquarter]

/-- The bounds of a record that its fields make. -/
theorem bounds_cvPack (res full xmax bin : W32) (cursor k : Nat) (nan thr fresh done rounded : Bool) (eleft : Nat) :
    let r := cvPack res full xmax bin cursor k nan thr fresh done rounded eleft
    cvRes r = res ∧ cvFull r = full := by
  have hres := res.isLt
  have hfull := full.isLt
  refine ⟨BitVec.eq_of_toNat_eq ?_, BitVec.eq_of_toNat_eq ?_⟩
  · simp only [cvRes, cvPack, extractLsb'_eq_fld, fld, bitsAt, BitVec.toNat_ofNat]
    omega
  · simp only [cvFull, cvPack, extractLsb'_eq_fld, fld, bitsAt, BitVec.toNat_ofNat]
    omega

/-- The bounds of a record that receives new ones. -/
theorem bounds_cvBounds (r : BitVec 256) (res full : W32) :
    cvRes (cvBounds r res full) = res ∧ cvFull (cvBounds r res full) = full := by
  constructor
  · rw [cvRes, extractLsb'_eq_fld, cvBounds, fld_setFld_beside _ _ (by decide) (by decide),
      fld_setFld_beside _ _ (by decide) (by decide), fld_setFld _ (by decide), Nat.mod_eq_of_lt res.isLt, BitVec.ofNat_toNat,
      BitVec.setWidth_eq]
  · rw [cvFull, extractLsb'_eq_fld, cvBounds, fld_setFld_beside _ _ (by decide) (by decide), fld_setFld _ (by decide),
      Nat.mod_eq_of_lt full.isLt, BitVec.ofNat_toNat, BitVec.setWidth_eq]

/-- The constant of cv.scl (12 R289). -/
theorem ofNat_fld_low (v : W64) : BitVec.ofNat 32 (fld v 0 32) = v.setWidth 32 := by
  apply BitVec.eq_of_toNat_eq
  rw [fld_zero, BitVec.toNat_ofNat, Nat.mod_mod, BitVec.toNat_setWidth]

/-! ## The ops -/

section
variable {s : State} {c : Nat} {e : QEntry} {rest : List QEntry} (h : (s.core c).headsM e rest)
include h

/-- mpget (12 R281). -/
theorem Core.headsM.mpget {n : BitVec 3} {sd : SR} (hi : e.instr = .mpget n sd) : Becomes s c 0 (fun t => t.kept = s.kept)
    fun t => GivesScalar (s.core c) t e rest sd ((s.core c).param n.toNat) :=
  h.gives (by rw [hi]; nofun) (by rw [hi]; rfl) (by rw [State.matrixAct, hi]; rfl)

/-- dget (12 R283). -/
theorem Core.headsM.dget {n : BitVec 4} {sd : SR} {half : Bool} (hi : e.instr = .dget n sd half) :
    Becomes s c 0 (fun t => t.kept = s.kept) fun t =>
      GivesScalar (s.core c) t e rest sd (((s.core c).desc n.toNat).extractLsb' (if half then 64 else 0) 64) := by
  rw [extractLsb'_eq_fld]
  exact h.gives (by rw [hi]; nofun) (by rw [hi]; rfl) (by rw [State.matrixAct, hi]; rfl)

/-- cv.rd (12 R289). -/
theorem Core.headsM.cvRd {a q : BitVec 2} {sd : SR} (hi : e.instr = .cvRd a sd q) : Becomes s c 0 (fun t => t.kept = s.kept)
    fun t => GivesScalar (s.core c) t e rest sd (((s.core c).cover a.toNat).extractLsb' (64 * q.toNat) 64) := by
  rw [extractLsb'_eq_fld]
  exact h.gives (by rw [hi]; nofun) (by rw [hi]; rfl) (by rw [State.matrixAct, hi]; rfl)

/-- dtag (12 R283): the writes that the tag released are no more those of its descriptor (11 R276). -/
theorem Core.headsM.dtag {n : BitVec 4} {w : Bool} (hi : e.instr = .dtag n w) : Becomes s c 0 (SameViews s) fun t =>
    Describes (s.core c) t rest n fun x => x.getLsbD 81 = w ∧ AgreeOutside 81 1 x ((s.core c).desc n.toNat) :=
  h.describes (v := s.untag c n.toNat) (x := setFld ((s.core c).desc n.toNat) 81 1 (b2n w)) (by rw [hi]; nofun) (by rw [hi]; rfl)
    rfl (sameViews_mapWriters s _) (by rw [State.matrixAct, hi]; rfl)
    ⟨getLsbD_setTag _ w, agreeOutside_setFld _ _ (by decide)⟩

/-- dset with a field (12 R282). -/
theorem Core.headsM.dsetField {n : BitVec 4} {sa : SR} {f : BitVec 4} (hi : e.instr = .dsetField n sa f) {lo len : Nat}
    (hf : dsetBits f.toNat = (lo, len)) (hle : lo + len ≤ 128) : Becomes s c 0 (SameViews s) fun t =>
    Describes (s.core c) t rest n fun x => x.toNat / 2 ^ lo % 2 ^ len = (e.val 0).toNat % 2 ^ len
      ∧ AgreeOutside lo len x ((s.core c).desc n.toNat) :=
  h.describes (x := setFld ((s.core c).desc n.toNat) lo len (e.val 0).toNat) (by rw [hi]; nofun) (by rw [hi]; rfl)
    (viewsOnly_refl s) (fun _ _ => rfl) (by rw [State.matrixAct, hi]; simp only [hf]; rfl)
    ⟨fld_setFld _ hle, agreeOutside_setFld _ _ hle⟩

/-- cv.wr (12 R289). -/
theorem Core.headsM.cvWr {d q : BitVec 2} {sa : SR} (hi : e.instr = .cvWr d sa q) : Becomes s c 0 (fun t => t.kept = s.kept)
    fun t => CoversRecord (s.core c) t e rest d (cvMask (setFld ((s.core c).cover d.toNat) (64 * q.toNat) 64 (e.val 0).toNat)) :=
  h.covers (by rw [hi]; nofun) (by rw [hi]; rfl) (by rw [State.matrixAct, hi]) rfl

/-- cv.add (11 R274, 12 R289). -/
theorem Core.headsM.cvAdd {d a b : BitVec 2} (hi : e.instr = .cvAdd d a b) : Becomes s c 0 (fun t => t.kept = s.kept)
    fun t => CoversRecord (s.core c) t e rest d (Machine.cvAdd ((s.core c).cover a.toNat) ((s.core c).cover b.toNat)) :=
  h.covers (by rw [hi]; nofun) (by rw [hi]; rfl) (by rw [State.matrixAct, hi]) rfl

/-- cv.scl (11 R274, 12 R289). -/
theorem Core.headsM.cvScl {d a : BitVec 2} {sa : SR} (hi : e.instr = .cvScl d a sa) : Becomes s c 0 (fun t => t.kept = s.kept)
    fun t => CoversRecord (s.core c) t e rest d (cvScale ((s.core c).cover a.toNat) ((e.val 0).setWidth 32)) := by
  rw [← ofNat_fld_low]
  exact h.covers (by rw [hi]; nofun) (by rw [hi]; rfl) (by rw [State.matrixAct, hi]) rfl

/-- mucode.clr (12 R298). -/
theorem Core.headsM.mucodeClr {n : BitVec 6} (hi : e.instr = .mucodeClr n) : Becomes s c 0 (fun t => t.kept = s.kept) fun t =>
    (∀ j, Tab.get [] t.ucode j = if j = n.toNat then [] else Tab.get [] (s.core c).ucode j)
      ∧ t = { s.core c with mq := rest, ucode := t.ucode } :=
  h.loads (by rw [hi]; nofun) (by rw [hi]; rfl) (by rw [State.matrixAct, hi])

end

end Sys2Proof.Machine
end

section
/-! O44. A matrix op as it leaves its queue, the start of an accumulator copy, and its rows. -/

namespace Sys2Proof.Machine

open Sys2Proof

/-- Settles O44: an op at the head of an idle engine acts on its core alone, and the turns of a copy are its rows and its end. -/
theorem matrixOpsActAsTheyLeaveTheirQueue : Obligations.MatrixOpsActAsTheyLeaveTheirQueue := by
  unfold Obligations.MatrixOpsActAsTheyLeaveTheirQueue
  refine ⟨?ops, ?start, ?rows⟩
  case ops =>
    intro s c e rest k hon hmq hc0q hc1q hcall hacpy hruns hin hrest go v becomes leaves faulted faults gives covers
      describes outside
    have h : (s.core c).headsM e rest := {
      engineOn := hon, queued := hmq, inQueue := hin, behind := hrest, c0q := hc0q, c1q := hc1q, call := hcall, acpy := hacpy
      runs := hruns }
    refine ⟨fun n sa imm hi => h.mpset hi, fun n sd hi => h.mpget hi, fun n sd half hi => h.dget hi, fun a sd q hi => h.cvRd hi,
      fun n w hi => h.dtag hi, ?dsetField, ?dsetMem, fun sa anc kind m1 b hi => h.mzero hi,
      fun d sa q hi => ⟨_, h.cvWr hi, fun b hb => getLsbD_cvWr _ q _ hb⟩,
      fun d a b hi => ⟨_, h.cvAdd hi, rfl, bounds_cvPack ..⟩,
      fun d a sa hi => ⟨_, h.cvScl hi, rfl, bounds_cvBounds ..⟩, fun n hi => h.mucodeClr hi, ?mucode, ?mcall, ?msca⟩
    case dsetField =>
      intro n sa f hi hf at_
      obtain ⟨hbits, hle⟩ := dsetBits_le hf
      rw [hbits] at hle
      exact h.dsetField hi hbits hle
    case dsetMem =>
      intro n sa off hi a w ha hg hp hw
      exact h.dsetMem hi (congrArg BitVec.toNat (dsetAddr_eq_add (e.val 0) off).symm) hg hp hw
    case mucode =>
      intro sa count n hi len bs hlen hg hp
      exact h.mucode hi hg hp
    case mcall =>
      intro r hi hx hw u x
      obtain ⟨hstarts, hfaults⟩ := h.mcall hi hx hw
      refine ⟨seesTagged_seeTagged s c _, rfl, ?_⟩
      cases hf : u.callFault c x with
      | none => exact hstarts hf
      | some f => exact hfaults f hf
    case msca =>
      intro sa n1 anc anchor hi q n src dst rows blocks xo wo scale bad beyond
      have hfault := mscaFault_eq (s.core c) (e.val 0) (e.val 1) (n1.toNat + 1)
      refine ⟨fun hbad => h.msca_faults hi ?_, fun hok hx => h.msca_faults hi ?_, fun hok hx hw => h.msca_faults hi ?_,
        fun hok hx hw hpx hpw hg => h.msca hi hok (Nat.not_lt.mp hx) (Nat.not_lt.mp hw) hpx hpw hg⟩
      · exact hfault.trans (if_pos hbad)
      · exact hfault.trans ((if_neg hok).trans (if_pos hx))
      · exact hfault.trans ((if_neg hok).trans ((if_neg hx).trans (if_pos hw)))
  case start =>
    intro s c e rest o k hon hc0q hmq hc1q hcall hacpy hruns hrunsC hin hrest hop htag d base u becomes faults runs
    have h : (s.core c).headsAcpy e rest o := {
      engineOn := hon, queued := hc0q, inQueue := hin, behind := hrest, mq := hmq, c1q := hc1q, call := hcall, acpy := hacpy
      runs := hruns, runsC := hrunsC, op := hop, tagged := htag }
    refine ⟨fun hbad => h.faults ?_, fun f hf => h.faults (State.acpyStart_faults h.inQueue hf), fun hok => ⟨fun hout => ?_,
      fun imgs hi => h.starts hok hi, fun f hi => h.faults (State.acpyStart_imagesBad h.inQueue hok hi)⟩⟩
    · exact State.acpyStart_faults h.inQueue (u.acpyStartFault_illegal c e o d hbad)
    · exact h.starts hok (u.acpyImages_none c e d hout)
  case rows =>
    intro s c l r o k hagenda hcall hacpy hon hruns hop d n base pa row inMem inRow takes
    have h : (State.core { s with agenda := l } c).copies r := {
      call := hcall, acpy := hacpy, engineOn := hon, runs := hruns }
    have hbase : acpyBase r.entry = base := fld_zero _ 8
    refine ⟨fun hr => ⟨?outElements, ?outRaw, ?inElements, ?inRaw⟩, ?done⟩
    case outElements =>
      intro dn sr sn upd cvc flag post wrap rm f z hi hf hzero harray y bytes htakes
      obtain ⟨harmed, hmark, -⟩ := htakes
      have hwrites := h.writesCodes hr hop hi hf fun i hn =>
        State.acpyNoise_ok (z := z i) (fun hnone => hzero hnone i) fun a ha => harray a ha i hn
      rw [hbase] at hwrites
      obtain ⟨hmoves, hholds, hbut, hkept, hgain, hcore⟩ := hwrites harmed hmark
      obtain ⟨hle, hfrom⟩ := r.rho_rounds f rm.toNat row y n
      simp only [rhoExp_eq] at hle hfrom
      exact turnLeaves_copy hagenda hcall hmoves ⟨hholds, hbut, hkept, hgain, _, hcore, hle, hfrom⟩
    case outRaw =>
      intro hout hraw hn htakes
      obtain ⟨harmed, hmark, -⟩ := htakes
      obtain ⟨hmoves, hviews, hwords, htags, hheader, hothers, hcore⟩ := h.writesImage hr hop hout hraw hn harmed hmark
      rw [hbase] at *
      exact turnLeaves_copy hagenda hcall hmoves ⟨hviews, hwords, htags, hheader, hothers, hcore⟩
    case inElements =>
      intro xs hout hraw hx vs y
      have hrow := State.acpyRow_inElements (s := { s with agenda := l }) hop hout hraw hx
      rw [hbase] at hrow
      obtain ⟨honly, hkept, herrs, hrows, hgain, hcore⟩ := h.changesRow hr hrow
      exact turnLeaves_copy hagenda hcall (coreAndMemory_of_onlyCore honly) ⟨honly.2.2, herrs, hkept, hrows, hgain, hcore⟩
    case inRaw =>
      intro hout hraw y
      have hrow := State.acpyRow_inRaw (s := { s with agenda := l }) (c := c) hop hout hraw
      rw [hbase] at hrow
      obtain ⟨honly, hkept, herrs, hrows, hgain, hcore⟩ := h.changesRow hr hrow
      exact turnLeaves_copy hagenda hcall (coreAndMemory_of_onlyCore honly) ⟨honly.2.2, herrs, hkept, hrows, hgain, hcore⟩
    case done =>
      intro hr
      obtain ⟨hmoves, hbytes, herrs, hkept, hrel, hcheck, hcv, hf, hcore⟩ := h.ends hr hop
      refine turnLeaves_copy hagenda hcall hmoves ⟨hbytes, herrs, hkept, hrel, hcore, hcheck, ?_, ?_⟩
      · intro dn sr sn upd cvc flag post raw wrap rm hi
        obtain ⟨hcover, hflag⟩ := k.acpyDone_out_leaves hi
        exact ⟨fun i => (congrArg (Tab.get 0 · i) hcv).trans (hcover i),
          fun i => (congrArg (Tab.get 0 · i) hf).trans (hflag i)⟩
      · intro dn sr flag accum post raw hi
        obtain ⟨hcover, hflag⟩ := k.acpyDone_in_leaves hi
        exact ⟨hcv.trans hcover, fun i => (congrArg (Tab.get 0 · i) hf).trans (hflag i)⟩

end Sys2Proof.Machine
end
